-- ==== Sys2Proof/Word.lean ====
section
/-! DEFINITION. The byte, and the plainest arithmetic on numbers and little-endian bytes (R5, R6). -/

namespace Sys2Proof

/-- One byte of a descriptor, a record or a tile. -/
abbrev Byte := BitVec 8

/-- A byte from a number, reduced modulo 256. -/
def byte (n : Nat) : Byte := BitVec.ofNat 8 n

/-- The number that bytes stand for, the least significant byte first (R6). -/
def leNat : List Byte → Nat
  | [] => 0
  | b :: bs => b.toNat + 256 * leNat bs

/-- `k` bytes of a number, the least significant byte first (R6). -/
def leBytes : Nat → Nat → List Byte
  | 0, _ => []
  | k + 1, n => byte n :: leBytes k (n / 256)

/-- `k` zero bytes. -/
def zeros (k : Nat) : List Byte := List.replicate k 0

/-- Bytes `off` to `off + len - 1` of a string, bytes beyond its end read as 0. -/
def slice (b : List Byte) (off len : Nat) : List Byte :=
  let t := (b.drop off).take len
  t ++ zeros (len - t.length)

/-- The number in `len` bytes at `off`. -/
def field (b : List Byte) (off len : Nat) : Nat := leNat (slice b off len)

/-- Bits `hi` to `lo` of a number (R6). -/
def bits (n hi lo : Nat) : Nat := (n / 2 ^ lo) % 2 ^ (hi + 1 - lo)

/-- Bit `k` of a number. -/
def bit (n k : Nat) : Bool := n / 2 ^ k % 2 == 1

/-- A flag as a number. -/
def b2n (b : Bool) : Nat := if b then 1 else 0

/-- Division rounded up. -/
def ceilDiv (a b : Nat) : Nat := (a + b - 1) / b

/-- Round a length up to a multiple of `m`. -/
def roundUp (a m : Nat) : Nat := ceilDiv a m * m

end Sys2Proof
end

