-- ==== Sys2Proof/Syntax.lean ====
section
/-! DEFINITION. The commands of the block: one constructor of `Instr` for each row of the spec's table of operations,
with the operands that come from outside. What the outside supplies is an operand: the bytes a fetch returns,
a measurement, the verdict of a cited standard's check (a signature, a decapsulation, a link's state). -/

namespace Sys2Proof

/-- The two CXL ports (R297). -/
inductive PortId where
  | a
  | b
deriving DecidableEq, Repr

/-- The three paths that reach BAR0, each with its own selectors (R553). -/
inductive Path where
  | a
  | b
  | mb
deriving DecidableEq, Repr

/-- What the fabric returns to a fetch: poison, or bytes. -/
inductive Fetch where
  | poison
  | data (bytes : List Byte)
deriving DecidableEq, Repr

/-- Where an arriving tile goes: an input slot of a pan, or T1 (R446). -/
inductive Dest where
  | slot (bed pos slot : Nat)
  | t1
deriving DecidableEq, Repr

/-- One output slot marked for commit at STEP_END (R36): the tile's number, header fields of R64 and payload. -/
structure OutTile where
  number : Nat
  kind : Nat
  format : Nat
  layer : Nat
  count : Nat
  first : Nat
  payload : List Byte
deriving DecidableEq, Repr

/-- What a start finds on the module: pins, banks, verdicts of checks on stored media (R510). -/
structure StartInput where
  /-- COMPAT_N is asserted at step 3 (R523). -/
  compat : Bool
  /-- MB_ADDR2 to MB_ADDR0 (R541). -/
  mbAddr : Nat
  /-- A Kelgor slot verifies against the firmware anchor: slot A, slot B (R513). -/
  fwA : Bool
  fwB : Bool
  /-- NV image slots that read back and verify: slot A, slot B (R521 checks 0x01 to 0x09 on stored bytes). -/
  nvA : Bool
  nvB : Bool
  /-- Pans (bed, physical pan) that fail the self-test (R54). -/
  badPans : List (Nat × Nat)
  /-- The newest seal record verifies and names the journal's end (R425). -/
  sealOk : Bool
  /-- Every page of the manifest in slot A, in slot B, verifies (R432). -/
  slotA : Bool
  slotB : Bool
  /-- The active, the previous configuration passes checks 0x05 to 0x10 (R51). -/
  cfgOk : Bool
  prevOk : Bool
  /-- A copy of the ageing record has a matching DIGEST (R487). -/
  ageOk : Bool
  /-- Retention stress that the bit errors of the retention probes tell, in hours at 40 °C (R419). -/
  stress : Nat
  /-- Usable energy E_u in tenths of a joule (R422). -/
  energy : Nat
  /-- The bank's voltage in mV (R424). -/
  bankMv : Nat
  /-- Tiles (handle, number) whose copy in T4 fails its checksum at the restart (R425). -/
  badTiles : List (Nat × Nat)
deriving DecidableEq, Repr

/-- An extent of the State Range: first window, windows, tag (R306). -/
structure ExtentArg where
  first : Nat
  count : Nat
  tag : Nat
deriving DecidableEq, Repr

/-- Measurements of one bed at a walk (R481): least slack in ps of each pan by position, measured rail in mV,
junction temperature in degrees; and whether s has been above SLACK_HIGH at every walk of the last 24 h. -/
structure WalkArg where
  slack : List Nat
  high24 : Bool
deriving DecidableEq, Repr

/-- One tile number that a tile map names, as it reaches this device from another one: the fields of R64 and R427, the recorded
floor (R63), and the origin of its holder, 0 for the device that the map comes from (R351). A number without a mapped version
has VERSION 0. -/
structure LeafArg where
  owner : Nat
  number : Nat
  version : Nat
  kind : Nat
  format : Nat
  layer : Nat
  count : Nat
  first : Nat
  durable : Bool
  lowered : Bool
  floor : Nat
  holder : Nat
deriving DecidableEq, Repr

/-- A run of a work that reads tiles: its number, and the tiles (handle, number) whose copies fail their checksum as it reads (R80). -/
structure ReadRun where
  work : Nat
  bad : List (Nat × Nat)
deriving DecidableEq, Repr

/-- A read of one tile: its number, and whether the copy passes its checksum (R80). -/
structure TileRead where
  number : Nat
  good : Bool
deriving DecidableEq, Repr

/-- A run of a DRAFT: the number of its work, and the weight blocks (layer, shard, block) that fail their checksum as a pass reads
them, each with whether its T2 copy passes (R214). -/
structure DraftRun where
  work : Nat
  bad : List (Nat × Nat × Nat × Bool)
deriving DecidableEq, Repr

/-- What the program of a tile step says of it: it is the final step of its work (R287); it would write a durable version (R421). -/
structure StepArg where
  last : Bool
  writes : Bool
deriving DecidableEq, Repr

/-- One page state that a tile map records (R75): the subject, the layer and page, and the region that the page is attached to, 0
for a page of the subject's own. -/
structure PageArg where
  owner : Nat
  layer : Nat
  page : Nat
  state : Nat
  valid : Nat
  region : Nat
deriving DecidableEq, Repr

/-- What reaches a device of the tile maps of subjects that it takes over: images (header and plaintext payload) of HEAD,
TEXT_STATE, TOKEN_LOG and draft-record tiles and of block-hash lists, region-table entries of 64 bytes (R358), the tile numbers
named, and the page states. -/
structure MapArg where
  heads : List (List Byte)
  leaves : List LeafArg
  pages : List PageArg
deriving DecidableEq, Repr

/-- A session-table entry of a step (R59): handle, index, home bed. -/
structure TableArg where
  handle : Nat
  index : Nat
  homeBed : Nat
deriving DecidableEq, Repr

/-- A VIEW window of a step's window table (R91): window, handle, base. -/
structure ViewArg where
  window : Nat
  handle : Nat
  base : Nat
deriving DecidableEq, Repr

/-- A TSP request (R311). -/
inductive TspReq where
  | version
  | capabilities
  | report
  | lock
  | unlock
  | setTe (window : Nat) (te : Bool)
deriving DecidableEq, Repr

/-- An IDE_KM request (R309): deliver keys for a stream, activate it, or stop it; stream 64 is CXL.cachemem IDE and 65 the link stream. -/
inductive IdeReq where
  | query
  | keyProg (stream : Nat)
  | go (stream : Nat)
  | stop (stream : Nat)
deriving DecidableEq, Repr

/-- What JTAG reaches for (R504): a management core, a pan, or a memory, to halt, step, read or write. -/
inductive JtagReq where
  | haltCore (core : Nat)
  | resumeCore (core : Nat)
  | stepCore (core : Nat)
  | coreMemRead (addr : Nat)
  | coreMemWrite (addr value : Nat)
  | haltPan (bed pos : Nat)
  | resumePan (bed pos : Nat)
  | stepPan (bed pos : Nat)
  | sramRead (bed pos addr : Nat)
  | sramWrite (bed pos addr value : Nat)
  | memRead (tier handle number off : Nat)
  | memWrite (tier handle number off value : Nat)
deriving DecidableEq, Repr

/-- The commands, in the table's order. Log 12 (DESIGN CHOICE). -/
inductive Instr where
  /-- POWER_ON_START (R510): The input has stayed above 50 V for 100 ms, so the device starts from power-off and runs the start sequence up to ready. -/
  | powerOnStart (x : StartInput)
  /-- HOLDUP_CHARGED (R424): The bank reaches 55 V, so a waiting start may proceed to ready. -/
  | holdupCharged (energy bankMv : Nat)
  /-- POWER_LOSS (R423): The input falls below 44 V; the device quiesces, discards work in flight, flushes durable-dirty tiles and writes the seal. -/
  | powerLoss (vinMv : Nat) (bankHolds : Bool)
  /-- OVER_VOLTAGE (R529): The input rises above 61 V; the input switch opens and the power-loss sequence runs from the bank. -/
  | overVoltage (vinMv : Nat) (bankHolds : Bool)
  /-- INPUT_BELOW_20V (R529): The input stays below 20 V for 1 s, which clears THERMAL_OFF and FAILED. -/
  | inputBelow20v
  /-- INSERTION (R543): The module is inserted into a live system; the contacts mate in stages and inrush is limited. -/
  | insertion (live : Bool)
  /-- PORT_WARM_RESET (R508): PERSTx_N is asserted on one port alone; that port is treated as failed and its functions are reset. -/
  | portWarmReset (p : PortId)
  /-- PERST_DEASSERT (R508): PERSTx_N of a port is deasserted; the link trains as CXL defines. -/
  | perstDeassert (p : PortId)
  /-- DEVICE_WARM_RESET (R509): Both PERST signals are asserted; queued and in-flight work is discarded, ledgers are disabled and runtime fields are reset. -/
  | deviceWarmReset
  /-- QUIESCE (R518): A write of SYS_CTRL.QUIESCE drains ledgers, lets work finish, writes back durable bytes and writes a CLEAN seal. -/
  | quiesce (path : Path)
  /-- QUIESCE_TIMEOUT (R518): SYS_QUIESCE_TIME runs out during a quiesce; the work that remains completes DISCARDED. -/
  | quiesceTimeout
  /-- NV_WRITE (R522): A write of SYS_NV_CTRL.WRITE fetches, checks and writes a new NV image to the inactive slot. -/
  | nvWrite (path : Path) (img : Fetch) (sigOk norOk : Bool)
  /-- FIRMWARE_WRITE (R513): In NO_FIRMWARE, a signed Kelgor image is written through the management bus. -/
  | firmwareWrite (svn : Nat) (img : List Byte) (sigOk : Bool)
  /-- SEAL (R555): SYS_LOCK.SEAL is set, by a write or by AUTO at ready, which closes every RWL field until power-off. -/
  | seal (path : Path)
  /-- REGISTER_WRITE (R8): A write to a register field that has no row of its own takes effect according to its access code. -/
  | registerWrite (path : Path) (off width value : Nat)
  /-- WIDE_REGISTER_READ (R552): A read of word 0 of a wide register latches the whole register for reads of its other words. -/
  | wideRegisterRead (path : Path) (off : Nat)
  /-- QSAMP_READ (R295): A read of ADM_QSAMP.DEPTH latches DELAY and SEQ of the same sample. -/
  | qsampRead (path : Path)
  /-- BAR0_MCTP_MESSAGE (R553): A Biholt vendor-defined MCTP message on the management bus carries a BAR0 read or write. -/
  | bar0MctpMessage (write : Bool) (off width value : Nat)
  /-- BITSTREAM_LOAD (R46): A write of PAN_BS_CTRL.LOAD fetches, verifies and stages a bitstream container. -/
  | bitstreamLoad (path : Path) (img : Fetch) (sigOk : Bool)
  /-- ACTIVATE (R47): A write of PAN_BS_CTRL.ACTIVATE replaces the affected units with the staged configuration. -/
  | activate (path : Path) (badPans : List (Nat × Nat))
  /-- BITSTREAM_DRAIN_TIMEOUT (R47): PAN_BS_DRAIN_TIME runs out during a DRAIN activation; the remaining work completes DISCARDED. -/
  | bitstreamDrainTimeout (badPans : List (Nat × Nat))
  /-- ROLLBACK (R50): A write of PAN_BS_CTRL.ROLLBACK activates the previous configuration. -/
  | rollback (path : Path) (badPans : List (Nat × Nat))
  /-- PAN_FAULT (R52): A pan fault is detected; its outermost unit recovers, a spare is mapped and the image is reloaded. -/
  | panFault (bed pos : Nat)
  /-- STEP_OVERRUN (R33): A tile step reaches cycle 241 without STEP_END, which is a pan fault. -/
  | stepOverrun (bed pos : Nat)
  /-- TILE_STEP_BEGIN (R33): Every input tile of a step is in its slot and checked, so the tile step begins. -/
  | tileStepBegin (bed pos work : Nat) (step : StepArg)
  /-- TILE_ARRIVAL (R446): A tile arrives at a pan slot or at T1 and its checksum is verified. -/
  | tileArrival (dest : Dest) (handle number : Nat) (image : List Byte)
  /-- STEP_END (R36): Microcode ends a step; output tiles are checksummed and written, and the boundary checks of R35 are applied. -/
  | stepEnd (bed pos : Nat) (outs : List OutTile)
  /-- CONTEXT_SWITCH_DONE (R379): The save and reload of a context switch finish, and the incoming context takes its first step. -/
  | contextSwitchDone (leaf : Nat)
  /-- CONTEXT_SLICE_EXPIRY (R377): CTX_SCHED.SLICE passes for the current context while a context of equal priority waits. -/
  | contextSliceExpiry (leaf : Nat)
  /-- RESIDENT_SLICE_EXPIRY (R383): CTX_SCHED.RES_SLICE passes for a resident context while another context waits. -/
  | residentSliceExpiry (unit : Nat)
  /-- DESCRIPTOR_WINDOW_READ (R26): A pan reads a descriptor from its window, and the descriptor is then in flight. -/
  | descriptorWindowRead (leaf work : Nat)
  /-- TILE_REQUEST (R32): Microcode requests a tile by identifier; a tile of another tenant is refused as a pan fault. -/
  | tileRequest (bed pos handle number slot : Nat)
  /-- PAN_MESSAGE (R31): A pan sends a short message or a bulk transfer within its outermost unit. -/
  | panMessage (bed pos toBed toPos : Nat) (bulk : Bool) (body : List Byte)
  /-- DISPATCH_HELD_RELEASE (R27): Room frees in a unit queue, and descriptors held for dispatch leave for it in order of acceptance. -/
  | dispatchHeldRelease (utype : Nat)
  /-- LEDGER_TAIL_UPDATE (R314): A store to a tail line is detected; the device reads TAIL and consumes the new descriptors. -/
  | ledgerTailUpdate (ledger : Nat) (line : Fetch) (descs : List Fetch)
  /-- CONSUMED_LINE_UPDATE (R313): A store to a completion ledger's consumed line is detected, which frees completion slots. -/
  | consumedLineUpdate (ledger : Nat) (line : Fetch)
  /-- READY_LINE_POLL (R314): A ready line that found no watch room is read every 2 µs. -/
  | readyLinePoll (addr : Nat) (line : Fetch)
  /-- LEDGER_ENABLE (R318): A write of 1 to LDG_CTRL.ENABLE runs the enable checks and makes a DISABLED ledger ACTIVE. -/
  | ledgerEnable (path : Path) (line : Nat)
  /-- LEDGER_DISABLE (R318): A write of 0 to LDG_CTRL.ENABLE moves the ledger to DRAINING. -/
  | ledgerDisable (path : Path)
  /-- LEDGER_DRAIN_END (R318): A DRAINING ledger has no work left, so it becomes DISABLED. -/
  | ledgerDrainEnd (ledger : Nat)
  /-- COMPLETION_WRITE (R325): A descriptor's work ends and its completion is written, which makes its effects referenced. -/
  | completionWrite (work : Nat)
  /-- CQ_FULL_TIMEOUT (R319): Completions have waited 1 ms on a full completion ledger, so a CQ_FULL event is logged. -/
  | cqFullTimeout (ledger : Nat)
  /-- INTERRUPT_COAL_TIMEOUT (R332): A group's coalescing TIME passes, so its vector is raised. -/
  | interruptCoalTimeout (group : Nat)
  /-- UNKNOWN_OPCODE (R321): A descriptor with an opcode outside the table completes BAD_DESCRIPTOR. -/
  | unknownOpcode (ledger : Nat) (desc : List Byte)
  /-- PARK (R113): PARK waits for earlier descriptors, ingests the near window into partial pages and makes the session PARKED. -/
  | park (work : Nat) (src : Fetch)
  /-- REVIVE_WORKING (R116): REVIVE with MODE WORKING places the working set and makes the session ACTIVE. -/
  | reviveWorking (run : ReadRun)
  /-- REVIVE_FULL (R115): REVIVE with MODE FULL brings the working set and every other tile into T2 or above. -/
  | reviveFull (run : ReadRun)
  /-- REVIVE_HINT (R115): REVIVE with MODE HINT queues the working set as resume-hint prefetch. -/
  | reviveHint (work : Nat)
  /-- MOVE_PLACE (R119): MOVE with MODE PLACE makes the given tier the master of the selected tiles. -/
  | movePlace (run : ReadRun)
  /-- MOVE_VIEW (R120): MOVE with MODE VIEW binds an UNBOUND window to the session's tiles. -/
  | moveView (work : Nat)
  /-- MOVE_UNVIEW (R120): MOVE with MODE UNVIEW unbinds a view window of the session. -/
  | moveUnview (work : Nat)
  /-- MOVE_ATTACH (R125): MOVE with MODE ATTACH attaches the longest run of leading pages that a prefix region can supply. -/
  | moveAttach (work : Nat)
  /-- DIR_REBUILD (R148): A failed overflow block or head puts its bucket into REBUILDING, and the bucket is rebuilt. -/
  | dirRebuild (bucket : Nat)
  /-- DIR_REBUILD_DONE (R148): A bucket rebuild completes, and waiting searches resume. -/
  | dirRebuildDone (bucket : Nat)
  /-- SESSION_OPEN (R84): SESSION_OPEN checks resources and creates the session record, its handle and its directory entry. -/
  | sessionOpen (work : Nat)
  /-- SESSION_CLOSE (R85): SESSION_CLOSE makes the session CLOSING, waits for work in flight and frees its index and handle. -/
  | sessionClose (work : Nat)
  /-- HOST_LOAD (R93): A host CXL.mem load to the State Range is served, promoted or poisoned according to the master tier. -/
  | hostLoad (pbr addr : Nat) (te : Bool)
  /-- HOST_STORE (R93): A host CXL.mem store is written, promoted or dropped, and may give the tile a new version. -/
  | hostStore (pbr addr : Nat) (te : Bool) (body : Fetch)
  /-- PEER_UIO_ACCESS (R307): A peer's unordered-I/O read or write to the State Range is served within its paired host's extents. -/
  | peerUioAccess (pbr off len : Nat) (write : Option (List Byte))
  /-- TILE_PROMOTION_DONE (R93): A tile promoted to T1 arrives, and the accesses waiting on it proceed. -/
  | tilePromotionDone (handle number : Nat) (good : Bool)
  /-- BI_RESPONSE (R304): A host responds to a BISnpInv, and the line is released. -/
  | biResponse (host line : Nat)
  /-- BI_TIMEOUT (R305): A host fails to respond within CXL_BI_CFG.TIMEOUT and is suspended. -/
  | biTimeout (host : Nat)
  /-- HOST_RESUME (R305): A write of CXL_HOST_CTRL.RESUME ends a host's suspension. -/
  | hostResume (path : Path)
  /-- WRITEBACK_START (R98): The device starts writing the oldest durable-dirty tile to T4. -/
  | writebackStart
  /-- WRITEBACK_TILE_DONE (R98): A durable tile version reaches T4 and stops being durable-dirty. -/
  | writebackTileDone (handle number : Nat)
  /-- SPILL_START (R100): A tier's occupancy rises above its high mark, so spill starts. -/
  | spillStart (tier scope : Nat)
  /-- SPILL_TILE_DONE (R103): A spilled tile's destination copy is written and mapped, and its source copy is dropped. -/
  | spillTileDone (handle number : Nat)
  /-- PREFETCH_ITEM (R108): A prefetch item of some source brings tiles upward ahead of use. -/
  | prefetchItem (source handle : Nat) (tile : TileRead)
  /-- T3_GRANT (R107): A write of STO_T3_CTRL.VALID 1 grants a T3 range. -/
  | t3Grant (path : Path)
  /-- T3_WITHDRAW (R561): A write of STO_T3_CTRL.VALID 0 withdraws an empty T3 range. -/
  | t3Withdraw (path : Path)
  /-- T3_DRAIN (R107): A write of STO_T3_CTRL.DRAIN stops spill into the range and moves its tiles to T4. -/
  | t3Drain (path : Path)
  /-- T3_COMPUTE (R334): A write of STO_T3_CTRL.COMPUTE marks a range as a compute range. -/
  | t3Compute (path : Path)
  /-- T3_RANGE_LOST (R107): A T3 range becomes unreachable; its tiles become absent and their pages ABSENT. -/
  | t3RangeLost (range : Nat)
  /-- KV_INGEST_FILE (R184): KV_INGEST with MODE FILE files one page of 32 tokens in every layer of the range. -/
  | kvIngestFile (work : Nat) (src : Fetch)
  /-- KV_INGEST_COMPLETE (R184): KV_INGEST with MODE COMPLETE completes a PARTIAL page. -/
  | kvIngestComplete (work : Nat) (src : Fetch)
  /-- KV_INGEST_REGISTER (R185): KV_INGEST with MODE REGISTER adds global positions to the session. -/
  | kvIngestRegister (work : Nat)
  /-- KV_INGEST_CLEAR (R185): KV_INGEST with MODE CLEAR removes every global position of the session. -/
  | kvIngestClear (work : Nat)
  /-- FAR_ATTN (R188): FAR_ATTN selects and attends over the far pages of each layer and writes one record per query head. -/
  | farAttn (run : ReadRun) (queries : List Fetch)
  /-- READY_WORD_UPDATE (R197): A ready word of a streamed FAR_ATTN shows the descriptor's STAMP, so that layer begins. -/
  | readyWordUpdate (addr word : Nat)
  /-- MODEL_LOAD (R210): A write of PAN_MDL_CTRL.LOAD loads and unwraps a drafter model into the weight areas. -/
  | modelLoad (path : Path) (img : Fetch) (table : Option (List Byte)) (digestsOk : Bool)
  /-- MODEL_UNLOAD (R212): A write of PAN_MDL_CTRL.UNLOAD moves a READY slot to UNLOADING. -/
  | modelUnload (path : Path)
  /-- MODEL_UNLOAD_DONE (R212): The last DRAFT in flight on an unloading slot finishes; the slot becomes EMPTY and its areas are freed. -/
  | modelUnloadDone (slot : Nat)
  /-- DRAFT (R222): DRAFT with MODE DRAFT catches up and builds a draft tree within the node budget. -/
  | draft (run : DraftRun)
  /-- DRAFT_CONFIGURE (R220): DRAFT with MODE CONFIGURE writes the draft configuration into the draft record. -/
  | draftConfigure (work : Nat)
  /-- DRAFT_RESET (R220): DRAFT with MODE RESET discards the drafter KV and any outstanding tree. -/
  | draftReset (work : Nat)
  /-- VERIFY_COMMIT (R228): VERIFY_COMMIT appends the accepted path and CORRECTED, advances text state and updates the tree size. -/
  | verifyCommit (work : Nat)
  /-- VOCABULARY_LOAD (R239): A write of TXT_VOC_CTRL.LOAD loads and checks a vocabulary image. -/
  | vocabularyLoad (path : Path) (img : Fetch)
  /-- VOCABULARY_UNLOAD (R239): A write of TXT_VOC_CTRL.UNLOAD empties a READY entry unless a session uses it. -/
  | vocabularyUnload (path : Path)
  /-- TOKENIZE (R247): TOKENIZE turns UTF-8 input into tokens and may append them to the log. -/
  | tokenize (work : Nat) (src : Fetch)
  /-- APPEND_TOKENS (R255): APPEND_TOKENS with MODE APPEND appends tokens, detokenizes, matches stop strings and advances the grammar. -/
  | appendTokens (work : Nat) (src : Fetch)
  /-- SET_STOPS (R258): APPEND_TOKENS with MODE SET_STOPS writes the stop set and updates RELEASE. -/
  | setStops (work : Nat) (src : Fetch)
  /-- SET_SAMPLER (R258): APPEND_TOKENS with MODE SET_SAMPLER copies bytes into SAMPLER. -/
  | setSampler (work : Nat) (src : Fetch)
  /-- MASK_STEP (R264): MASK with MODE STEP writes one mask record for the present configuration, or applies the dead policy. -/
  | maskStep (work : Nat)
  /-- MASK_TREE (R264): MASK with MODE TREE writes mask records for the root and every node of the outstanding tree. -/
  | maskTree (work : Nat)
  /-- MASK_CONFIGURE (R261): MASK with MODE CONFIGURE checks and installs a grammar image. -/
  | maskConfigure (work : Nat) (src : Fetch)
  /-- MASK_CLEAR (R261): MASK with MODE CLEAR deactivates the grammar and frees its tiles. -/
  | maskClear (work : Nat)
  /-- PLAN (R278): STEP_PLAN with MODE PLAN applies the outcome, judges goals, pauses or resumes sessions and writes a manifest. -/
  | plan (work : Nat)
  /-- ENROLL (R275): STEP_PLAN with MODE ENROLL enrols a session in a planner, possibly as PAUSING. -/
  | enroll (work : Nat)
  /-- WITHDRAW (R276): STEP_PLAN with MODE WITHDRAW removes a session from its planner. -/
  | withdraw (work : Nat)
  /-- STEP_PLAN_CONFIGURE (R274): STEP_PLAN with MODE CONFIGURE creates, reconfigures or removes a planner. -/
  | stepPlanConfigure (work : Nat)
  /-- PLANNER_PARK_DONE (R284): A planner's park completes; the session becomes PAUSED and a RELEASE entry is due. -/
  | plannerParkDone (handle : Nat) (src : Fetch)
  /-- PLANNER_REVIVE_DONE (R284): A planner's revive completes; the session becomes RUNNING and a RESUME entry is due. -/
  | plannerReviveDone (handle : Nat)
  /-- DEADLINE_EXPIRY (R287): A descriptor's deadline expires; it completes DEADLINE if its last step has not begun. -/
  | deadlineExpiry (work : Nat)
  /-- SHAPER_REFILL (R291): Each INTERVAL, every shaper takes pending parameter writes and refills its level. -/
  | shaperRefill
  /-- METER_COMMIT (R292): A write of ADM_MTR_CTRL.COMMIT applies the staged meter parameters. -/
  | meterCommit (path : Path)
  /-- CLR_MAX (R295): A write of ADM_QCTRL.CLR_MAX sets the queue maxima to 0. -/
  | clrMax (path : Path)
  /-- FILL (R335): FILL writes a repeated pattern to the destination. -/
  | fill (work : Nat)
  /-- COPY (R335): COPY writes the destination from the source. -/
  | copy (work : Nat) (src : Fetch)
  /-- COMPARE (R335): COMPARE reports the first offset at which two operands differ. -/
  | compare (work : Nat) (a b : Fetch)
  /-- REDUCE (R336): REDUCE with a function code in 0x00–0x7F computes an elementwise function or a reduction. -/
  | reduce (work : Nat) (a b : Fetch)
  /-- REDUCE_SCORER (R23): REDUCE with a function code in 0x80–0xFF goes to the bound scorer unit. -/
  | reduceScorer (work status : Nat) (result : List Byte)
  /-- SLUICE_SESSION (R329): A sluice of strength SESSION orders the descriptors of one subject. -/
  | sluiceSession (work : Nat)
  /-- SLUICE_PUBLISH (R329): A sluice of strength PUBLISH waits for the tenant's descriptors and flushes fabric records. -/
  | sluicePublish (work : Nat)
  /-- SLUICE_GLOBAL (R329): A sluice of strength GLOBAL orders all descriptors of its tenant, or of every tenant, and flushes records. -/
  | sluiceGlobal (work : Nat)
  /-- HANDOVER_OFFER (R346): HANDOVER_OFFER writes the T1 masters down and writes the record as OFFERED to the target. -/
  | handoverOffer (work : Nat)
  /-- HANDOVER_ACCEPT (R348): HANDOVER_ACCEPT opens a claim and sends CLAIM to the offerer. -/
  | handoverAccept (work : Nat)
  /-- CLAIM (R349): A CLAIM message arrives at the offerer, which grants or refuses it. -/
  | claim (pbr : Nat) (msg : List Byte)
  /-- GRANT (R348): A GRANT arrives for an open claim; the receiver takes ownership at e + 1. -/
  | grant (pbr : Nat) (msg : List Byte) (map : MapArg)
  /-- REFUSE (R348): A REFUSE message arrives, for a claim or for a TILE_REQ. -/
  | refuse (pbr : Nat) (msg : List Byte)
  /-- CLAIM_WINDOW_EXPIRY (R348): The claim window closes without an answer, and the ACCEPT completes DISCARDED. -/
  | claimWindowExpiry (handle : Nat)
  /-- OFFER_TIMEOUT (R350): The offer timeout expires with GRANTED 0, and the offerer reclaims at e + 1. -/
  | offerTimeout (handle : Nat)
  /-- OWNERSHIP_AUDIT (R355): Each audit interval, QUERY is sent for every eligible trace and failed reclaims are retried. -/
  | ownershipAudit
  /-- QUERY (R356): A QUERY arrives and is answered HELD, WAIT or NO. -/
  | query (pbr : Nat) (msg : List Byte)
  /-- ANSWER (R355): An ANSWER arrives for an audit query; the trace is deleted, kept, or orphaned and reclaimed. -/
  | answer (pbr : Nat) (msg : List Byte)
  /-- AUDIT_QUERY_TIMEOUT (R355): No answer arrives within 100 µs; the trace is kept and ORPHAN_UNRESOLVED is logged. -/
  | auditQueryTimeout (handle : Nat)
  /-- TILE_REQ (R352): A TILE_REQ arrives at a holder, which writes the lodged tile to the reply offset or refuses it. -/
  | tileReq (pbr : Nat) (msg : List Byte) (good : Bool)
  /-- TILE_REPLY (R352): A lodged tile arrives at the owner, is verified and adopted, and RELEASE is sent. -/
  | tileReply (off : Nat) (image : List Byte)
  /-- TILE_REQ_TIMEOUT (R354): A TILE_REQ gets no reply within 100 µs; it is repeated once, and then the tile counts as failing its checksum. -/
  | tileReqTimeout (handle number : Nat)
  /-- RELEASE (R353): A RELEASE message arrives, and the holder frees the lodged tile. -/
  | release (pbr : Nat) (msg : List Byte)
  /-- PUBLISH_CREATE (R361): PUBLISH with MODE CREATE creates a buffer region bound to windows. -/
  | publishCreate (work : Nat)
  /-- PUBLISH_VERSION (R362): PUBLISH with MODE VERSION writes content as a new version if BASE_VERSION is current. -/
  | publishVersion (work : Nat) (src : Fetch)
  /-- PUBLISH_PREFIX (R124): PUBLISH with MODE PREFIX copies a session's leading pages into a prefix region and enters its block hashes. -/
  | publishPrefix (work : Nat)
  /-- MAP_EPOCH_WRITE (R364): A write of SYS_MAP_EPOCH.CURRENT sets a new epoch and starts the grace of the superseded one. -/
  | mapEpochWrite (path : Path) (value : Nat)
  /-- EPOCH_GRACE_END (R364): GRACE passes for a superseded epoch, and that epoch is no longer honoured. -/
  | epochGraceEnd (epoch : Nat)
  /-- ADD_DYNAMIC_CAPACITY_RESPONSE (R306): The mailbox command Add Dynamic Capacity Response gives a host extents of the State Range. -/
  | addDynamicCapacityResponse (host : Nat) (accepted : List ExtentArg)
  /-- RELEASE_DYNAMIC_CAPACITY (R363): The mailbox command Release Dynamic Capacity releases an extent, draining the requests in flight. -/
  | releaseDynamicCapacity (host : Nat) (ext : ExtentArg)
  /-- EXTENT_RELEASE_TIMEOUT (R363): 100 µs pass during an extent release; incomplete requests are poisoned or dropped and the release completes. -/
  | extentReleaseTimeout (host : Nat) (ext : ExtentArg)
  /-- FM_DYNAMIC_CAPACITY_ADD (R306): An FM API dynamic capacity add command offers extents to a host. -/
  | fmDynamicCapacityAdd (host : Nat) (ext : ExtentArg)
  /-- FM_DYNAMIC_CAPACITY_RELEASE (R306): An FM API dynamic capacity release command withdraws extents from a host. -/
  | fmDynamicCapacityRelease (host : Nat) (ext : ExtentArg)
  /-- GET_DYNAMIC_CAPACITY_CONFIGURATION (R299): The mailbox command returns the dynamic capacity configuration. -/
  | getDynamicCapacityConfiguration (p : PortId)
  /-- GET_DYNAMIC_CAPACITY_EXTENT_LIST (R299): The mailbox command returns the host's extent list. -/
  | getDynamicCapacityExtentList (p : PortId) (host count start : Nat)
  /-- IDENTIFY (R299): The mailbox command Identify returns the device identity. -/
  | identify (p : PortId)
  /-- GET_EVENT_RECORDS (R464): The mailbox command returns records from an event log. -/
  | getEventRecords (ch : Path) (log : Nat)
  /-- CLEAR_EVENT_RECORDS (R464): The mailbox command clears records from an event log. -/
  | clearEventRecords (ch : Path) (log : Nat) (handles : List Nat)
  /-- GET_EVENT_INTERRUPT_POLICY (R299): The mailbox command returns the event interrupt policy. -/
  | getEventInterruptPolicy (p : PortId)
  /-- SET_EVENT_INTERRUPT_POLICY (R299): The mailbox command sets the event interrupt policy. -/
  | setEventInterruptPolicy (p : PortId) (settings : List Nat)
  /-- SET_TIMESTAMP (R475): The mailbox command Set Timestamp sets CLK_TIME_OFFSET to T − C. -/
  | setTimestamp (p : PortId) (value : Nat)
  /-- TSP_REQUEST (R311): A TSP request over DOE reports capabilities, locks configuration or sets the TE state of windows. -/
  | tspRequest (host : Nat) (req : TspReq)
  /-- IDE_KM (R309): An IDE_KM request over secured SPDM delivers or activates IDE keys. -/
  | ideKm (p : PortId) (session : Nat) (req : IdeReq)
  /-- CDAT_READ (R299): A DOE CDAT request returns the DSMAS and DSLBIS entries. -/
  | cdatRead (p : PortId) (entry : Nat)
  /-- LINK_LEAVES_L0 (R457): A port's link leaves L0, which starts the recovery timer. -/
  | linkLeavesL0 (p : PortId)
  /-- LINK_RECOVERY_TIMEOUT (R457): The link has not returned to L0 within CXL_PORT_CFG.RECOVERY, so the port has failed. -/
  | linkRecoveryTimeout (p : PortId)
  /-- IDE_INTEGRITY_FAILURE (R309): An IDE integrity failure on a port is a link fault. -/
  | ideIntegrityFailure (p : PortId)
  /-- VIRAL_RECEIVED (R299): A viral indication on a port is treated as failure of that port. -/
  | viralReceived (p : PortId)
  /-- SURPRISE_REMOVAL (R457): Surprise removal of a port is handled as link failure. -/
  | surpriseRemoval (p : PortId)
  /-- CACHE_RESPONSE_TIMEOUT (R457): A CXL.cache request has no response within 50 µs, so the port has failed. -/
  | cacheResponseTimeout (p : PortId)
  /-- LINK_RETURN (R457): A failed link returns; its ledgers stay HALTED until they are re-enabled. -/
  | linkReturn (p : PortId) (width rate : Nat)
  /-- INSTALL (R396): A write of SEC_SLOT_CTRL.INSTALL checks a key envelope and installs the key in its slot. -/
  | install (path : Path) (env : Fetch) (payload : Option (List Byte))
  /-- INSTALL_KEY (R407): The SPDM request INSTALL_KEY installs a key envelope. -/
  | installKey (ch : Path) (session : Nat) (env : List Byte) (payload : Option (List Byte))
  /-- REVOKE (R408): A write of SEC_SLOT_CTRL.REVOKE drains a slot, aborts its work, zeroizes its key and frees its sessions. -/
  | revoke (path : Path)
  /-- REVOKE_SLOT (R407): The SPDM request REVOKE_SLOT revokes a slot. -/
  | revokeSlot (ch : Path) (session slot : Nat)
  /-- SLOT_EMPTIED (R408): A ZEROED slot's sessions and directory entries are freed, the slot becomes EMPTY, and a held install takes effect. -/
  | slotEmptied (slot : Nat)
  /-- JOIN (R401): A write of SEC_SET_CTRL.JOIN joins a device set from a set envelope. -/
  | join (path : Path) (env : Fetch) (payload : Option (List Byte))
  /-- JOIN_SET (R401): The SPDM request JOIN_SET joins a device set. -/
  | joinSet (ch : Path) (session : Nat) (env : List Byte) (payload : Option (List Byte))
  /-- LEAVE (R402): A write of SET_ID to SEC_SET_CTRL.LEAVE zeroizes the set key and unloads its models. -/
  | leave (path : Path) (setId : Nat)
  /-- LEAVE_SET (R402): The SPDM request LEAVE_SET leaves a device set. -/
  | leaveSet (ch : Path) (session setId : Nat)
  /-- GET_SLOT_EVIDENCE (R406): The SPDM request returns signed evidence for one key slot. -/
  | getSlotEvidence (ch : Path) (slot : Nat) (nonce : List Byte)
  /-- GET_VERSION (R404): The SPDM request GET_VERSION negotiates the SPDM version. -/
  | getVersion (ch : Path)
  /-- GET_CAPABILITIES (R404): The SPDM request returns the responder's capabilities. -/
  | getCapabilities (ch : Path) (version : Nat)
  /-- NEGOTIATE_ALGORITHMS (R404): The SPDM request selects ML-DSA-65, ML-KEM-768 and AES-256-GCM. -/
  | negotiateAlgorithms (ch : Path) (mldsa mlkem aesgcm : Bool)
  /-- GET_DIGESTS (R404): The SPDM request returns the certificate chain digests. -/
  | getDigests (ch : Path)
  /-- GET_CERTIFICATE (R404): The SPDM request returns the certificate chain of slot 0. -/
  | getCertificate (ch : Path) (slot off len : Nat)
  /-- CHALLENGE (R404): The SPDM request CHALLENGE is answered with an alias-key signature. -/
  | challenge (ch : Path) (slot : Nat) (nonce : List Byte)
  /-- GET_MEASUREMENTS (R405): The SPDM request returns signed measurements 0x01–0x0C. -/
  | getMeasurements (ch : Path) (index : Nat) (signed : Bool) (nonce : List Byte)
  /-- KEY_EXCHANGE (R404): The SPDM request KEY_EXCHANGE opens a secured session. -/
  | keyExchange (ch : Path) (session : Nat)
  /-- FINISH (R404): The SPDM request FINISH completes a secured session handshake. -/
  | finish (ch : Path) (session : Nat) (good : Bool) (operator : Option Nat)
  /-- END_SESSION (R404): The SPDM request END_SESSION closes a secured session. -/
  | endSession (ch : Path) (session : Nat)
  /-- RETURN (R389): A write of SEC_LC_CTRL.RETURN with a valid return token enters RETURN and crypto-erases the module. -/
  | retire (path : Path) (token : Fetch) (sigOk : Bool)
  /-- OWNER_CLAIM (R393): A write of SEC_CLAIM installs the first NV image signer while the signer list is empty. -/
  | ownerClaim (path : Path) (key : Fetch)
  /-- DEBUG_PRESENT (R505): A write of SEC_DEBUG.PRESENT checks a debug token and may open debug reach. -/
  | debugPresent (path : Path) (token : Fetch) (sigOk : Bool)
  /-- DEBUG_CLOSE (R505): A write of SEC_DEBUG.CLOSE ends the debug token and closes debug reach. -/
  | debugClose (path : Path)
  /-- BYPASS (R504): The JTAG instruction BYPASS is executed. -/
  | bypass (bitIn : Bool)
  /-- SAMPLE_PRELOAD (R504): The JTAG instruction SAMPLE/PRELOAD is executed. -/
  | samplePreload (cells : List Bool)
  /-- EXTEST (R504): The JTAG instruction EXTEST acts only while both PERST signals are asserted, and otherwise acts as BYPASS. -/
  | extest (cells : List Bool)
  /-- IDCODE (R504): The JTAG instruction IDCODE returns the identification code. -/
  | idcode
  /-- JTAG_DEBUG_ACCESS (R504): A JTAG halt, step or memory access within the reach that the lifecycle and the token allow. -/
  | jtagDebugAccess (req : JtagReq)
  /-- ENTDAA (R541): The I3C command ENTDAA assigns the module a dynamic address. -/
  | entdaa (addr : Nat)
  /-- SETDASA (R541): The I3C command SETDASA assigns a dynamic address from the static address. -/
  | setdasa (static addr : Nat)
  /-- CHECKPOINT (R431): A CHECKPOINT descriptor is satisfied by the next checkpoint whose cut follows its predecessors. -/
  | checkpoint (work : Nat)
  /-- CHECKPOINT_INTERVAL (R430): DUR_CKPT_CFG.INTERVAL passes since the previous checkpoint started. -/
  | checkpointInterval
  /-- WARNING_TRIGGER (R430): A warning trigger fires outside the holdoff, which calls for a checkpoint. -/
  | warningTrigger (trigger : Nat)
  /-- CHECKPOINT_START (R428): A checkpoint takes its cut, adopts lodged tiles, writes back, writes trees and manifest, and ships to the buddy. -/
  | checkpointStart
  /-- RESTORE_SESSION (R435): RESTORE with MODE SESSION recovers one DAMAGED subject from a consistent step. -/
  | restoreSession (work : Nat) (okA okB buddyA buddyB : Bool) (map : MapArg) (records : List (List Byte))
  /-- RESTORE_TAKEOVER (R436): RESTORE with MODE TAKEOVER rebuilds a lost device's state from its buddy's copy. -/
  | restoreTakeover (work : Nat) (okA okB : Bool) (map : MapArg) (table : List TableArg) (views : List ViewArg) (records : List (List Byte))
  /-- STREAM_LOG (R440): A LOG stream record from a fostered origin is stored. -/
  | streamLog (pbr : Nat) (rec : List Byte)
  /-- STREAM_OWN (R440): An OWN stream record carrying an ownership record is stored and acknowledged. -/
  | streamOwn (pbr : Nat) (rec : List Byte)
  /-- STREAM_LEASE (R441): A LEASE stream record carrying a new lease end is stored and acknowledged. -/
  | streamLease (pbr : Nat) (rec : List Byte)
  /-- STREAM_ACK (R442): An ACK record from the buddy arrives, which confirms records and shipped steps. -/
  | streamAck (pbr : Nat) (rec : List Byte)
  /-- STREAM_FETCH (R444): A FETCH record asks the buddy for fostered objects; it is served only after silence from the origin. -/
  | streamFetch (pbr : Nat) (rec : List Byte)
  /-- STREAM_REFUSE (R439): A REFUSE record arrives; NOT_FOSTERED makes the buddy unreachable and ORIGIN_ALIVE fails the take-over. -/
  | streamRefuse (pbr : Nat) (rec : List Byte)
  /-- FETCH_REPLY (R440): Data requested by FETCH arrives in the requester's stream window. -/
  | fetchReply (off : Nat) (body : List Byte)
  /-- LOG_RECORD_FLUSH (R441): 100 µs pass since the oldest unsent log entry, so a LOG record is sent. -/
  | logRecordFlush
  /-- BUDDY_TIMEOUT (R442): No ACK arrives within DUR_BUDDY_CFG.TIMEOUT, so the buddy is unreachable. -/
  | buddyTimeout
  /-- BUDDY_RETRY (R439): Once a second after a NOT_FOSTERED refusal, the device tries its buddy again. -/
  | buddyRetry
  /-- BUDDY_ORIGIN_WRITE (R438): A write of DUR_BUDDY.ORIGIN names a new buddy, drops buffered records and fires the buddy-change trigger. -/
  | buddyOriginWrite (path : Path) (origin : Nat)
  /-- FOSTER_RELEASE (R439): A write of DUR_FOSTER.RELEASE stops fostering an origin and frees its copies. -/
  | fosterRelease (path : Path) (origin : Nat)
  /-- DISCARD (R516): A write of DUR_CTRL.DISCARD discards the store that has no consistent step. -/
  | discard (path : Path)
  /-- FLASH_SCRUB (R418): A written page is due for its periodic read, and is rewritten if it has too many corrected bits. -/
  | flashScrub (handle number corrected : Nat) (good : Bool)
  /-- FLASH_BLOCK_RETIRE (R417): A block fails erase or program and is retired, which may change DUR_FLASH.STATE. -/
  | flashBlockRetire (spareLeft used : Nat)
  /-- DRAM_CHANNEL_FAULT (R454): A T2 channel or T1 vault fault is detected; the channel is fenced and reads are redirected to mirrors. -/
  | dramChannelFault (vault : Bool) (bed unit : Nat)
  /-- PACKAGE_MIGRATION_DONE (R454): A logical package finishes migrating to a spare package. -/
  | packageMigrationDone (package : Nat)
  /-- FLASH_DIE_FAULT (R456): A flash die fails; its durable pages are rebuilt from stripes. -/
  | flashDieFault (die : Nat)
  /-- DIE_REBUILD_DONE (R456): The stripe rebuild of a failed die completes. -/
  | dieRebuildDone (die : Nat)
  /-- PLL_LOSS_OF_LOCK (R458): The active root PLL loses lock and the device switches to the standby PLL. -/
  | pllLossOfLock (crossing : Option Nat)
  /-- BED_FAULT (R459): A bed crossbar, mesh port, crystallizer or clock fault holds the bed out of service. -/
  | bedFault (bed : Nat) (clock : Bool)
  /-- BLOCK_FAULT (R460): A fixed-function block fails over to its standby engine. -/
  | blockFault (block : Nat)
  /-- MANAGEMENT_CORE_FAULT (R460): A management core faults; Kelgor restarts on the remaining cores. -/
  | managementCoreFault (core : Nat)
  /-- FAULT_RECOVERY_DONE (R452): A fault domain is repaired or isolated and dispatch resumes. -/
  | faultRecoveryDone (cls place interruptNs : Nat)
  /-- DROOP_TRIP (R470): A droop detector trips and the bed's arithmetic stretch rises. -/
  | droopTrip (bed : Nat)
  /-- STRETCH_RELEASE (R470): No detector has tripped for 1 µs, so the stretch falls one sixteenth towards the floor. -/
  | stretchRelease (bed : Nat)
  /-- BED_STOP (R472): A bed has been idle for CLK_STOP_CFG.IDLE, so its arithmetic clock stops. -/
  | bedStop (bed : Nat)
  /-- HARROW_WALK (R483): The harrow visits a running bed and re-plans its speed margin. -/
  | harrowWalk (bed : Nat) (walk : WalkArg)
  /-- NEIGHBOUR_LIMIT (R478): A rail or temperature comparator finds neighbours at or beyond a limit, which logs MARGIN or holds a bed. -/
  | neighbourLimit (x y : Nat) (railX railY tempX tempY : Nat)
  /-- HOLD_RELEASE (R480): A held bed has stayed within the guards for CLK_HRW_CFG.RELEASE and is released. -/
  | holdRelease (bed : Nat)
  /-- RETENTION_PROBE (R484): The hourly DRAM retention probe may change the refresh rate. -/
  | retentionProbe (bed : Nat) (vault : Bool) (unit : Nat) (failed month : Bool)
  /-- PATROL_SCRUB (R485): A patrol scrub of T1 and T2 tiles verifies their checksums. -/
  | patrolScrub (bed : Nat) (bad : List (Nat × Nat × Nat)) (halve month : Bool)
  /-- RING_OSCILLATOR_MEASURE (R481): Each second, the ring oscillators of a running bed are measured for ageing. -/
  | ringOscillatorMeasure (bed shift : Nat)
  /-- AGEING_RECORD_WRITE (R487): The ageing record is written out of place, every hour. -/
  | ageingRecordWrite
  /-- THERMAL_THROTTLE (R546): A bed reaches the throttle point, or the device core reaches 105 °C, and beds are throttled. -/
  | thermalThrottle (bed : Option Nat)
  /-- THERMAL_HOLD (R546): A bed reaches 105 °C, which raises a MARGIN-class fault against it. -/
  | thermalHold (bed : Nat)
  /-- THERMAL_CRITICAL (R546): A junction reaches 110 °C; the device seals from HOLD-UP or goes straight to THERMAL_OFF. -/
  | thermalCritical (vinMv : Nat) (bankHolds : Bool)
  /-- MARK (R497): MARK writes a MARK trace record and may fire matching arms. -/
  | mark (work : Nat)
  /-- DUMP_TILES (R499): DUMP with MODE TILES copies the selected tiles, with headers, to the destination. -/
  | dumpTiles (work : Nat)
  /-- DUMP_TRACE (R500): DUMP with MODE TRACE copies unread trace records out of the ring. -/
  | dumpTrace (work : Nat)
  /-- DUMP_ARM (R501): DUMP with MODE ARM places an arm on a subject. -/
  | dumpArm (work : Nat)
  /-- DUMP_DISARM (R501): DUMP with MODE DISARM removes an arm. -/
  | dumpDisarm (work : Nat)
  /-- DUMP_CAPTURE (R502): A queued capture of an armed dump writes one DUMP record once the budget allows. -/
  | dumpCapture
  /-- CAPTURE_TIMEOUT (R502): A tile not captured within 100 ms ends the firing with a TRUNCATED record. -/
  | captureTimeout (arm : Nat)
  /-- OBS_BUDGET_REFILL (R496): Every 100 µs the observation token bucket refills. -/
  | obsBudgetRefill
  /-- SNAP (R490): A write of OBS_CNT_CTRL.SNAP copies all counters to OBS_CNT_SNAP. -/
  | snap (path : Path)
  /-- COUNTER_CLEAR (R490): A write of OBS_CNT_CTRL.CLEAR sets the selected counter to 0. -/
  | counterClear (path : Path)
  /-- COUNTER_SAMPLE (R490): Every OBS_SAMP_CFG.PERIOD a snapshot is taken and written as a COUNTER record. -/
  | counterSample
  /-- SHIPPED_STEP (R443): The tile versions, tree pages and manifest of a shipped step arrive at the buddy; the buddy stores them, may begin to foster the origin, and acknowledges once it holds everything. -/
  | shippedStep (pbr origin seq : Nat) (manifest : List Byte) (tiles : List (List Byte))
  /-- PORT_REFERENCE_CLOCK_LOSS (R469): A port loses its reference clock, which is a LINK fault of that port. -/
  | portReferenceClockLoss (p : PortId)
  /-- STANDBY_PLL_LOSS_OF_LOCK (R468): The standby root PLL loses lock; CLK_PLL_STATUS changes, and a later loss of the active PLL leaves no PLL, which means FAILED. -/
  | standbyPllLossOfLock
  /-- FAULT_CONTROLLER_FAILURE (R453): The fault controller itself fails, and the device enters FAILED. -/
  | faultControllerFailure
  /-- THROTTLE_RELEASE (R546): A bed or the device core falls below the throttle point, less the hysteresis, and the stretch held for throttling is lifted. -/
  | throttleRelease (bed : Option Nat)
  /-- TAP_RESET (R540): JTAG_TRST_N is asserted or left undriven, which holds the TAP in reset. -/
  | tapReset (driven : Bool)
  /-- HDM_DECODER_COMMIT (R303): A host programs its HDM decoder, which sets the base from which the device takes State Range offsets for that host's requests. -/
  | hdmDecoderCommit (host base : Nat)
deriving DecidableEq, Repr

end Sys2Proof
end

