-- ==== Sys2Proof/Decode.lean ====
section
/-! DEFINITION. The command that a word spells. The table of operations gives no row any bits: a command is a register
write, a message, a descriptor or an event, so no word spells one. -/

namespace Sys2Proof

/-- The command spelt by the low `nbits` bits of `w`: none, for no row of the table has bits. -/
def decodeTableWord (_nbits _w : Nat) : Option Instr := none

end Sys2Proof
end

