-- ==== Sys2Proof/Config.lean ====
section
/-! DEFINITION. What an implementation fixes and the values that the spec leaves open: constants without a body, so that
a statement about them holds for every value. `State.free` counts the free values that a run has taken (assumption 6). -/

namespace Sys2Proof.Config

/-- A free number: the `n`-th value that the spec leaves open. -/
opaque number : Nat → Nat

/-- A free verdict. -/
opaque verdict : Nat → Bool

/-- Free bytes: random draws (R390) and results that the spec does not compute. -/
opaque bytes : Nat → List Byte

/-- How far a computed FP32 number lies from the exact one (R173 to R175): free value, indices; cut to what rounding allows. -/
opaque roundOff : Nat → List Nat → Int

/-- ENCAP_ID of the encapsulation key of a Kelgor SVN (R390, R395). -/
opaque encapId : Nat → List Byte

/-- The contents of the boot ROM (R405). -/
opaque bootRom : List Byte

/-- First 16 bytes of SHAKE256 over the identity public key (R505). Log 153 (DESIGN CHOICE). -/
opaque deviceId : List Byte

/-- The identification code that IDCODE shifts out (R504). -/
opaque idcode : Nat

/-- The certificate chain of slot 0 (R404): its last certificate is that of the alias key, which is derived from measurements 0x01 to 0x03
(R390), given here. -/
opaque certificates : List Byte → List Byte

/-- ML-DSA-65 signature of 3,309 bytes that the device makes over bytes (R392), with the alias key that is derived from the first argument, or
with the manifest key where that is empty (R390). -/
opaque signature : List Byte → List Byte → List Byte

/-- A saved resident image passes its verification on reload: context-save key, context, unit and save counter (R384). -/
opaque savedPasses : List Byte → Nat → Nat → Nat → Bool

/-- SHA3-384, the hash of SPDM's transcripts (R404). -/
opaque sha3 : List Byte → List Byte

/-- AES-256-XTS encryption of a data unit: key, tweak, plaintext (R66, R399, R441). -/
opaque xts : List Byte → List Byte → List Byte → List Byte

/-- AES-256-XTS decryption of a data unit: key, tweak, ciphertext. -/
opaque xtsInv : List Byte → List Byte → List Byte → List Byte

/-- AES-256-GCM decryption: key, nonce, additional authenticated data, ciphertext without its tag (R403). -/
opaque gcmOpen : List Byte → List Byte → List Byte → List Byte → List Byte

/-- AES-256-CTR: key, initial counter block, data (R403). -/
opaque ctr : List Byte → List Byte → List Byte → List Byte

/-- The built-in normalization tables of Unicode 15.1 (R242): the full decomposition of a code point for NFC (1) or NFKC (2), the canonical
combining class, and the primary composite of a pair, 0 for none. Log 23 (DESIGN CHOICE). -/
opaque decompose : Nat → Nat → List Nat
opaque combining : Nat → Nat
opaque composite : Nat → Nat → Nat

/-- The class of a code point that lies below the first range of SPLIT (R244 names none). -/
opaque splitClass : Nat

/-- The body of a tile-map node: handle, tile number, version (R61: the layout of a map node is not given). Log 152 (DESIGN CHOICE). -/
opaque mapNode : Nat → Nat → Nat → List Byte

/-- The drafter's probability of a token after a path, as FP32: free value, log, path, token (R205, R222). -/
opaque probability : Nat → List Nat → List Nat → Nat → Nat

/-- Which channel of its group, and which flash die, a tile takes: handle, number, version. -/
opaque channel : Nat → Nat → Nat
opaque flashDie : Nat → Nat → Nat → Nat

/-- The 80 data bytes of a record that CXL 3.1 defines: reason, location, argument (R463 cites its layout). Log 96 (DEDUCED). -/
opaque cxlRecord : Nat → Nat → List Nat → List Byte

/-- The CDAT entries of the State Range (R299 gives no figures). -/
opaque cdat : List (List Byte)

/-- Firmware revision of 16 bytes that Identify returns. -/
opaque revision : List Byte

/-- The header of a tree page behind its MAGIC: LEVEL, COUNT, SHARD, STEP (R427 gives no places of them). -/
opaque pageHead : Nat → Nat → Nat → Nat → List Byte

/-- The tiles that system tables are kept as, the leaf entries of shard 0: step (R426, R427 name none). -/
opaque tableLeaves : Nat → List (List Byte)

/-- Where an object lies in the system area or in flash, as LOCATION names it (R427, R440): a function of its bytes. -/
opaque location : List Byte → Nat

/-- The harrow's limit for the retention stress, in hours at 40 °C (R419 gives no figure). Log 185 (DESIGN CHOICE). -/
opaque retentionLimit : Nat

/-- The DRAM row that a copy lies in: tier, place, handle, number, version (R447 names rows, and no rule places tiles in them).
Log 189 (DESIGN CHOICE). -/
opaque rowOf : Nat → Nat → Nat → Nat → Nat → Nat

/-- Spare rows of a vault (R461 gives a share of rows that no rule counts). -/
opaque spareRows : Nat

/-- Raw blocks of the flash store (R417). -/
opaque rawBlocks : Nat

/-- MiB of T2 that the window table, the region table and the copies of pan images take (R572). -/
opaque fixedRegions : Nat

end Sys2Proof.Config
end

