-- ==== Sys2Proof/Machine/Bytes.lean ====
section
/-! DEFINITION. The two checks over bytes that the device defines its records by: CRC-64/ECMA-182 (R65, R343) and
SHAKE256 (FIPS 202). Both compute on numbers. -/

namespace Sys2Proof.Machine

/-- One bit of CRC-64/ECMA-182: shift left, and add the polynomial if a 1 left the top. -/
def crcBit (c : Nat) : Nat :=
  let d := 2 * c
  if d < 2 ^ 64 then d else (d - 2 ^ 64) ^^^ 0x42F0E1EBA9EA3693

/-- One byte, most significant bit first, initial value 0, no final change. -/
def crcByte (c : Nat) (b : Byte) : Nat :=
  let x := c ^^^ (b.toNat * 2 ^ 56)
  crcBit (crcBit (crcBit (crcBit (crcBit (crcBit (crcBit (crcBit x)))))))

/-- CRC-64/ECMA-182 of bytes. -/
def crc64 (bs : List Byte) : Nat := bs.foldl crcByte 0

/-- A 64-bit lane turned left by `r` places. -/
def rotl (x r : Nat) : Nat := (x * 2 ^ r) % 2 ^ 64 + x / 2 ^ (64 - r)

/-- Lane (x, y) of a state, whose 25 lanes stand in rows of five. -/
def laneAt (a : List Nat) (x y : Nat) : Nat := a.getD (x % 5 + 5 * (y % 5)) 0

/-- A state from its lanes by place. -/
def lanes (f : Nat → Nat → Nat) : List Nat := (List.range 25).map fun i => f (i % 5) (i / 5)

/-- How far rho turns lane (x, y): the 25 offsets, 6 bits each, as one number. -/
def turnOf (x y : Nat) : Nat := 0xEE3D0922153EDA6766B2835371AC91B73E040 / 64 ^ (x + 5 * y) % 64

/-- The constant of round `r`: its seven possible bits stand at 0, 1, 3, 7, 15, 31 and 63; 7 bits for each round make one number. -/
def roundConst (r : Nat) : Nat :=
  let k := 0xE886C79CC5A452A7767BF4CD460EABE509FE178D01 / 128 ^ r % 128
  ((List.range 7).map fun j => if bit k j then 2 ^ (2 ^ j - 1) else 0).sum

/-- The sum of the lanes of a column. -/
def column (a : List Nat) (x : Nat) : Nat := (List.range 5).foldl (fun c y => c ^^^ laneAt a x y) 0

/-- Round `r`: the columns' parities spread (theta), lanes turn (rho) and move (pi), rows mix (chi), and a constant is added (iota). -/
def mixRound (a : List Nat) (r : Nat) : List Nat :=
  let par := (List.range 5).map (column a)
  let spread := fun x => par.getD ((x + 4) % 5) 0 ^^^ rotl (par.getD ((x + 1) % 5) 0) 1
  let turned := lanes fun x y => rotl (laneAt a x y ^^^ spread x) (turnOf x y)
  let moved := lanes fun x y => laneAt turned (x + 3 * y) x
  lanes fun x y =>
    laneAt moved x y ^^^ ((2 ^ 64 - 1 - laneAt moved (x + 1) y) &&& laneAt moved (x + 2) y) ^^^
      (if x + y = 0 then roundConst r else 0)

/-- The permutation of 24 rounds. -/
def permute (a : List Nat) : List Nat := (List.range 24).foldl mixRound a

/-- Absorb one padded block of 136 bytes, 17 lanes. -/
def absorb (a : List Nat) (b : List Byte) : List Nat :=
  permute (lanes fun x y => laneAt a x y ^^^ (if x + 5 * y < 17 then field b (8 * (x + 5 * y)) 8 else 0))

/-- Pad the last, possibly empty, block: suffix 1111, then pad10*1. -/
def padBlock (b : List Byte) : List Byte :=
  let n := b.length
  if n = 135 then b ++ [0x9F] else b ++ [0x1F] ++ zeros (134 - n) ++ [0x80]

/-- Absorb all of a string, with as many blocks of fuel as it can need. -/
def absorbAll : Nat → List Nat → List Byte → List Nat
  | 0, a, _ => a
  | k + 1, a, b => if b.length < 136 then absorb a (padBlock b) else absorbAll k (absorb a (b.take 136)) (b.drop 136)

/-- Squeeze `k` blocks of 136 bytes. -/
def squeeze : Nat → List Nat → List Byte
  | 0, _ => []
  | k + 1, a => (a.take 17).flatMap (leBytes 8) ++ squeeze k (permute a)

/-- The first `n` bytes of SHAKE256 over a string. -/
def shake (n : Nat) (b : List Byte) : List Byte :=
  (squeeze (n / 136 + 1) (absorbAll (b.length / 136 + 1) (List.replicate 25 0) b)).take n

/-- The bytes of an ASCII label. -/
def ascii (s : String) : List Byte := s.toList.map fun c => byte c.toNat

end Sys2Proof.Machine
end

