-- ==== Sys2Proof/Machine/Fld.lean ====
section
/-! DEFINITION. The register fields of BAR0 (R550 to R570): one name per field, and for each its place, its access code,
its reset value on each model, whether an NV image can load it, its range, and what selects its entry. Field names are
the register's and the field's name run together. -/

namespace Sys2Proof

/-- The two models (R1): the full part and the reduced part. -/
inductive Model where
  | full
  | reduced
deriving DecidableEq, Repr

/-- Access codes (R8); `act` is an RWL field that starts an action (R555). -/
inductive Acc where
  | ro
  | rov
  | rw
  | rw1c
  | rw1s
  | rwl
  | rws
  | ros
  | wo
  | act
deriving DecidableEq, Repr

/-- What names the entry of a field that exists more than once (R552 to R554). -/
inductive Sel where
  | single
  | perPath
  | port
  | bed
  | host
  | amap
  | peer
  | ledger
  | group
  | qslot
  | t3
  | unit
  | model
  | voc
  | shaper
  | meter
  | queue
  | ctx
  | part
  | slotPart
  | secSlot
  | counter
  | array (n : Nat)
deriving DecidableEq, Repr

/-- A register field by its row: BAR0 offset, bits, access, image-loadable, range, selection, kept without power. -/
structure FieldSpec where
  off : Nat
  hi : Nat
  lo : Nat
  acc : Acc
  il : Bool
  range : Option (Nat × Nat)
  /-- 0 is in range too, beside `range`. -/
  zero : Bool
  sel : Sel
  kept : Bool
deriving DecidableEq, Repr

/-- The register fields. -/
inductive Fld where
  | sysIdSilicon
  | sysIdModel
  | sysLockDeniedCnt
  | sysLockDenied
  | sysLockAuto
  | sysLockSeal
  | sysStatusStartKind
  | sysStatusQuiesced
  | sysStatusReady
  | sysBootError
  | sysBootStage
  | sysCtrlQuiesce
  | sysQuiesceTimeTime
  | sysOriginId
  | sysHoCfgAudit
  | sysHoCfgClaim
  | sysHoCfgTimeout
  | sysMapEpochCurrent
  | sysMapCfgGrace
  | sysMapStatRerouted
  | sysRoleRole
  | sysPwrInputW
  | sysPwrVinMv
  | sysPwrState
  | sysNvAddrAddr
  | sysNvLenLen
  | sysNvCtrlPrefer
  | sysNvCtrlWrite
  | sysNvStatusError
  | sysNvStatusState
  | sysNvStatusActive
  | sysNvSvnMinValue
  | clkPllStatusSwitches
  | clkPllStatusLockB
  | clkPllStatusLockA
  | clkPllStatusActive
  | clkTimeTime
  | clkTimeOffsetOffset
  | clkStopCfgIdle
  | clkStopCfgEnable
  | clkHrwCfgRelease
  | clkHrwCfgFloorMax
  | clkHrwCfgSlackHigh
  | clkHrwCfgSlackLow
  | clkHrwScrubEffective
  | clkHrwScrubHours
  | clkBedSelBed
  | clkBedStateHolds
  | clkBedStateRail
  | clkBedStateFloor
  | clkBedStateStretch
  | clkBedStateState
  | clkBedStretchTime
  | clkBedStopsCount
  | clkBedGapGap
  | clkRefreshT2
  | clkRefreshT1
  | cxlPortStatusIdeLink
  | cxlPortStatusIdeCm
  | cxlPortStatusRate
  | cxlPortStatusWidth
  | cxlPortStatusLink
  | cxlPortCfgSris
  | cxlPortCfgRecovery
  | cxlErrLockedCnt
  | cxlErrConfigLocked
  | cxlBiCfgTimeout
  | cxlIdeCtrlRequired
  | cxlHostSelHost
  | cxlHostMapValid
  | cxlHostMapPairValid
  | cxlHostMapPair
  | cxlHostMapHome
  | cxlHostMapPort
  | cxlHostMapPbrId
  | cxlHostCtrlResume
  | cxlHostStatusTspLocked
  | cxlHostStatusSuspended
  | cxlAmapSelEntry
  | cxlAmapValid
  | cxlAmapStream
  | cxlAmapAnySlot
  | cxlAmapKind
  | cxlAmapPort
  | cxlAmapSize
  | cxlAmapSlot
  | cxlAmapBase
  | cxlPeerSelEntry
  | cxlPeerMapAperture
  | cxlPeerMapValid
  | cxlPeerMapStream
  | cxlPeerMapPort
  | cxlPeerMapPbrId
  | cxlPeerMapOrigin
  | cxlApertureBaseBase
  | cxlBoardBaseBase
  | cxlBoardCfgSlice
  | ldgSelLedger
  | ldgCfgGroup
  | ldgCfgCq
  | ldgCfgCtx
  | ldgCfgAnySlot
  | ldgCfgSlot
  | ldgCfgSizeLog2
  | ldgCfgPort
  | ldgCfgLoc
  | ldgCfgType
  | ldgBaseAddr
  | ldgLineAddrAddr
  | ldgHeadAddrAddr
  | ldgHeadSeen
  | ldgHeadCount
  | ldgCtrlEnable
  | ldgStatusError
  | ldgStatusState
  | ldgGrpSelGroup
  | ldgGrpCoalTime
  | ldgGrpCoalCount
  | stoRangeWindows
  | stoWmT1Low
  | stoWmT1High
  | stoWmT2Low
  | stoWmT2High
  | stoWmT3Low
  | stoWmT3High
  | stoSpillSx2En
  | stoSpillT3En
  | stoPrefetchProtect
  | stoReviveRecent
  | stoQselSlot
  | stoQpolOutlierRatio
  | stoQpolOutlierMax
  | stoQpolValThr
  | stoQpolKeyThr
  | stoQdefOutlierRatio
  | stoQdefOutlierMax
  | stoQdefValThr
  | stoQdefKeyThr
  | stoQstatSx2Kept
  | stoQstatOverflow
  | stoT2CapCap
  | stoT1CapCap
  | stoT3SelRange
  | stoT3BaseBase
  | stoT3SizeSize
  | stoT3CtrlDrain
  | stoT3CtrlCompute
  | stoT3CtrlPort
  | stoT3CtrlValid
  | stoT3StatusOcc
  | stoT3StatusState
  | stoT3StatusEmpty
  | dirCfgFillLimit
  | dirOccRefused
  | dirOccFreeBlocks
  | dirOccBlocksPublic
  | dirOccBlocksScoped
  | dirOccHandles
  | dirStatStolen
  | dirStatChainMax
  | panUnitSelUnit
  | panUnitStatusExists
  | panUnitStatusQueued
  | panUnitStatusType
  | panUnitStatusState
  | panBsAddrAddr
  | panBsLenLen
  | panBsCtrlMode
  | panBsCtrlRollback
  | panBsCtrlActivate
  | panBsCtrlLoad
  | panBsStatusError
  | panBsStatusState
  | panBsActiveIdId
  | panBsSvnMinValue
  | panBsDrainTimeTime
  | panWeightAreaMib
  | panMdlSelSlot
  | panMdlAddrAddr
  | panMdlLenLen
  | panMdlUnitUnit
  | panMdlCtrlUnload
  | panMdlCtrlLoad
  | panMdlStatusError
  | panMdlStatusState
  | panMdlIdId
  | panRepairLost
  | panRepairSparesUsed
  | panMapLost
  | panMapPhys
  | txtVocSelEntry
  | txtVocAddrAddr
  | txtVocLenLen
  | txtVocCtrlUnload
  | txtVocCtrlLoad
  | txtVocStatusError
  | txtVocStatusState
  | txtVocIdId
  | txtVocAreaMib
  | admShpSelDir
  | admShpSelSlot
  | admShpRateRate
  | admShpBurstBurst
  | admShpLevelLevel
  | admShpCfgInterval
  | admShpDefBurst
  | admShpDefRate
  | admMtrSelSlot
  | admMtrCtrlCommit
  | admMtrCtrlEnable
  | admMtrCirCir
  | admMtrPirPir
  | admMtrCbsCbs
  | admMtrPbsPbs
  | admMtrRefusedCount
  | admDlMissCount
  | admMtrDefPbs
  | admMtrDefCbs
  | admMtrDefEnable
  | admMtrDefPir
  | admMtrDefCir
  | admQselQueue
  | admQyelThreshold
  | admQsampDelay
  | admQsampSeq
  | admQsampDepth
  | admQmaxDelay
  | admQmaxDepth
  | admQctrlClrMax
  | ctxSelCtx
  | ctxCfgCompat
  | ctxCfgPrio
  | ctxCfgPart
  | ctxSchedResSlice
  | ctxSchedSlice
  | ctxSaveMib
  | ctxResAreaGib
  | ctxPartSelPart
  | ctxPartCtrlValid
  | ctxPartWaysMask
  | ctxPartBanksMask
  | ctxPartChanMask
  | ctxSlotSelSlot
  | ctxSlotPartPart
  | secLifecycleState
  | secStatusBusy
  | secStatusError
  | secSlotSelSlot
  | secSlotStatusHeld
  | secSlotStatusConsent
  | secSlotStatusState
  | secSlotCtrlRevoke
  | secSlotCtrlInstall
  | secEnvAddrAddr
  | secEnvLenLen
  | secNonceNonce
  | secSetAddrAddr
  | secSetLenLen
  | secSetCtrlLeave
  | secSetCtrlJoin
  | secSetStatusCount
  | secTokenAddrAddr
  | secTokenLenLen
  | secLcCtrlReturn
  | secClaimClaim
  | secDebugScope
  | secDebugOpen
  | secDebugClose
  | secDebugPresent
  | secDebugNonceNonce
  | durFlashState
  | durWearSpare
  | durWearUsed
  | durScrubEffective
  | durScrubDays
  | durT4CfgFosterGib
  | durT4CfgReserveGib
  | durDdCfgBound
  | durDdStatEffective
  | durDdStatPending
  | durHoldupFailed
  | durHoldupEnergy
  | durGenGen
  | durRestoreStatusSource
  | durRestoreStatusResult
  | durRestoreStepStep
  | durCtrlDiscard
  | durCkptCfgInterval
  | durCkptStatStep
  | durWarnCfgDlRate
  | durWarnCfgCeRate
  | durWarnCfgThermDelta
  | durWarnCfgHoldoff
  | durWarnStatWarnCnt
  | durWarnStatTrigger
  | durBuddyState
  | durBuddyOrigin
  | durBuddyCfgSilence
  | durBuddyCfgShare
  | durBuddyCfgTimeout
  | durFosterRelease
  | durFosterCount
  | fltStatusFailed
  | fltStatusClass
  | fltLastLocation
  | fltLastInterrupt
  | fltLastClass
  | fltRepairFlashDies
  | fltRepairT2Packages
  | fltRepairT1Rows
  | fltRepairPositionsLost
  | fltRepairPanSpares
  | fltPeerBadCount
  | fltEvtCfgNotify
  | fltClassCntCount
  | fltCsumCntCount
  | obsCntSelCounter
  | obsCntCfgFilter
  | obsCntCfgArg
  | obsCntCfgScope
  | obsCntCfgSource
  | obsCntCount
  | obsCntSnapCount
  | obsCntCtrlClear
  | obsCntCtrlSnap
  | obsSampCfgPeriod
  | obsTbufCfgMib
  | obsTbufStatLost
  | obsBwCfgMbps
  | obsTraceCfgPeer
  | obsTraceCfgPayload
  | obsTraceCfgDesc
deriving DecidableEq, Repr

/-- A row without range, not kept without power. -/
def fs (off hi lo : Nat) (acc : Acc) (il : Bool) (sel : Sel) : FieldSpec :=
  { off := off, hi := hi, lo := lo, acc := acc, il := il, range := none, zero := false, sel := sel, kept := false }

/-- A row with the range that its chapter gives. -/
def FieldSpec.rng (f : FieldSpec) (lo hi : Nat) : FieldSpec := { f with range := some (lo, hi) }

/-- A row whose range takes 0 as well. -/
def FieldSpec.orZero (f : FieldSpec) : FieldSpec := { f with zero := true }

/-- A row that the flash system area or a fuse keeps without power. -/
def FieldSpec.keep (f : FieldSpec) : FieldSpec := { f with kept := true }

namespace Machine

/-- The fields of block SYS. -/
def fldsSYS : List Fld :=
  [.sysIdSilicon, .sysIdModel, .sysLockDeniedCnt, .sysLockDenied, .sysLockAuto, .sysLockSeal, .sysStatusStartKind, .sysStatusQuiesced, .sysStatusReady, .sysBootError, .sysBootStage, .sysCtrlQuiesce, .sysQuiesceTimeTime, .sysOriginId, .sysHoCfgAudit, .sysHoCfgClaim, .sysHoCfgTimeout, .sysMapEpochCurrent, .sysMapCfgGrace, .sysMapStatRerouted, .sysRoleRole, .sysPwrInputW, .sysPwrVinMv, .sysPwrState, .sysNvAddrAddr, .sysNvLenLen, .sysNvCtrlPrefer, .sysNvCtrlWrite, .sysNvStatusError, .sysNvStatusState, .sysNvStatusActive, .sysNvSvnMinValue]

/-- The fields of block CLK. -/
def fldsCLK : List Fld :=
  [.clkPllStatusSwitches, .clkPllStatusLockB, .clkPllStatusLockA, .clkPllStatusActive, .clkTimeTime, .clkTimeOffsetOffset, .clkStopCfgIdle, .clkStopCfgEnable, .clkHrwCfgRelease, .clkHrwCfgFloorMax, .clkHrwCfgSlackHigh, .clkHrwCfgSlackLow, .clkHrwScrubEffective, .clkHrwScrubHours, .clkBedSelBed, .clkBedStateHolds, .clkBedStateRail, .clkBedStateFloor, .clkBedStateStretch, .clkBedStateState, .clkBedStretchTime, .clkBedStopsCount, .clkBedGapGap, .clkRefreshT2, .clkRefreshT1]

/-- The fields of block CXL. -/
def fldsCXL : List Fld :=
  [.cxlPortStatusIdeLink, .cxlPortStatusIdeCm, .cxlPortStatusRate, .cxlPortStatusWidth, .cxlPortStatusLink, .cxlPortCfgSris, .cxlPortCfgRecovery, .cxlErrLockedCnt, .cxlErrConfigLocked, .cxlBiCfgTimeout, .cxlIdeCtrlRequired, .cxlHostSelHost, .cxlHostMapValid, .cxlHostMapPairValid, .cxlHostMapPair, .cxlHostMapHome, .cxlHostMapPort, .cxlHostMapPbrId, .cxlHostCtrlResume, .cxlHostStatusTspLocked, .cxlHostStatusSuspended, .cxlAmapSelEntry, .cxlAmapValid, .cxlAmapStream, .cxlAmapAnySlot, .cxlAmapKind, .cxlAmapPort, .cxlAmapSize, .cxlAmapSlot, .cxlAmapBase, .cxlPeerSelEntry, .cxlPeerMapAperture, .cxlPeerMapValid, .cxlPeerMapStream, .cxlPeerMapPort, .cxlPeerMapPbrId, .cxlPeerMapOrigin, .cxlApertureBaseBase, .cxlBoardBaseBase, .cxlBoardCfgSlice]

/-- The fields of block LDG. -/
def fldsLDG : List Fld :=
  [.ldgSelLedger, .ldgCfgGroup, .ldgCfgCq, .ldgCfgCtx, .ldgCfgAnySlot, .ldgCfgSlot, .ldgCfgSizeLog2, .ldgCfgPort, .ldgCfgLoc, .ldgCfgType, .ldgBaseAddr, .ldgLineAddrAddr, .ldgHeadAddrAddr, .ldgHeadSeen, .ldgHeadCount, .ldgCtrlEnable, .ldgStatusError, .ldgStatusState, .ldgGrpSelGroup, .ldgGrpCoalTime, .ldgGrpCoalCount]

/-- The fields of block STO. -/
def fldsSTO : List Fld :=
  [.stoRangeWindows, .stoWmT1Low, .stoWmT1High, .stoWmT2Low, .stoWmT2High, .stoWmT3Low, .stoWmT3High, .stoSpillSx2En, .stoSpillT3En, .stoPrefetchProtect, .stoReviveRecent, .stoQselSlot, .stoQpolOutlierRatio, .stoQpolOutlierMax, .stoQpolValThr, .stoQpolKeyThr, .stoQdefOutlierRatio, .stoQdefOutlierMax, .stoQdefValThr, .stoQdefKeyThr, .stoQstatSx2Kept, .stoQstatOverflow, .stoT2CapCap, .stoT1CapCap, .stoT3SelRange, .stoT3BaseBase, .stoT3SizeSize, .stoT3CtrlDrain, .stoT3CtrlCompute, .stoT3CtrlPort, .stoT3CtrlValid, .stoT3StatusOcc, .stoT3StatusState, .stoT3StatusEmpty]

/-- The fields of block DIR. -/
def fldsDIR : List Fld :=
  [.dirCfgFillLimit, .dirOccRefused, .dirOccFreeBlocks, .dirOccBlocksPublic, .dirOccBlocksScoped, .dirOccHandles, .dirStatStolen, .dirStatChainMax]

/-- The fields of block PAN. -/
def fldsPAN : List Fld :=
  [.panUnitSelUnit, .panUnitStatusExists, .panUnitStatusQueued, .panUnitStatusType, .panUnitStatusState, .panBsAddrAddr, .panBsLenLen, .panBsCtrlMode, .panBsCtrlRollback, .panBsCtrlActivate, .panBsCtrlLoad, .panBsStatusError, .panBsStatusState, .panBsActiveIdId, .panBsSvnMinValue, .panBsDrainTimeTime, .panWeightAreaMib, .panMdlSelSlot, .panMdlAddrAddr, .panMdlLenLen, .panMdlUnitUnit, .panMdlCtrlUnload, .panMdlCtrlLoad, .panMdlStatusError, .panMdlStatusState, .panMdlIdId, .panRepairLost, .panRepairSparesUsed, .panMapLost, .panMapPhys]

/-- The fields of block TXT. -/
def fldsTXT : List Fld :=
  [.txtVocSelEntry, .txtVocAddrAddr, .txtVocLenLen, .txtVocCtrlUnload, .txtVocCtrlLoad, .txtVocStatusError, .txtVocStatusState, .txtVocIdId, .txtVocAreaMib]

/-- The fields of block ADM. -/
def fldsADM : List Fld :=
  [.admShpSelDir, .admShpSelSlot, .admShpRateRate, .admShpBurstBurst, .admShpLevelLevel, .admShpCfgInterval, .admShpDefBurst, .admShpDefRate, .admMtrSelSlot, .admMtrCtrlCommit, .admMtrCtrlEnable, .admMtrCirCir, .admMtrPirPir, .admMtrCbsCbs, .admMtrPbsPbs, .admMtrRefusedCount, .admDlMissCount, .admMtrDefPbs, .admMtrDefCbs, .admMtrDefEnable, .admMtrDefPir, .admMtrDefCir, .admQselQueue, .admQyelThreshold, .admQsampDelay, .admQsampSeq, .admQsampDepth, .admQmaxDelay, .admQmaxDepth, .admQctrlClrMax]

/-- The fields of block CTX. -/
def fldsCTX : List Fld :=
  [.ctxSelCtx, .ctxCfgCompat, .ctxCfgPrio, .ctxCfgPart, .ctxSchedResSlice, .ctxSchedSlice, .ctxSaveMib, .ctxResAreaGib, .ctxPartSelPart, .ctxPartCtrlValid, .ctxPartWaysMask, .ctxPartBanksMask, .ctxPartChanMask, .ctxSlotSelSlot, .ctxSlotPartPart]

/-- The fields of block SEC. -/
def fldsSEC : List Fld :=
  [.secLifecycleState, .secStatusBusy, .secStatusError, .secSlotSelSlot, .secSlotStatusHeld, .secSlotStatusConsent, .secSlotStatusState, .secSlotCtrlRevoke, .secSlotCtrlInstall, .secEnvAddrAddr, .secEnvLenLen, .secNonceNonce, .secSetAddrAddr, .secSetLenLen, .secSetCtrlLeave, .secSetCtrlJoin, .secSetStatusCount, .secTokenAddrAddr, .secTokenLenLen, .secLcCtrlReturn, .secClaimClaim, .secDebugScope, .secDebugOpen, .secDebugClose, .secDebugPresent, .secDebugNonceNonce]

/-- The fields of block DUR. -/
def fldsDUR : List Fld :=
  [.durFlashState, .durWearSpare, .durWearUsed, .durScrubEffective, .durScrubDays, .durT4CfgFosterGib, .durT4CfgReserveGib, .durDdCfgBound, .durDdStatEffective, .durDdStatPending, .durHoldupFailed, .durHoldupEnergy, .durGenGen, .durRestoreStatusSource, .durRestoreStatusResult, .durRestoreStepStep, .durCtrlDiscard, .durCkptCfgInterval, .durCkptStatStep, .durWarnCfgDlRate, .durWarnCfgCeRate, .durWarnCfgThermDelta, .durWarnCfgHoldoff, .durWarnStatWarnCnt, .durWarnStatTrigger, .durBuddyState, .durBuddyOrigin, .durBuddyCfgSilence, .durBuddyCfgShare, .durBuddyCfgTimeout, .durFosterRelease, .durFosterCount]

/-- The fields of block FLT. -/
def fldsFLT : List Fld :=
  [.fltStatusFailed, .fltStatusClass, .fltLastLocation, .fltLastInterrupt, .fltLastClass, .fltRepairFlashDies, .fltRepairT2Packages, .fltRepairT1Rows, .fltRepairPositionsLost, .fltRepairPanSpares, .fltPeerBadCount, .fltEvtCfgNotify, .fltClassCntCount, .fltCsumCntCount]

/-- The fields of block OBS. -/
def fldsOBS : List Fld :=
  [.obsCntSelCounter, .obsCntCfgFilter, .obsCntCfgArg, .obsCntCfgScope, .obsCntCfgSource, .obsCntCount, .obsCntSnapCount, .obsCntCtrlClear, .obsCntCtrlSnap, .obsSampCfgPeriod, .obsTbufCfgMib, .obsTbufStatLost, .obsBwCfgMbps, .obsTraceCfgPeer, .obsTraceCfgPayload, .obsTraceCfgDesc]

/-- Every field. -/
def fldsAll : List Fld :=
  fldsSYS ++ fldsCLK ++ fldsCXL ++ fldsLDG ++ fldsSTO ++ fldsDIR ++ fldsPAN ++ fldsTXT ++ fldsADM ++ fldsCTX ++ fldsSEC ++ fldsDUR ++ fldsFLT ++ fldsOBS

/-- The fields of the block that an offset lies in (R550). -/
def fldsOf (off : Nat) : List Fld :=
  match off / 0x100000 with
  | 0 => fldsSYS
  | 1 => fldsCLK
  | 2 => fldsCXL
  | 3 => fldsLDG
  | 4 => fldsSTO
  | 5 => fldsDIR
  | 6 => fldsPAN
  | 7 => fldsTXT
  | 8 => fldsADM
  | 9 => fldsCTX
  | 10 => fldsSEC
  | 11 => fldsDUR
  | 12 => fldsFLT
  | 13 => fldsOBS
  | _ => []

/-- The row of each field (R557 to R570). -/
def fldSpec : Fld → FieldSpec
  | .sysIdSilicon => fs 0x000000 15 8 .ro false .single
  | .sysIdModel => fs 0x000000 7 0 .ro false .single
  | .sysLockDeniedCnt => fs 0x000008 47 16 .rov false .single
  | .sysLockDenied => fs 0x000008 8 8 .rw1c false .single
  | .sysLockAuto => fs 0x000008 1 1 .rw true .single
  | .sysLockSeal => fs 0x000008 0 0 .rw1s false .single
  | .sysStatusStartKind => fs 0x000010 5 4 .ro false .single
  | .sysStatusQuiesced => fs 0x000010 1 1 .rov false .single
  | .sysStatusReady => fs 0x000010 0 0 .rov false .single
  | .sysBootError => fs 0x000018 15 8 .rov false .single
  | .sysBootStage => fs 0x000018 3 0 .rov false .single
  | .sysCtrlQuiesce => fs 0x000020 0 0 .wo false .single
  | .sysQuiesceTimeTime => (fs 0x000028 13 0 .rw true .single).rng 1 10000
  | .sysOriginId => fs 0x000030 23 0 .rwl true .single
  | .sysHoCfgAudit => (fs 0x000038 41 32 .rw true .single).rng 1 1000
  | .sysHoCfgClaim => (fs 0x000038 29 16 .rw true .single).rng 100 10000
  | .sysHoCfgTimeout => (fs 0x000038 9 0 .rw true .single).rng 1 1000
  | .sysMapEpochCurrent => fs 0x000040 31 0 .rw false .single
  | .sysMapCfgGrace => (fs 0x000048 6 0 .rw true .single).rng 0 100
  | .sysMapStatRerouted => fs 0x000050 63 0 .rov false .single
  | .sysRoleRole => (fs 0x000058 1 0 .rw true .single).rng 0 2
  | .sysPwrInputW => fs 0x000060 47 32 .rov false .single
  | .sysPwrVinMv => fs 0x000060 31 16 .rov false .single
  | .sysPwrState => fs 0x000060 2 0 .rov false .single
  | .sysNvAddrAddr => fs 0x000100 63 0 .rw false .single
  | .sysNvLenLen => fs 0x000108 20 0 .rw false .single
  | .sysNvCtrlPrefer => ((fs 0x000110 5 4 .rwl false .single).rng 0 2).keep
  | .sysNvCtrlWrite => fs 0x000110 0 0 .wo false .single
  | .sysNvStatusError => fs 0x000118 15 8 .rov false .single
  | .sysNvStatusState => fs 0x000118 5 4 .rov false .single
  | .sysNvStatusActive => fs 0x000118 1 0 .ro false .single
  | .sysNvSvnMinValue => (fs 0x000120 31 0 .rwl false .single).keep
  | .clkPllStatusSwitches => fs 0x100000 31 16 .rov false .single
  | .clkPllStatusLockB => fs 0x100000 2 2 .rov false .single
  | .clkPllStatusLockA => fs 0x100000 1 1 .rov false .single
  | .clkPllStatusActive => fs 0x100000 0 0 .rov false .single
  | .clkTimeTime => fs 0x100008 63 0 .rov false .single
  | .clkTimeOffsetOffset => fs 0x100010 63 0 .ros false .single
  | .clkStopCfgIdle => (fs 0x100018 29 16 .rw true .single).rng 5 10000
  | .clkStopCfgEnable => fs 0x100018 0 0 .rw true .single
  | .clkHrwCfgRelease => (fs 0x100020 61 48 .rw true .single).rng 10 10000
  | .clkHrwCfgFloorMax => (fs 0x100020 33 32 .rw true .single).rng 0 3
  | .clkHrwCfgSlackHigh => (fs 0x100020 24 16 .rw true .single).rng 60 400
  | .clkHrwCfgSlackLow => (fs 0x100020 7 0 .rw true .single).rng 20 200
  | .clkHrwScrubEffective => fs 0x100028 23 16 .rov false .bed
  | .clkHrwScrubHours => (fs 0x100028 7 0 .rw true .single).rng 1 168
  | .clkBedSelBed => fs 0x100030 3 0 .rw false .perPath
  | .clkBedStateHolds => fs 0x100038 31 28 .rov false .bed
  | .clkBedStateRail => fs 0x100038 25 16 .rov false .bed
  | .clkBedStateFloor => fs 0x100038 9 8 .rov false .bed
  | .clkBedStateStretch => fs 0x100038 6 4 .rov false .bed
  | .clkBedStateState => fs 0x100038 1 0 .rov false .bed
  | .clkBedStretchTime => fs 0x100040 63 0 .rov false .bed
  | .clkBedStopsCount => fs 0x100048 63 0 .rov false .bed
  | .clkBedGapGap => fs 0x100050 63 0 .rov false .bed
  | .clkRefreshT2 => fs 0x100058 39 32 .rov false .bed
  | .clkRefreshT1 => fs 0x100058 31 0 .rov false .bed
  | .cxlPortStatusIdeLink => fs 0x200000 13 13 .rov false .port
  | .cxlPortStatusIdeCm => fs 0x200000 12 12 .rov false .port
  | .cxlPortStatusRate => fs 0x200000 11 8 .rov false .port
  | .cxlPortStatusWidth => fs 0x200000 7 4 .rov false .port
  | .cxlPortStatusLink => fs 0x200000 3 0 .rov false .port
  | .cxlPortCfgSris => fs 0x200008 7 7 .rw true .port
  | .cxlPortCfgRecovery => (fs 0x200008 6 0 .rw true .port).rng 1 100
  | .cxlErrLockedCnt => fs 0x200010 47 16 .rov false .single
  | .cxlErrConfigLocked => fs 0x200010 0 0 .rw1c false .single
  | .cxlBiCfgTimeout => (fs 0x200018 13 0 .rw true .single).rng 10 10000
  | .cxlIdeCtrlRequired => fs 0x200020 0 0 .rwl true .single
  | .cxlHostSelHost => fs 0x200028 4 0 .rw false .perPath
  | .cxlHostMapValid => fs 0x200030 31 31 .rwl true .host
  | .cxlHostMapPairValid => fs 0x200030 30 30 .rwl true .host
  | .cxlHostMapPair => fs 0x200030 27 16 .rwl true .host
  | .cxlHostMapHome => fs 0x200030 13 13 .rwl true .host
  | .cxlHostMapPort => fs 0x200030 12 12 .rwl true .host
  | .cxlHostMapPbrId => fs 0x200030 11 0 .rwl true .host
  | .cxlHostCtrlResume => fs 0x200038 0 0 .wo false .host
  | .cxlHostStatusTspLocked => fs 0x200040 1 1 .rov false .host
  | .cxlHostStatusSuspended => fs 0x200040 0 0 .rov false .host
  | .cxlAmapSelEntry => fs 0x200048 7 0 .rw false .perPath
  | .cxlAmapValid => fs 0x200050 127 127 .rwl true .amap
  | .cxlAmapStream => fs 0x200050 124 119 .rwl true .amap
  | .cxlAmapAnySlot => fs 0x200050 118 118 .rwl true .amap
  | .cxlAmapKind => fs 0x200050 117 117 .rwl true .amap
  | .cxlAmapPort => fs 0x200050 116 116 .rwl true .amap
  | .cxlAmapSize => fs 0x200050 115 76 .rwl true .amap
  | .cxlAmapSlot => fs 0x200050 63 52 .rwl true .amap
  | .cxlAmapBase => fs 0x200050 51 12 .rwl true .amap
  | .cxlPeerSelEntry => fs 0x200060 5 0 .rw false .perPath
  | .cxlPeerMapAperture => fs 0x200068 115 84 .rwl true .peer
  | .cxlPeerMapValid => fs 0x200068 63 63 .rwl true .peer
  | .cxlPeerMapStream => fs 0x200068 42 37 .rwl true .peer
  | .cxlPeerMapPort => fs 0x200068 36 36 .rwl true .peer
  | .cxlPeerMapPbrId => fs 0x200068 35 24 .rwl true .peer
  | .cxlPeerMapOrigin => fs 0x200068 23 0 .rwl true .peer
  | .cxlApertureBaseBase => fs 0x200078 51 20 .rwl true .single
  | .cxlBoardBaseBase => fs 0x200080 51 28 .rwl true .single
  | .cxlBoardCfgSlice => fs 0x200088 5 0 .rwl true .single
  | .ldgSelLedger => fs 0x300000 11 0 .rw false .perPath
  | .ldgCfgGroup => fs 0x300008 58 48 .rw false .ledger
  | .ldgCfgCq => fs 0x300008 43 32 .rw false .ledger
  | .ldgCfgCtx => fs 0x300008 31 24 .rw false .ledger
  | .ldgCfgAnySlot => fs 0x300008 20 20 .rw false .ledger
  | .ldgCfgSlot => fs 0x300008 19 8 .rw false .ledger
  | .ldgCfgSizeLog2 => (fs 0x300008 7 3 .rw false .ledger).rng 4 16
  | .ldgCfgPort => fs 0x300008 2 2 .rw false .ledger
  | .ldgCfgLoc => fs 0x300008 1 1 .rw false .ledger
  | .ldgCfgType => fs 0x300008 0 0 .rw false .ledger
  | .ldgBaseAddr => fs 0x300010 63 0 .rw false .ledger
  | .ldgLineAddrAddr => fs 0x300018 63 0 .rw false .ledger
  | .ldgHeadAddrAddr => fs 0x300020 63 0 .rw false .ledger
  | .ldgHeadSeen => fs 0x300028 63 32 .rov false .ledger
  | .ldgHeadCount => fs 0x300028 31 0 .rov false .ledger
  | .ldgCtrlEnable => fs 0x300030 0 0 .rw false .ledger
  | .ldgStatusError => fs 0x300038 11 8 .rov false .ledger
  | .ldgStatusState => fs 0x300038 1 0 .rov false .ledger
  | .ldgGrpSelGroup => fs 0x300040 10 0 .rw false .perPath
  | .ldgGrpCoalTime => (fs 0x300048 25 16 .rw true .group).rng 0 1000
  | .ldgGrpCoalCount => (fs 0x300048 7 0 .rw true .group).rng 1 255
  | .stoRangeWindows => (fs 0x400000 16 0 .rw true .single).rng 1 65536
  | .stoWmT1Low => (fs 0x400008 14 8 .rw true .single).rng 0 100
  | .stoWmT1High => (fs 0x400008 6 0 .rw true .single).rng 0 100
  | .stoWmT2Low => (fs 0x400010 14 8 .rw true .single).rng 0 100
  | .stoWmT2High => (fs 0x400010 6 0 .rw true .single).rng 0 100
  | .stoWmT3Low => (fs 0x400018 14 8 .rw true .single).rng 0 100
  | .stoWmT3High => (fs 0x400018 6 0 .rw true .single).rng 0 100
  | .stoSpillSx2En => fs 0x400020 1 1 .rw true .single
  | .stoSpillT3En => fs 0x400020 0 0 .rw true .single
  | .stoPrefetchProtect => (fs 0x400028 13 0 .rw true .single).rng 0 10000
  | .stoReviveRecent => (fs 0x400030 10 0 .rw true .single).rng 1 1024
  | .stoQselSlot => fs 0x400038 11 0 .rw false .perPath
  | .stoQpolOutlierRatio => (fs 0x400040 30 24 .rw false .qslot).rng 2 64
  | .stoQpolOutlierMax => (fs 0x400040 18 16 .rw false .qslot).rng 0 4
  | .stoQpolValThr => (fs 0x400040 15 8 .rw false .qslot).rng 10 250
  | .stoQpolKeyThr => (fs 0x400040 7 0 .rw false .qslot).rng 10 250
  | .stoQdefOutlierRatio => (fs 0x400048 30 24 .rw true .single).rng 2 64
  | .stoQdefOutlierMax => (fs 0x400048 18 16 .rw true .single).rng 0 4
  | .stoQdefValThr => (fs 0x400048 15 8 .rw true .single).rng 10 250
  | .stoQdefKeyThr => (fs 0x400048 7 0 .rw true .single).rng 10 250
  | .stoQstatSx2Kept => fs 0x400050 63 32 .rov false .single
  | .stoQstatOverflow => fs 0x400050 31 0 .rov false .single
  | .stoT2CapCap => fs 0x400058 31 0 .rov false .single
  | .stoT1CapCap => fs 0x400100 15 0 .rov false (.array 16)
  | .stoT3SelRange => fs 0x400200 5 0 .rw false .perPath
  | .stoT3BaseBase => fs 0x400208 51 14 .rw false .t3
  | .stoT3SizeSize => fs 0x400210 51 14 .rw false .t3
  | .stoT3CtrlDrain => fs 0x400218 8 8 .wo false .t3
  | .stoT3CtrlCompute => fs 0x400218 2 2 .rw false .t3
  | .stoT3CtrlPort => fs 0x400218 1 1 .rw false .t3
  | .stoT3CtrlValid => fs 0x400218 0 0 .rw false .t3
  | .stoT3StatusOcc => fs 0x400220 22 16 .rov false .t3
  | .stoT3StatusState => fs 0x400220 9 8 .rov false .t3
  | .stoT3StatusEmpty => fs 0x400220 0 0 .rov false .t3
  | .dirCfgFillLimit => (fs 0x500000 4 0 .rw true .single).rng 22 31
  | .dirOccRefused => fs 0x500008 159 128 .rov false .single
  | .dirOccFreeBlocks => fs 0x500008 127 96 .rov false .single
  | .dirOccBlocksPublic => fs 0x500008 95 64 .rov false .single
  | .dirOccBlocksScoped => fs 0x500008 63 32 .rov false .single
  | .dirOccHandles => fs 0x500008 31 0 .rov false .single
  | .dirStatStolen => fs 0x500020 63 32 .rov false .single
  | .dirStatChainMax => fs 0x500020 15 0 .rov false .single
  | .panUnitSelUnit => fs 0x600000 11 0 .rw false .perPath
  | .panUnitStatusExists => fs 0x600008 31 31 .rov false .unit
  | .panUnitStatusQueued => fs 0x600008 26 16 .rov false .unit
  | .panUnitStatusType => fs 0x600008 10 8 .rov false .unit
  | .panUnitStatusState => fs 0x600008 2 0 .rov false .unit
  | .panBsAddrAddr => fs 0x600010 63 0 .rw false .single
  | .panBsLenLen => fs 0x600018 26 0 .rw false .single
  | .panBsCtrlMode => fs 0x600020 8 8 .rw false .single
  | .panBsCtrlRollback => fs 0x600020 2 2 .wo false .single
  | .panBsCtrlActivate => fs 0x600020 1 1 .wo false .single
  | .panBsCtrlLoad => fs 0x600020 0 0 .wo false .single
  | .panBsStatusError => fs 0x600028 15 8 .rov false .single
  | .panBsStatusState => fs 0x600028 2 0 .rov false .single
  | .panBsActiveIdId => fs 0x600030 63 0 .rov false .single
  | .panBsSvnMinValue => (fs 0x600038 31 0 .rwl false .single).keep
  | .panBsDrainTimeTime => (fs 0x600040 9 0 .rw true .single).rng 1 1000
  | .panWeightAreaMib => (fs 0x600048 8 0 .rw true .single).rng 0 320
  | .panMdlSelSlot => fs 0x600050 2 0 .rw false .perPath
  | .panMdlAddrAddr => fs 0x600058 63 0 .rw false .model
  | .panMdlLenLen => fs 0x600060 35 0 .rw false .model
  | .panMdlUnitUnit => fs 0x600068 11 0 .rw false .model
  | .panMdlCtrlUnload => fs 0x600070 1 1 .wo false .model
  | .panMdlCtrlLoad => fs 0x600070 0 0 .wo false .model
  | .panMdlStatusError => fs 0x600078 15 8 .rov false .model
  | .panMdlStatusState => fs 0x600078 2 0 .rov false .model
  | .panMdlIdId => fs 0x600080 63 0 .rov false .model
  | .panRepairLost => (fs 0x600100 12 8 .rov false (.array 16)).keep
  | .panRepairSparesUsed => (fs 0x600100 1 0 .rov false (.array 16)).keep
  | .panMapLost => (fs 0x601000 7 7 .rov false (.array 256)).keep
  | .panMapPhys => (fs 0x601000 4 0 .rov false (.array 256)).keep
  | .txtVocSelEntry => fs 0x700000 15 0 .rw false .perPath
  | .txtVocAddrAddr => fs 0x700008 63 0 .rw false .voc
  | .txtVocLenLen => fs 0x700010 26 0 .rw false .voc
  | .txtVocCtrlUnload => fs 0x700018 1 1 .wo false .voc
  | .txtVocCtrlLoad => fs 0x700018 0 0 .wo false .voc
  | .txtVocStatusError => fs 0x700020 15 8 .rov false .voc
  | .txtVocStatusState => fs 0x700020 1 0 .rov false .voc
  | .txtVocIdId => fs 0x700028 31 0 .rov false .voc
  | .txtVocAreaMib => (fs 0x700030 15 0 .rw true .single).rng 256 65535
  | .admShpSelDir => fs 0x800000 16 16 .rw false .perPath
  | .admShpSelSlot => fs 0x800000 11 0 .rw false .perPath
  | .admShpRateRate => (fs 0x800008 19 0 .rw false .shaper).rng 0 1000000
  | .admShpBurstBurst => (fs 0x800010 20 0 .rw false .shaper).rng 16 1048576
  | .admShpLevelLevel => fs 0x800018 63 0 .rov false .shaper
  | .admShpCfgInterval => (fs 0x800020 9 0 .rw true .single).rng 10 1000
  | .admShpDefBurst => (fs 0x800028 52 32 .rw true .single).rng 16 1048576
  | .admShpDefRate => (fs 0x800028 19 0 .rw true .single).rng 0 1000000
  | .admMtrSelSlot => fs 0x800030 11 0 .rw false .perPath
  | .admMtrCtrlCommit => fs 0x800038 1 1 .wo false .meter
  | .admMtrCtrlEnable => fs 0x800038 0 0 .rw false .meter
  | .admMtrCirCir => (fs 0x800040 23 0 .rw false .meter).rng 1 16777215
  | .admMtrPirPir => (fs 0x800048 23 0 .rw false .meter).rng 1 16777215
  | .admMtrCbsCbs => (fs 0x800050 15 0 .rw false .meter).rng 1 65535
  | .admMtrPbsPbs => (fs 0x800058 15 0 .rw false .meter).rng 1 65535
  | .admMtrRefusedCount => fs 0x800060 63 0 .rov false .meter
  | .admDlMissCount => fs 0x800068 63 0 .rov false .meter
  | .admMtrDefPbs => (fs 0x800070 95 80 .rw true .single).rng 1 65535
  | .admMtrDefCbs => (fs 0x800070 79 64 .rw true .single).rng 1 65535
  | .admMtrDefEnable => fs 0x800070 63 63 .rw true .single
  | .admMtrDefPir => (fs 0x800070 55 32 .rw true .single).rng 1 16777215
  | .admMtrDefCir => (fs 0x800070 23 0 .rw true .single).rng 1 16777215
  | .admQselQueue => fs 0x800080 15 0 .rw false .perPath
  | .admQyelThreshold => fs 0x800088 12 0 .rw true .queue
  | .admQsampDelay => fs 0x800090 63 32 .rov false .queue
  | .admQsampSeq => fs 0x800090 31 16 .rov false .queue
  | .admQsampDepth => fs 0x800090 12 0 .rov false .queue
  | .admQmaxDelay => fs 0x800098 63 32 .rov false .queue
  | .admQmaxDepth => fs 0x800098 12 0 .rov false .queue
  | .admQctrlClrMax => fs 0x8000A0 0 0 .wo false .single
  | .ctxSelCtx => fs 0x900000 7 0 .rw false .perPath
  | .ctxCfgCompat => fs 0x900008 16 16 .rw true .ctx
  | .ctxCfgPrio => fs 0x900008 10 8 .rw true .ctx
  | .ctxCfgPart => fs 0x900008 3 0 .rw true .ctx
  | .ctxSchedResSlice => (fs 0x900010 41 32 .rw true .single).rng 1 1000
  | .ctxSchedSlice => (fs 0x900010 13 0 .rw true .single).rng 10 10000
  | .ctxSaveMib => (fs 0x900018 3 0 .rw true .single).rng 1 8
  | .ctxResAreaGib => (fs 0x900020 6 0 .rw true .single).rng 1 64
  | .ctxPartSelPart => fs 0x900028 3 0 .rw false .perPath
  | .ctxPartCtrlValid => fs 0x900030 0 0 .ro true .part
  | .ctxPartWaysMask => fs 0x900038 15 0 .ro true .part
  | .ctxPartBanksMask => fs 0x900040 31 0 .ro true .part
  | .ctxPartChanMask => fs 0x900048 63 0 .ro true .part
  | .ctxSlotSelSlot => fs 0x900050 11 0 .rw false .perPath
  | .ctxSlotPartPart => fs 0x900058 3 0 .rwl true .slotPart
  | .secLifecycleState => (fs 0xA00000 1 0 .ro false .single).keep
  | .secStatusBusy => fs 0xA00008 16 16 .rov false .single
  | .secStatusError => fs 0xA00008 7 0 .rov false .single
  | .secSlotSelSlot => fs 0xA00010 11 0 .rw false .perPath
  | .secSlotStatusHeld => fs 0xA00018 8 8 .rov false .secSlot
  | .secSlotStatusConsent => fs 0xA00018 4 4 .rov false .secSlot
  | .secSlotStatusState => fs 0xA00018 1 0 .rov false .secSlot
  | .secSlotCtrlRevoke => fs 0xA00020 1 1 .act false .secSlot
  | .secSlotCtrlInstall => fs 0xA00020 0 0 .act false .secSlot
  | .secEnvAddrAddr => fs 0xA00028 63 0 .rwl false .single
  | .secEnvLenLen => fs 0xA00030 10 0 .rwl false .single
  | .secNonceNonce => fs 0xA00038 255 0 .rov false .single
  | .secSetAddrAddr => fs 0xA00058 63 0 .rwl false .single
  | .secSetLenLen => fs 0xA00060 10 0 .rwl false .single
  | .secSetCtrlLeave => fs 0xA00068 127 64 .act false .single
  | .secSetCtrlJoin => fs 0xA00068 0 0 .act false .single
  | .secSetStatusCount => fs 0xA00078 4 0 .rov false .single
  | .secTokenAddrAddr => fs 0xA00080 63 0 .rwl false .single
  | .secTokenLenLen => fs 0xA00088 12 0 .rwl false .single
  | .secLcCtrlReturn => fs 0xA00090 0 0 .act false .single
  | .secClaimClaim => fs 0xA00098 0 0 .act false .single
  | .secDebugScope => fs 0xA000A0 34 32 .rov false .single
  | .secDebugOpen => fs 0xA000A0 16 16 .rov false .single
  | .secDebugClose => fs 0xA000A0 1 1 .wo false .single
  | .secDebugPresent => fs 0xA000A0 0 0 .act false .single
  | .secDebugNonceNonce => fs 0xA000A8 255 0 .rov false .single
  | .durFlashState => (fs 0xB00000 1 0 .rov false .single).keep
  | .durWearSpare => (fs 0xB00008 63 32 .rov false .single).keep
  | .durWearUsed => (fs 0xB00008 7 0 .rov false .single).keep
  | .durScrubEffective => fs 0xB00010 21 16 .rov false .single
  | .durScrubDays => (fs 0xB00010 5 0 .rw true .single).rng 1 60
  | .durT4CfgFosterGib => fs 0xB00018 47 32 .rw true .single
  | .durT4CfgReserveGib => fs 0xB00018 15 0 .rw true .single
  | .durDdCfgBound => (fs 0xB00020 12 0 .rw true .single).rng 256 6144
  | .durDdStatEffective => fs 0xB00028 63 48 .rov false .single
  | .durDdStatPending => fs 0xB00028 39 0 .rov false .single
  | .durHoldupFailed => fs 0xB00030 16 16 .rov false .single
  | .durHoldupEnergy => fs 0xB00030 15 0 .rov false .single
  | .durGenGen => (fs 0xB00038 31 0 .rov false .single).keep
  | .durRestoreStatusSource => fs 0xB00040 9 8 .ro false .single
  | .durRestoreStatusResult => fs 0xB00040 7 0 .ro false .single
  | .durRestoreStepStep => fs 0xB00048 63 0 .ro false .single
  | .durCtrlDiscard => fs 0xB00050 0 0 .wo false .single
  | .durCkptCfgInterval => ((fs 0xB00058 15 0 .rw true .single).rng 100 60000).orZero
  | .durCkptStatStep => (fs 0xB00060 63 0 .rov false .single).keep
  | .durWarnCfgDlRate => fs 0xB00068 95 64 .rw true .single
  | .durWarnCfgCeRate => fs 0xB00068 63 32 .rw true .single
  | .durWarnCfgThermDelta => fs 0xB00068 23 16 .rw true .single
  | .durWarnCfgHoldoff => (fs 0xB00068 13 0 .rw true .single).rng 10 10000
  | .durWarnStatWarnCnt => fs 0xB00078 47 16 .rov false .single
  | .durWarnStatTrigger => fs 0xB00078 6 0 .rw1c false .single
  | .durBuddyState => fs 0xB00080 25 24 .rov false .single
  | .durBuddyOrigin => fs 0xB00080 23 0 .rw true .single
  | .durBuddyCfgSilence => (fs 0xB00088 41 32 .rw true .single).rng 10 1000
  | .durBuddyCfgShare => (fs 0xB00088 29 24 .rw true .single).rng 1 32
  | .durBuddyCfgTimeout => (fs 0xB00088 16 0 .rw true .single).rng 100 100000
  | .durFosterRelease => fs 0xB00090 63 40 .wo false .single
  | .durFosterCount => fs 0xB00090 2 0 .rov false .single
  | .fltStatusFailed => fs 0xC00000 15 15 .rov false .single
  | .fltStatusClass => fs 0xC00000 10 1 .rw1c false .single
  | .fltLastLocation => fs 0xC00008 127 64 .ros false .single
  | .fltLastInterrupt => fs 0xC00008 47 16 .ros false .single
  | .fltLastClass => fs 0xC00008 3 0 .ros false .single
  | .fltRepairFlashDies => (fs 0xC00018 59 52 .rov false .single).keep
  | .fltRepairT2Packages => (fs 0xC00018 51 48 .rov false .single).keep
  | .fltRepairT1Rows => (fs 0xC00018 47 16 .rov false .single).keep
  | .fltRepairPositionsLost => (fs 0xC00018 15 8 .rov false .single).keep
  | .fltRepairPanSpares => (fs 0xC00018 7 0 .rov false .single).keep
  | .fltPeerBadCount => fs 0xC00020 63 0 .rov false .single
  | .fltEvtCfgNotify => fs 0xC00028 1 0 .rw true .single
  | .fltClassCntCount => fs 0xC00100 63 0 .ros false (.array 16)
  | .fltCsumCntCount => fs 0xC00200 63 0 .ros false (.array 5)
  | .obsCntSelCounter => fs 0xD00000 5 0 .rw false .perPath
  | .obsCntCfgFilter => fs 0xD00008 39 32 .rw true .counter
  | .obsCntCfgArg => fs 0xD00008 27 16 .rw true .counter
  | .obsCntCfgScope => (fs 0xD00008 10 8 .rw true .counter).rng 0 4
  | .obsCntCfgSource => (fs 0xD00008 3 0 .rw true .counter).rng 0 15
  | .obsCntCount => fs 0xD00010 63 0 .rov false .counter
  | .obsCntSnapCount => fs 0xD00018 63 0 .rov false .counter
  | .obsCntCtrlClear => fs 0xD00020 1 1 .wo false .single
  | .obsCntCtrlSnap => fs 0xD00020 0 0 .wo false .single
  | .obsSampCfgPeriod => ((fs 0xD00028 19 0 .rw true .single).rng 10 1000000).orZero
  | .obsTbufCfgMib => (fs 0xD00030 10 0 .rw true .single).rng 16 1024
  | .obsTbufStatLost => fs 0xD00038 63 0 .rov false .single
  | .obsBwCfgMbps => (fs 0xD00040 11 0 .rw true .single).rng 1 4000
  | .obsTraceCfgPeer => fs 0xD00048 2 2 .rw true .single
  | .obsTraceCfgPayload => fs 0xD00048 1 1 .rw true .single
  | .obsTraceCfgDesc => fs 0xD00048 0 0 .rw true .single

/-- The reset value of entry `i` of a field; a field whose row gives none is 0 (assumption 1). Log 1 (DESIGN CHOICE). -/
def fldReset (m : Model) (f : Fld) (i : Nat) : Nat :=
  match f with
  | .sysIdModel => if m = .full then 8 else 4
  | .sysBootStage => 1
  | .sysQuiesceTimeTime => 100
  | .sysHoCfgAudit => 10
  | .sysHoCfgClaim => 1000
  | .sysHoCfgTimeout => 5
  | .sysMapCfgGrace => 2
  | .sysPwrState => 1
  | .secLifecycleState => 1
  | .clkStopCfgIdle => 20
  | .clkStopCfgEnable => 1
  | .clkHrwCfgRelease => 100
  | .clkHrwCfgFloorMax => 2
  | .clkHrwCfgSlackHigh => 120
  | .clkHrwCfgSlackLow => 40
  | .clkHrwScrubEffective => 24
  | .clkHrwScrubHours => 24
  | .cxlPortCfgRecovery => 8
  | .cxlBiCfgTimeout => 100
  | .ldgCfgSizeLog2 => 4
  | .ldgGrpCoalCount => 1
  | .stoRangeWindows => 65536
  | .stoWmT1Low => 85
  | .stoWmT1High => 90
  | .stoWmT2Low => 80
  | .stoWmT2High => 90
  | .stoWmT3Low => 90
  | .stoWmT3High => 95
  | .stoPrefetchProtect => 10
  | .stoReviveRecent => 16
  | .stoQpolOutlierRatio => 8
  | .stoQpolOutlierMax => 4
  | .stoQpolValThr => 120
  | .stoQpolKeyThr => 80
  | .stoQdefOutlierRatio => 8
  | .stoQdefOutlierMax => 4
  | .stoQdefValThr => 120
  | .stoQdefKeyThr => 80
  | .stoT3StatusEmpty => 1
  | .dirCfgFillLimit => 28
  | .panBsDrainTimeTime => 10
  | .panMapPhys => i % 16
  | .txtVocAreaMib => if m = .full then 4096 else 0
  | .admShpBurstBurst => 1024
  | .admShpCfgInterval => 100
  | .admShpDefBurst => 1024
  | .admMtrCirCir => 1000000
  | .admMtrPirPir => 2000000
  | .admMtrCbsCbs => 4096
  | .admMtrPbsPbs => 8192
  | .admMtrDefPbs => 8192
  | .admMtrDefCbs => 4096
  | .admMtrDefPir => 2000000
  | .admMtrDefCir => 1000000
  | .admQyelThreshold => if i < 4096 then 0 else 2048
  | .ctxCfgPrio => 4
  | .ctxSchedResSlice => 10
  | .ctxSchedSlice => 200
  | .ctxSaveMib => 4
  | .ctxResAreaGib => 8
  | .ctxPartCtrlValid => if i = 0 then 1 else 0
  | .ctxPartWaysMask => if i = 0 then 65535 else 0
  | .ctxPartBanksMask => if i = 0 then 4294967295 else 0
  | .ctxPartChanMask => if i = 0 then (if m = .full then 0xFFFFFFFFFFFFFFFF else 0xFFFFFFFF) else 0
  | .durScrubEffective => 14
  | .durScrubDays => 14
  | .durT4CfgFosterGib => if m = .full then 2048 else 1024
  | .durT4CfgReserveGib => if m = .full then 4096 else 2048
  | .durDdCfgBound => if m = .full then 4096 else 2048
  | .durCkptCfgInterval => 1000
  | .durWarnCfgDlRate => 1000
  | .durWarnCfgCeRate => 10000
  | .durWarnCfgThermDelta => 5
  | .durWarnCfgHoldoff => 100
  | .durBuddyCfgSilence => 50
  | .durBuddyCfgShare => 16
  | .durBuddyCfgTimeout => 1000
  | .obsCntCfgFilter => 255
  | .obsTbufCfgMib => 64
  | .obsBwCfgMbps => 1000
  | _ => 0

end Machine

end Sys2Proof
end

