-- ==== Sys2Proof/Machine/State.lean ====
section
/-! DEFINITION. The state of the block as plain data, its fault and refusal reasons, and the state after reset.
Handles, numbers, versions, addresses, counts and times are natural numbers; what the manual treats as bytes is a list of
bytes; registers of BAR0 that hold a value of their own are entries of one table, by field and entry number. -/

namespace Sys2Proof.Machine

/-- Reasons for a fault. The spec lets no command stop the block, so no meaning raises one (safe). -/
inductive Fault where
  /-- Raised by nobody: a place for a command that the spec would let stop the block (safe). -/
  | none
deriving DecidableEq, Repr

/-- Reasons for a refusal. -/
inductive Refusal where
  /-- Raised only by an arm of `exec` whose command has no meaning yet (safe). -/
  | notModelled (mnemonic : String)
deriving DecidableEq, Repr

/-- What the block sends out; the last command's are in `State.out`. -/
inductive Out where
  /-- A completion of 32 or 16 bytes written as entry `n` of a completion ledger (R323, R525). -/
  | completion (cq n : Nat) (body : List Byte)
  /-- The MSI-X message of vector `n` of a port's function (R331): 0 is port A. -/
  | vector (port n : Nat)
  /-- A peer message of 64 bytes to an origin (R342). -/
  | peer (origin : Nat) (msg : List Byte)
  /-- A notice written to a fabric address of the board (R344). -/
  | notice (addr : Nat) (body : List Byte)
  /-- A stream record of 128 bytes to an origin (R440). -/
  | stream (origin : Nat) (rec : List Byte)
  /-- A stored tile of 16,448 bytes, or another object, to an offset of an origin's aperture (R352, R444). -/
  | aperture (origin off : Nat) (body : List Byte)
  /-- Data of a load, of a read or of a mailbox or SPDM request. -/
  | response (body : List Byte)
  /-- A load or an unordered-I/O read answered with poison. -/
  | poison
  /-- A store that is dropped. -/
  | dropped
  /-- A mailbox command or SPDM request refused with the status or error named by its code. -/
  | refuse (code : Nat)
  /-- Bytes written to a fabric address (R301). -/
  | write (addr : Nat) (body : List Byte)
  /-- The value that a register read returns. -/
  | value (n : Nat)
  /-- HEAD published in a ledger's head line (R316). -/
  | headLine (ledger head : Nat)
  /-- A BISnpInv to a host for a line (R304). -/
  | snoop (host line : Nat)
  /-- A tile read asked of a medium or a holder: prefetch, promotion or demand (R108). -/
  | fetchTile (handle number : Nat)
  /-- A message between pans (R31). -/
  | panMessage (bed pos : Nat) (body : List Byte)
  /-- Bits shifted out of the TAP (R504). -/
  | tdo (bits : List Bool)
deriving DecidableEq, Repr

/-- The power states of R531. -/
inductive PowerState where
  | off
  | starting
  | running
  | quiesced
  | holdUp
  | thermalOff
  | failed
deriving DecidableEq, Repr

/-- An open-drain output: asserted, released, or floating without power (R531). -/
inductive Line where
  | asserted
  | released
  | floats
deriving DecidableEq, Repr

/-- The transmit pairs of a port (R542): not mated, off with high impedance, in electrical idle, driven by the link's state. -/
inductive TxPairs where
  | apart
  | off
  | idle
  | driven
deriving DecidableEq, Repr

/-- The modes of the management bus (R541). -/
inductive BusMode where
  | undecided
  | i3c
  | smbus
deriving DecidableEq, Repr

/-- A Kelgor image in the SPI NOR (R513). -/
structure FwImage where
  svn : Nat
  image : List Byte
deriving DecidableEq, Repr

/-- Power, pins and the management bus (ch. 20). -/
structure Power where
  state : PowerState
  vinMv : Nat
  bankMv : Nat
  pwrfail : Line
  alert : Line
  perstA : Bool
  perstB : Bool
  /-- COMPAT_N as sampled at the latest start (R523). -/
  compat : Bool
  inserted : Bool
  /-- A start that waits for the bank (R424), with what it found. -/
  waitBank : Option StartInput
  quiescing : Bool
  /-- A device warm reset that waits for the seal of the quiesce in progress (R527). -/
  warmPending : Bool
  bus : BusMode
  mbAddr : Nat
  dynAddr : Option Nat
  /-- The Kelgor image that the latest start chose (R513). -/
  kelgor : Option FwImage
  /-- The TAP's instruction, 0 while it is in reset (R540), and its boundary-scan cells (R504). -/
  tap : Nat
  tapReset : Bool
  scan : List Bool
deriving DecidableEq, Repr

/-- The margin plan of a bed and its measurements (R482, R486). -/
structure Bed where
  no : Nat
  rail : Nat
  factoryRail : Nat
  floor : Nat
  /-- Sixteenths that droop detectors add (R470). -/
  droop : Nat
  /-- Throttled at its own throttle point, or because the device core is too hot (R546). -/
  throttled : Bool
  coreThrottled : Bool
  stopped : Bool
  stoppedAt : Nat
  /-- Times of the holds of the last 24 h (R480). -/
  holds : List Nat
  held : Bool
  /-- Held for temperature at 105 °C (R546). -/
  hot : Bool
  /-- Refresh rates: 0, 1, 2 for 1x, 2x, 4x, by vault and by channel of the group (R484). -/
  t1Refresh : List Nat
  t2Refresh : List Nat
  /-- Patrol scrub interval in hours (R485). -/
  scrub : Nat
  slackMin : Nat
  roShift : Nat
  /-- Since when the bed has been above its floor. -/
  aboveSince : Nat
  /-- Highest junction temperature of the last hour. -/
  tempMax : Nat
  /-- Since when the bed has been held, and for how many ns it was held before, since the latest start (R486). -/
  heldSince : Nat
  heldTime : Nat
deriving DecidableEq, Repr

/-- The ageing record (R486): its header's figures, the beds, and by bed the holds of the last 24 h and the seconds above the floor and
held, over the module's life. -/
structure AgeRecord where
  hours : Nat
  starts : Nat
  losses : Nat
  retention : Nat
  flashUsed : Nat
  beds : List Bed
  holds : List Nat
  stretch : List Nat
  heldFor : List Nat
deriving DecidableEq, Repr

/-- What survives power-off beside tiles and tables: SPI NOR, fuses and the flash system area (R415, R513). -/
structure Nv where
  fwA : Option FwImage
  fwB : Option FwImage
  imgA : Option (List Byte)
  imgB : Option (List Byte)
  /-- The slot in use since the latest start: 0 factory defaults, 1 A, 2 B (R521). -/
  active : Nat
  /-- The kept signer list (R521) and the lists of the image in use (R393), by entry. -/
  signers : List (Nat × List Byte)
  bsSigners : List (Nat × List Byte)
  operators : List (Nat × List Byte)
  /-- Handle serial and lease end (R55, R441). -/
  serial : Nat
  leaseEnd : Nat
  /-- Set memberships: SET_ID and set secret (R402). -/
  sets : List (Nat × List Byte)
  /-- `none`: not sealed; `some clean` (R423, R518). -/
  sealed : Option Bool
  starts : Nat
  losses : Nat
  powerHours : Nat
  /-- The newest ageing record (R487). -/
  ageing : Option AgeRecord
  /-- The retention probes were written at a seal (R419), and the stress that the latest start has estimated from them. -/
  probed : Bool
  retention : Nat
  /-- Seconds above the floor and held, by bed, that the latest start found in the record. -/
  lifeStretch : List Nat
  lifeHeld : List Nat
  /-- Pans marked unusable: bed and physical pan (R52). -/
  badPans : List (Nat × Nat)
  /-- The store had no consistent step and waits for DISCARD (R516). -/
  noStep : Bool
  /-- Spare rows of vaults that repair has used, by place (R461). -/
  rowsUsed : List (Nat × Nat)
deriving DecidableEq, Repr

/-- An install held for a ZEROED slot (R397), or the contents of a sealed payload (R395). -/
structure KeyData where
  tenant : Nat
  key : List Byte
  policy : Nat
deriving DecidableEq, Repr

/-- A key slot that is not EMPTY (R394): its number, its state code and its key. -/
structure KeySlot where
  slot : Nat
  state : Nat
  data : KeyData
  held : Option KeyData
deriving DecidableEq, Repr

/-- A secured SPDM session, or one whose handshake is open (R404): with the operator entry its requester proved. -/
structure SpdmSession where
  id : Nat
  secured : Bool
  operator : Option Nat
deriving DecidableEq, Repr

/-- SPDM on one transport (R404): the negotiated version, 0 before GET_VERSION, and the sessions. -/
structure SpdmChan where
  ch : Path
  version : Nat
  caps : Bool
  algs : Bool
  sessions : List SpdmSession
deriving DecidableEq, Repr

/-- The security block (ch. 14). -/
structure Sec where
  slots : List KeySlot
  /-- SCOPE of the debug token that holds (R505). -/
  token : Option Nat
  haltedCores : List Nat
  haltedPans : List (Nat × Nat)
  spdm : List SpdmChan
  /-- Measurement 0x05 (R405). -/
  history : List Byte
  /-- The trust lists as the start found them, for measurement 0x0C (R405). -/
  trust : List Byte
  /-- The context-save key of this start (R384, R390). -/
  saveKey : List Byte
deriving DecidableEq, Repr

/-- A DCD extent: offered (0), held (1) or being released (2) (R306, R363). -/
structure Extent where
  host : Nat
  first : Nat
  count : Nat
  tag : Nat
  phase : Nat
deriving DecidableEq, Repr

/-- A CXL.mem or unordered-I/O access that waits for a tile (R93, R128). -/
structure Access where
  host : Nat
  peer : Bool
  off : Nat
  len : Nat
  write : Option (List Byte)
  /-- A store whose data carry poison (R299). -/
  tainted : Bool
  /-- Tiles that have come to the port block for it and passed their checksum, each with its handle, number and version (R93). -/
  got : List (Nat × Nat × Nat)
deriving DecidableEq, Repr

/-- Hosts, extents, coherence and IDE (ch. 11). -/
structure Cxl where
  extents : List Extent
  /-- Snoop filter, oldest entry first: host and line (State Range offset div 64) (R304). -/
  snoop : List (Nat × Nat)
  /-- BISnpInv not yet answered: host and line. -/
  biPending : List (Nat × Nat)
  /-- HDM base of each host (R303). -/
  hdm : List (Nat × Nat)
  /-- Windows in TE state, by host (R311). -/
  te : List (Nat × Nat)
  /-- IDE streams established: port (0, 1) and stream; 64 is CXL.cachemem, 65 the link stream (R309). -/
  ide : List (Nat × Nat)
  /-- Keys delivered and not yet activated. -/
  ideKeys : List (Nat × Nat)
  /-- Event interrupt settings of the four logs (R299). -/
  policy : List Nat
  waiting : List Access
  /-- Lines that hold poison (R299): handle, tile number, version, line of the tile. Log 183 (DESIGN CHOICE). -/
  poisoned : List (Nat × Nat × Nat × Nat)
deriving DecidableEq, Repr

/-- Ledger machinery beside the LDG registers (ch. 11). -/
structure Ledg where
  /-- Lines watched through CXL.cache: ledger lines (ledger number) (R314). -/
  watched : List Nat
  /-- Ready lines watched, and those polled for want of room (R314). -/
  readyWatched : List Nat
  readyPolled : List Nat
  /-- Ready words last read: address and word (R197). -/
  readyWords : List (Nat × Nat)
  /-- Completion ledgers whose present stall has been logged (R319). -/
  stalled : List Nat
  /-- Completions since the last message of a group, where not 0 (R332). -/
  coal : List (Nat × Nat)
  /-- The MSI-X tables, where written: port and vector; message address, message data and vector control, whose bit 0 masks (R297).
  Log 182 (PRESUMED). -/
  msix : List ((Nat × Nat) × (Nat × Nat × Nat))
  /-- The pending-bit arrays: port and vector. -/
  pendingVec : List (Nat × Nat)
deriving DecidableEq, Repr

/-- The common header of a descriptor (R320). -/
structure Hdr where
  opcode : Nat
  order : Nat
  notify : Bool
  keySlot : Nat
  deadline : Nat
  epoch : Nat
  tag : Nat
  /-- The reserved bits and bytes are 0. -/
  clean : Bool
deriving DecidableEq, Repr

/-- The ownership record (R340). -/
structure OwnRec where
  epoch : Nat
  owner : Nat
  state : Nat
  target : Nat
  granted : Bool
  since : Nat
deriving DecidableEq, Repr

/-- A page of a layer: state code 0 EMPTY, 1 PARTIAL, 2 FILED, 3 ABSENT; valid tokens; the region it is attached to,
with the page's own tiles held there (R75, R126). -/
structure Page where
  state : Nat
  valid : Nat
  region : Option Nat
deriving DecidableEq, Repr

/-- The tile map of one layer: pages from 0, and the numbers of its code, scale, summary and patch tiles in sequence;
the sequences begin at page `first` (R61, R70 to R74, R125). -/
structure LayerMap where
  pages : List Page
  first : Nat
  code : List Nat
  scale : List Nat
  summary : List Nat
  patch : List Nat
deriving DecidableEq, Repr

/-- The text state of a session (R248, R249). -/
structure TextState where
  turnBase : Nat
  stopped : Bool
  active : Bool
  dead : Bool
  includeStop : Bool
  stopId : Nat
  pend : List Byte
  hold : List Byte
  policy : Nat
  stopToken : Nat
  gstate : Nat
  release : Nat
  sampler : List Byte
  /-- Stop strings by entry; an empty string is an unused entry (R258). -/
  stops : List (List Byte)
  /-- Grammar stack from the bottom, and the grammar image (R259). -/
  stack : List Nat
  image : List Byte
deriving DecidableEq, Repr

/-- A node of a draft tree (R223). -/
structure Node where
  token : Nat
  parent : Nat
  depth : Nat
  prob : Nat
deriving DecidableEq, Repr

/-- The draft record of a session (R216), with the positions whose drafter KV is held. Log 171 (DESIGN CHOICE). -/
structure Draft where
  modelId : Nat
  slot : Nat
  nodeMax : Nat
  depthMax : Nat
  width : Nat
  window : Nat
  accAvg : Nat
  branch : List Nat
  step : Nat
  /-- TREE_BASE, absent while no tree is outstanding. -/
  base : Option Nat
  kvEnd : Nat
  emptyRun : Nat
  configured : Bool
  paused : Bool
  probe : Nat
  tree : List Node
  /-- Layers and bytes of an item of the drafter KV that the tiles hold. Log 171 (DESIGN CHOICE). -/
  shape : Nat × Nat
  /-- Nodes of the tree that have KV. -/
  kvNodes : List Nat
deriving DecidableEq, Repr

/-- The kinds of subject: a session, a buffer region, or a region of shared leading pages (R122, R358). -/
inductive SubjKind where
  | session
  | buffer
  | shared
deriving DecidableEq, Repr

/-- A session or published region: its session-table entry, record, ownership record and state (R59, R61, R358). -/
structure Subject where
  index : Nat
  handle : Nat
  kind : SubjKind
  keySlot : Nat
  /-- State code of R60. -/
  state : Nat
  /-- The state before CLOSING (R85). -/
  prior : Nat
  homeBed : Nat
  own : OwnRec
  vfloor : Nat
  /-- What is added to the version base before the next write of a tile of the subject: it has been restored to a checkpoint step (R63). -/
  raise : Nat
  layers : Nat
  kvHeads : Nat
  ratio : Nat
  dim : Nat
  options : Nat
  priority : Nat
  vocab : Nat
  globals : List Nat
  /-- Token log entries in the layout of R78. -/
  log : List Nat
  maps : List LayerMap
  text : TextState
  draft : Option Draft
  /-- Buffer regions: windows, first window, DURABLE, published VERSION (R358). -/
  windows : Nat
  firstWindow : Nat
  durable : Bool
  version : Nat
  /-- Regions of shared pages: PARENT, F, N, MODEL_TAG, PUBLIC, block hashes (R358, R359). -/
  parent : Nat
  firstPage : Nat
  count : Nat
  modelTag : Nat
  isPublic : Bool
  hashes : List (List Byte)
  /-- Closed, but kept while referenced (R127). -/
  closed : Bool
deriving DecidableEq, Repr

/-- A copy of a tile: its tier 1 to 4, its place (bed for T1, channel for T2, range for T3, block for T4), its version. -/
structure TileCopy where
  tier : Nat
  place : Nat
  version : Nat
deriving DecidableEq, Repr

/-- A tile that the tile map names (R62 to R64, R87): its header fields, floors, copies, last use in ticks of R101 and payload. -/
structure Tile where
  handle : Nat
  number : Nat
  version : Nat
  floor : Nat
  recFloor : Nat
  kind : Nat
  format : Nat
  layer : Nat
  count : Nat
  first : Nat
  durable : Bool
  /-- LOWERED, and the pages in it that KV_INGEST has filed again since it was lowered (R162). -/
  lowered : Bool
  refiled : List Nat
  keySlot : Nat
  copies : List TileCopy
  /-- The mapped version has been written outside the logic package (R95). -/
  wrote : Bool
  lastUse : Nat
  /-- The key that its copies outside the logic package are encrypted under: its tenant's (R17, R66). -/
  key : List Byte
  /-- Verified since it entered T1 (R94). -/
  verified : Bool
  /-- The holder's origin while the tile is lodged there (R351). -/
  lodged : Option Nat
  /-- Payload cells of KV, DRAFT and REGION tiles; the other kinds are rendered from the subject (R68). -/
  payload : List Host.Cell
deriving DecidableEq, Repr

/-- The binding of a window that is not UNBOUND (R91). -/
inductive Binding where
  | region (handle place : Nat)
  | view (handle base : Nat)
deriving DecidableEq, Repr

/-- An entry of the directory, by the fields of its 32 bytes (R129): TAG is KIND above SCOPE, CARE the bits of it that are compared. -/
structure DirEntry where
  value : List Byte
  tag : Nat
  care : Nat
  index : Nat
  valid : Bool
  region : Bool
  pending : Bool
  block : Nat
deriving DecidableEq, Repr

/-- The directory: slots by bucket and position, the numbers of the overflow blocks linked to each bucket in chain order, buckets being
rebuilt, salt. A slot whose entry was deleted keeps it with VALID clear. -/
structure Dir where
  entries : List ((Nat × Nat) × DirEntry)
  chains : List (Nat × List Nat)
  rebuilding : List Nat
  salt : List Byte
deriving DecidableEq, Repr

/-- A change that a completion makes referenced when it is written (R36, R325). -/
inductive Effect where
  | openSubject (x : Subject)
  | sessState (h st : Nat)
  /-- A page of a layer gets a state, valid tokens and the region it is attached to. -/
  | page (h layer page st valid : Nat) (region : Option Nat)
  /-- Numbers of a layer's sequences: its first own page, code, scale and summary tiles by place, all patch tiles. -/
  | seqs (h layer first : Nat) (code scale summary : List (Nat × Nat)) (patch : List Nat)
  | tile (t : Tile)
  | dropTile (h n : Nat)
  | globals (h : Nat) (g : List Nat)
  | append (h : Nat) (entries : List Nat)
  | text (h : Nat) (t : TextState)
  | draft (h : Nat) (d : Option Draft)
  | bind (w : Nat) (b : Binding)
  | unbind (w : Nat)
  | own (h : Nat) (o : OwnRec) (notice : Nat)
  | homeBed (h bed : Nat)
  | version (h v : Nat)
  | reveal (h : Nat)
  /-- A PLAN's manifest; the entries due that it took, and those that it leaves due. -/
  | plan (p step : Nat) (manifest : List (Nat × Nat × Nat × Nat)) (taken kept : List (Nat × Nat)) (meets now : Nat)
  | member (p h kvTokens st near : Nat)
  | unmember (p h : Nat)
  | planner (p : Nat) (params : List Nat)
  | kvTokens (h n : Nat)
  | traceTaken (n lost : Nat)
  /-- A subject comes back from a step, with its tiles (R435). -/
  | restore (x : Subject) (tiles writes : List Tile)
  | arm (id : Nat) (armed : Option (Nat × Nat × Nat × Nat × List Nat))
deriving DecidableEq, Repr

/-- Where accepted work stands (R26, R27, R327). -/
inductive Place where
  | waiting
  | forDispatch
  | queued (q : Nat)
  | flight (leaf : Nat)
  | ended
deriving DecidableEq, Repr

/-- A share of a descriptor that a SPLIT unit divides (R30): its leaf, its first layer or byte, how many, and whether the leaf has read it. -/
structure Share where
  leaf : Nat
  first : Nat
  count : Nat
  read : Bool
deriving DecidableEq, Repr

/-- An accepted descriptor without a completion (R316): its number in the order of acceptance, where it was read, its
header and operand area, what was read at acceptance, what it waits for, and what its work has come to. -/
structure Work where
  id : Nat
  ledger : Nat
  slot : Nat
  hdr : Hdr
  /-- The 64-byte operand area. -/
  ops : List Byte
  acceptTime : Nat
  startTime : Nat
  /-- POLICY of the slot and GLOBAL_POS of the subject at acceptance (R166, R190, R397). -/
  policy : Nat
  globals : List Nat
  tokens : Nat
  place : Place
  waits : List Nat
  /-- Descriptors that a sluice was accepted behind (R329). -/
  behind : Nat
  /-- Holders at which its context is pre-empted (R378). -/
  suspendedAt : List Nat
  /-- The shares of a descriptor that a SPLIT unit divides, once its first share has been read (R30). -/
  shares : List Share
  /-- The last tile step or transfer has begun (R287). -/
  final : Bool
  /-- Its deadline has passed while a step of it ran: it ends at that step's end (R287). -/
  expired : Bool
  /-- Beds, channels, dies and ports of outstanding transfers: class and place (R448). -/
  transfers : List (Nat × Nat)
  /-- Directions in which its next transfer waits for a shaper: 0 inbound, 1 outbound (R291). -/
  shaping : List Nat
  /-- The next layer of a FAR_ATTN, with its running result (R197, R198). -/
  layer : Nat
  tally : List Nat
  status : Option Nat
  result : List Byte
  effects : List Effect
deriving DecidableEq, Repr

/-- An entry of UNIT_TABLE (R42). -/
structure UnitEnt where
  id : Nat
  parent : Nat
  type : Nat
  dispatch : Nat
  depth : Nat
  bed : Nat
  resident : Bool
  ways : Nat
  constMask : Nat
deriving DecidableEq, Repr

/-- An entry of PAN_ASSIGN (R43). -/
structure PanEnt where
  bed : Nat
  pos : Nat
  unit : Nat
  image : Nat
deriving DecidableEq, Repr

/-- A microcode image (R44): its header, its code and its initial scalar data. -/
structure ImageEnt where
  no : Nat
  stepMax : Nat
  code : Nat
  data : Nat
  liveMax : Nat
  entry : Nat
  codeBytes : List Byte
  dataBytes : List Byte
deriving DecidableEq, Repr

/-- A verified container (R39): what its sections declare. -/
structure Container where
  id : Nat
  svn : Nat
  /-- TOOL_VERSION. -/
  tool : Nat
  part : Bool
  digest : List Byte
  units : List UnitEnt
  pans : List PanEnt
  scorers : List (Nat × Nat)
  images : List ImageEnt
  consts : List (List Byte)
  routes : List (Nat × Nat)
  /-- Folding tables: FOLD_ID and (source, replacements) (R243). -/
  folds : List (Nat × List (Nat × List Nat))
deriving DecidableEq, Repr

/-- A configuration: a full bitstream, with at most one partial on it. -/
structure UnitConfig where
  full : Container
  part : Option Container
deriving DecidableEq, Repr

/-- A slot of a pan (R20, R34). -/
structure SlotEnt where
  bed : Nat
  pos : Nat
  slot : Nat
  handle : Nat
  number : Nat
  version : Nat
  absent : Bool
  /-- The tile has arrived and was checked. -/
  ready : Bool
deriving DecidableEq, Repr

/-- A tile step in progress (R33). -/
structure StepEnt where
  bed : Nat
  pos : Nat
  work : Nat
  start : Nat
  /-- The input set that the step works on (R33). -/
  set : Nat
deriving DecidableEq, Repr

/-- Units, configurations and contexts at run time (ch. 2, ch. 13). -/
structure Units where
  active : Option UnitConfig
  previous : Option UnitConfig
  staged : Option Container
  /-- State codes of outermost units that are not 0 or 1: 2 RECOVERING, 3 SWAPPING (R25). -/
  states : List (Nat × Nat)
  /-- An activation whose drain is under way: its target, whether it is a rollback, the affected units, and the pans (bed, position)
  that will fail at step 5. -/
  drain : Option (UnitConfig × Bool × List Nat × List (Nat × Nat))
  /-- Leaves and resident units whose current context has used up its slice (R377, R383). -/
  expired : List Nat
  /-- SRAM bytes that debug access wrote: bed, position, address (R504). -/
  sram : List ((Nat × Nat × Nat) × Nat)
  /-- Current context by leaf, with since when (R376). -/
  current : List (Nat × Nat × Nat)
  /-- Saved contexts of ordinary leaves: leaf and context (R378). -/
  saved : List (Nat × Nat)
  /-- Switches under way: leaf, incoming context (R379). -/
  switching : List (Nat × Nat)
  /-- Saved resident images: unit and context (R385). -/
  images : List (Nat × Nat)
  /-- The save counter: resident images saved since the start (R384). -/
  saves : Nat
  /-- The save counter's value of the image of a unit and context. -/
  savedAs : List ((Nat × Nat) × Nat)
  /-- Round-robin pointer of composites (R30). -/
  next : List (Nat × Nat)
  slots : List SlotEnt
  steps : List StepEnt
  /-- The input set of a pan's next step, 0 where none is listed (R20, R33). -/
  turn : List ((Nat × Nat) × Nat)
  /-- Pans whose microcode has run since its image was loaded (R20, R48). -/
  ran : List (Nat × Nat)
  /-- Model slots whose pinned shards a RESIDENT drafter unit has read into its pans: unit, context and slot (R213). -/
  pinned : List (Nat × Nat × Nat)
deriving DecidableEq, Repr

/-- A block of a weight area: 16 KiB of a shard in plaintext, or its last part, with its CRC-64/ECMA-182 (R208). -/
structure WeightBlock where
  layer : Nat
  shard : Nat
  no : Nat
  bytes : List Byte
  sum : Nat
deriving DecidableEq, Repr

/-- A model slot that is not EMPTY (R206, R210). -/
structure ModelSlot where
  slot : Nat
  state : Nat
  modelId : Nat
  setId : Nat
  keySlot : Nat
  vocab : Nat
  unit : Nat
  layers : Nat
  kvHeads : Nat
  dim : Nat
  shards : Nat
  /-- The weights: those of shard s lie in the weight area of the s-th bed of the unit (R207, R208). -/
  weights : List WeightBlock
  /-- The image as loaded, still encrypted, in a private area of T2 (R208). -/
  image : List Byte
  tableDigest : List Byte
deriving DecidableEq, Repr

/-- A READY vocabulary (R237, R238). -/
structure Voc where
  entry : Nat
  id : Nat
  unigram : Bool
  byteFallback : Bool
  endToken : Nat
  unkToken : Nat
  byteBase : Nat
  norm : Nat
  fold : Nat
  spaceMark : Nat
  /-- String and SPECIAL flag of each token. -/
  tokens : List (List Byte × Bool)
  merges : List (Nat × Nat × Nat)
  scores : List Nat
  specials : List Nat
  split : List (Nat × Nat)
  matrix : List Byte
  digest : List Byte
  size : Nat
deriving DecidableEq, Repr

/-- A session enrolled in a planner (R269, R270): state 0 RUNNING, 1 PAUSING, 2 PAUSED, 3 RESUMING. -/
structure Member where
  handle : Nat
  near : Nat
  kvTokens : Nat
  st : Nat
  order : Nat
  /-- Since when it has been ready; the start of the PLAN that placed its last entry; ready at every PLAN since (R282). -/
  readySince : Nat
  lastPlaced : Nat
  streaming : Bool
  pausedAt : Nat
  /-- The number of the next descriptor when the planner's park started, `none` while it has not (R271). -/
  parkAt : Option Nat
  /-- The step that failed and is tried again at the next PLAN: 1 its park, 3 its revive, else 0 (R271). -/
  retry : Nat
deriving DecidableEq, Repr

/-- A planner (R268, R273): parameters, step, pending manifest (handle, kind, first, count), entries due (handle, kind). -/
structure Planner where
  no : Nat
  budget : Nat
  maxEntries : Nat
  chunk : Nat
  pauseStep : Nat
  resumeHold : Nat
  itl : List Nat
  ttr : List Nat
  step : Nat
  manifest : Option (List (Nat × Nat × Nat × Nat))
  due : List (Nat × Nat)
  meets : Nat
  members : List Member
deriving DecidableEq, Repr

/-- The token buckets of a meter and the parameters in force (R292): levels in units of 10^-9 descriptors. -/
structure Meter where
  slot : Nat
  enable : Bool
  cir : Nat
  pir : Nat
  cbs : Nat
  pbs : Nat
  c : Nat
  p : Nat
  last : Nat
deriving DecidableEq, Repr

/-- A shaper (R290): parameters in force and level in bytes. -/
structure Shaper where
  no : Nat
  rate : Nat
  burst : Nat
  level : Int
deriving DecidableEq, Repr

/-- Admission and traffic control (ch. 10). -/
structure Adm where
  planners : List Planner
  enrolled : Nat
  meters : List Meter
  shapers : List Shaper
  /-- The interval in force (R291). -/
  interval : Nat
  /-- Dispatches of each queue (R295). -/
  dispatched : List (Nat × Nat)
  /-- Last METER_REFUSED event of a slot (R293). -/
  lastRefusal : List (Nat × Nat)
deriving DecidableEq, Repr

/-- An open claim (R348). -/
structure Claim where
  handle : Nat
  offerer : Nat
  epoch : Nat
  work : Nat
  window : Nat
  keySlot : Nat
deriving DecidableEq, Repr

/-- A trace, or an OFFERED or ORPHAN record whose index is free (R341): the record, the subject as it was, when granted. -/
structure Trace where
  handle : Nat
  own : OwnRec
  since : Nat
  subject : Subject
deriving DecidableEq, Repr

/-- A TILE_REQ without reply (R352). -/
structure TileReq where
  handle : Nat
  number : Nat
  version : Nat
  origin : Nat
  reply : Nat
  repeated : Bool
  /-- The reply is only read, by a DUMP, and not adopted (R499). -/
  keep : Bool
  /-- The tier and T3 range that a PLACE adopts it into (R119); tier 0: where R104 places a new version. -/
  tier : Nat
  range : Nat
deriving DecidableEq, Repr

/-- Ownership between devices (ch. 12). -/
structure Own where
  claims : List Claim
  traces : List Trace
  /-- Handles of audit queries without an answer. -/
  queries : List Nat
  /-- Superseded epochs still in grace, newest first, with the time of the write that superseded them (R364). -/
  epochs : List (Nat × Nat)
  messages : Nat
  /-- Notices written, which gives the next place in the slice of the board (R344). Log 187 (DESIGN CHOICE). -/
  notices : Nat
  requests : List TileReq
  /-- Tiles that this device holds for other owners (R351). -/
  lodged : List Tile
  /-- Offers whose timeout has expired and whose reclaim found no room (R350, R357). -/
  expired : List Nat
deriving DecidableEq, Repr

/-- A page of a shard's tile tree, level 0 holding its leaves: the step that wrote it, and its 64-byte entries (R427). -/
structure TreePage where
  shard : Nat
  level : Nat
  step : Nat
  entries : List (List Byte)
deriving DecidableEq, Repr

/-- A checkpoint step in a slot (R426, R429): the cut's durable state. -/
structure CkptStep where
  step : Nat
  gen : Nat
  time : Nat
  lease : Nat
  subjects : List Subject
  tiles : List Tile
  windows : List (Nat × Binding)
  traces : List Trace
  /-- The MANIFEST tile that holds its manifest (R68, R429). -/
  manifest : Tile
  /-- The pages of its tile trees, shard by shard, each root last (R427). -/
  pages : List TreePage
deriving DecidableEq, Repr

/-- A shipped step that is held for another origin (R438, R443): its number, its SEQ, its manifest, the stored images of its tiles. -/
structure FosterStep where
  step : Nat
  seq : Nat
  manifest : List Byte
  images : List (List Byte)
deriving DecidableEq, Repr

/-- A fostered origin (R438): its two newest steps, the newest first, its stream records, when it was last heard, whether a take-over from it
was served, its PBR ID. -/
structure Foster where
  origin : Nat
  steps : List FosterStep
  records : List (List Byte)
  heard : Nat
  served : Bool
  pbr : Nat
  /-- The SEQ that follows the highest one received in order, `none` before the first record (R440). -/
  next : Option Nat
deriving DecidableEq, Repr

/-- Durability (ch. 15). -/
structure Dur where
  slotA : Option CkptStep
  slotB : Option CkptStep
  /-- When the latest checkpoint and the latest warning checkpoint started, with 1 added; 0 while none has. -/
  lastStart : Nat
  lastWarn : Nat
  /-- A checkpoint is due (R430): 0 none, 1 by the interval or a descriptor, 2 by a warning trigger. -/
  due : Nat
  /-- Tiles being written back: handle, number and version (R98). -/
  writing : List (Nat × Nat × Nat)
  /-- Unsent log entries: handle, index, entry, since (R441). -/
  logBuf : List (Nat × Nat × Nat × Nat)
  gaps : List Nat
  streamSeq : Nat
  acked : Nat
  /-- Stream records not acknowledged: SEQ and record. -/
  unacked : List (Nat × List Byte)
  /-- The newest step that the buddy acknowledged, and the steps shipped and not acknowledged, by their SEQ (R443). -/
  shipped : Nat
  ships : List (Nat × Nat)
  /-- FETCH records without an answer: work, OBJECT, REPLY; and what arrived in the stream window, by REPLY (R440). -/
  fetches : List (Nat × Nat × Nat)
  fetched : List (Nat × List Byte)
  fosters : List Foster
  /-- Last NOT_FOSTERED answer to an origin (R439). -/
  lastRefusal : List (Nat × Nat)
  /-- Blocks retired, and pages that a scrub rewrote. -/
  retired : Nat
  /-- Names of the durable-dirty tiles, in the order in which they became so (R98). -/
  dirty : List (Nat × Nat)
  /-- Tiles of closed subjects whose T4 copies are freed at the next successful checkpoint: durable ones and others (R85). -/
  freed : Nat × Nat
  /-- Tiles whose pages the scrub that a start has called for has still to read, before any other background write (R419). -/
  unscrubbed : List (Nat × Nat)
deriving DecidableEq, Repr

/-- An event record's Biholt data (R463), with its timestamp and severity. -/
structure Event where
  reason : Nat
  cls : Nat
  severity : Nat
  count : Nat
  keySlot : Nat
  handle : Nat
  location : Nat
  arg : List Nat
  seq : Nat
  time : Nat
deriving DecidableEq, Repr

/-- Faults and events (ch. 16). -/
structure Flt where
  /-- Unread and read records of the four logs by severity, oldest first (R464). -/
  log0 : List Event
  log1 : List Event
  log2 : List Event
  log3 : List Event
  overflow : List Nat
  /-- When a record was first and last dropped from each log. -/
  overflowAt : List (Nat × Nat)
  /-- Of each log: records that have been cleared since the start, and records at its front that have been read (R464, R540). -/
  cleared : List Nat
  read : List Nat
  seq : Nat
  /-- Domains being recovered: class and place. -/
  recovering : List (Nat × Nat)
  /-- Blocks that have failed over, management cores out of service. -/
  failedOver : List Nat
  coresOut : List Nat
  channelsOut : List Nat
  packagesOut : List Nat
  migrating : List Nat
  vaultsOut : List (Nat × Nat)
  diesOut : List Nat
  rebuilding : List Nat
  bedsOut : List Nat
  /-- When a copy last failed in a DRAM row: tier, place, row (R447). -/
  rowFails : List ((Nat × Nat × Nat) × Nat)
  /-- When copies have failed in a T3 range within a second (R447). -/
  rangeFails : List (Nat × List Nat)
deriving DecidableEq, Repr

/-- A trace record (R492) with its bytes and whether its type is exempt (R493). -/
structure TraceRec where
  seq : Nat
  time : Nat
  exempt : Bool
  body : List Byte
deriving DecidableEq, Repr

/-- An arm (R501): subject, slot, selection (the DUMP operands from offset 24), NAME, firings left (0: no limit). -/
structure Arm where
  no : Nat
  slot : Nat
  handle : Nat
  name : Nat
  left : Nat
  sel : List Nat
deriving DecidableEq, Repr

/-- A firing whose tiles are not all captured (R502): arm, subject, slot, NAME, when fired, tiles left. -/
structure Capture where
  arm : Nat
  handle : Nat
  slot : Nat
  name : Nat
  fired : Nat
  tiles : List Tile
deriving DecidableEq, Repr

/-- Observation (ch. 18). -/
structure Obs where
  ring : List TraceRec
  seq : Nat
  level : Int
  rate : Nat
  arms : List Arm
  captures : List Capture
  /-- Records lost since the last LOSS: count, first and last time (R495). -/
  lost : Nat
  lostFirst : Nat
  lostLast : Nat
  /-- LOST as of the previous DUMP TRACE (R500). -/
  lostSeen : Nat
deriving DecidableEq, Repr

/-- The registers that hold a value of their own: entries that differ from the reset value, the values in force at the
latest start (R10, R509), and per path the latched and staged words of wide registers and the latched sample (R295, R552). -/
structure Regs where
  cells : List ((Fld × Nat) × Nat)
  applied : List ((Fld × Nat) × Nat)
  latch : List (Nat × Nat × Nat)
  staged : List (Nat × Nat × Nat)
  sample : List (Nat × Nat × Nat)
deriving DecidableEq, Repr

/-- Spill, prefetch and promotion under way (ch. 4). -/
structure Moving where
  /-- Scopes in spill: tier and scope number (bed, 0, range), with partition. -/
  spilling : List (Nat × Nat)
  promoting : List (Nat × Nat)
  /-- Prefetch items: source, handle, tile number (R108). -/
  items : List (Nat × Nat × Nat)
  /-- The classes that a medium has served last, the latest first, at most 7 (R108, R110). -/
  served : List ((Nat × Nat) × List Nat)
deriving DecidableEq, Repr

/-- The whole state. -/
structure State where
  model : Model
  regs : Regs
  power : Power
  nv : Nv
  sec : Sec
  cxl : Cxl
  ledg : Ledg
  work : List Work
  nextId : Nat
  units : Units
  subjects : List Subject
  tiles : List Tile
  windows : List (Nat × Binding)
  moving : Moving
  dir : Dir
  models : List ModelSlot
  vocs : List Voc
  adm : Adm
  own : Own
  dur : Dur
  flt : Flt
  beds : List Bed
  obs : Obs
  /-- The time counter in ns (R474). -/
  time : Nat
  /-- The model's own: which free value is next. -/
  free : Nat
  /-- The model's own: what the last command sent out. -/
  out : List Out
  /-- The commands not yet run, first in first out. -/
  pending : List Instr
deriving DecidableEq, Repr

/-- Number of beds (R3). -/
def bedCount : Model → Nat
  | .full => 16
  | .reduced => 8

/-- A bed before any plan of a start: factory rail 0.70 V (assumption 5), floor 0, nominal refresh, patrol 24 h. Log 5 (DESIGN CHOICE). -/
def Bed.fresh (n : Nat) : Bed :=
  { no := n, rail := 700, factoryRail := 700, floor := 0, droop := 0, throttled := false, coreThrottled := false, stopped := false,
    stoppedAt := 0, holds := [], held := false, hot := false, t1Refresh := List.replicate 16 0,
    t2Refresh := List.replicate 4 0, scrub := 24, slackMin := 0, roShift := 0, aboveSince := 0, tempMax := 0, heldSince := 0, heldTime := 0 }

/-- Pins of a module that is inserted, powered and held in reset by its host (assumption 3). Log 3 (DESIGN CHOICE). -/
def Power.reset : Power :=
  { state := .starting, vinMv := 56000, bankMv := 0, pwrfail := .asserted, alert := .floats, perstA := true,
    perstB := true, compat := false, inserted := true, waitBank := none, quiescing := false, warmPending := false, bus := .undecided,
    mbAddr := 0, dynAddr := none, kelgor := none, tap := 0, tapReset := true, scan := [] }

/-- A flash store, SPI NOR and fuses as they leave the factory (assumption 4). Log 4 (DESIGN CHOICE). -/
def Nv.reset : Nv :=
  { fwA := some { svn := 0, image := [] }, fwB := none, imgA := none, imgB := none, active := 0, signers := [], bsSigners := [],
    operators := [], serial := 0, leaseEnd := 0, sets := [], sealed := some true, starts := 0, losses := 0,
    powerHours := 0, ageing := none, probed := false, retention := 0, lifeStretch := [], lifeHeld := [], badPans := [], noStep := false, rowsUsed := [] }

/-- The state right after reset: the start from power-off at its first step (R510), on the model given. -/
def State.resetOf (m : Model) : State :=
  { model := m
    regs := { cells := [], applied := [], latch := [], staged := [], sample := [] }
    power := Power.reset
    nv := Nv.reset
    sec := { slots := [], token := none, haltedCores := [], haltedPans := [], spdm := [],
             history := List.replicate 64 0, trust := [], saveKey := [] }
    cxl := { extents := [], snoop := [], biPending := [], hdm := [], te := [], ide := [], ideKeys := [],
             policy := [0, 0, 0, 0], waiting := [], poisoned := [] }
    ledg := { watched := [], readyWatched := [], readyPolled := [], readyWords := [], stalled := [], coal := [],
              msix := [], pendingVec := [] }
    work := []
    nextId := 0
    units := { active := none, previous := none, staged := none, states := [], drain := none, expired := [], sram := [], current := [],
               saved := [], switching := [], images := [], saves := 0, savedAs := [], next := [], slots := [], steps := [], turn := [], ran := [], pinned := [] }
    subjects := []
    tiles := []
    windows := []
    moving := { spilling := [], promoting := [], items := [], served := [] }
    dir := { entries := [], chains := [], rebuilding := [], salt := List.replicate 32 0 }
    models := []
    vocs := []
    adm := { planners := [], enrolled := 0, meters := [], shapers := [], interval := 100, dispatched := [],
             lastRefusal := [] }
    own := { claims := [], traces := [], queries := [], epochs := [], messages := 0, notices := 0, requests := [], lodged := [], expired := [] }
    dur := { slotA := none, slotB := none, lastStart := 0, lastWarn := 0, due := 0, writing := [], logBuf := [],
             gaps := [], streamSeq := 0, acked := 0, unacked := [], shipped := 0, ships := [], fetches := [], fetched := [], fosters := [],
             lastRefusal := [], retired := 0, dirty := [], freed := (0, 0), unscrubbed := [] }
    flt := { log0 := [], log1 := [], log2 := [], log3 := [], overflow := [0, 0, 0, 0], overflowAt := List.replicate 4 (0, 0), cleared := [0, 0, 0, 0], read := [0, 0, 0, 0], seq := 0, recovering := [],
             failedOver := [], coresOut := [], channelsOut := [], packagesOut := [], migrating := [],
             vaultsOut := [], diesOut := [], rebuilding := [], bedsOut := [], rowFails := [], rangeFails := [] }
    beds := (List.range (bedCount m)).map Bed.fresh
    obs := { ring := [], seq := 0, level := 0, rate := 1000, arms := [], captures := [], lost := 0, lostFirst := 0,
             lostLast := 0, lostSeen := 0 }
    time := 0
    free := 0
    out := []
    pending := [] }

/-- The state after reset of the full part (assumption 2: nothing in a module's state can name its model but the model).
Log 2 (DESIGN CHOICE). -/
def State.reset : State := State.resetOf .full

end Sys2Proof.Machine
end

