-- ==== Sys2Proof/Machine/Ops.lean ====
section
/-! DEFINITION. The named operations over the state that the meanings share: keyed lists, payload cells, registers, events,
interrupts, trace records, subjects, tiles with their versions and copies, capacities, peer messages and notices. -/

namespace Sys2Proof.Machine

/-! ### Keyed lists -/

/-- The value of a key. -/
def aget {κ β : Type} [DecidableEq κ] : List (κ × β) → κ → Option β
  | [], _ => none
  | (k, v) :: t, x => if k = x then some v else aget t x

/-- Remove a key. -/
def adel {κ β : Type} [DecidableEq κ] (l : List (κ × β)) (x : κ) : List (κ × β) := l.filter fun e => e.1 ≠ x

/-- Give a key a value. -/
def aset {κ β : Type} [DecidableEq κ] (l : List (κ × β)) (x : κ) (v : β) : List (κ × β) := (x, v) :: adel l x

/-- Change the elements that meet a condition. -/
def updIf {α : Type} (p : α → Bool) (f : α → α) (l : List α) : List α := l.map fun x => if p x then f x else x

/-- Set element `i` of a list, made longer with `d` where it is too short. -/
def setAt {α : Type} (d : α) : List α → Nat → α → List α
  | [], 0, v => [v]
  | [], i + 1, v => d :: setAt d [] i v
  | _ :: t, 0, v => v :: t
  | h :: t, i + 1, v => h :: setAt d t i v

/-- Insert a number in a rising list without repeats. -/
def insNat (x : Nat) : List Nat → List Nat
  | [] => [x]
  | h :: t => if x < h then x :: h :: t else if x = h then h :: t else h :: insNat x t

/-- Insert before the first element that is not smaller by a key. -/
def insertKey {α : Type} (key : α → Nat) (x : α) : List α → List α
  | [] => [x]
  | h :: t => if key x < key h then x :: h :: t else h :: insertKey key x t

/-- Sort by a key, rising and stable. -/
def sortKey {α : Type} (key : α → Nat) (l : List α) : List α := l.foldl (fun acc x => insertKey key x acc) []

/-- The element with the largest key, the first among equals. -/
def bestBy {α : Type} (key : α → Nat) : List α → Option α
  | [] => none
  | h :: t =>
    match bestBy key t with
    | none => some h
    | some b => if key h < key b then some b else some h

/-- The element with the smallest key, the first among equals. -/
def leastBy {α : Type} (key : α → Nat) : List α → Option α
  | [] => none
  | h :: t =>
    match leastBy key t with
    | none => some h
    | some b => if key b < key h then some b else some h

/-! ### Payload cells (R71, R74: a byte that nothing wrote reads 0) -/

/-- The byte at an offset of a payload. -/
def cellGet : List Host.Cell → Nat → Byte
  | [], _ => 0
  | (k, v) :: t, a => if a = k then v else if a < k then 0 else cellGet t a

/-- Write one byte; a 0 takes no cell. -/
def cellSet : List Host.Cell → Nat → Byte → List Host.Cell
  | [], a, v => if v = 0 then [] else [(a, v)]
  | (k, w) :: t, a, v =>
    if a < k then (if v = 0 then (k, w) :: t else (a, v) :: (k, w) :: t)
    else if a = k then (if v = 0 then t else (a, v) :: t)
    else (k, w) :: cellSet t a v

/-- Offsets above `lo` strictly rise and no cell is 0. -/
def cellsAbove : Nat → List Host.Cell → Bool
  | _, [] => true
  | lo, (k, v) :: t => decide (lo ≤ k) && decide (v ≠ 0) && cellsAbove (k + 1) t

/-- The canonical form of payload cells. -/
def cellsWf (c : List Host.Cell) : Bool := cellsAbove 0 c

/-- Write bytes from an offset upward. -/
def cellWrite (c : List Host.Cell) (a : Nat) : List Byte → List Host.Cell
  | [] => c
  | b :: bs => cellWrite (cellSet c a b) (a + 1) bs

/-- Read `n` bytes from an offset upward. -/
def cellRead (c : List Host.Cell) (a : Nat) : Nat → List Byte
  | 0 => []
  | n + 1 => cellGet c a :: cellRead c (a + 1) n

/-- The cells of a payload given as bytes. -/
def cellsOf (b : List Byte) : List Host.Cell := cellWrite [] 0 b

/-! ### Registers -/

/-- The value of entry `i` of a field: the last one set, or its reset value. -/
def regGet (s : State) (f : Fld) (i : Nat) : Nat :=
  match aget s.regs.cells (f, i) with
  | some v => v
  | none => fldReset s.model f i

/-- How many bits a field has. -/
def fldBits (f : Fld) : Nat := (fldSpec f).hi + 1 - (fldSpec f).lo

/-- Set entry `i` of a field, which holds no more bits than it has. -/
def regSet (s : State) (f : Fld) (i v : Nat) : State :=
  { s with regs := { s.regs with cells := aset s.regs.cells (f, i) (v % 2 ^ fldBits f) } }

/-- The value of a field that exists once. -/
def reg (s : State) (f : Fld) : Nat := regGet s f 0

/-- Set a field that exists once. -/
def setReg (s : State) (f : Fld) (v : Nat) : State := regSet s f 0 v

/-- Add to a counter field of `w` bits, which wraps. -/
def regAdd (s : State) (f : Fld) (i n w : Nat) : State := regSet s f i ((regGet s f i + n) % 2 ^ w)

/-- The value that a field took at the latest start, for fields that apply at the next start. -/
def regApplied (s : State) (f : Fld) : Nat :=
  match aget s.regs.applied (f, 0) with
  | some v => v
  | none => fldReset s.model f 0

/-! ### Outputs, interrupts and events -/

/-- Add to what the command sends out. Log 14 (DESIGN CHOICE). -/
def emit (s : State) (o : Out) : State := { s with out := s.out ++ [o] }

/-- Take a free value: its number, and the state that has taken it. Log 6 (DESIGN CHOICE). -/
def takeFree (s : State) : State := { s with free := s.free + 1 }

/-- An entry of a port's MSI-X table: message address, message data, vector control; masked until it is written. Log 182 (PRESUMED). -/
def vectorEntry (s : State) (p n : Nat) : Nat × Nat × Nat := (aget s.ledg.msix (p, n)).getD (0, 0, 1)

/-- Vector `n` of a port's function is masked. -/
def vectorMasked (s : State) (p n : Nat) : Bool := bit (vectorEntry s p n).2.2 0

/-- Raise a vector of one port's function; a masked one is left pending. -/
def raiseAt (s : State) (p n : Nat) : State :=
  if vectorMasked s p n then
    { s with ledg := { s.ledg with pendingVec := if (p, n) ∈ s.ledg.pendingVec then s.ledg.pendingVec else s.ledg.pendingVec ++ [(p, n)] } }
  else emit s (.vector p n)

/-- Raise an MSI-X vector, on both ports' functions (R331). Log 182 (PRESUMED). -/
def raiseVector (s : State) (n : Nat) : State := raiseAt (raiseAt s 0 n) 1 n

/-- Set the flag of a fault class and count it (R448, R556). -/
def raiseClass (s : State) (c : Nat) : State :=
  let f := reg s .fltStatusClass
  let s := if bit f (c - 1) then s else setReg s .fltStatusClass (f + 2 ^ (c - 1))
  regAdd s .fltClassCntCount c 1 64

/-- The latest fault: class, location and interruption in ns (R451, R452). -/
def setLast (s : State) (c loc ns : Nat) : State :=
  setReg (setReg (setReg s .fltLastClass c) .fltLastLocation loc) .fltLastInterrupt (min ns (2 ^ 32 - 1))

/-- Severity of a reason: 0 Informational, 1 Warning, 2 Failure, 3 Fatal (R465). Reasons from 0x10000 stand for the records
that CXL defines: 1 General Media, 2 DRAM, 3 Memory Module, 4 Dynamic Capacity (R463). -/
def severityOf (reason : Nat) : Nat :=
  if reason ∈ [0x0103, 0x0201, 0x0202, 0x0204, 0x0207, 0x0304, 0x030A, 0x030C, 0x030D, 0x0408, 0x0605, 0x0702, 0x0A02,
               0x0A04, 0x0A07] then 2
  else if reason ∈ [0x0A05, 0x0A08] then 3
  else if reason ∈ [0x0105, 0x0205, 0x0301, 0x0302, 0x0303, 0x0305, 0x0308, 0x0401, 0x0601, 0x0602, 0x0606, 0x0801,
                    0x0802, 0x0901, 0x0902] then 0
  else 1

/-- The log of a severity. -/
def logOf (f : Flt) : Nat → List Event
  | 0 => f.log0
  | 1 => f.log1
  | 2 => f.log2
  | _ => f.log3

/-- Replace the log of a severity. -/
def setLog (f : Flt) (sev : Nat) (l : List Event) : Flt :=
  match sev with
  | 0 => { f with log0 := l }
  | 1 => { f with log1 := l }
  | 2 => { f with log2 := l }
  | _ => { f with log3 := l }

/-- The record that a new one of the same reason, location and slot within 1 ms is coalesced into (R464). -/
def coalesces (e : Event) (reason slot loc now : Nat) : Bool :=
  e.reason == reason && e.keySlot == slot && e.location == loc && decide (now < e.time + 1000000)

/-- Records that each log holds (R464). -/
def logCapacity : Nat := 16384

/-- A log with a new record coalesced or appended, `none` where the log is full (R464). -/
def logWith (l : List Event) (e : Event) : Option (List Event) :=
  if l.any (fun x => coalesces x e.reason e.keySlot e.location e.time) then
    some (updIf (fun x => coalesces x e.reason e.keySlot e.location e.time)
      (fun x => { x with count := min 65535 (x.count + 1) }) l)
  else if l.length < logCapacity then some (l ++ [e])
  else none

/-- Put an event in the log of its severity, or count an overflow (R464). Only Biholt records are counted in SEQ. -/
def fltWith (f : Flt) (e : Event) : Flt :=
  match logWith (logOf f e.severity) e with
  | some l =>
    { setLog f e.severity l with
      seq := if l.length = (logOf f e.severity).length ∨ 0x10000 ≤ e.reason then f.seq else f.seq + 1 }
  | none =>
    let n := f.overflow.getD e.severity 0
    let first := if n = 0 then e.time else (f.overflowAt.getD e.severity (0, 0)).1
    { f with overflow := setAt 0 f.overflow e.severity (n + 1), overflowAt := setAt (0, 0) f.overflowAt e.severity (first, e.time) }

/-- Record an event of a severity (R464): coalesce it, or append it to the log, or count an overflow; raise vector 0 and ALERT_N
as the severity says. Log 30 (DESIGN CHOICE). -/
def eventAt (s : State) (sev reason cls slot handle loc : Nat) (arg : List Nat) : State :=
  let e : Event := { reason := reason, cls := cls, severity := sev, count := 1, keySlot := slot, handle := handle,
                     location := loc, arg := arg, seq := s.flt.seq, time := s.time }
  let s := { s with flt := fltWith s.flt e }
  let s := if sev ≥ 2 then { s with power := { s.power with alert := .asserted } } else s
  if sev ≥ 2 || bit (reg s .fltEvtCfgNotify) sev then raiseVector s 0 else s

/-- The record that CXL defines beside a Biholt record (R463): DRAM for a T2 channel fault or a retired T2 row, Memory Module where the
device's health changes; 0 for none. -/
def cxlRecord (reason loc : Nat) : Nat :=
  if reason ∈ [0x030A, 0x0106] ∧ loc / 2 ^ 56 = 3 then 0x10002
  else if reason ∈ [0x0701, 0x030D, 0x0207, 0x0A05, 0x0A06, 0x0A07, 0x0A08] then 0x10003
  else 0

/-- Record an event (R463 to R465), with the record that CXL defines beside it where there is one. -/
def event (s : State) (reason cls slot handle loc : Nat) (arg : List Nat) : State :=
  let sev := severityOf reason
  let s := eventAt s sev reason cls slot handle loc arg
  if cxlRecord reason loc = 0 then s else eventAt s sev (cxlRecord reason loc) cls slot handle loc []

/-- An event that names no tenant, subject or place. -/
def note (s : State) (reason : Nat) : State := event s reason 0 0xFFFF 0 0 []

/-- LOCATION of R463: kind, bed, position or channel or port, die, number. Log 94 (DEDUCED). -/
def locate (kind bed pos die num : Nat) : Nat :=
  kind * 2 ^ 56 + bed * 2 ^ 48 + pos * 2 ^ 40 + die * 2 ^ 32 + num

/-- LOCATION of a place of a tier: a vault, a T2 channel, a T3 range or a flash die. -/
def placeLoc (tier place : Nat) : Nat :=
  match tier with
  | 1 => locate 2 (place / 16) (place % 16) 0 0
  | 2 => locate 3 (place / 4) place 0 0
  | 3 => locate 10 0 0 0 place
  | _ => locate 4 0 0 place 0

/-- Port number in locations and registers. -/
def portNo : PortId → Nat
  | .a => 0
  | .b => 1

/-- The selector copy of a path (R553). -/
def pathNo : Path → Nat
  | .a => 0
  | .b => 1
  | .mb => 2

/-! ### Counters and the trace -/

/-- A counter's scope covers what happened: device, bed, unit, key slot, port (R489). Log 64 (DEDUCED). -/
def scopeCovers (s : State) (k bed unit slot port : Nat) : Bool :=
  let a := regGet s .obsCntCfgArg k
  match regGet s .obsCntCfgScope k with
  | 0 => true
  | 1 => a == bed
  | 2 => a == unit
  | 3 => a == slot
  | _ => a == port

/-- Add `n` to every counter of a source whose scope and filter cover what happened (R489); 0xFFFF for none. -/
def countAll (s : State) (source filter bed unit slot port n : Nat) : State :=
  let ks := s.regs.cells.filterMap fun c => if c.1.1 = .obsCntCfgSource ∧ c.2 = source then some c.1.2 else none
  ks.foldl (fun s k =>
    if scopeCovers s k bed unit slot port && (regGet s .obsCntCfgFilter k == 0xFF || regGet s .obsCntCfgFilter k == filter)
    then regAdd s .obsCntCount k n 64 else s) s

/-- Bytes in the trace ring. -/
def ringUsed (o : Obs) : Nat := (o.ring.map fun r => r.body.length).sum

/-- Bytes that the trace ring holds (R491). -/
def ringSize (s : State) : Nat := regApplied s .obsTbufCfgMib * 2 ^ 20

/-- The bytes of a trace record (R492). -/
def traceBytes (type flags slot bed time seq handle : Nat) (body payload : List Byte) : List Byte :=
  let n := roundUp payload.length 64
  let units := 1 + n / 64
  [byte type, byte flags] ++ leBytes 2 units ++ leBytes 2 slot ++ [byte bed, 0] ++ leBytes 8 time ++ leBytes 8 seq ++
    leBytes 8 handle ++ slice body 0 32 ++ slice payload 0 n

/-- Count a record as lost (R495). -/
def traceLost (s : State) (n : Nat) : State :=
  let o := s.obs
  regAdd { s with obs := { o with lost := o.lost + n, lostFirst := if o.lost = 0 then s.time else o.lostFirst,
                                  lostLast := s.time } } .obsTbufStatLost 0 n 64

/-- Overwrite the oldest unread records until `n` bytes fit, with a count of fuel (R495). -/
def makeRoom : Nat → State → Nat → State
  | 0, s, _ => s
  | k + 1, s, n =>
    if ringUsed s.obs + n ≤ ringSize s then s
    else match s.obs.ring with
      | [] => s
      | _ :: t => makeRoom k (traceLost { s with obs := { s.obs with ring := t } } 1) n

/-- Put a record into the ring. Log 106 (DEDUCED). -/
def putTrace (s : State) (type flags slot bed handle : Nat) (exempt : Bool) (body payload : List Byte) : State :=
  let b := traceBytes type flags slot bed s.time s.obs.seq handle body payload
  { s with obs := { s.obs with
      ring := s.obs.ring ++ [{ seq := s.obs.seq, time := s.time, exempt := exempt, body := b }], seq := s.obs.seq + 1 } }

/-- Write the LOSS record that stands before the first record after a loss (R493, R495). -/
def flushLoss (s : State) : State :=
  if s.obs.lost = 0 then s
  else
    let o := s.obs
    let s := makeRoom o.ring.length s 64
    let s := putTrace s 0x02 0 0xFFFF 0xFF 0 true (leBytes 8 o.lost ++ leBytes 8 o.lostFirst ++ leBytes 8 o.lostLast) []
    { s with obs := { s.obs with lost := 0, lostFirst := 0, lostLast := 0 } }

/-- Write a trace record (R493 to R496): an exempt one always, another one within the budget and its share of the ring. -/
def trace (s : State) (type flags slot bed handle : Nat) (exempt : Bool) (body payload : List Byte) : State :=
  let n := 64 + roundUp payload.length 64
  if exempt then putTrace (flushLoss (makeRoom s.obs.ring.length s n)) type flags slot bed handle true body payload
  else if s.obs.level ≤ 0 ∨ ringSize s / 64 * 63 < ringUsed s.obs + n then traceLost s 1
  else
    let s := flushLoss s
    putTrace { s with obs := { s.obs with level := s.obs.level - n } } type flags slot bed handle false body payload

/-! ### Key slots -/

/-- The record of a key slot that is not EMPTY. -/
def slotRec (s : State) (k : Nat) : Option KeySlot := s.sec.slots.find? fun x => x.slot == k

/-- State code of a key slot (R394). -/
def slotState (s : State) (k : Nat) : Nat :=
  match slotRec s k with
  | none => 0
  | some x => x.state

/-- The slot is ACTIVE. -/
def slotActive (s : State) (k : Nat) : Bool := slotState s k == 1

/-- POLICY of a slot. -/
def slotPolicy (s : State) (k : Nat) : Nat :=
  match slotRec s k with
  | none => 0
  | some x => x.data.policy

/-- The key in a slot. -/
def keyOf (s : State) (k : Nat) : List Byte := ((slotRec s k).map (·.data.key)).getD []

/-- The consent gate of R411: ACTIVE with CONSENT. -/
def consents (s : State) (k : Nat) : Bool := slotActive s k && bit (slotPolicy s k) 0

/-- The slot's partition (R372). -/
def slotPart (s : State) (k : Nat) : Nat := regGet s .ctxSlotPartPart k

/-! ### Subjects -/

/-- The subject of a handle, whatever its tenant; a closed region that is still referenced is not held any more. -/
def subjOf (s : State) (h : Nat) : Option Subject := s.subjects.find? fun x => x.handle == h && !x.closed

/-- The subject of a handle, or the closed region whose tiles still serve (R127). -/
def subjAny (s : State) (h : Nat) : Option Subject := s.subjects.find? fun x => x.handle == h

/-- Change a subject. -/
def updSubj (s : State) (h : Nat) (f : Subject → Subject) : State :=
  { s with subjects := updIf (fun x => x.handle == h) f s.subjects }

/-- Session-table indices in use (R59), with those that opens not yet completed have taken. -/
def indicesUsed (s : State) : List Nat :=
  s.subjects.map (·.index) ++ s.work.flatMap fun w => w.effects.filterMap fun e =>
    match e with
    | .openSubject x => some x.index
    | _ => none

/-- Session records of the model (R3). -/
def indexLimit (m : Model) : Nat :=
  match m with
  | .full => 16777216
  | .reduced => 8388608

/-- The lowest number from `n` upward that is not in a list, with the list's length as fuel. -/
def lowestFree : Nat → Nat → List Nat → Nat
  | 0, n, _ => n
  | k + 1, n, l => if n ∈ l then lowestFree k (n + 1) l else n

/-- The lowest free session index (R57). -/
def freeIndex (s : State) : Option Nat :=
  let i := lowestFree (indicesUsed s).length 0 (indicesUsed s)
  if i < indexLimit s.model then some i else none

/-- This device's origin. -/
def origin (s : State) : Nat := reg s .sysOriginId

/-- An empty text state (R249). -/
def TextState.empty : TextState :=
  { turnBase := 0, stopped := false, active := false, dead := false, includeStop := true, stopId := 0, pend := [],
    hold := [], policy := 1, stopToken := 0xFFFFFFFF, gstate := 0, release := 0, sampler := zeros 256, stops := [],
    stack := [], image := [] }

/-- A layer with nothing filed. -/
def LayerMap.empty : LayerMap := { pages := [], first := 0, code := [], scale := [], summary := [], patch := [] }

/-- The page of a layer; EMPTY beyond the pages filed. -/
def pageOf (l : LayerMap) (p : Nat) : Page := l.pages.getD p { state := 0, valid := 0, region := none }

/-- The map of a layer. -/
def mapOf (x : Subject) (l : Nat) : LayerMap := x.maps.getD l LayerMap.empty

/-- Blocks filed in a layer (R61, R76): its pages that are FILED, or ABSENT, which were filed; the near window begins after them. -/
def filedIn (l : LayerMap) : Nat := (l.pages.filter fun p => p.state == 2 || p.state == 3).length

/-- FILED_MIN: the smallest number of blocks filed in any layer (R61). Log 143 (DEDUCED). -/
def filedMin (x : Subject) : Nat :=
  match ((List.range x.layers).map fun l => filedIn (mapOf x l)) with
  | [] => 0
  | h :: t => t.foldl min h

/-- Stored dimension (R70). -/
def storedDim (d : Nat) : Nat := 32 * ceilDiv d 32

/-- The subject is a session with the option bit: 0 DURABLE_KV, 1 SX2_ALLOWED, 2 DRAFTING (R61). -/
def hasOption (x : Subject) (k : Nat) : Bool := bit x.options k

/-! ### Tiles -/

/-- Stored bytes of a tile: header and payload. -/
def tileBytes : Nat := 16448

/-- The tile of a subject and number. -/
def tileOf (s : State) (h n : Nat) : Option Tile := s.tiles.find? fun t => t.handle == h && t.number == n


/-- Change a tile. -/
def updTile (s : State) (h n : Nat) (f : Tile → Tile) : State :=
  { s with tiles := updIf (fun t => t.handle == h && t.number == n) f s.tiles }

/-- Tiles of a subject. -/
def tilesOf (s : State) (h : Nat) : List Tile := s.tiles.filter fun t => t.handle == h

/-- The highest tier with the mapped version: 1 to 4, or 0 for none (R87). -/
def masterTier (t : Tile) : Nat :=
  match leastBy (·.tier) (t.copies.filter fun c => c.version == t.version) with
  | none => 0
  | some c => c.tier

/-- The tier and place that a tile is read from: those of its master (R87). -/
def masterPlace (t : Tile) : Nat × Nat :=
  (masterTier t, ((t.copies.find? fun c => c.tier == masterTier t && c.version == t.version).map (·.place)).getD 0)

/-- A copy at the mapped version lies in the tier. -/
def hasCopy (t : Tile) (tier : Nat) : Bool := t.copies.any fun c => c.tier == tier && c.version == t.version

/-- Durable-dirty: durable, referenced, and T4 does not hold the mapped version (R98). -/
def durableDirty (t : Tile) : Bool := t.durable && t.version != 0 && !hasCopy t 4 && t.lodged.isNone

/-- The order in which tiles became durable-dirty, after a tile has changed: one that was dirty keeps its place (R98). -/
def dirtyOrder (s : State) (t : Tile) : List (Nat × Nat) :=
  let name := (t.handle, t.number)
  let was := (s.tiles ++ s.own.lodged).any fun x => x.handle == t.handle && x.number == t.number && durableDirty x
  if !durableDirty t then s.dur.dirty else if was && decide (name ∈ s.dur.dirty) then s.dur.dirty
  else (s.dur.dirty.filter fun e => e ≠ name) ++ [name]

/-- Put a tile in place of the one with its name. -/
def putTile (s : State) (t : Tile) : State :=
  { s with
    tiles := t :: s.tiles.filter fun x => !(x.handle == t.handle && x.number == t.number)
    dur := { s.dur with dirty := dirtyOrder s t } }

/-- The slot of a tile holds its tenant's ACTIVE key, so its stored copies can be read (R67). -/
def readable (s : State) (t : Tile) : Bool := slotActive s t.keySlot && keyOf s t.keySlot == t.key

/-- The version base of a subject (R63). -/
def vfloorOf (s : State) (h : Nat) : Nat :=
  match subjAny s h with
  | none => 0
  | some x => x.vfloor

/-- The version that the next write of a tile number takes (R63). -/
def nextVersion (s : State) (h n : Nat) : Nat :=
  let f := match tileOf s h n with
    | none => 0
    | some t => t.floor
  max f (vfloorOf s h) + 1

/-- A tile number that was never written. -/
def blankTile (h n slot : Nat) : Tile :=
  { handle := h, number := n, version := 0, floor := 0, recFloor := 0, kind := 0, format := 0, layer := 0, count := 0,
    first := 0, durable := false, lowered := false, refiled := [], keySlot := slot, copies := [], wrote := false, lastUse := 0, key := [], verified := true,
    lodged := none, payload := [] }

/-- Assign a version: raise the floor, and the recorded floor to v + 255 when it lies below v (R63). -/
def assignVersion (s : State) (h n slot : Nat) : State :=
  let v := nextVersion s h n
  let t := match tileOf s h n with
    | none => blankTile h n slot
    | some t => t
  putTile s { t with floor := v, recFloor := if t.recFloor < v then v + 255 else t.recFloor }

/-- Ticks of saturated age (R101). -/
def oldest : Nat := 2 ^ 32 - 1

/-- The present last-use tick of 1 ms, counted from 2^32 ticks before the time counter's zero (R101). -/
def tick (s : State) : Nat := s.time / 1000000 + 2 ^ 32

/-- The age of a tile in ticks, saturated (R101). -/
def ageOf (s : State) (t : Tile) : Nat := min oldest (tick s - t.lastUse)

/-- A tile is used (R101). -/
def useTile (s : State) (h n : Nat) : State := updTile s h n fun t => { t with lastUse := tick s }

/-- Add copies of the mapped version in a tier, in place of those that the tier held. -/
def withCopies (t : Tile) (tier : Nat) (places : List Nat) : Tile :=
  { t with
    copies := places.map (fun p => { tier := tier, place := p, version := t.version }) ++
      t.copies.filter fun c => c.tier != tier
    wrote := t.wrote || decide (2 ≤ tier) }

/-- Drop the copies of a tier. -/
def dropTier (t : Tile) (tier : Nat) : Tile := { t with copies := t.copies.filter fun c => c.tier != tier }

/-- The index of a tile's owner. -/
def ownerIndex (s : State) (h : Nat) : Nat :=
  match subjAny s h with
  | none => 0
  | some x => x.index

/-- The home bed of a tile's owner. -/
def homeOf (s : State) (h : Nat) : Nat :=
  match subjAny s h with
  | none => 0
  | some x => x.homeBed

/-- T1 places of a tile on a bed: the vault of its position, and the second copy of a durable tile (R79, R375); a failed vault
takes none (R455). -/
def t1Places (s : State) (t : Tile) (bed : Nat) : List Nat :=
  let p := (ownerIndex s t.handle + t.number) % 16
  ((if t.durable then [p, (p + 8) % 16] else [p]).filter fun v => !((bed, v) ∈ s.flt.vaultsOut)).map (bed * 16 + ·)

/-- The partition that a tile belongs to (R372). -/
def partOf (s : State) (t : Tile) : Nat := slotPart s t.keySlot

/-- The partition's T2 channels that are in service, of a logical package (R370, R454). -/
def chansOf (s : State) (part pkg : Nat) : List Nat :=
  (List.range 4).filterMap fun k =>
    let c := 4 * pkg + k
    if bit (regGet s .ctxPartChanMask part) c && !(decide (c ∈ s.flt.channelsOut)) then some c else none

/-- A logical package takes new tiles: it is in service, no channel of it has failed, and it is not migrating (R454, R462). -/
def packageOpen (s : State) (p : Nat) : Bool :=
  !(p ∈ s.flt.packagesOut) && !(p ∈ s.flt.migrating) && (List.range 4).all fun k => !(4 * p + k ∈ s.flt.channelsOut)

/-- T2 places: a channel of the home bed's group where the partition has one there, else the next logical packages in service;
the second copy of a durable tile in another package (R79, R372). Log 44 (DESIGN CHOICE). -/
def t2Places (s : State) (t : Tile) : List Nat :=
  let n := bedCount s.model
  let ok := (List.range n).filter fun p => packageOpen s p && !(chansOf s (partOf s t) p).isEmpty
  let b := homeOf s t.handle % n
  let order := (ok.filter fun p => decide (b ≤ p)) ++ ok.filter fun p => decide (p < b)
  let chan := fun p => let l := chansOf s (partOf s t) p; l.getD (Config.channel t.handle t.number % l.length) 0
  if t.durable then (order.take 2).map chan else (order.take 1).map chan

/-! ### Capacities -/

/-- Reserved banks of every vault (R371). -/
def reservedBanks (s : State) : Nat := min 32 (4 + regApplied s .ctxSaveMib + ceilDiv (regApplied s .panWeightAreaMib) 16)

/-- Tile banks of a partition (R370, R371). -/
def partBanks (s : State) (p : Nat) : List Nat :=
  (List.range 32).filter fun b => decide (reservedBanks s ≤ b) && bit (regGet s .ctxPartBanksMask p) b

/-- MiB of a partition's tile banks on a bed: 16 for each bank, less those of failed vaults (R371, R455). -/
def t1CapOf (s : State) (bed part : Nat) : Nat :=
  if bed ∈ s.flt.bedsOut ∨ regGet s .ctxPartCtrlValid part ≠ 1 then 0
  else (partBanks s part).length * (16 - (s.flt.vaultsOut.filter fun v => v.1 == bed).length)

/-- MiB of tile banks of a bed, of every valid partition. -/
def t1Cap (s : State) (bed : Nat) : Nat := ((List.range 16).map (t1CapOf s bed)).sum

/-- Tile versions that works have written and no completion has made referenced (R36). Log 79 (DEDUCED). -/
def stagedTiles (s : State) : List Tile :=
  s.work.flatMap fun w => w.effects.filterMap fun e =>
    match e with
    | .tile t => some t
    | _ => none

/-- Every tile whose copies take room here: own, lodged for other owners (R351), and not yet referenced. -/
def heldTiles (s : State) : List Tile := s.tiles ++ s.own.lodged ++ stagedTiles s

/-- Bytes of T1 that a partition's tiles take on a bed. -/
def t1UsedOf (s : State) (bed part : Nat) : Nat :=
  (((heldTiles s).filter fun t => partOf s t == part).map fun t =>
    (t.copies.filter fun c => c.tier == 1 && c.place / 16 == bed).length).sum * tileBytes

/-- Bytes of T1 free for a partition's tiles on a bed. -/
def t1FreeOf (s : State) (bed part : Nat) : Nat := t1CapOf s bed part * 2 ^ 20 - t1UsedOf s bed part

/-- A tile's copies fit in T1 of a bed: a durable tile only where both of its vaults serve (R79). -/
def t1Fits (s : State) (t : Tile) (bed : Nat) : Bool :=
  (t1Places s t bed).length == (if t.durable then 2 else 1) && decide ((t1Places s t bed).length * tileBytes ≤ t1FreeOf s bed (partOf s t))

/-- Usable T2 in MiB, less packages retired (R3, R462). -/
def t2Usable (s : State) : Nat :=
  let per := match s.model with
    | .full => 1024 * 1024 / 16
    | .reduced => 512 * 1024 / 8
  per * (bedCount s.model - s.flt.packagesOut.length)

/-- MiB that the filled regions of T2 take: staging area, model images, vocabularies of the reduced part (R572). -/
def t2Filled (s : State) : Nat :=
  (if s.units.staged.isSome then 64 else 0) + ((s.models.filter fun m => m.state == 2 || m.state == 3).map fun m => ceilDiv m.image.length (2 ^ 20)).sum +
    (match s.model with
     | .full => 0
     | .reduced => (s.vocs.map fun v => ceilDiv v.size (2 ^ 20)).sum)

/-- The T2 tile capacity in MiB (R572). The session table of 512 or 256 MiB takes room twice, since it is mirrored as durable tiles are
(R59, R79). -/
def t2Cap (s : State) : Nat :=
  let table := match s.model with
    | .full => 512
    | .reduced => 256
  t2Usable s - (2 * table + Config.fixedRegions + regApplied s .txtVocAreaMib + 1024 * regApplied s .ctxResAreaGib +
    regApplied s .obsTbufCfgMib + 64 + t2Filled s)

/-- Bytes of T2 that a partition's tiles may take: its share of the channels (R373). -/
def t2CapOf (s : State) (part : Nat) : Nat :=
  let n := 4 * bedCount s.model
  t2Cap s * 2 ^ 20 * ((List.range n).filter fun c => bit (regGet s .ctxPartChanMask part) c).length / n

/-- Bytes that a partition's tiles take in T2. -/
def t2UsedOf (s : State) (part : Nat) : Nat :=
  (((heldTiles s).filter fun t => partOf s t == part).map fun t => (t.copies.filter fun c => c.tier == 2).length).sum * tileBytes

/-- A tile's copies fit in T2. -/
def t2Fits (s : State) (t : Tile) : Bool :=
  let n := (t2Places s t).length
  n == (if t.durable then 2 else 1) && decide (t2UsedOf s (partOf s t) + n * tileBytes ≤ t2CapOf s (partOf s t))

/-- The span of a T3 range in bytes. -/
def t3Size (s : State) (r : Nat) : Nat := regGet s .stoT3SizeSize r * 2 ^ 14

/-- Bytes that tiles take in a T3 range. -/
def t3Used (s : State) (r : Nat) : Nat :=
  ((heldTiles s).map fun t => (t.copies.filter fun c => c.tier == 3 && c.place == r).length).sum * tileBytes

/-- Usable T4 in GiB, its system area (R414). -/
def t4Usable (m : Model) : Nat :=
  match m with
  | .full => 24 * 1024
  | .reduced => 10 * 1024

/-- The system area in GiB (R414). -/
def t4System (m : Model) : Nat :=
  match m with
  | .full => 64
  | .reduced => 32

/-- Bytes of the durable reserve and of the shared space (R415). -/
def t4Reserve (s : State) : Nat := regApplied s .durT4CfgReserveGib * 2 ^ 30

/-- Bytes of the shared space (R415). -/
def t4Shared (s : State) : Nat :=
  (t4Usable s.model - t4System s.model - regApplied s .durT4CfgReserveGib - regApplied s .durT4CfgFosterGib) * 2 ^ 30

/-- Bytes of T4 that tiles of a class take, with those of closed subjects until the next successful checkpoint (R85).
Log 121 (DEDUCED). -/
def t4Used (s : State) (durable : Bool) : Nat :=
  (((heldTiles s).filter fun t => t.durable == durable && t.copies.any fun c => c.tier == 4).length +
    (if durable then s.dur.freed.1 else s.dur.freed.2)) * tileBytes

/-- Durable-pending bytes (R420): durable-dirty tiles, and durable versions staged by work. -/
def pendingBytes (s : State) : Nat :=
  (((s.tiles ++ stagedTiles s).filter durableDirty).length) * tileBytes

/-- Subjects that works are about to open. -/
def openings (s : State) : List Subject :=
  s.work.flatMap fun w => w.effects.filterMap fun e =>
    match e with
    | .openSubject x => some x
    | _ => none

/-- A durable tile number whose room an open or a publication has reserved: the first TOKEN_LOG tile of a session, the tiles of a
durable buffer region (R83 check 5, R361). -/
def isReserved (s : State) (t : Tile) : Bool :=
  (subjAny s t.handle).any fun x =>
    match x.kind with
    | .session => t.number == 0x1000
    | .buffer => x.durable
    | .shared => false

/-- Reserved tiles of a subject that nothing has written yet. -/
def reservedOf (s : State) (x : Subject) : Nat :=
  match x.kind with
  | .session => if (tileOf s x.handle 0x1000).any (fun t => t.version != 0) then 0 else 1
  | .buffer => if x.durable then 65536 * x.windows - ((tilesOf s x.handle).filter fun t => t.version != 0).length else 0
  | .shared => 0

/-- Bytes reserved by earlier opens and publications and not yet used (R83 check 5). -/
def reservedBytes (s : State) : Nat := (((s.subjects ++ openings s).map (reservedOf s)).sum) * tileBytes

/-- Free bytes for durable tiles: reserve and shared space, less what is used, reserved and pending (R83 check 5). -/
def durableFree (s : State) : Nat :=
  t4Reserve s + t4Shared s - t4Used s true - t4Used s false - reservedBytes s - pendingBytes s

/-- The store takes durable tiles: flash is not READ_ONLY and the bank has not failed (R417, R422). -/
def durableWritable (s : State) : Bool := reg s .durFlashState != 3 && reg s .durHoldupFailed != 1

/-- Room for `n` more durable tiles (R83 check 5). -/
def durableRoom (s : State) (n : Nat) : Bool := durableWritable s && decide (n * tileBytes ≤ durableFree s)

/-- Flash dies of the model (R414). -/
def dieCount (m : Model) : Nat :=
  match m with
  | .full => 256
  | .reduced => 96

/-- The die that a version takes in T4, among those in service (R456). -/
def t4Place (s : State) (t : Tile) : Nat :=
  let l := (List.range (dieCount s.model)).filter fun d => !(d ∈ s.flt.diesOut)
  l.getD (Config.flashDie t.handle t.number t.version % l.length) 0

/-- T4 takes a reconstructible tile: flash is not LIMITED and the shared space has room (R415, R417). -/
def sharedRoom (s : State) : Bool :=
  decide (reg s .durFlashState < 2) && decide (t4Used s false + tileBytes ≤ t4Shared s)

/-- The part of a T3 range that tiles take, in units fine enough to order ranges of every size exactly (R102, R107). -/
def t3Load (s : State) (r : Nat) : Nat := if t3Size s r = 0 then 0 else t3Used s r * 2 ^ 128 / t3Size s r

/-- Occupancy of a T3 range in whole per cent (R107). -/
def t3Occ (s : State) (r : Nat) : Nat := if t3Size s r = 0 then 0 else t3Used s r * 100 / t3Size s r

/-- A T3 range takes tiles: it serves, is no compute range (R102), and has room for one more. -/
def t3Room (s : State) (r : Nat) : Bool :=
  regGet s .stoT3StatusState r == 1 && regGet s .stoT3CtrlCompute r == 0 && decide (t3Used s r + tileBytes ≤ t3Size s r)

/-- The T3 range that a new version takes: the lowest occupancy, then the lowest number, as spill chooses (R102, R104). -/
def t3New (s : State) : Option Nat := leastBy (t3Load s) ((List.range 64).filter (t3Room s))

/-- The tier and places that a new version takes: home-bed T1 where it has room, else T2, else for a reconstructible tile a granted
T3 range, else T4 (R104); for a reconstructible tile T4 only while flash takes it (R417). Log 154 (DEDUCED). -/
def placeNew (s : State) (t : Tile) : Option (Nat × List Nat) :=
  if t1Fits s t (homeOf s t.handle) then some (1, t1Places s t (homeOf s t.handle))
  else if t2Fits s t then some (2, t2Places s t)
  else if t.durable then (if durableRoom s 1 then some (4, [t4Place s t]) else none)
  else
    match t3New s with
    | some r => some (3, [r])
    | none => if sharedRoom s then some (4, [t4Place s t]) else none

/-! ### Peers, messages, the board and the stream -/

/-- The entry of `CXL_PEER_MAP` whose ORIGIN names an origin (R342). -/
def peerEntry (s : State) (o : Nat) : Option Nat :=
  (List.range 64).find? fun i => regGet s .cxlPeerMapValid i == 1 && regGet s .cxlPeerMapOrigin i == o

/-- The entry of `CXL_PEER_MAP` whose PBR_ID sent a message. -/
def peerOfPbr (s : State) (pbr : Nat) : Option Nat :=
  (List.range 64).find? fun i => regGet s .cxlPeerMapValid i == 1 && regGet s .cxlPeerMapPbrId i == pbr

/-- A peer message or notice (R343). -/
def peerBytes (type org epoch handle arg reply seq hi : Nat) : List Byte :=
  let b := [byte type] ++ leBytes 3 org ++ leBytes 4 epoch ++ leBytes 8 handle ++ leBytes 8 arg ++ leBytes 8 reply ++
    leBytes 8 seq ++ leBytes 4 hi ++ zeros 12
  b ++ leBytes 8 (crc64 b)

/-- CHECK of a message matches (R343). -/
def peerCheck (m : List Byte) : Bool := field m 56 8 == crc64 (slice m 0 56)

/-- Trace a message that is sent or accepted, with `OBS_TRACE_CFG.PEER` set (R493 types 0x06 and 0x07). -/
def tracePeer (s : State) (type org channel mtype seq : Nat) : State :=
  if reg s .obsTraceCfgPeer = 1 then
    trace s type 0 0xFFFF 0xFF 0 false (leBytes 3 org ++ [byte channel, byte mtype, 0, 0, 0] ++ leBytes 8 seq) []
  else s

/-- Send a peer message to an origin; without a map entry for it nothing goes out (R342). -/
def sendPeer (s : State) (dest type epoch handle arg reply hi : Nat) : State :=
  match peerEntry s dest with
  | none => s
  | some _ =>
    let q := s.own.messages
    let s := emit { s with own := { s.own with messages := q + 1 } }
      (.peer dest (peerBytes type (origin s) epoch handle arg reply q hi))
    tracePeer s 0x06 dest 0 type q

/-- Where the next notice goes: its place in the ring of 65,536 notices of this device's slice of 4 MiB (R344). Log 187 (DESIGN CHOICE). -/
def noticeAddr (s : State) : Nat :=
  reg s .cxlBoardBaseBase * 2 ^ 28 + reg s .cxlBoardCfgSlice * 2 ^ 22 + s.own.notices % 65536 * 64

/-- Write a notice to this device's slice of the board (R330, R344). -/
def sendNotice (s : State) (type epoch handle arg : Nat) : State :=
  let q := s.own.messages
  emit { s with own := { s.own with messages := q + 1, notices := s.own.notices + 1 } } (.notice (noticeAddr s) (peerBytes type (origin s) epoch handle arg 0 q 0))

/-- This device's buddy is named (R438). -/
def buddy (s : State) : Nat := reg s .durBuddyOrigin

/-- A stream record (R440). -/
def streamBytes (type count slot org handle first gen seq : Nat) (body : List Byte) : List Byte :=
  let h := [byte type, byte count] ++ leBytes 2 slot ++ leBytes 3 org ++ [0] ++ leBytes 8 handle ++ leBytes 4 first ++
    leBytes 4 gen ++ leBytes 8 seq
  let d := slice body 0 88
  h ++ leBytes 8 (crc64 (h ++ d)) ++ d

/-- CHECK of a stream record matches (R440). -/
def streamCheck (r : List Byte) : Bool := field r 32 8 == crc64 (slice r 0 32 ++ slice r 40 88)

/-- Send a stream record to the buddy, kept until it is acknowledged (R440, R442). -/
def sendStream (s : State) (type count slot handle first : Nat) (body : List Byte) : State :=
  if buddy s = 0 then s
  else
    let q := s.dur.streamSeq
    let r := streamBytes type count slot (origin s) handle first (reg s .durGenGen) q body
    let s := { s with dur := { s.dur with streamSeq := q + 1, unacked := s.dur.unacked ++ [(q, r)] } }
    if reg s .durBuddyState = 1 then tracePeer (emit s (.stream (buddy s) r)) 0x06 (buddy s) 1 type q else s

/-- The bytes of an ownership record (R340). -/
def ownBytes (o : OwnRec) : List Byte :=
  leBytes 4 o.epoch ++ leBytes 3 o.owner ++ [byte o.state] ++ leBytes 3 o.target ++ [byte (b2n o.granted)] ++ zeros 4 ++
    leBytes 8 o.since ++ zeros 8

/-- Change the ownership record of a subject: durable, with a notice and an OWN record (R341, R442). -/
def setOwn (s : State) (h : Nat) (o : OwnRec) (notice : Nat) : State :=
  let s := updSubj s h fun x => { x with own := o }
  let s := sendNotice s notice o.epoch h 0
  sendStream s 0x02 0 0 h 0 (ownBytes o)

/-! ### The shape of a meaning -/

/-- Run a command that answers a next state: what the previous command sent out is gone. Log 9 (DESIGN CHOICE). -/
def act (s : State) (f : State → State) : Host.Outcome State Fault Refusal := .next (f { s with out := [] })

/-- The device serves (RUNNING, R531). -/
def running (s : State) : Bool := s.power.state == .running

/-- A change that needs the device to be running. -/
def whenRunning (f : State → State) (s : State) : State := if running s then f s else s

/-- The device is in FAILED with its converters on: an input out of range stops them, and FAILED stays (R531, R532). -/
def inFailed (s : State) : Bool := s.power.state == .failed && decide (44000 ≤ s.power.vinMv) && decide (s.power.vinMv ≤ 61000)

/-- The device has converters on and answers registers (R512, R531). -/
def powered (s : State) : Bool := running s || s.power.state == .starting || s.power.state == .quiesced || inFailed s

/-- An idle step: the time counter runs while the PLL does, 10 ns (R474, assumption 8). Log 7 (DESIGN CHOICE). Log 8 (DESIGN CHOICE). -/
def idle (s : State) : State :=
  if powered s then { s with time := (s.time + 10) % 2 ^ 64, out := [] } else { s with out := [] }

end Sys2Proof.Machine
end

