-- ==== Sys2Proof/Machine/Operands.lean ====
section
/-! DEFINITION. Every operand form: the descriptor header in both layouts, the address forms and their reach, windows and
frames of the State Range, the unit that serves an opcode, and the work that a descriptor waits for. -/

namespace Sys2Proof.Machine

/-! ### Status codes (R324) -/

abbrev stDone : Nat := 0x00
abbrev stTruncated : Nat := 0x01
abbrev stConflict : Nat := 0x02
abbrev stNotOwner : Nat := 0x03
abbrev stNotResident : Nat := 0x04
abbrev stReroute : Nat := 0x05
abbrev stDeadline : Nat := 0x06
abbrev stDiscarded : Nat := 0x07
abbrev stPoisoned : Nat := 0x08
abbrev stGrammarDead : Nat := 0x09
abbrev stNoStep : Nat := 0x0A
abbrev stKeyRevoked : Nat := 0x0B
abbrev stRefused : Nat := 0x0C
abbrev stPaused : Nat := 0x0D
abbrev stBad : Nat := 0x0E
abbrev stNoSpace : Nat := 0x0F

/-! ### The descriptor header (R320, R524) -/

/-- Header and operand area of a 128-byte descriptor (R320). -/
def parseFull (d : List Byte) : Hdr × List Byte :=
  ({ opcode := field d 0 1, order := bits (field d 1 1) 1 0, notify := bit (field d 1 1) 2,
     keySlot := bits (field d 4 2) 11 0, deadline := bits (field d 8 4) 23 0, epoch := field d 12 4, tag := field d 16 8,
     clean := bits (field d 1 1) 7 3 == 0 && field d 2 2 == 0 && bits (field d 4 2) 15 12 == 0 && field d 6 2 == 0 &&
       bits (field d 8 4) 31 24 == 0 && field d 24 40 == 0 },
   slice d 64 64)

/-- Header and operand area of a 64-byte descriptor in compatibility mode (R524): bytes 48 to 63 of the area are 0. -/
def parseCompat (d : List Byte) : Hdr × List Byte :=
  ({ opcode := field d 0 1, order := bits (field d 1 1) 1 0, notify := bit (field d 1 1) 2,
     keySlot := bits (field d 2 2) 11 0, deadline := field d 4 3, epoch := field d 12 4, tag := field d 8 4,
     clean := bits (field d 1 1) 7 3 == 0 && bits (field d 2 2) 15 12 == 0 && field d 7 1 == 0 },
   slice d 16 48 ++ zeros 16)

/-- The opcodes of R321. -/
def opcodes : List Nat :=
  [0x01, 0x02, 0x03, 0x04, 0x05, 0x06, 0x07, 0x08, 0x09, 0x10, 0x11, 0x12, 0x13, 0x18, 0x19, 0x1A, 0x20, 0x21, 0x22,
   0x23, 0x28, 0x29, 0x30, 0x31, 0x38]

/-- The subject of a descriptor, 0 where it has none (R321). -/
def subjectIn (op : Nat) (ops : List Byte) : Nat :=
  if op ∈ [0x01, 0x02, 0x03, 0x04, 0x05, 0x06, 0x09, 0x10, 0x11, 0x12, 0x13, 0x18, 0x19, 0x1A, 0x30, 0x31] then
    field ops 0 8
  else if op = 0x07 ∧ field ops 8 1 = 0 then field ops 0 8
  else 0

/-- The unit type that serves an opcode, 0 for a fixed-function block (R22, R321). -/
def unitType (op : Nat) (ops : List Byte) : Nat :=
  if op = 0x10 ∨ op = 0x11 then 1
  else if op = 0x12 ∨ op = 0x13 then 2
  else if op = 0x18 ∨ op = 0x19 ∨ op = 0x1A then 3
  else if op = 0x23 ∧ 0x80 ≤ field ops 0 1 then 4
  else if op = 0x20 ∨ op = 0x21 ∨ op = 0x22 ∨ op = 0x23 then 5
  else 0

/-- The control queue of an opcode (R294); SLUICE and SESSION_CLOSE have none and take number 0x1006. -/
def controlQueue (op : Nat) : Nat :=
  if op ≤ 0x03 then 0x1000
  else if op ≤ 0x06 then 0x1001
  else if op = 0x08 then 0x1002
  else if op = 0x28 ∨ op = 0x29 then 0x1003
  else if op = 0x30 ∨ op = 0x31 then 0x1004
  else if op = 0x38 then 0x1005
  else 0x1006

/-- A number at an offset of the operand area of a work. -/
def opr (w : Work) (off len : Nat) : Nat := field w.ops off len

/-- The subject of a work. -/
def subjectOf (w : Work) : Nat := subjectIn w.hdr.opcode w.ops

/-- Every byte of the operand area outside the given (offset, size) fields is 0. -/
def reservedClear (w : Work) (used : List (Nat × Nat)) : Bool :=
  (List.range 64).all fun i => used.any (fun f => decide (f.1 ≤ i) && decide (i < f.1 + f.2)) || w.ops.getD i 0 == 0

/-! ### Address forms (R301) -/

/-- What an address field names. -/
inductive Addr where
  | none
  | state (off : Nat)
  | fabric (addr : Nat)
  | bad
deriving DecidableEq, Repr

/-- Read an address field (R301). -/
def addrOf (n : Nat) : Addr :=
  if n = 0 then .none
  else if bit n 63 then (if bits n 62 46 = 0 then .state (bits n 45 0) else .bad)
  else if bits n 62 52 = 0 then .fabric (bits n 51 0)
  else .bad

/-- The valid `CXL_AMAP` entry that a fabric span lies wholly within (R302). -/
def amapEntry (s : State) (a len : Nat) : Option Nat :=
  (List.range 256).find? fun i =>
    regGet s .cxlAmapValid i == 1 && decide (regGet s .cxlAmapBase i * 4096 ≤ a) &&
      decide (a + len ≤ (regGet s .cxlAmapBase i + regGet s .cxlAmapSize i) * 4096)

/-- The entry permits a key slot. -/
def amapPermits (s : State) (i slot : Nat) : Bool :=
  regGet s .cxlAmapAnySlot i == 1 || regGet s .cxlAmapSlot i == slot

/-- A selective stream is established on a port (R309). -/
def streamUp (s : State) (port stream : Nat) : Bool := (port, stream) ∈ s.cxl.ide

/-- A KIND 1 span whose stream is down while IDE is required (R310). -/
def ideDown (s : State) (i : Nat) : Bool :=
  reg s .cxlIdeCtrlRequired == 1 && regGet s .cxlAmapKind i == 1 &&
    !streamUp s (regGet s .cxlAmapPort i) (regGet s .cxlAmapStream i)

/-! ### Windows and frames of the State Range (R90, R91) -/

/-- The binding of a window. -/
def bindingOf (s : State) (w : Nat) : Option Binding := aget s.windows w

/-- The window exists. -/
def windowExists (s : State) (w : Nat) : Bool := decide (w < reg s .stoRangeWindows)

/-- The subject whose tiles a window shows. -/
def boundTo : Binding → Nat
  | .region h _ => h
  | .view h _ => h

/-- The tile number that a frame of a window shows (R91). -/
def frameTile (b : Binding) (f : Nat) : Nat :=
  match b with
  | .region _ j => 65536 * j + f
  | .view _ base => base + f

/-- The tile that a State Range offset shows: handle and number. -/
def tileAt (s : State) (off : Nat) : Option (Nat × Nat) :=
  (bindingOf s (off / 2 ^ 30)).map fun b => (boundTo b, frameTile b (off / 2 ^ 14 % 65536))

/-- Windows that a span of the State Range touches. -/
def spanWindows (off len : Nat) : List Nat :=
  (List.range ((off + len - 1) / 2 ^ 30 + 1 - off / 2 ^ 30)).map fun i => off / 2 ^ 30 + i

/-- Frames that a span of the State Range touches, by their first offset. -/
def spanFrames (off len : Nat) : List Nat :=
  if len = 0 then []
  else (List.range ((off + len - 1) / 2 ^ 14 + 1 - off / 2 ^ 14)).map fun i => (off / 2 ^ 14 + i) * 2 ^ 14

/-- State Range lines (offset div 64) that show a tile, as first lines of frames of 256 lines (R91). -/
def framesOf (s : State) (h n : Nat) : List Nat :=
  s.windows.filterMap fun e =>
    match e.2 with
    | .region x j => if x = h ∧ n / 65536 = j then some (e.1 * 2 ^ 24 + n % 65536 * 256) else none
    | .view x base => if x = h ∧ base ≤ n ∧ n < base + 65536 then some (e.1 * 2 ^ 24 + (n - base) * 256) else none

/-- The lines of a tile that hosts hold, by the snoop filter (R304). -/
def heldLines (s : State) (h n : Nat) : List (Nat × Nat) :=
  let fs := framesOf s h n
  s.cxl.snoop.filter fun e => fs.any fun f => decide (f ≤ e.2) && decide (e.2 < f + 256)

/-- A State Range span lies within windows bound to subjects of a tenant, REGION windows where it is written (R302). -/
def stateReach (s : State) (slot off len : Nat) (write : Bool) : Bool :=
  (spanWindows off len).all fun w =>
    windowExists s w &&
      match bindingOf s w with
      | some (.region h _) => (subjAny s h).any fun x => x.keySlot == slot
      | some (.view h _) => !write && (subjAny s h).any fun x => x.keySlot == slot
      | none => false

/-- Whether an operand passes R302 and R310: `none` if it does, else the reason of the event. -/
def reachFault (s : State) (slot : Nat) (a : Addr) (len : Nat) (write : Bool) : Option Nat :=
  match a with
  | .state off => if decide (off + len ≤ 2 ^ 46) && stateReach s slot off len write then none else some 0x0401
  | .fabric f =>
    match amapEntry s f len with
    | none => some 0x0401
    | some i => if !amapPermits s i slot then some 0x0401 else if ideDown s i then some 0x0405 else none
  | _ => some 0x0401

/-- A fabric span overlaps a granted T3 range that is not a compute range (R334). -/
def inT3 (s : State) (a len : Nat) : Bool :=
  (List.range 64).any fun r =>
    regGet s .stoT3CtrlValid r == 1 && regGet s .stoT3CtrlCompute r == 0 &&
      decide (a < (regGet s .stoT3BaseBase r + regGet s .stoT3SizeSize r) * 2 ^ 14) &&
      decide (regGet s .stoT3BaseBase r * 2 ^ 14 < a + len)

/-- A register source passes R574: within one valid entry, or within REGION windows of any tenant. -/
def sourceReach (s : State) (a : Addr) (len : Nat) : Bool :=
  match a with
  | .fabric f => (amapEntry s f len).isSome
  | .state off =>
    decide (off + len ≤ 2 ^ 46) && (spanWindows off len).all fun w =>
      windowExists s w &&
        match bindingOf s w with
        | some (.region _ _) => true
        | _ => false
  | _ => false

/-! ### Ports -/

/-- `CXL_PORT_STATUS.LINK` in L0: 0 down, 1 training, 2 L0, 3 recovery, 4 failed (R559). -/
def linkUp : Nat := 2

/-- The port has not failed. -/
def portUp (s : State) (p : Nat) : Bool := regGet s .cxlPortStatusLink p != 4

/-- The port's protection is established or not required (R310). -/
def portProtected (s : State) (p : Nat) : Bool :=
  reg s .cxlIdeCtrlRequired != 1 || (streamUp s p 64 && streamUp s p 65)

/-! ### Units (R22 to R30) -/

/-- The outermost unit above a unit in a tree, with the number of units as fuel. -/
def rootIn : Nat → List UnitEnt → Nat → Nat
  | 0, _, u => u
  | k + 1, us, u =>
    match us.find? fun x => x.id == u with
    | none => u
    | some x => if x.parent = 0xFFFF then u else rootIn k us x.parent

/-- Outermost units that a container declares. -/
def rootsOf (c : Container) : List Nat := (c.units.filter fun u => u.parent == 0xFFFF).map (·.id)

/-- The units of a configuration: a partial replaces the outermost units that it declares, with their descendants (R48). -/
def configUnits (c : UnitConfig) : List UnitEnt :=
  match c.part with
  | none => c.full.units
  | some p => (c.full.units.filter fun u => !(rootIn c.full.units.length c.full.units u.id ∈ rootsOf p)) ++ p.units

/-- The pan assignments of a configuration. -/
def configPans (c : UnitConfig) : List PanEnt :=
  match c.part with
  | none => c.full.pans
  | some p =>
    let ids := (configUnits c).map (·.id)
    (c.full.pans.filter fun e => decide (e.unit ∈ ids) &&
      !(p.pans.any fun q => q.bed == e.bed && q.pos == e.pos)) ++ p.pans

/-- The scorer bindings of a configuration. -/
def configScorers (c : UnitConfig) : List (Nat × Nat) :=
  match c.part with
  | none => c.full.scorers
  | some p => p.scorers ++ c.full.scorers.filter fun e => !(p.scorers.any fun q => q.1 == e.1)

/-- The active units. -/
def unitsOf (s : State) : List UnitEnt :=
  match s.units.active with
  | none => []
  | some c => configUnits c

/-- The active pan assignments. -/
def pansOf (s : State) : List PanEnt :=
  match s.units.active with
  | none => []
  | some c => configPans c

/-- A unit by its identifier. -/
def unitEnt (s : State) (u : Nat) : Option UnitEnt := (unitsOf s).find? fun x => x.id == u

/-- The outermost unit above a unit. -/
def rootOf (s : State) (u : Nat) : Nat := rootIn (unitsOf s).length (unitsOf s) u

/-- Leaves of the active configuration. -/
def leaves (s : State) : List UnitEnt := (unitsOf s).filter fun u => u.dispatch == 0

/-- The leaf of a pan. -/
def leafOfPan (s : State) (bed pos : Nat) : Option Nat :=
  ((pansOf s).find? fun p => p.bed == bed && p.pos == pos).map (·.unit)

/-- The bed is out of service by a BED, clock, margin or temperature fault. -/
def bedOut (s : State) (b : Nat) : Bool :=
  decide (b ∈ s.flt.bedsOut) || s.beds.any fun x => x.no == b && (x.held || x.hot)

/-- A leaf is HELD: its bed is out, or one of its positions is lost (R25, R53). -/
def leafHeld (s : State) (u : UnitEnt) : Bool :=
  bedOut s u.bed || (pansOf s).any fun p => p.unit == u.id && regGet s .panMapLost (p.bed * 16 + p.pos) == 1

/-- A unit is HELD; a composite when every child is (R30). -/
def heldFrom : Nat → State → UnitEnt → Bool
  | 0, _, _ => false
  | k + 1, s, u =>
    if u.dispatch = 0 then leafHeld s u
    else ((unitsOf s).filter fun c => c.parent == u.id).all fun c => heldFrom k s c

/-- A unit is HELD. -/
def unitHeld (s : State) (u : UnitEnt) : Bool := heldFrom (unitsOf s).length s u

/-- Outermost units of a type. -/
def outermost (s : State) (t : Nat) : List UnitEnt := (unitsOf s).filter fun u => u.parent == 0xFFFF && u.type == t

/-- Work queued in a queue. -/
def queued (s : State) (q : Nat) : List Work := s.work.filter fun w => w.place == .queued q

/-- A unit contains a leaf on a bed. -/
def unitOnBed (s : State) (u bed : Nat) : Bool := (leaves s).any fun l => l.bed == bed && rootOf s l.id == u

/-- State code of an outermost unit (R25). -/
def unitState (s : State) (u : UnitEnt) : Nat :=
  match aget s.units.states u.id with
  | some c => c
  | none =>
    if unitHeld s u then 4
    else if s.work.any (fun w => match w.place with
        | .queued q => q == u.id
        | .flight l => rootOf s l == u.id
        | _ => false) then 1
    else 0

/-- The order of preference of R27: home bed, then fewest queued, then lowest identifier. -/
def preferUnit (s : State) (home : Option Nat) (us : List UnitEnt) : Option UnitEnt :=
  leastBy (fun u => (if (match home with
      | some b => unitOnBed s u.id b
      | none => true) then 0 else 2 ^ 40) + (queued s u.id).length * 2 ^ 16 + u.id) us

/-- The home bed that dispatch prefers: the session's, for the opcodes of far-attention and drafter units (R27). -/
def dispatchHome (s : State) (op h : Nat) : Option Nat :=
  if op ∈ [0x10, 0x11, 0x12, 0x13] then (subjAny s h).map (·.homeBed) else none

/-- The unit that a DRAFT with MODE DRAFT is bound to: the unit of the session's model slot (R221). -/
def boundUnit (s : State) (op : Nat) (ops : List Byte) : Option Nat :=
  if op = 0x12 ∧ field ops 16 1 = 0 then
    match (subjOf s (field ops 0 8)).bind (·.draft) with
    | none => none
    | some d => (s.models.find? fun m => m.slot == d.slot && m.state == 2).map (·.unit)
  else none

/-- Units eligible for a descriptor: of its type and not HELD; the bound one for a scorer code and for MODE DRAFT. -/
def eligible (s : State) (op : Nat) (ops : List Byte) : List UnitEnt :=
  let t := unitType op ops
  let us := (outermost s t).filter fun u => !unitHeld s u
  if t = 4 then
    match s.units.active.bind (fun c => aget (configScorers c) (field ops 0 1)) with
    | none => []
    | some u => us.filter fun x => x.id == u
  else
    match boundUnit s op ops with
    | none => us
    | some u => us.filter fun x => x.id == u

/-- Where a descriptor goes: a unit's queue, held for dispatch, or no unit at all (R27). -/
inductive Route where
  | unit (u : Nat)
  | full (u : Nat)
  | nowhere
deriving DecidableEq, Repr

/-- Dispatch by R27. -/
def route (s : State) (op : Nat) (ops : List Byte) : Route :=
  let us := eligible s op ops
  let home := dispatchHome s op (subjectIn op ops)
  match preferUnit s home (us.filter fun u => decide ((queued s u.id).length < u.depth)) with
  | some u => .unit u.id
  | none =>
    match preferUnit s home us with
    | some u => .full u.id
    | none => .nowhere

/-- Capacity of a queue of R294. -/
def queueDepth (s : State) (q : Nat) : Nat :=
  if q < 0x1000 then
    match unitEnt s q with
    | some u => u.depth
    | none => 0
  else 4096

/-- Yellow threshold of a queue: the field once written, else half of its capacity (R294). -/
def yellow (s : State) (q : Nat) : Nat :=
  match aget s.regs.cells (.admQyelThreshold, q) with
  | some v => v
  | none => queueDepth s q / 2

/-- Count a dispatch from a queue, sample it at every 1,024th and keep the maxima (R295). -/
def countDispatch (s : State) (q : Nat) (w : Work) : State :=
  let n := (aget s.adm.dispatched q).getD 0 + 1
  let s := { s with adm := { s.adm with dispatched := aset s.adm.dispatched q n } }
  let depth := (queued s q).length
  let delay := s.time - w.acceptTime
  let s := if regGet s .admQmaxDepth q < depth then regSet s .admQmaxDepth q depth else s
  let s := if regGet s .admQmaxDelay q < delay then regSet s .admQmaxDelay q (min delay (2 ^ 32 - 1)) else s
  if n % 1024 = 0 then
    regAdd (regSet (regSet s .admQsampDepth q depth) .admQsampDelay q (min delay (2 ^ 32 - 1))) .admQsampSeq q 1 16
  else s

/-! ### Work -/

/-- A work by its number in the order of acceptance. -/
def workOf (s : State) (id : Nat) : Option Work := s.work.find? fun w => w.id == id

/-- Bytes of an element of a REDUCE (R336). -/
def elemBytes (w : Work) : Nat := if field w.ops 0 1 = 0x20 then 1 else if field w.ops 1 1 = 0x11 then 2 else 4

/-- Change a work. -/
def updWork (s : State) (id : Nat) (f : Work → Work) : State := { s with work := updIf (fun w => w.id == id) f s.work }

/-- End a work with its status, result and the effects that its completion will make referenced. It stands last among the works:
completions are written in the order in which descriptors finish (R325). -/
def finish (s : State) (id status : Nat) (result : List Byte) (effects : List Effect) : State :=
  let ended := (s.work.filter fun w => w.id == id).map fun w =>
    { w with place := .ended, status := some status, result := slice result 0 16, effects := effects, transfers := [],
             shaping := [], waits := [], suspendedAt := [], shares := [] }
  { s with work := s.work.filter (fun w => w.id != id) ++ ended }

/-- End a work without any effect. -/
def fail (s : State) (id status : Nat) : State := finish s id status [] []

/-- The work has not ended. -/
def unfinished (w : Work) : Bool := w.place != .ended

/-- The work cannot go on: it is pre-empted at a holder (R378), or a share of it has not been read yet (R30). -/
def paused (w : Work) : Bool := !w.suspendedAt.isEmpty || w.shares.any fun x => !x.read

/-- The work is in flight (R26), on a leaf or in a fixed-function block. -/
def inFlight (w : Work) : Bool :=
  match w.place with
  | .flight _ => true
  | _ => false

/-- The work waits in the device's order, for dispatch or in a queue: it is not in flight. -/
def notStarted (w : Work) : Bool :=
  match w.place with
  | .waiting => true
  | .forDispatch => true
  | .queued _ => true
  | _ => false

/-- End every unfinished work that meets a condition, without effect (R37, R449). -/
def failAll (s : State) (p : Work → Bool) (status : Nat) : State :=
  (s.work.filter fun w => unfinished w && p w).foldl (fun s w => fail s w.id status) s

/-- The ledger of a work admits any key slot. -/
def anySlot (s : State) (w : Work) : Bool := regGet s .ldgCfgAnySlot w.ledger == 1

/-- The context of a work (R368). -/
def contextOf (s : State) (w : Work) : Nat := regGet s .ldgCfgCtx w.ledger

/-- The context is in compatibility mode (R386, R523). -/
def compatCtx (s : State) (c : Nat) : Bool := s.power.compat || regGet s .ctxCfgCompat c == 1

/-- The ledger is in compatibility mode. -/
def compatLedger (s : State) (l : Nat) : Bool := compatCtx s (regGet s .ldgCfgCtx l)

/-! ### What a descriptor waits for (R113, R121, R236, R277, R327, R329, R345, R362) -/

/-- A sluice holds a later descriptor back (R329). -/
def sluiceHolds (x w : Work) : Bool :=
  x.hdr.opcode == 0x07 &&
    match opr x 8 1 with
    | 0 => x.hdr.keySlot == w.hdr.keySlot && subjectOf x != 0 && subjectOf x == subjectOf w
    | 1 => x.ledger == w.ledger && x.hdr.keySlot == w.hdr.keySlot
    | _ => bit (opr x 9 1) 0 || x.hdr.keySlot == w.hdr.keySlot

/-- An earlier descriptor is in the scope of a sluice (R329). Log 145 (DEDUCED). -/
def sluiceScope (w x : Work) : Bool :=
  match opr w 8 1 with
  | 0 => x.hdr.keySlot == w.hdr.keySlot && subjectOf w != 0 && subjectOf x == subjectOf w
  | 1 => x.hdr.keySlot == w.hdr.keySlot
  | _ => bit (opr w 9 1) 0 || x.hdr.keySlot == w.hdr.keySlot

/-- Opcodes that R236 runs one at a time for one session. -/
def textOrder (w : Work) : Bool :=
  w.hdr.opcode ∈ [0x12, 0x13, 0x19, 0x1A] || (w.hdr.opcode == 0x18 && bit (opr w 37 1) 0)

/-- The descriptor accepted earlier must complete before `w` starts. -/
def waitsOn (w x : Work) : Bool :=
  let sameSubject := subjectOf w != 0 && subjectOf x == subjectOf w && x.hdr.keySlot == w.hdr.keySlot
  let sameLedger := x.ledger == w.ledger
  (w.hdr.order == 1 && sameLedger && (subjectOf w == 0 || sameSubject)) ||
  (w.hdr.order == 2 && sameLedger) ||
  sluiceHolds x w ||
  (w.hdr.opcode == 0x07 && sluiceScope w x) ||
  (w.hdr.opcode == 0x01 && sameSubject && x.hdr.opcode != 0x09) ||
  (x.hdr.opcode == 0x01 && sameSubject && w.hdr.opcode ∈ [0x10, 0x11, 0x12, 0x13, 0x01, 0x02, 0x03, 0x04, 0x06]) ||
  (w.hdr.opcode == 0x03 && x.hdr.opcode == 0x03 && sameSubject) ||
  (w.hdr.opcode == 0x04 && sameSubject && x.hdr.opcode != 0x09) ||
  (w.hdr.opcode == 0x06 && x.hdr.opcode == 0x06 && sameSubject) ||
  (textOrder w && textOrder x && sameSubject) ||
  (w.hdr.opcode == 0x38 && x.hdr.opcode == 0x38 && opr w 1 1 == 0 && opr x 1 1 == 0 && opr w 0 1 == opr x 0 1)

/-- The numbers of the works that a new one waits for. -/
def waitList (s : State) (w : Work) : List Nat := (s.work.filter fun x => waitsOn w x).map (·.id)

end Sys2Proof.Machine
end

