-- ==== Sys2Proof/Machine/Flags.lean ====
section
/-! DEFINITION. Every flag and every register as software sees it: values that a register reads, the fields that another
piece of state computes, the effect of a write by its access code, wide registers and denied writes. -/

namespace Sys2Proof.Machine

/-- Add to a counter field, which wraps at its width. -/
def countReg (s : State) (f : Fld) (i n : Nat) : State := regAdd s f i n ((fldSpec f).hi + 1 - (fldSpec f).lo)

/-! ### Values that other state gives -/

/-- A bed by its number. -/
def bedRec (s : State) (b : Nat) : Option Bed := s.beds.find? fun x => x.no == b

/-- Change a bed. -/
def updBed (s : State) (b : Nat) (f : Bed → Bed) : State := { s with beds := updIf (fun x => x.no == b) f s.beds }

/-- Two-bit codes from the least significant place up (R486). -/
def packCodes : List Nat → Nat
  | [] => 0
  | c :: t => c % 4 + 4 * packCodes t

/-- The stretch of a bed in sixteenths: the floor with what droop detectors add, 4 while throttled (R470, R546). -/
def stretchOf (b : Bed) : Nat := if b.throttled || b.coreThrottled then 4 else min 4 (b.floor + b.droop)

/-- Holds of a bed within the last 24 h (R480). -/
def recentHolds (now : Nat) (b : Bed) : Nat := (b.holds.filter fun t => decide (now < t + 86400000000000)).length

/-- The bed runs above its floor (R470). -/
def aboveFloor (b : Bed) : Bool := decide (b.floor < stretchOf b)

/-- The bed is held, for margin or temperature (R480, R546). -/
def isHeld (b : Bed) : Bool := b.held || b.hot

/-- A bed that was `b` and is `c` now, with the time that it spends held (R486). -/
def heldNote (s : State) (b c : Bed) : Bed :=
  if isHeld c && !isHeld b then { c with heldSince := s.time }
  else if isHeld b && !isHeld c then { c with heldTime := c.heldTime + (s.time - b.heldSince) }
  else c

/-- Change a bed, with the time that it spends above its floor (R470) and held (R486). -/
def setBed (s : State) (k : Nat) (f : Bed → Bed) : State :=
  match bedRec s k with
  | none => s
  | some b =>
    let c := heldNote s b (f b)
    let s := if aboveFloor b && !aboveFloor c then regAdd s .clkBedStretchTime k ((s.time - b.aboveSince) / 1000) 64 else s
    updBed s k fun _ => if aboveFloor c && !aboveFloor b then { c with aboveSince := s.time } else c

/-- A stopped bed restarts (R472, R476): its gap is kept, and a RESUME record is written. -/
def wakeBed (s : State) (k : Nat) : State :=
  match bedRec s k with
  | none => s
  | some b =>
    if b.stopped then
      let gap := s.time - b.stoppedAt
      let s := regSet (updBed s k fun b => { b with stopped := false }) .clkBedGapGap k gap
      trace s 0x03 0 0xFFFF k 0 true (leBytes 8 b.stoppedAt ++ leBytes 8 s.time ++ leBytes 8 gap) []
    else s

/-- A warning trigger fires (R430): flagged and counted; it asks for a checkpoint unless a warning checkpoint started within the
holdoff. The triggers are numbered in the order of R430's table. -/
def warn (s : State) (k : Nat) : State :=
  let f := reg s .durWarnStatTrigger
  let s := regAdd (if bit f k then s else setReg s .durWarnStatTrigger (f + 2 ^ k)) .durWarnStatWarnCnt 0 1 32
  if s.dur.lastWarn ≠ 0 ∧ s.time + 1 < s.dur.lastWarn + 1000000 * reg s .durWarnCfgHoldoff then s
  else { s with dur := { s.dur with due := 2 } }

/-- The harrow raises MARGIN about a bed (R465): an event, which fires the margin trigger. Log 103 (DEDUCED). -/
def margin (s : State) (bed : Nat) (arg : List Nat) : State := warn (event s 0x0A01 8 0xFFFF 0 (locate 6 bed 0 0 0) arg) 1

/-- The flush rate in bytes per second and the flush power in watts (R414). -/
def flushRate (m : Model) : Nat × Nat :=
  match m with
  | .full => (26000000000, 450)
  | .reduced => (13000000000, 300)

/-- The energy limit in bytes for a usable energy in tenths of a joule (R422). -/
def energyLimit (m : Model) (e : Nat) : Nat :=
  let r := (flushRate m).1
  let p := (flushRate m).2
  r * (800 * e - 202 * p) / (10000 * p)

/-- The durable-dirty bound in MiB (R420). -/
def ddEffective (s : State) : Nat := min (reg s .durDdCfgBound) (energyLimit s.model (reg s .durHoldupEnergy) / 2 ^ 20)

/-- Durable-pending bytes have reached the bound (R421). -/
def ddFull (s : State) : Bool := decide (ddEffective s * 2 ^ 20 ≤ pendingBytes s)

/-- The largest flash scrub period for a wear (R485). -/
def scrubDays (used : Nat) : Nat := if used < 50 then 60 else if used < 90 then 7 else 3

/-- Blocks that each directory bucket's chain links. -/
def chainOf (s : State) (b : Nat) : Nat := ((aget s.dir.chains b).getD []).length

/-- KIND, SCOPE, and an empty CARE over SCOPE, of a directory entry (R129, R131). -/
def entryKind (e : DirEntry) : Nat := e.tag / 4096
def entryScope (e : DirEntry) : Nat := e.tag % 4096
def entryOpen (e : DirEntry) : Bool := e.care % 4096 == 0

/-- Valid entries of the directory that meet a condition. -/
def dirCount (s : State) (p : DirEntry → Bool) : Nat := (s.dir.entries.filter fun e => e.2.valid && p e.2).length

/-- A selected model slot. -/
def modelOf (s : State) (k : Nat) : Option ModelSlot := s.models.find? fun m => m.slot == k

/-- A loaded vocabulary by its entry. -/
def vocAt (s : State) (k : Nat) : Option Voc := s.vocs.find? fun v => v.entry == k

/-- A loaded vocabulary by its VOCAB_ID. -/
def vocById (s : State) (id : Nat) : Option Voc := s.vocs.find? fun v => v.id == id

/-- A shaper by direction and slot. -/
def shaperOf (s : State) (k : Nat) : Option Shaper := s.adm.shapers.find? fun x => x.no == k

/-- A signed level in 64 bits. -/
def signed64 (i : Int) : Nat := (i % (2 ^ 64 : Int)).toNat

/-- Code of `SYS_PWR.STATE` (R557). -/
def powerCode : PowerState → Nat
  | .starting => 1
  | .running => 2
  | .quiesced => 3
  | .holdUp => 4
  | .failed => 5
  | .off => 0
  | .thermalOff => 0

/-- Overflow blocks of the directory (R134). -/
def dirBlocks (m : Model) : Nat :=
  match m with
  | .full => 1048576
  | .reduced => 524288

/-- Debug reach is open (R412): by lifecycle or token, and with the consent of every slot that is not EMPTY. -/
def debugReach (s : State) : Bool :=
  (reg s .secLifecycleState == 0 || (reg s .secLifecycleState == 1 && s.sec.token.isSome)) && s.sec.slots.all fun k => bit k.data.policy 0

/-- The value of entry `i` of a field as a read returns it: from its home where another piece of state holds it. Log 132 (DESIGN CHOICE).
Log 179 (DESIGN CHOICE). -/
def readField (s : State) (f : Fld) (i : Nat) : Nat :=
  match f with
  | .sysPwrVinMv => s.power.vinMv
  | .sysPwrInputW => Config.number s.free % 2 ^ 16
  | .sysPwrState => powerCode s.power.state
  | .sysNvStatusActive => s.nv.active
  | .clkTimeTime => s.time
  | .clkHrwScrubEffective => ((bedRec s i).map fun b => min b.scrub (reg s .clkHrwScrubHours)).getD 0
  | .clkBedStateHolds => ((bedRec s i).map fun b => min 15 (recentHolds s.time b)).getD 0
  | .clkBedStretchTime =>
    regGet s f i + ((bedRec s i).map fun b => if aboveFloor b then (s.time - b.aboveSince) / 1000 else 0).getD 0
  | .clkBedStateRail => ((bedRec s i).map (·.rail)).getD 0
  | .clkBedStateFloor => ((bedRec s i).map (·.floor)).getD 0
  | .clkBedStateStretch => ((bedRec s i).map stretchOf).getD 0
  | .clkBedStateState => ((bedRec s i).map fun b => if bedOut s i then 2 else if b.stopped then 1 else 0).getD 0
  | .clkRefreshT1 => ((bedRec s i).map fun b => packCodes b.t1Refresh).getD 0
  | .clkRefreshT2 => ((bedRec s i).map fun b => packCodes b.t2Refresh).getD 0
  | .cxlPortStatusIdeCm => b2n (streamUp s i 64)
  | .cxlPortStatusIdeLink => b2n (streamUp s i 65)
  | .stoT1CapCap => if i < bedCount s.model then t1Cap s i else 0
  | .stoT2CapCap => t2Cap s
  | .stoT3StatusOcc => t3Occ s i
  | .stoT3StatusEmpty => b2n (t3Used s i == 0)
  | .dirOccHandles => dirCount s fun e => entryKind e == 2 || entryKind e == 3
  | .dirOccBlocksScoped => dirCount s fun e => entryKind e == 4 && !entryOpen e
  | .dirOccBlocksPublic => dirCount s fun e => entryKind e == 4 && entryOpen e
  | .dirOccFreeBlocks => dirBlocks s.model - (s.dir.chains.map (·.2.length)).sum
  | .panUnitStatusExists => b2n ((unitEnt s i).any fun u => u.parent == 0xFFFF)
  | .panUnitStatusQueued => if (unitEnt s i).any (fun u => u.parent == 0xFFFF) then (queued s i).length else 0
  | .panUnitStatusType =>
    match unitEnt s i with
    | some u => if u.parent = 0xFFFF then u.type else 0
    | none => 0
  | .panUnitStatusState =>
    match unitEnt s i with
    | some u => if u.parent = 0xFFFF then unitState s u else 0
    | none => 0
  | .panBsActiveIdId =>
    match s.units.active with
    | some c => (c.part.map (·.id)).getD c.full.id
    | none => 0
  | .panMdlStatusState =>
    match modelOf s i with
    | some m => m.state
    | none => if regGet s .panMdlStatusError i = 0 then 0 else 4
  | .panMdlIdId => ((modelOf s i).map (·.modelId)).getD 0
  | .txtVocStatusState => if (vocAt s i).isSome then 2 else if regGet s .txtVocStatusError i = 0 then 0 else 3
  | .txtVocIdId => ((vocAt s i).map (·.id)).getD 0
  | .admShpLevelLevel =>
    match shaperOf s i with
    | some x => signed64 x.level
    | none => 1024 * fldReset s.model .admShpBurstBurst i
  | .admQyelThreshold => yellow s i
  | .ctxCfgCompat => b2n (compatCtx s i)
  | .secSlotStatusState => slotState s i
  | .secSlotStatusConsent => b2n (bit (slotPolicy s i) 0)
  | .secSlotStatusHeld => b2n ((slotRec s i).any fun k => k.held.isSome)
  | .secSetStatusCount => s.nv.sets.length
  | .secDebugOpen => b2n (debugReach s)
  | .secDebugScope => s.sec.token.getD 0
  | .durScrubEffective => min (reg s .durScrubDays) (scrubDays (reg s .durWearUsed))
  | .durDdStatPending => min (pendingBytes s) (2 ^ 40 - 1)
  | .durDdStatEffective => ddEffective s
  | .durFosterCount => s.dur.fosters.length
  | f => regGet s f i

/-! ### Places and entries (R551 to R554) -/

/-- Words of the register at a base offset. -/
def wordsAt (off : Nat) : Nat :=
  ((fldsOf off).filter fun f => (fldSpec f).off == off).foldl (fun m f => max m ((fldSpec f).hi / 64 + 1)) 1

/-- Elements of an array field. -/
def arrayLen : Sel → Nat
  | .array n => n
  | _ => 1

/-- The fields that an 8-byte word holds, with the word of the register and the array element. -/
def fieldsAt (off : Nat) : List (Fld × Nat × Nat) :=
  (fldsOf off).filterMap fun f =>
    let b := (fldSpec f).off
    if b ≤ off ∧ off < b + 8 * arrayLen (fldSpec f).sel * wordsAt b then
      some (f, (off - b) / 8 % wordsAt b, (off - b) / 8 / wordsAt b)
    else none

/-- The entry of a field that a path reaches, `none` where its selector names an entry that does not exist (R553). -/
def entryOf (s : State) (p : Path) (f : Fld) (elem : Nat) : Option Nat :=
  let k := pathNo p
  let below := fun n lim => if n < lim then some n else none
  match (fldSpec f).sel with
  | .single => some 0
  | .perPath => some k
  | .port => some elem
  | .bed => below (regGet s .clkBedSelBed k) (bedCount s.model)
  | .host => below (regGet s .cxlHostSelHost k) 32
  | .amap => below (regGet s .cxlAmapSelEntry k) 256
  | .peer => below (regGet s .cxlPeerSelEntry k) 64
  | .ledger => below (regGet s .ldgSelLedger k) 4096
  | .group => below (regGet s .ldgGrpSelGroup k) 2048
  | .qslot => below (regGet s .stoQselSlot k) 4096
  | .t3 => below (regGet s .stoT3SelRange k) 64
  | .unit => below (regGet s .panUnitSelUnit k) 4096
  | .model => below (regGet s .panMdlSelSlot k) 8
  | .voc => below (regGet s .txtVocSelEntry k) (match s.model with
      | .full => 65536
      | .reduced => 8)
  | .shaper => below (regGet s .admShpSelDir k * 4096 + regGet s .admShpSelSlot k) 8192
  | .meter => below (regGet s .admMtrSelSlot k) 4096
  | .queue => below (regGet s .admQselQueue k) 0x1006
  | .ctx => below (regGet s .ctxSelCtx k) 256
  | .part => below (regGet s .ctxPartSelPart k) 16
  | .slotPart => below (regGet s .ctxSlotSelSlot k) 4096
  | .secSlot => below (regGet s .secSlotSelSlot k) 4096
  | .counter => below (regGet s .obsCntSelCounter k) 64
  | .array n => below elem n

/-- Elements that a word of a field stands for: the two ports share one word, port B 32 bits up (R559). -/
def elements (f : Fld) (elem : Nat) : List (Nat × Nat) :=
  match (fldSpec f).sel with
  | .port => [(0, 0), (1, 32)]
  | _ => [(elem, 0)]

/-- The whole register that a word belongs to, as a number. -/
def regValue (s : State) (p : Path) (off : Nat) : Nat :=
  ((fieldsAt off).map fun e =>
    ((elements e.1 e.2.2).map fun x =>
      match entryOf s p e.1 x.1 with
      | some i => readField s e.1 i * 2 ^ ((fldSpec e.1).lo + x.2)
      | none => 0).sum).sum

/-- The word of its register that an offset names. -/
def wordOf (off : Nat) : Nat :=
  match fieldsAt off with
  | [] => 0
  | e :: _ => e.2.1

/-- A read of 8 or 4 bytes: word 0 of a wide register latches it, the other words return the latched value (R552). -/
def readWord (s : State) (p : Path) (off : Nat) : State × Nat :=
  let o := off / 8 * 8
  let w := wordOf o
  let n := wordsAt (o - 8 * w)
  let v := regValue s p o
  let k := pathNo p
  if n ≤ 1 then (s, v)
  else if w = 0 then
    let l := s.regs.latch.filter fun e => !(e.1 == k && e.2.1 == o)
    ({ s with regs := { s.regs with latch := (k, o, v) :: l } }, v % 2 ^ 64)
  else
    match s.regs.latch.find? (fun e => e.1 == k && e.2.1 == o - 8 * w) with
    | some e => (s, bits e.2.2 (64 * w + 63) (64 * w))
    | none => (s, 0)

/-- The part of a word that an access of `width` bytes at `off` returns. -/
def accessPart (off width v : Nat) : Nat := if width = 4 ∧ off % 8 = 4 then v / 2 ^ 32 % 2 ^ 32 else v % 2 ^ (8 * width)

/-! ### Writes -/

/-- The value lies in the field's range (R8: out of range is ignored). Log 181 (DESIGN CHOICE). -/
def inRange (f : Fld) (v : Nat) : Bool :=
  match (fldSpec f).range with
  | none => true
  | some (lo, hi) => (decide (lo ≤ v) && decide (v ≤ hi)) || ((fldSpec f).zero && v == 0)

/-- The host's configuration is locked by TSP (R311). -/
def tspLocked (s : State) (h : Nat) : Bool := regGet s .cxlHostStatusTspLocked h == 1

/-- The home host of a port is locked. -/
def homeLocked (s : State) (port : Nat) : Bool :=
  (List.range 32).any fun h =>
    tspLocked s h && regGet s .cxlHostMapValid h == 1 && regGet s .cxlHostMapHome h == 1 &&
      regGet s .cxlHostMapPort h == port

/-- A locked host holds an extent that covers a window. -/
def windowLocked (s : State) (w : Nat) : Bool :=
  s.cxl.extents.any fun e => tspLocked s e.host && decide (e.first ≤ w) && decide (w < e.first + e.count)

/-- The field's entry is closed by a TSP lock (R311). -/
def configLocked (s : State) (f : Fld) (i : Nat) : Bool :=
  if f ∈ [.cxlHostMapValid, .cxlHostMapPairValid, .cxlHostMapPair, .cxlHostMapHome, .cxlHostMapPort, .cxlHostMapPbrId] then
    tspLocked s i
  else if f ∈ [.cxlAmapValid, .cxlAmapStream, .cxlAmapAnySlot, .cxlAmapKind, .cxlAmapPort, .cxlAmapSize, .cxlAmapSlot,
               .cxlAmapBase] then
    regGet s .cxlAmapValid i == 1 && regGet s .cxlAmapKind i == 0 && homeLocked s (regGet s .cxlAmapPort i)
  else if f ∈ [.ldgCfgGroup, .ldgCfgCq, .ldgCfgCtx, .ldgCfgAnySlot, .ldgCfgSlot, .ldgCfgSizeLog2, .ldgCfgPort, .ldgCfgLoc,
               .ldgCfgType] then
    match addrOf (regGet s .ldgBaseAddr i) with
    | .state off => windowLocked s (off / 2 ^ 30)
    | .fabric _ => homeLocked s (regGet s .ldgCfgPort i)
    | _ => false
  else false

/-- The ledger is DISABLED. -/
def ledgerDisabled (s : State) (l : Nat) : Bool := regGet s .ldgStatusState l == 0

/-- No ledger of a context is enabled and no work of it is there (R369). -/
def ctxIdle (s : State) (c : Nat) : Bool :=
  (s.regs.cells.all fun e => !(e.1.1 == .ldgStatusState && regGet s .ldgCfgCtx e.1.2 == c) || e.2 == 0) &&
    s.work.all fun w => contextOf s w != c

/-- Whether the field takes a write now: the conditions that its rule gives (R56, R312, R369, R372, R561, R568). -/
def writable (s : State) (f : Fld) (i v : Nat) : Bool :=
  match f with
  | .sysOriginId => s.subjects.isEmpty
  | .sysNvSvnMinValue => decide (reg s .sysNvSvnMinValue ≤ v)
  | .panBsSvnMinValue => decide (reg s .panBsSvnMinValue ≤ v)
  | .ldgCfgGroup | .ldgCfgCq | .ldgCfgCtx | .ldgCfgAnySlot | .ldgCfgSlot | .ldgCfgSizeLog2 | .ldgCfgPort | .ldgCfgLoc
  | .ldgCfgType | .ldgBaseAddr | .ldgLineAddrAddr => ledgerDisabled s i
  | .stoT3BaseBase | .stoT3SizeSize | .stoT3CtrlPort => regGet s .stoT3CtrlValid i == 0
  | .stoT3CtrlCompute => t3Used s i == 0
  | .txtVocAreaMib => s.model == .full
  | .ctxCfgPart => ctxIdle s i
  | .ctxCfgCompat => !s.power.compat && ctxIdle s i
  | .ctxSlotPartPart => slotState s i != 1 && slotState s i != 2
  | .durDdCfgBound => decide (256 ≤ v) && decide (v ≤ match s.model with
      | .full => 6144
      | .reduced => 3072)
  | .durT4CfgReserveGib =>
    decide (v + reg s .durT4CfgFosterGib + t4System s.model + 1024 ≤ t4Usable s.model)
  | .durT4CfgFosterGib =>
    decide (v + reg s .durT4CfgReserveGib + t4System s.model + 1024 ≤ t4Usable s.model)
  | _ => true

/-- Fields that have a row of their own: a plain register write leaves them alone. -/
def ownRow (f : Fld) : Bool :=
  f ∈ [.sysLockSeal, .sysMapEpochCurrent, .ldgCtrlEnable, .stoT3CtrlValid, .durBuddyOrigin]

/-- Restart a counter whose SOURCE, SCOPE or ARG is written (R490). -/
def afterWrite (s : State) (f : Fld) (i : Nat) : State :=
  match f with
  | .obsCntCfgSource | .obsCntCfgScope | .obsCntCfgArg => regSet s .obsCntCount i 0
  | _ => s

/-- A write to an RWL field while SEAL is 1 is counted (R555). -/
def denied (s : State) : State := regAdd (setReg s .sysLockDenied 1) .sysLockDeniedCnt 0 1 32

/-- SEAL is 1. -/
def isSealed (s : State) : Bool := reg s .sysLockSeal == 1

/-- The effect of a write of `v` to entry `i` of a field, by its access code (R8). Log 151 (DEDUCED). -/
def writeField (s : State) (f : Fld) (i v : Nat) : State :=
  if ownRow f then s
  else if configLocked s f i then s
  else
    match (fldSpec f).acc with
    | .rw | .rws => if inRange f v && writable s f i v then afterWrite (regSet s f i v) f i else s
    | .rwl => if !isSealed s && inRange f v && writable s f i v then regSet s f i v else s
    | .rw1c => regSet s f i (regGet s f i - (regGet s f i &&& v))
    | .rw1s => regSet s f i (regGet s f i ||| v)
    | .act => if v = 0 ∧ !isSealed s then regSet s f i 0 else s
    | _ => s

/-- Two valid address map entries, or two valid peer entries, clash (R559). -/
def mapClash (s : State) : Bool :=
  let am := (List.range 256).filter fun i => regGet s .cxlAmapValid i == 1
  let pm := (List.range 64).filter fun i => regGet s .cxlPeerMapValid i == 1
  (am.any fun i => am.any fun j => decide (i < j) &&
    decide (regGet s .cxlAmapBase i < regGet s .cxlAmapBase j + regGet s .cxlAmapSize j) &&
    decide (regGet s .cxlAmapBase j < regGet s .cxlAmapBase i + regGet s .cxlAmapSize i)) ||
  (pm.any fun i => pm.any fun j => decide (i < j) &&
    (regGet s .cxlPeerMapOrigin i == regGet s .cxlPeerMapOrigin j || regGet s .cxlPeerMapPbrId i == regGet s .cxlPeerMapPbrId j))

/-- The register's fields agree after a write (R100, R482, R559). -/
def consistent (s : State) (off : Nat) : Bool :=
  if off = 0x400008 then decide (reg s .stoWmT1Low < reg s .stoWmT1High)
  else if off = 0x400010 then decide (reg s .stoWmT2Low < reg s .stoWmT2High)
  else if off = 0x400018 then decide (reg s .stoWmT3Low < reg s .stoWmT3High)
  else if off = (fldSpec .clkHrwCfgSlackLow).off then decide (reg s .clkHrwCfgSlackLow + 40 ≤ reg s .clkHrwCfgSlackHigh)
  else if off = (fldSpec .cxlAmapValid).off ∨ off = (fldSpec .cxlPeerMapValid).off then !mapClash s
  else true

/-- Write the fields of one register: those wholly within the bits `hi` to `lo` written. -/
def writeFields (s : State) (p : Path) (off hi lo v : Nat) : State :=
  let es := fieldsAt off
  let hit := es.flatMap fun e => (elements e.1 e.2.2).filterMap fun x =>
    let a := (fldSpec e.1).lo + x.2
    let b := (fldSpec e.1).hi + x.2
    if lo ≤ a ∧ b ≤ hi then (entryOf s p e.1 x.1).map fun i => (e.1, i, bits v b a) else none
  let base := off - 8 * wordOf off
  let t := hit.foldl (fun s e => writeField s e.1 e.2.1 e.2.2) s
  let t := if consistent t base then t else s
  let t := if isSealed s && hit.any (fun e => (fldSpec e.1).acc == .rwl || ((fldSpec e.1).acc == .act && e.2.2 == 0)) then denied t else t
  if hit.any (fun e => configLocked s e.1 e.2.1) then
    if off / 0x100000 = 3 then
      match hit.find? (fun e => configLocked s e.1 e.2.1) with
      | some e => regSet t .ldgStatusError e.2.1 6
      | none => t
    else regAdd (setReg t .cxlErrConfigLocked 1) .cxlErrLockedCnt 0 1 32
  else t

/-- The staged words of a wide register below the highest one, the present value where nothing is staged. -/
def stagedValue (s : State) (p : Path) (off n : Nat) : Nat :=
  ((List.range n).map fun w =>
    let cur := bits (regValue s p off) (64 * w + 63) (64 * w)
    (match s.regs.staged.find? (fun e => e.1 == pathNo p && e.2.1 == off + 8 * w) with
     | some e => e.2.2
     | none => cur) * 2 ^ (64 * w)).sum

/-- A register write of 8 or 4 bytes (R551, R552). -/
def writeWord (s : State) (p : Path) (off width v : Nat) : State :=
  let o := off / 8 * 8
  let w := wordOf o
  let n := wordsAt (o - 8 * w)
  let half := width == 4
  let hi := if half ∧ off % 8 = 0 then 31 else 63
  let lo := if half ∧ off % 8 = 4 then 32 else 0
  let v := v * 2 ^ lo
  if n ≤ 1 then writeFields s p o hi lo v
  else
    let base := o - 8 * w
    let old := bits (stagedValue s p base n) (64 * w + 63) (64 * w)
    let new := if half then (if lo = 0 then old / 2 ^ 32 * 2 ^ 32 + v % 2 ^ 32 else v / 2 ^ 32 * 2 ^ 32 + old % 2 ^ 32) else v
    let stage := { s with regs := { s.regs with
      staged := (pathNo p, o, new % 2 ^ 64) :: s.regs.staged.filter fun e => !(e.1 == pathNo p && e.2.1 == o) } }
    if w + 1 < n then stage
    else
      let t := writeFields stage p base (64 * n - 1) 0 (stagedValue stage p base n)
      { t with regs := { t.regs with staged := t.regs.staged.filter fun e =>
          !(e.1 == pathNo p && decide (base ≤ e.2.1) && decide (e.2.1 < base + 8 * n)) } }

/-- A write of 1 to an action field of class RWL: it acts only while SEAL is 0 (R555). -/
def whenUnsealed (f : State → State) (s : State) : State := if isSealed s then denied s else f s

end Sys2Proof.Machine
end

