-- ==== Sys2Proof/Machine/DirOps.lean ====
section
/-! DEFINITION. The associative directory (ch. 5): buckets by the salted hash, search in position order, insertion with free
holes and the handle reserve, deletion, rebuilding, the build at start. -/

namespace Sys2Proof.Machine

/-- Buckets of the model (R134). -/
def buckets (m : Model) : Nat :=
  match m with
  | .full => 262144
  | .reduced => 131072

/-- VALUE of a handle entry: the handle and eight zero bytes (R129). -/
def handleValue (h : Nat) : List Byte := leBytes 8 h ++ zeros 8

/-! ### Entries and blocks as bytes (R129, R135) -/

/-- The 32 bytes of an entry. -/
def dirBytes (e : DirEntry) : List Byte :=
  slice e.value 0 16 ++ leBytes 2 e.tag ++ leBytes 2 e.care ++ leBytes 3 e.index ++
    [byte (128 * b2n e.valid + 64 * b2n e.region + 32 * b2n e.pending)] ++ leBytes 4 e.block ++ zeros 4

/-- The 32 bytes of a slot; one that never held an entry is 0. -/
def dirSlot (s : State) (b p : Nat) : List Byte := ((aget s.dir.entries (b, p)).map dirBytes).getD (zeros 32)

/-- One of the two on-die copies of head slot `p`: eight words, each with its parity bit (R135). -/
def headCopy (s : State) (b p : Nat) : List (Nat × Nat) :=
  (List.range 8).map fun i =>
    let w := field (dirSlot s b p) (4 * i) 4
    (w, ((List.range 32).map fun j => bits w j 1).sum % 2)

/-- Valid entries of overflow block `j` of a bucket: its COUNT. -/
def blockCount (es : List (Nat × DirEntry)) (j : Nat) : Nat :=
  (es.filter fun e => decide (4 + 31 * j ≤ e.1) && decide (e.1 < 35 + 31 * j)).length

/-- Slots 1 to 31 of overflow block `j` of a bucket. -/
def blockSlots (s : State) (b j : Nat) : List Byte := (List.range 31).flatMap fun i => dirSlot s b (4 + 31 * j + i)

/-- NEXT of overflow block `j`: the number of the block after it plus 1, 0 at the chain's end. -/
def blockNext (s : State) (b j : Nat) : Nat := ((((aget s.dir.chains b).getD [])[j + 1]?).map (· + 1)).getD 0

/-- Bytes 0 to 15 of a block's header: NEXT, BUCKET, COUNT. -/
def blockHead (s : State) (b j count : Nat) : List Byte :=
  leBytes 4 (blockNext s b j) ++ leBytes 4 b ++ [byte count] ++ zeros 7

/-- The bucket of a kind and value (R136): kinds 2 and 3 share it. The key byte is KIND without its bit 0. Log 174 (DEDUCED). -/
def bucketOf (s : State) (kind : Nat) (value : List Byte) : Nat :=
  leNat (shake 4 (s.dir.salt ++ byte (kind / 2) :: value)) % buckets s.model

/-- The entries of a bucket with their positions, in position order. -/
def bucketEntries (s : State) (b : Nat) : List (Nat × DirEntry) :=
  sortKey (·.1) (s.dir.entries.filterMap fun e => if e.1.1 = b ∧ e.2.valid then some (e.1.2, e.2) else none)

/-- The 1,024 bytes of overflow block `j` of a bucket, as its last write left it: CHECKSUM covers header bytes 0 to 15 and the slots. -/
def blockBytes (s : State) (b j : Nat) : List Byte :=
  let head := blockHead s b j (blockCount (bucketEntries s b) j)
  let slots := blockSlots s b j
  head ++ leBytes 8 (crc64 (head ++ slots)) ++ zeros 8 ++ slots

/-- An entry matches a key (R130): TAG and the key agree in every bit that CARE compares. -/
def dirMatches (s : State) (e : DirEntry) (kind scope : Nat) (value : List Byte) : Bool :=
  e.valid && !e.pending && (e.tag ^^^ (4096 * kind + scope)) &&& e.care == 0 && e.value == value && slotActive s (entryScope e)

/-- A lookup: the match that stands first in position order (R139, R142). -/
def dirLookup (s : State) (kind scope : Nat) (value : List Byte) : Option DirEntry :=
  ((bucketEntries s (bucketOf s kind value)).find? fun e => dirMatches s e.2 kind scope value).map (·.2)

/-- The position is free. -/
def freeAt (es : List (Nat × DirEntry)) (p : Nat) : Bool := !es.any fun e => e.1 == p

/-- The lowest free position from `lo` that is a head slot or lies in a block below the fill limit; else slot 1 of a new
block at the chain's end (R140). -/
def appendSlot (s : State) (b lo : Nat) : Nat :=
  let es := bucketEntries s b
  let limit := reg s .dirCfgFillLimit
  let top := 4 + 31 * chainOf s b
  match ((List.range top).filter fun p => decide (lo ≤ p)).find? (fun p =>
      freeAt es p && (decide (p < 4) || decide (blockCount es ((p - 4) / 31) < limit))) with
  | some p => p
  | none => top

/-- Overflow blocks in the directory area of a bed: 64 MiB (R134). -/
def bedBlocks : Nat := 65536

/-- A free block in the area of the bed of a bucket's bank, the first from a free value on; where none is, one of another bed.
Log 173 (DESIGN CHOICE). -/
def freeBlock (s : State) (b : Nat) : Nat :=
  let used := s.dir.chains.flatMap (·.2)
  let bed := b % bedCount s.model
  let start := Config.number s.free
  let own := (List.range (used.length + 1)).map fun i => bed * bedBlocks + (start + i) % bedBlocks
  match own.find? (fun n => !(n ∈ used)) with
  | some n => n
  | none => lowestFree used.length 0 used

/-- Write an entry at a position, linking a free block where the position lies beyond the chain (R137). -/
def putEntry (s : State) (b p : Nat) (e : DirEntry) : State :=
  let n := if p < 4 then 0 else (p - 4) / 31 + 1
  let s := { s with dir := { s.dir with entries := aset s.dir.entries (b, p) e } }
  if n ≤ chainOf s b then s
  else
    let s := takeFree { s with dir := { s.dir with
      chains := aset s.dir.chains b ((aget s.dir.chains b).getD [] ++ [freeBlock s b]) } }
    let s := if reg s .dirStatChainMax < n then setReg s .dirStatChainMax (min n 65535) else s
    if n = 65 then event s 0x0306 0 0xFFFF 0 (locate 0 0 0 0 b) [b] else s

/-- Two entries are duplicates (R141): CARE and VALUE are equal, and TAG in every bit that CARE compares. -/
def duplicate (e f : DirEntry) : Bool :=
  e.care == f.care && e.value == f.value && (e.tag ^^^ f.tag) &&& e.care == 0

/-- Free overflow blocks. -/
def freeBlocks (s : State) : Nat := dirBlocks s.model - (s.dir.chains.map (·.2.length)).sum

/-- Session indices not in use: neither a subject's nor that of a handle entry, PENDING ones of creations in progress among them. -/
def indicesLeft (s : State) : Nat :=
  let held := s.subjects.map (·.index)
  indexLimit s.model - held.length - dirCount s fun e => entryKind e == 2 && !(e.index ∈ held)

/-- The handle reserve (R138). -/
def handleReserve (s : State) : Nat :=
  let u := indicesLeft s
  ceilDiv u (reg s .dirCfgFillLimit) + min u (buckets s.model)

/-- An update takes two head slots; how many of them while searches waited is a free value (R143). Log 172 (DESIGN CHOICE). -/
def stealHeads (s : State) : State := takeFree (regAdd s .dirStatStolen 0 (Config.number s.free % 3) 32)

/-- Place an entry in its bucket (R140). -/
def placeEntry (s : State) (e : DirEntry) : State :=
  let s := stealHeads s
  let b := bucketOf s (entryKind e) e.value
  let es := bucketEntries s b
  let top := 4 + 31 * chainOf s b
  if entryOpen e then
    let last := (es.filter fun x => !entryOpen x.2).foldl (fun m x => max m (x.1 + 1)) 0
    putEntry s b (appendSlot s b last) e
  else
    let fp := ((es.find? fun x => entryOpen x.2).map (·.1)).getD top
    match (List.range fp).find? (freeAt es) with
    | some p => putEntry s b p e
    | none =>
      match es.find? (fun x => x.1 == fp) with
      | none => putEntry s b (appendSlot s b 0) e
      | some x =>
        let q := appendSlot s b (fp + 1)
        putEntry (putEntry s b q x.2) b fp e

/-- What an insertion came to: written, refused for the reserve, or refused as a duplicate (R138, R141). -/
inductive Insertion where
  | written (s : State)
  | full
  | twin
deriving DecidableEq, Repr

/-- Insert an entry. Handle entries are never refused. -/
def dirInsert (s : State) (e : DirEntry) : Insertion :=
  let b := bucketOf s (entryKind e) e.value
  if entryKind e = 4 ∧ (bucketEntries s b).any (fun x => duplicate e x.2) then .twin
  else
    let t := placeEntry s e
    if entryKind e ≠ 2 ∧ freeBlocks t < handleReserve s then .full else .written t

/-- Remove the entry at a position: VALID clears; a block that it empties is unlinked, and later blocks close up (R137, R140). -/
def removeAt (s : State) (b p : Nat) : State :=
  let s := stealHeads s
  let entries := s.dir.entries.map fun e => if e.1 = (b, p) then (e.1, { e.2 with valid := false }) else e
  let left := { s with dir := { s.dir with entries := entries } }
  if p < 4 then left
  else
    let j := (p - 4) / 31
    if blockCount (bucketEntries left b) j ≠ 0 then left
    else
      let kept := entries.filter fun e => !(decide (e.1.1 = b) && decide (4 + 31 * j ≤ e.1.2) && decide (e.1.2 < 35 + 31 * j))
      let closed := kept.map fun e => if e.1.1 = b ∧ 35 + 31 * j ≤ e.1.2 then ((b, e.1.2 - 31), e.2) else e
      let blocks := ((aget s.dir.chains b).getD []).eraseIdx j
      { s with dir := { s.dir with
          entries := closed, chains := if blocks.isEmpty then adel s.dir.chains b else aset s.dir.chains b blocks } }

/-- The first valid entry that meets a condition, by bucket and position. -/
def findEntry (s : State) (p : DirEntry → Bool) : Option (Nat × Nat) :=
  (s.dir.entries.find? fun e => e.2.valid && p e.2).map (·.1)

/-- Delete entries that meet a condition, with their number as fuel. -/
def dirDeleteN : Nat → State → (DirEntry → Bool) → State
  | 0, s, _ => s
  | k + 1, s, p =>
    match findEntry s p with
    | none => s
    | some (b, x) => dirDeleteN k (removeAt s b x) p

/-- Delete every entry that meets a condition. -/
def dirDelete (s : State) (p : DirEntry → Bool) : State := dirDeleteN s.dir.entries.length s p

/-- Clear PENDING of the entries of an index, each an update of its own (R143, R145). -/
def dirReveal (s : State) (index : Nat) : State :=
  let hidden := s.dir.entries.filter fun e => e.2.valid && e.2.pending && e.2.index == index
  let s := hidden.foldl (fun s _ => stealHeads s) s
  { s with dir := { s.dir with entries := s.dir.entries.map fun e =>
      if e.2.index = index then (e.1, { e.2 with pending := false }) else e } }

/-- The handle entry of a subject (R131): CARE leaves out KIND bit 0, so subject and attach keys match it. -/
def handleEntry (x : Subject) (pending : Bool) : DirEntry :=
  { value := handleValue x.handle, tag := 4096 * 2 + x.keySlot % 4096, care := 0xEFFF, index := x.index, valid := true
    region := x.kind != .session, pending := pending, block := 0 }

/-- The public handle entry of a public prefix region. -/
def publicEntry (x : Subject) (pending : Bool) : DirEntry :=
  { handleEntry x pending with tag := 4096 * 3 + x.keySlot % 4096, care := 0xF000 }

/-- The entry of block `i` of a prefix region's list. -/
def blockEntry (x : Subject) (i : Nat) (hash : List Byte) (pending : Bool) : DirEntry :=
  { value := slice hash 0 16, tag := 4096 * 4 + x.keySlot % 4096, care := if x.isPublic then 0xF000 else 0xFFFF, index := x.index
    valid := true, region := true, pending := pending, block := x.firstPage + i }

/-- The handle that an index names, also that of a subject whose publication or hand-over is not complete. -/
def handleAt (s : State) (i : Nat) : Nat :=
  let created := s.work.flatMap fun w => w.effects.filterMap fun e =>
    match e with
    | .openSubject x => some x
    | _ => none
  (((s.subjects ++ created).find? fun z => z.index == i).map (·.handle)).getD 0

/-- Insert an entry, with the event and the count of a refusal (R138, R141); `false` where it was refused. A duplicate is no refusal that
DIR_OCC.REFUSED counts. Log 175 (DEDUCED). -/
def dirInsertLogged (s : State) (x : Subject) (e : DirEntry) : State × Bool :=
  match dirInsert s e with
  | .written t => (t, true)
  | .full => (regAdd (event s 0x0307 0 x.keySlot x.handle 0 []) .dirOccRefused 0 1 32, false)
  | .twin =>
    let other := (bucketEntries s (bucketOf s (entryKind e) e.value)).find? fun y => duplicate e y.2
    (event s 0x0308 0 x.keySlot x.handle 0 [(other.map fun y => handleAt s y.2.index).getD 0], false)

/-- Enter the block hashes of a prefix region; a refused one is left out (R124, R138). -/
def insertBlocks (s : State) (x : Subject) (pending : Bool) : State :=
  (List.range x.hashes.length).foldl (fun s i => (dirInsertLogged s x (blockEntry x i (x.hashes.getD i []) pending)).1) s

/-- Build the directory at start: handle and public handle entries by index, then block entries (R149). -/
def dirBuild (s : State) : State :=
  let xs := sortKey (·.index) (s.subjects.filter fun x => !x.closed)
  let s := { s with dir := { s.dir with entries := [], chains := [], rebuilding := [] } }
  let s := xs.foldl (fun s x =>
    let s := placeEntry s (handleEntry x false)
    if x.kind = .shared ∧ x.state ≠ 4 ∧ x.isPublic then placeEntry s (publicEntry x false) else s) s
  (xs.filter fun x => x.kind == .shared && x.state != 4).foldl (fun s x => insertBlocks s x false) s

/-- The bucket of a handle is being rebuilt: what looks it up or changes it waits (R148). -/
def bucketBusy (s : State) (h : Nat) : Bool := bucketOf s 2 (handleValue h) ∈ s.dir.rebuilding

/-- A bucket that a region's entries belong in is being rebuilt. -/
def regionBusy (s : State) (x : Subject) : Bool :=
  bucketBusy s x.handle || x.hashes.any fun b => bucketOf s 4 (slice b 0 16) ∈ s.dir.rebuilding

/-- A creation in progress has PENDING entries of an index in a bucket that is being rebuilt: clearing them waits (R145, R148). -/
def revealBusy (s : State) (i : Nat) : Bool :=
  s.dir.entries.any fun e => e.2.valid && e.2.pending && e.2.index == i && decide (e.1.1 ∈ s.dir.rebuilding)

/-- The entries that a bucket should hold, by the session table and the block-hash lists; a CLOSING region has none any more (R127, R148). -/
def bucketContent (s : State) (b : Nat) : List DirEntry :=
  let xs := sortKey (·.index) (s.subjects.filter fun x => !x.closed && !(x.kind == .shared && x.state == 4))
  let all := xs.map (fun x => handleEntry x false) ++
    (xs.filter fun x => x.kind == .shared && x.isPublic).map (fun x => publicEntry x false) ++
    (xs.filter fun x => x.kind == .shared).flatMap fun x =>
      (List.range x.hashes.length).map fun i => blockEntry x i (x.hashes.getD i []) false
  all.filter fun e => bucketOf s (entryKind e) e.value == b

/-- Rebuild a bucket: fresh blocks hold what the session table and the lists name, with the entries still PENDING; only then are the failed
blocks free, which a number past the last bucket holds until then (R148). An entry that is refused is left out. Log 177 (DESIGN CHOICE). -/
def rebuildBucket (s : State) (b : Nat) : State :=
  let pend := (bucketEntries s b).filter fun e => e.2.pending
  let failed := buckets s.model + b
  let s := { s with dir := { s.dir with
      entries := s.dir.entries.filter fun e => e.1.1 ≠ b
      chains := aset (adel s.dir.chains b) failed ((aget s.dir.chains b).getD [])
      rebuilding := s.dir.rebuilding.filter (· ≠ b) } }
  let s := (bucketContent s b ++ pend.map (·.2)).foldl (fun s e =>
    match dirInsert s e with
    | .written t => t
    | _ => s) s
  { s with dir := { s.dir with chains := adel s.dir.chains failed } }

/-! ### The commands -/

/-- DIR_REBUILD (R148): a bucket that failed its checks waits to be rebuilt. Log 176 (DESIGN CHOICE). -/
def execDirRebuild (bucket : Nat) (s : State) : Host.Outcome State Fault Refusal :=
  act s <| whenRunning fun s =>
    if bucket < buckets s.model ∧ bucket ∉ s.dir.rebuilding then
      let s := { s with dir := { s.dir with rebuilding := insNat bucket s.dir.rebuilding } }
      event s 0x0309 0 0xFFFF 0 (locate 0 (bucket % bedCount s.model) 0 0 bucket) [bucket % bedCount s.model, bucket]
    else s

end Sys2Proof.Machine
end

