-- ==== Sys2Proof/Machine/Fp.lean ====
section
/-! DEFINITION. Numbers of the interchange and storage formats (ch. 6) as whole multiples of 2^-149, the smallest FP32
subnormal, and back: FP32, BF16, the MX blocks, E4M3, E2M1, sub-scales, SX4, SX2 and SX8. -/

namespace Sys2Proof.Machine

/-! ### FP32 and BF16 -/

/-- A FP32 pattern is finite. -/
def fpFinite (n : Nat) : Bool := bits n 30 23 != 255

/-- Magnitude of a floating-point pattern of exponent `e` and fraction `m` of `k` bits, in units of its subnormal step. -/
def floatMag (k e m : Nat) : Nat := if e = 0 then m else (2 ^ k + m) * 2 ^ (e - 1)

/-- The value of a finite FP32 pattern in units of 2^-149. -/
def fpVal (n : Nat) : Int :=
  let a : Int := floatMag 23 (bits n 30 23) (bits n 22 0)
  if bit n 31 then -a else a

/-- Position of the highest 1 bit plus one. -/
def bitLen (n : Nat) : Nat := if n = 0 then 0 else Nat.log2 n + 1

/-- A quotient by a power of two, rounded to nearest, ties to even. -/
def rneShift (n k : Nat) : Nat :=
  let q := n / 2 ^ k
  let r := n % 2 ^ k
  if k = 0 then n else if 2 * r > 2 ^ k then q + 1 else if 2 * r = 2 ^ k then q + q % 2 else q

/-- The floating-point code without sign (fraction of `k` bits) nearest to `n` units of its subnormal step divided by `2 ^ sh`,
ties to even; it may pass the largest finite code. -/
def floatCode (k n sh : Nat) : Nat :=
  let len := bitLen n - sh
  if len ≤ k + 1 then rneShift n sh
  else
    let drop := len - (k + 1)
    rneShift n (sh + drop) + drop * 2 ^ k

/-- The largest finite FP32 code without its sign. -/
def fpMax : Nat := 0x7F7FFFFF

/-- The FP32 pattern nearest to `v / 2 ^ sh` units of 2^-149, saturated to the largest finite magnitude (R337). -/
def fpRound (v : Int) (sh : Nat) : Nat :=
  let c := min fpMax (floatCode 23 v.natAbs sh)
  if v < 0 then 2 ^ 31 + c else c

/-- The BF16 pattern nearest to a FP32 pattern, saturated (R154). Log 78 (DEDUCED). -/
def bfRound (n : Nat) : Nat :=
  let c := min 0x7F7F (rneShift (n % 2 ^ 31) 16)
  if bit n 31 then 2 ^ 15 + c else c

/-! ### MX blocks (R151, R152) -/

/-- Exponent bits, fraction bits and bias of an MX element format. -/
def mxShape (fmt : Nat) : Nat × Nat × Nat :=
  match fmt with
  | 0x12 => (4, 3, 7)
  | 0x13 => (5, 2, 15)
  | 0x14 => (3, 2, 3)
  | 0x15 => (2, 3, 1)
  | _ => (2, 1, 1)

/-- Bits of an MX element. -/
def mxBits (fmt : Nat) : Nat := 1 + (mxShape fmt).1 + (mxShape fmt).2.1

/-- Bytes of an MX block. -/
def mxBytes (fmt : Nat) : Nat := 4 * mxBits fmt + 1

/-- An element is NaN or infinite. -/
def mxSpecial (fmt c : Nat) : Bool :=
  (fmt == 0x12 && c % 128 == 127) || (fmt == 0x13 && decide (0x7C ≤ c % 128))

/-- The value of an element of an MX block under its scale byte in units of 2^-149; `none` where it is not finite (R153). -/
def mxVal (fmt c scale : Nat) : Option Int :=
  let sh := mxShape fmt
  let m := floatMag sh.2.1 (bits c (sh.1 + sh.2.1 - 1) sh.2.1) (bits c (sh.2.1 - 1) 0)
  -- the subnormal step is 2^(1 - bias - fraction bits), the scale 2^(scale - 127)
  let v : Nat := m * 2 ^ (scale + 23 - sh.2.2 - sh.2.1)
  if scale = 255 ∨ mxSpecial fmt c ∨ (2 ^ 24 - 1) * 2 ^ 253 < v then none
  else if bit c (sh.1 + sh.2.1) then some (-(v : Int)) else some v

/-- A number of bytes that `n` values of an interchange format take. -/
def fmtBytes (fmt n : Nat) : Nat :=
  if fmt = 0x10 then 4 * n else if fmt = 0x11 then 2 * n else n / 32 * mxBytes fmt

/-- Value `i` of a run in an interchange format that begins a block; `none` where it is not finite (R153). -/
def fmtVal (fmt : Nat) (b : List Byte) (off i : Nat) : Option Int :=
  if fmt = 0x10 then
    let n := field b (off + 4 * i) 4
    if fpFinite n then some (fpVal n) else none
  else if fmt = 0x11 then
    let n := field b (off + 2 * i) 2 * 65536
    if fpFinite n then some (fpVal n) else none
  else
    let o := off + i / 32 * mxBytes fmt
    let k := mxBits fmt
    let e := leNat (slice b o (4 * k)) / 2 ^ (k * (i % 32)) % 2 ^ k
    mxVal fmt e (field b (o + 4 * k) 1)

/-! ### Nearest codes of small lattices -/

/-- The code nearest to `x` among `0 … n` by a rising function of codes, ties to the even code. -/
def nearCode (v : Nat → Nat) (n x : Nat) : Nat :=
  ((List.range n).filter fun k =>
    decide (v k + v (k + 1) < 2 * x) || (decide (v k + v (k + 1) = 2 * x) && decide ((k + 1) % 2 = 0))).length

/-- The largest code among `0 … n` whose value is at most `x`. -/
def floorCode (v : Nat → Nat) (n x : Nat) : Nat := ((List.range n).filter fun k => decide (v (k + 1) ≤ x)).length

/-- The smallest code among `0 … n` whose value is at least `x`, `n` where none is. -/
def ceilCode (v : Nat → Nat) (n x : Nat) : Nat := ((List.range n).filter fun k => decide (v k < x)).length

/-- The magnitude of an E4M3 code in units of 2^-9. -/
def e4m3Mag (c : Nat) : Nat := floatMag 3 (c / 8) (c % 8)

/-- The magnitude of an E2M1 code in halves (R155). -/
def e2m1Mag (c : Nat) : Nat := floatMag 1 (c / 2) (c % 2)

/-- A code with its sign, never a negative zero. -/
def withSign (neg : Bool) (w c : Nat) : Nat := if neg && c != 0 then 2 ^ w + c else c

/-- The value of a sub-scale in units of 2^-149 (R156). -/
def subVal (c : Nat) : Nat := e4m3Mag (c % 128) * 2 ^ 140

/-- The unscaled E4M3 code nearest to a value, saturated at 448 (R164). -/
def e4m3Near (v : Int) : Nat := withSign (decide (v < 0)) 7 (nearCode (fun c => e4m3Mag c * 2 ^ 140) 126 v.natAbs)

/-- The value of an unscaled E4M3 byte. -/
def e4m3Val (c : Nat) : Int := if bit c 7 then -(subVal c : Int) else subVal c

/-! ### SX4 (R155 to R158) -/

/-- The largest magnitude of a list. -/
def amaxOf (xs : List Int) : Nat := xs.foldl (fun m x => max m x.natAbs) 0

/-- A half-group encoded: sub-scale without its error bit and 16 codes; `none` at overflow (R158). -/
def sx4Half (xs : List Int) : Option (Nat × List Nat) :=
  let a := amaxOf xs
  if a = 0 then some (0, xs.map fun _ => 0)
  else
    let c := ceilCode (fun k => 6 * subVal k) 127 a
    if c > 126 then none
    else
      let s := subVal c
      some (c, xs.map fun x => withSign (decide (x < 0)) 3 (nearCode (fun k => e2m1Mag k * s) 7 (2 * x.natAbs)))

/-- An element of an SX4 group decoded under a sub-scale byte, in units of 2^-149 (R157); twice the value is exact. -/
def sx4Val (sub code : Nat) : Int :=
  let v : Int := e2m1Mag (code % 8) * (subVal sub / 2)
  if bit code 3 then -v else v

/-- Two codes to a byte, the first in the low half (R155). -/
def packHalf : List Nat → List Byte
  | a :: b :: t => byte (a + 16 * b) :: packHalf t
  | [a] => [byte a]
  | [] => []

/-- Code `i` of a group's code bytes. -/
def codeAt (b : List Byte) (i : Nat) : Nat := bits ((b.getD (i / 2) 0).toNat) (4 * (i % 2) + 3) (4 * (i % 2))

/-! ### SX8 (R159) -/

/-- The scale byte of an SX8 group for its largest magnitude. Log 75 (DEDUCED). -/
def sx8Scale (a : Nat) : Nat :=
  if a = 0 then 0 else ((List.range 254).filter fun b => decide (448 * 2 ^ (b + 22) < a)).length

/-- The step of an SX8 group in units of 2^-149: an element of magnitude m/512 stands for m steps. -/
def sx8Step (scale : Nat) : Nat := 2 ^ (scale + 13)

/-- How the encoder rounds. -/
inductive Rounding where
  | near
  | down
  | up
deriving DecidableEq, Repr

/-- An element of an SX8 group. -/
def sx8Code (scale : Nat) (r : Rounding) (x : Int) : Nat :=
  let v := fun c => e4m3Mag c * sx8Step scale
  let neg := decide (x < 0)
  let c := match r, neg with
    | .near, _ => nearCode v 126 x.natAbs
    | .down, false => floorCode v 126 x.natAbs
    | .down, true => ceilCode v 126 x.natAbs
    | .up, false => ceilCode v 126 x.natAbs
    | .up, true => floorCode v 126 x.natAbs
  withSign neg 7 c

/-- An SX8 group of 33 bytes. -/
def sx8Group (r : Rounding) (xs : List Int) : List Byte :=
  let s := sx8Scale (amaxOf xs)
  xs.map (fun x => byte (sx8Code s r x)) ++ [byte s]

/-- Element `i` of an SX8 group in units of 2^-149. -/
def sx8Val (g : List Byte) (i : Nat) : Int :=
  let c := (g.getD i 0).toNat
  let v : Int := e4m3Mag (c % 128) * sx8Step ((g.getD 32 0).toNat)
  if bit c 7 then -v else v

end Sys2Proof.Machine
end

