-- ==== Sys2Proof/Machine/Kv.lean ====
section
/-! DEFINITION. KV head-pages as bytes and as numbers (R70 to R74, R155 to R168): encoding, the error check, outlier
channels, summaries, patch entries, and the lowering to SX2 and back. Numbers are in units of 2^-149. -/

namespace Sys2Proof.Machine

/-- A head-page as it is filed: SX4 codes (32 d' bytes), sub-scales (4 d' bytes), SX8 groups by group index, and the outlier
entries of keys and of values: 4 index bytes and 128 value bytes. -/
structure HeadPage where
  codes : List Byte
  scales : List Byte
  patches : List (Nat × List Byte)
  kOut : Option (List Byte × List Byte)
  vOut : Option (List Byte × List Byte)
deriving DecidableEq, Repr

/-- Nothing filed. -/
def HeadPage.empty (dp : Nat) : HeadPage :=
  { codes := zeros (32 * dp), scales := zeros (4 * dp), patches := [], kOut := none, vOut := none }

/-- Group index of a token's channel group, of a key or of a value (R70). -/
def groupNo (dp : Nat) (val : Bool) (t g : Nat) : Nat := (if val then dp else 0) + t * (dp / 32) + g

/-- The two sub-scale bytes of a group. -/
def subPair (hp : HeadPage) (gi : Nat) : Nat × Nat := (field hp.scales (2 * gi) 1, field hp.scales (2 * gi + 1) 1)

/-- The group is patched (R72). -/
def isPatched (p : Nat × Nat) : Bool := p == (0x7F, 0x7F)

/-- The sub-scale pair is malformed (R156). -/
def malformed (p : Nat × Nat) : Bool :=
  p.1 == 0xFF || p.2 == 0xFF || (p.1 % 128 == 0x7F) != (p.2 % 128 == 0x7F)

/-- The used channels of an outlier entry, by slot (R164). -/
def usedChannels (idx : List Byte) : List (Nat × Nat) :=
  (List.range 4).filterMap fun j =>
    let c := (idx.getD j 0).toNat
    if j = 0 ∨ (idx.getD (j - 1) 0).toNat < c then some (c, j) else none

/-- The outlier value of a channel at a token, if the channel is an outlier. -/
def outlierVal (o : Option (List Byte × List Byte)) (c t : Nat) : Option Int :=
  match o with
  | none => none
  | some (idx, vals) => (aget (usedChannels idx) c).map fun j => e4m3Val (field vals (32 * j + t) 1)

/-- The stored value of a channel at a token: from its SX8 entry, its outlier value, or its SX4 code (R157, R164). -/
def kvAt (hp : HeadPage) (dp : Nat) (val : Bool) (t c : Nat) : Int :=
  let gi := groupNo dp val t (c / 32)
  let sp := subPair hp gi
  if isPatched sp then sx8Val ((aget hp.patches gi).getD []) (c % 32)
  else
    match outlierVal (if val then hp.vOut else hp.kOut) c t with
    | some v => v
    | none =>
      let sub := if c % 32 < 16 then sp.1 else sp.2
      sx4Val sub (codeAt (slice hp.codes (16 * gi) 16) (c % 32))

/-! ### Outlier channels (R164) -/

/-- Largest magnitude of a channel over rows. -/
def channelMax (rows : List (List Int)) (c : Nat) : Nat := rows.foldl (fun m r => max m ((r.getD c 0).natAbs)) 0

/-- The outlier channels of rows, ascending. -/
def outliersOf (d maxN ratio : Nat) (rows : List (List Int)) : List Nat :=
  let a := (List.range d).map fun c => (c, channelMax rows c)
  let mu := ((sortKey (·.2) a).getD ((d - 1) / 2) (0, 0)).2
  let big := a.filter fun e => decide (ratio * mu < e.2)
  let top := big.foldl (fun m e => max m e.2) 0
  sortKey id (((sortKey (fun e => top - e.2) big).take maxN).map (·.1))

/-- The 4 index bytes of outlier channels. -/
def indexBytes (cs : List Nat) : List Byte :=
  (List.range 4).map fun j => byte (cs.getD j (cs.getLast?.getD 0))

/-- The values of an outlier entry: the old ones, with those of rows from token `t0` upward. -/
def outlierBytes (cs : List Nat) (old : List Byte) (t0 : Nat) (rows : List (List Int)) : List Byte :=
  (List.range 128).map fun i =>
    let j := i / 32
    let t := i % 32
    if j < cs.length ∧ t0 ≤ t ∧ t < t0 + rows.length then
      byte (e4m3Near (((rows.getD (t - t0) []).getD (cs.getD j 0) 0)))
    else old.getD i 0

/-! ### One group (R158, R165, R167) -/

/-- Squared Euclidean norm. -/
def norm2 (xs : List Int) : Nat := (xs.map fun x => (x * x).natAbs).sum

/-- How far a computed number lies from the exact one: a free value, at most `e` either way (R173 to R175). -/
def drift (n : Nat) (key : List Nat) (e : Int) : Int := if e = 0 then 0 else max (-e) (min e (Config.roundOff n key))

/-- A whole number as an index of a free value. -/
def keyNat (x : Int) : Nat := if x < 0 then 2 * x.natAbs + 1 else 2 * x.natAbs

/-- The square of a relative error as FP32 arithmetic may find it: the squared difference over a given squared norm, free where rounding or
underflow of the squares leaves it open (R161, R165). Log 74 (DEDUCED). -/
def computedDiff (xs ys : List Int) (diff norm : Nat) : Nat :=
  let e : Int := if diff = 0 then 0 else if norm < 2 ^ 200 then 2 ^ 900 else diff / 2 ^ 16 + 1
  ((diff : Int) + drift 0 ((xs ++ ys).map keyNat) e).toNat

/-- A group encoded: 16 code bytes, 2 sub-scales, its SX8 group where it is patched, and whether a half overflowed. -/
structure GroupOut where
  codes : List Byte
  subs : List Byte
  patch : Option (List Byte)
  overflow : Bool
deriving DecidableEq, Repr

/-- A group as a patch (R72). -/
def patchedGroup (x : List Int) (overflow : Bool) : GroupOut :=
  { codes := zeros 16, subs := [0x7F, 0x7F], patch := some (sx8Group .near x), overflow := overflow }

/-- The smallest class whose bound is at least the relative error (R167). -/
def errorClass (diff norm : Nat) : Nat :=
  if diff * 1024 ≤ norm then 0 else if diff * 256 ≤ norm then 1 else if diff * 64 ≤ norm then 2 else 3

/-- Encode a group (R158, R165): inputs, which elements are outliers with their stored values, threshold in thousandths,
whether its position is protected. -/
def encodeGroup (x : List Int) (out : List (Option Int)) (thr : Nat) (prot : Bool) : GroupOut :=
  let z := (List.range 32).map fun i => if (out.getD i none).isSome then 0 else x.getD i 0
  match sx4Half (z.take 16), sx4Half (z.drop 16) with
  | some (s0, c0), some (s1, c1) =>
    let cs := c0 ++ c1
    let xhat := (List.range 32).map fun i =>
      match out.getD i none with
      | some v => v
      | none => sx4Val (if i < 16 then s0 else s1) (cs.getD i 0)
    let n := norm2 x
    let diff := computedDiff x xhat (norm2 ((List.range 32).map fun i => x.getD i 0 - xhat.getD i 0)) n
    if prot ∨ thr * thr * n < diff * 1000000 then patchedGroup x false
    else
      let q := errorClass diff n
      { codes := packHalf cs, subs := [byte (s0 + 128 * (q % 2)), byte (s1 + 128 * (q / 2))], patch := none, overflow := false }
  | _, _ => patchedGroup x true

/-! ### A head-page (R166, R184) -/

/-- What a filing of tokens comes to: the head-page, groups patched, groups that overflowed. -/
structure Filed where
  page : HeadPage
  groups : Nat
  patched : Nat
  overflow : Nat
deriving DecidableEq, Repr

/-- Policy of a key slot (R163): thresholds, outlier limit and ratio. -/
structure Policy where
  keyThr : Nat
  valThr : Nat
  outMax : Nat
  outRatio : Nat
deriving DecidableEq, Repr

/-- Write a group into a head-page. -/
def putGroup (f : Filed) (gi : Nat) (g : GroupOut) : Filed :=
  let p := f.page
  { page := { p with
      codes := p.codes.take (16 * gi) ++ g.codes ++ p.codes.drop (16 * gi + 16)
      scales := p.scales.take (2 * gi) ++ g.subs ++ p.scales.drop (2 * gi + 2)
      patches := match g.patch with
        | some b => p.patches.filter (fun e => e.1 ≠ gi) ++ [(gi, b)]
        | none => p.patches.filter fun e => e.1 ≠ gi }
    groups := f.groups + 1, patched := f.patched + b2n g.patch.isSome, overflow := f.overflow + b2n g.overflow }

/-- File the keys or the values of tokens `t0` upward: rows of numbers, the outlier entry, thresholds, protected tokens. -/
def fileRows (dp : Nat) (val : Bool) (t0 thr : Nat) (prot : Nat → Bool) (o : Option (List Byte × List Byte))
    (rows : List (List Int)) (f : Filed) : Filed :=
  (List.range (rows.length * (dp / 32))).foldl (fun f k =>
    let t := t0 + k / (dp / 32)
    let g := k % (dp / 32)
    let x := ((rows.getD (k / (dp / 32)) []).drop (32 * g)).take 32
    let out := (List.range 32).map fun i => outlierVal o (32 * g + i) t
    putGroup f (groupNo dp val t g) (encodeGroup x out thr (prot t))) f

/-- The outlier entry of keys or values: chosen anew for a fresh head-page, else the recorded channels (R164, R184). -/
def outlierEntry (fresh : Bool) (d : Nat) (p : Policy) (old : Option (List Byte × List Byte)) (t0 : Nat)
    (rows : List (List Int)) : Option (List Byte × List Byte) :=
  if fresh then
    let cs := outliersOf d p.outMax p.outRatio rows
    if cs.isEmpty then none else some (indexBytes cs, outlierBytes cs (zeros 128) t0 rows)
  else old.map fun o => (o.1, outlierBytes ((usedChannels o.1).map (·.1)) o.2 t0 rows)

/-- File tokens `t0` upward into a head-page (R158 to R167); a fresh one is the empty head-page. -/
def fileHead (d dp : Nat) (p : Policy) (fresh : Bool) (t0 : Nat) (prot : Nat → Bool) (ks vs : List (List Int))
    (old : HeadPage) : Filed :=
  let kO := outlierEntry fresh d p old.kOut t0 ks
  let vO := outlierEntry fresh d p old.vOut t0 vs
  let f : Filed := { page := { old with kOut := kO, vOut := vO }, groups := 0, patched := 0, overflow := 0 }
  fileRows dp true t0 p.valThr prot vO vs (fileRows dp false t0 p.keyThr prot kO ks f)

/-! ### Summaries and patch entries (R74, R168) -/

/-- The summary entry of a head-page over its valid tokens (R168). -/
def summaryOf (hp : HeadPage) (dp valid : Nat) : List Byte :=
  let col := fun c => (List.range valid).map fun t => kvAt hp dp false t c
  let mins := (List.range dp).map fun c =>
    match col c with
    | [] => (0 : Int)
    | h :: t => t.foldl min h
  let maxs := (List.range dp).map fun c =>
    match col c with
    | [] => (0 : Int)
    | h :: t => t.foldl max h
  ((List.range (dp / 32)).flatMap fun g => sx8Group .down ((mins.drop (32 * g)).take 32)) ++
    (List.range (dp / 32)).flatMap fun g => sx8Group .up ((maxs.drop (32 * g)).take 32)

/-- The tag of a patch entry (R74). -/
def patchTag (page head type group : Nat) : List Byte := leBytes 4 page ++ [byte head, byte type] ++ leBytes 2 group

/-- The patch entries of a head-page, in their order (R74). -/
def patchEntries (page head : Nat) (hp : HeadPage) : List (List Byte) :=
  (sortKey (·.1) hp.patches).map (fun e => slice (patchTag page head 1 e.1 ++ e.2) 0 48) ++
    (match hp.kOut with
     | some o => [slice (patchTag page head 2 0 ++ o.1 ++ o.2) 0 144]
     | none => []) ++
    (match hp.vOut with
     | some o => [slice (patchTag page head 3 0 ++ o.1 ++ o.2) 0 144]
     | none => [])

/-- The entries that a patch tile's payload holds, with their greatest number as fuel. -/
def entriesIn : Nat → List Byte → List (List Byte)
  | 0, _ => []
  | k + 1, b =>
    match field b 5 1 with
    | 1 => b.take 48 :: entriesIn k (b.drop 48)
    | 2 => b.take 144 :: entriesIn k (b.drop 144)
    | 3 => b.take 144 :: entriesIn k (b.drop 144)
    | _ => []

/-- Pack entries into tiles of 16,384 bytes; an entry that does not fit begins the next tile (R74). -/
def packEntries : List (List Byte) → List (List Byte) → List (List (List Byte))
  | [], cur => if cur.isEmpty then [] else [cur]
  | e :: t, cur =>
    if (cur.map (·.length)).sum + e.length ≤ 16384 then packEntries t (cur ++ [e])
    else cur :: packEntries t [e]

/-- The page that an entry names. -/
def entryPage (e : List Byte) : Nat := field e 0 4

/-- The patches and outlier entries of a head-page among entries (R74). -/
def patchesFrom (es : List (List Byte)) (page head : Nat) (hp : HeadPage) : HeadPage :=
  let mine := es.filter fun e => entryPage e == page && field e 4 1 == head
  let outlier := fun ty => (mine.find? fun e => field e 5 1 == ty).map fun e => (slice e 8 4, slice e 12 128)
  { hp with
    patches := (mine.filter fun e => field e 5 1 == 1).map fun e => (field e 6 2, slice e 8 33)
    kOut := outlier 2, vOut := outlier 3 }

/-! ### SX2 (R160 to R162) -/

/-- Pairs of elements. -/
def nibbles (b : List Byte) : List Nat := b.flatMap fun x => [x.toNat % 16, x.toNat / 16]

/-- The SX2 code of an SX4 code (R161). -/
def lowerCode (c : Nat) : Nat := 2 * (c / 8) + (if 5 ≤ c % 8 then 1 else 0)

/-- The E2M1 code of an SX2 code (R162). -/
def raiseCode (c : Nat) : Nat := 8 * (c / 2) + (if c % 2 = 1 then 5 else 2)

/-- Four two-bit codes to a byte (R160). -/
def packQuarter : List Nat → List Byte
  | a :: b :: c :: d :: t => byte (a + 4 * b + 16 * c + 64 * d) :: packQuarter t
  | _ => []

/-- The codes of an SX2 group's bytes. -/
def quarters (b : List Byte) : List Nat := b.flatMap fun x => [x.toNat % 4, x.toNat / 4 % 4, x.toNat / 16 % 4, x.toNat / 64]

/-- Lower a group's 16 code bytes to 8 (R161); a patched one to zeros. -/
def lowerGroup (codes : List Byte) (sp : Nat × Nat) : List Byte :=
  if isPatched sp then zeros 8 else packQuarter ((nibbles codes).map lowerCode)

/-- Raise a group's 8 code bytes to 16 (R162). -/
def raiseGroup (codes : List Byte) (sp : Nat × Nat) : List Byte :=
  if isPatched sp then zeros 16 else packHalf ((quarters codes).map raiseCode)

/-- The lowering error of a group is at most 1/2 (R161). -/
def lowersWell (codes : List Byte) (sp : Nat × Nat) : Bool :=
  isPatched sp ||
    (let cs := nibbles codes
     let x4 := (List.range 32).map fun i => sx4Val (if i < 16 then sp.1 else sp.2) (cs.getD i 0)
     let x2 := (List.range 32).map fun i => sx4Val (if i < 16 then sp.1 else sp.2) (raiseCode (lowerCode (cs.getD i 0)))
     norm2 x4 == 0 || decide (4 * computedDiff x4 x2 (norm2 ((List.range 32).map fun i => x4.getD i 0 - x2.getD i 0)) (norm2 x4) ≤ norm2 x4))

/-- Lower the codes of head-pages, with the sub-scales of each. -/
def lowerCodes (codes scales : List Byte) : List Byte :=
  (List.range (codes.length / 16)).flatMap fun g =>
    lowerGroup (slice codes (16 * g) 16) (field scales (2 * g) 1, field scales (2 * g + 1) 1)

/-- Raise the codes of head-pages. -/
def raiseCodes (codes scales : List Byte) : List Byte :=
  (List.range (codes.length / 8)).flatMap fun g =>
    raiseGroup (slice codes (8 * g) 8) (field scales (2 * g) 1, field scales (2 * g + 1) 1)

end Sys2Proof.Machine
end

