-- ==== Sys2Proof/Machine/Render.lean ====
section
/-! DEFINITION. Records and tiles as bytes: the session record, the text record, the stop set, the grammar stack and image,
the token log, the draft record, the region record, and the header and payload of a tile; and the same read back. -/

namespace Sys2Proof.Machine

/-- Bytes of a list of numbers of `k` bytes each. -/
def packNats (k : Nat) (l : List Nat) : List Byte := l.flatMap (leBytes k)

/-- The numbers of `k` bytes each in a string, `n` of them from an offset. -/
def unpackNats (k n : Nat) (b : List Byte) (off : Nat) : List Nat := (List.range n).map fun i => field b (off + k * i) k

/-- Current version of a tile number, 0 where it was never referenced. -/
def versionOf (s : State) (h n : Nat) : Nat := ((tileOf s h n).map (·.version)).getD 0

/-- The session record, or a prefix region's (R61, R358). -/
def recordBytes (x : Subject) : List Byte :=
  leBytes 8 x.handle ++ leBytes 2 x.keySlot ++ leBytes 2 x.layers ++ [byte x.kvHeads, byte x.ratio] ++ leBytes 2 x.dim ++
    leBytes 2 (storedDim x.dim) ++ [byte x.options, byte x.priority] ++ leBytes 4 x.vocab ++ leBytes 4 x.log.length ++
    leBytes 4 (filedMin x) ++ [byte x.globals.length] ++ zeros 31 ++ ownBytes x.own ++
    (match x.kind with
     | .shared => leBytes 8 x.parent ++ leBytes 4 x.firstPage ++ leBytes 4 x.count ++ leBytes 8 x.modelTag ++
         [byte (b2n x.isPublic)] ++ zeros 7
     | _ => zeros 32) ++
    leBytes 8 x.vfloor ++ zeros 120 ++ slice (packNats 4 x.globals) 0 256

/-- The text record (R249). -/
def textBytes (t : TextState) : List Byte :=
  leBytes 4 t.turnBase ++
    [byte (b2n t.stopped + 2 * b2n t.active + 4 * b2n t.dead + 8 * b2n t.includeStop + 16 * t.stopId),
     byte t.pend.length, byte t.hold.length, byte t.policy] ++
    slice t.pend 0 4 ++ leBytes 4 t.stopToken ++ slice t.hold 0 64 ++ leBytes 4 t.gstate ++ leBytes 2 t.stack.length ++
    [byte t.release, 0] ++ leBytes 4 t.image.length ++ zeros 164 ++ slice t.sampler 0 256

/-- The stop set: 16 entries of 68 bytes (R248, R258). -/
def stopBytes (t : TextState) : List Byte :=
  (List.range 16).flatMap fun i => let x := t.stops.getD i []; byte x.length :: zeros 3 ++ slice x 0 64

/-- A node of a draft tree: 16 bytes (R223). -/
def nodeBytes (n : Node) : List Byte :=
  leBytes 4 n.token ++ [byte n.parent, byte n.depth, 0, 0] ++ leBytes 4 n.prob ++ zeros 4

/-- The draft record (R216). -/
def draftBytes (d : Draft) : List Byte :=
  leBytes 8 d.modelId ++ [byte d.slot, byte d.nodeMax, byte d.depthMax, byte d.width] ++ leBytes 2 d.window ++
    leBytes 2 d.accAvg ++ (List.range 8).map (fun i => byte (d.branch.getD (2 * i) 0 + 16 * d.branch.getD (2 * i + 1) 0)) ++
    leBytes 4 d.step ++ leBytes 4 (d.base.getD 0xFFFFFFFF) ++ leBytes 4 d.kvEnd ++
    [byte d.emptyRun, byte (b2n d.paused + 2 * b2n d.configured)] ++ leBytes 2 d.probe ++ [byte d.tree.length] ++ zeros 23 ++
    slice (d.tree.flatMap nodeBytes) 0 1024

/-- The record of a buffer region in the region table (R358). -/
def regionBytes (x : Subject) : List Byte :=
  leBytes 8 x.handle ++ leBytes 2 x.keySlot ++ leBytes 2 x.windows ++ leBytes 2 x.firstWindow ++ [byte (b2n x.durable), 0] ++
    leBytes 8 x.version ++ ownBytes x.own ++ leBytes 8 x.vfloor

/-- Bytes of a tile's payload. -/
def payloadBytes : Nat := 16384

/-- The first DRAFT tile of a session holds its draft record (R216). -/
def isDraftRecord (t : Tile) : Bool := t.kind == 9 && t.format == 0

/-- The payload of a tile, `payloadBytes` long: rendered from the subject for records, logs and text (R68). -/
def payloadOf (s : State) (t : Tile) : List Byte :=
  match subjAny s t.handle with
  | none => cellRead t.payload 0 payloadBytes
  | some x =>
    if t.kind = 1 then
      slice (recordBytes x ++ slice (Config.mapNode t.handle t.number t.version) 0 (payloadBytes - 512)) 0 payloadBytes
    else if t.kind = 2 then
      (if t.number = 1 then slice (textBytes x.text) 0 payloadBytes
       else if t.number = 2 then slice (stopBytes x.text) 0 payloadBytes
       else if t.number = 3 then slice (packNats 4 x.text.stack) 0 payloadBytes
       else slice x.text.image ((t.number - 0x10) * payloadBytes) payloadBytes)
    else if t.kind = 3 then slice (Config.mapNode t.handle t.number t.version) 0 payloadBytes
    else if t.kind = 4 then slice (packNats 4 ((x.log.drop ((t.number - 0x1000) * 4096)).take 4096)) 0 payloadBytes
    else if isDraftRecord t then
      slice ((x.draft.map draftBytes).getD []) 0 payloadBytes
    else cellRead t.payload 0 payloadBytes

/-- Header bytes 0 to 55 of a tile (R64). -/
def headerBytes (t : Tile) : List Byte :=
  leBytes 8 t.handle ++ leBytes 4 t.number ++ leBytes 8 t.version ++ [byte t.kind, byte t.format, byte (b2n t.durable), 0] ++
    leBytes 2 t.keySlot ++ [byte t.layer, 0] ++ leBytes 2 t.count ++ leBytes 2 0 ++ leBytes 4 t.first ++ zeros 20

/-- A tile in plaintext: header with its checksum, and payload (R64, R65). -/
def imageOf (s : State) (t : Tile) : List Byte :=
  let h := headerBytes t
  let p := payloadOf s t
  h ++ leBytes 8 (crc64 (h ++ p)) ++ p

/-- The tweak of a tile under its key (R399). -/
def tweakOf (t : Tile) : List Byte :=
  shake 16 (ascii "PB-TWK" ++ leBytes 8 t.handle ++ leBytes 4 t.number ++ leBytes 8 t.version)

/-- A tile as it leaves the logic package: header bytes 0 to 25 in plaintext, the rest one data unit encrypted under its tenant's key
(R17, R66). -/
def storedOf (s : State) (t : Tile) : List Byte :=
  let b := imageOf s t
  b.take 26 ++ Config.xts t.key (tweakOf t) (b.drop 26)

/-- Decrypt a stored tile (R66). -/
def openStored (s : State) (t : Tile) (b : List Byte) : List Byte :=
  b.take 26 ++ Config.xtsInv (keyOf s t.keySlot) (tweakOf t) (b.drop 26)

/-- The kind and format codes that are not reserved (R64, R68). -/
def kindKnown (k f : Nat) : Bool := decide (1 ≤ k) && decide (k ≤ 11) && decide (f ≤ 4)

/-- An image passes its checksum for a tile requested: the conditions of R65. -/
def imagePasses (t : Tile) (b : List Byte) : Bool :=
  field b 56 8 == crc64 (slice b 0 56 ++ slice b 64 payloadBytes) && kindKnown (field b 20 1) (field b 21 1) &&
    bits (field b 8 4) 31 24 == 0 && bits (field b 22 1) 7 1 == 0 && field b 23 1 == 0 && bits (field b 24 2) 15 12 == 0 &&
    field b 27 1 == 0 && field b 30 2 == 0 && field b 36 20 == 0 && field b 0 8 == t.handle &&
    bits (field b 8 4) 23 0 == t.number && field b 12 8 == t.version

/-- A session-table entry (R59). -/
def entryBytes (s : State) (x : Subject) : List Byte :=
  leBytes 8 x.handle ++ leBytes 2 x.keySlot ++ [byte x.state, byte x.homeBed] ++ zeros 4 ++
    leBytes 8 (versionOf s x.handle 0) ++ zeros 8

/-- Read an ownership record back (R340). -/
def ownFrom (b : List Byte) : OwnRec :=
  { epoch := field b 0 4, owner := field b 4 3, state := field b 7 1, target := field b 8 3,
    granted := bit (field b 11 1) 0, since := field b 16 8 }

/-- Read a text record back, with the stops, the stack and the image that other tiles hold (R249). -/
def textFrom (b stops stack image : List Byte) : TextState :=
  let f := field b 4 1
  { turnBase := field b 0 4, stopped := bit f 0, active := bit f 1, dead := bit f 2, includeStop := bit f 3,
    stopId := bits f 7 4, pend := slice b 8 (min 3 (field b 5 1)), hold := slice b 16 (min 63 (field b 6 1)),
    policy := field b 7 1, stopToken := field b 12 4, gstate := field b 80 4, release := field b 86 1,
    sampler := slice b 256 256,
    stops := (List.range 16).map fun i => slice stops (68 * i + 4) (min 64 (field stops (68 * i) 1)),
    stack := unpackNats 4 (min 4096 (field b 84 2)) stack 0, image := slice image 0 (min 3932160 (field b 88 4)) }

/-- A subject with nothing in it. -/
def Subject.blank (index handle slot : Nat) (k : SubjKind) : Subject :=
  { index := index, handle := handle, kind := k, keySlot := slot, state := 1, prior := 1, homeBed := 0,
    own := { epoch := 1, owner := 0, state := 0, target := 0, granted := false, since := 0 }, vfloor := 0, raise := 0, layers := 0,
    kvHeads := 0, ratio := 0, dim := 0, options := 0, priority := 0, vocab := 0, globals := [], log := [], maps := [],
    text := TextState.empty, draft := none, windows := 0, firstWindow := 0, durable := false, version := 0, parent := 0,
    firstPage := 0, count := 0, modelTag := 0, isPublic := false, hashes := [], closed := false }

/-- Read a session record back into a subject (R61, R358); the token log and the map come from other tiles. -/
def recordFrom (x : Subject) (b : List Byte) : Subject :=
  { x with keySlot := bits (field b 8 2) 11 0, layers := field b 10 2, kvHeads := field b 12 1, ratio := field b 13 1,
           dim := field b 14 2, options := field b 18 1, priority := field b 19 1, vocab := field b 20 4,
           globals := unpackNats 4 (min 64 (field b 32 1)) b 256, own := ownFrom (slice b 64 32), parent := field b 96 8,
           firstPage := field b 104 4, count := field b 108 4, modelTag := field b 112 8, isPublic := bit (field b 120 1) 0,
           vfloor := field b 128 8 }

end Sys2Proof.Machine
end

