-- ==== Sys2Proof/Machine/Access.lean ====
section
/-! DEFINITION. How the work of a descriptor reaches tiles and operands: staging new tile versions, demand reads, tiles that
fail their checksum, reads and writes by address, shapers, and the checks in their order. -/

namespace Sys2Proof.Machine

/-! ### Checks in order -/

/-- One check of a table: it holds, the status if not, the reason of the event that goes with it (0: none). -/
structure Chk where
  ok : Bool
  status : Nat
  reason : Nat
deriving DecidableEq, Repr

/-- A check without an event. -/
def chk (ok : Bool) (status : Nat) : Chk := { ok := ok, status := status, reason := 0 }

/-- A check with an event. -/
def chkEv (ok : Bool) (status reason : Nat) : Chk := { ok := ok, status := status, reason := reason }

/-- The first check that fails. -/
def firstFail (l : List Chk) : Option Chk := l.find? fun c => !c.ok

/-- An event about the tenant and the subject of a work. -/
def workEvent (s : State) (w : Work) (reason : Nat) (arg : List Nat) : State :=
  event s reason 0 w.hdr.keySlot (subjectOf w) 0 arg

/-- End a work by a failed check. -/
def failChk (s : State) (w : Work) (c : Chk) : State :=
  let s := if c.reason = 0 then s else workEvent s w c.reason []
  fail s w.id c.status

/-- Run `f` when every check passes, else end the work by the first that fails. -/
def checked (s : State) (w : Work) (l : List Chk) (f : State → State) : State :=
  match firstFail l with
  | some c => failChk s w c
  | none => f s

/-! ### Effects of a work that no completion has made referenced yet (R36) -/

/-- Add an effect to a work. -/
def addEff (s : State) (id : Nat) (e : Effect) : State := updWork s id fun w => { w with effects := w.effects ++ [e] }

/-- End a work with the effects that it has gathered. -/
def done (s : State) (id status : Nat) (result : List Byte) : State :=
  finish s id status result (((workOf s id).map (·.effects)).getD [])

/-! ### Subjects of descriptors -/

/-- The subject of a descriptor if it is held here for the tenant (R58, R85, R341): CLOSING ones are not. -/
def heldFor (s : State) (slot h : Nat) : Option Subject :=
  match subjOf s h with
  | none => none
  | some x => if x.keySlot = slot ∧ x.state ≠ 4 then some x else none

/-- The subject is a session. -/
def isSession (x : Subject) : Bool := x.kind == .session

/-- The subject is OFFERED (R346). -/
def isOffered (x : Subject) : Bool := x.own.state == 1

/-- Run `f` on the subject of a work if it is held here for the tenant, else the work completes NOT_OWNER (R58). -/
def withSubject (s : State) (w : Work) (f : Subject → State) : State :=
  match heldFor s w.hdr.keySlot (subjectOf w) with
  | none => fail s w.id stNotOwner
  | some x => f x

/-- The checks that every descriptor of a session passes: not DAMAGED (R60), then admitted by its state (R111), and not
OFFERED where it changes the subject (R346). Log 40 (DEDUCED). -/
def sessionChks (x : Subject) (parked change : Bool) : List Chk :=
  [chk (isSession x) stNotOwner, chk (x.state != 5) stPoisoned,
   chk ((parked || x.state != 2) && !(change && isOffered x)) stConflict]

/-! ### Tiles that fail (R80, R127) -/

/-- Head-pages of an SX4 code tile (R71). -/
def codePer (x : Subject) : Nat := 512 / max 1 (storedDim x.dim)

/-- Head-pages of a scale tile (R72). -/
def scalePer (x : Subject) : Nat := 4096 / max 1 (storedDim x.dim)

/-- Bytes of a summary entry (R73). -/
def summaryEntry (x : Subject) : Nat := 66 * storedDim x.dim / 32

/-- Summary entries of a tile (R73). -/
def summaryPer (x : Subject) : Nat := 16384 / max 1 (summaryEntry x)

/-- Pages of a layer that a run of `per` head-pages, place `i` of its sequence, touches. -/
def pagesOfRun (x : Subject) (l : LayerMap) (per i : Nat) : List Nat :=
  let h := max 1 x.kvHeads
  (List.range l.pages.length).filter fun p => decide (l.first ≤ p) &&
    decide (i * per < (p - l.first + 1) * h) && decide ((p - l.first) * h < (i + 1) * per)

/-- Places of a number in a sequence. -/
def placesOf (n : Nat) (l : List Nat) : List Nat := (List.range l.length).filter fun i => l.getD i 0xFFFFFFFF == n

/-- Pages that the patch entries of a tile name (R74). -/
def patchPages : Nat → List Byte → List Nat
  | 0, _ => []
  | k + 1, b =>
    match field b 5 1 with
    | 1 => field b 0 4 :: patchPages k (b.drop 48)
    | 2 => field b 0 4 :: patchPages k (b.drop 144)
    | 3 => field b 0 4 :: patchPages k (b.drop 144)
    | _ => []

/-- Pages of the owner's layer that depend on a tile (R71 to R74). -/
def dependentPages (x : Subject) (t : Tile) : List Nat :=
  let l := mapOf x t.layer
  match t.kind with
  | 5 => (placesOf t.number l.code).flatMap (pagesOfRun x l (codePer x))
  | 6 => (placesOf t.number l.scale).flatMap (pagesOfRun x l (scalePer x))
  | 7 => (placesOf t.number l.summary).flatMap (pagesOfRun x l (summaryPer x))
  | 8 => patchPages 341 (cellRead t.payload 0 payloadBytes)
  | _ => []

/-- Set pages of a layer to ABSENT; those that are EMPTY stay so. -/
def absentIn (l : LayerMap) (own : Option Nat) (ps : List Nat) : LayerMap :=
  { l with pages := (List.range l.pages.length).map fun p =>
      let g := pageOf l p
      if p ∈ ps ∧ g.region = own ∧ g.state ≠ 0 then { g with state := 3, valid := 0 } else g }

/-- Change the map of one layer. -/
def setMap (x : Subject) (layer : Nat) (m : LayerMap) : Subject :=
  { x with maps := setAt LayerMap.empty x.maps layer m }

/-- The pages that a lost tile makes ABSENT: those that depend on it and are neither EMPTY nor ABSENT, in the owner and in sessions that
reference it (R80, R127). -/
def pagesLost (s : State) (t : Tile) : List (Subject × Nat) :=
  match subjAny s t.handle with
  | none => []
  | some x =>
    let ps := dependentPages x t
    s.subjects.flatMap fun y =>
      let l := mapOf y t.layer
      let own := if y.handle = t.handle then none else some t.handle
      ((List.range l.pages.length).filter fun p =>
        let g := pageOf l p
        decide (p ∈ ps) && g.region == own && (y.handle == t.handle || y.kind == .session) && g.state != 0 && g.state != 3).map fun p => (y, p)

/-- One event for each page that has become ABSENT: its session, layer and page (R80, R463). Log 155 (DESIGN CHOICE). -/
def absentEvents (s : State) (layer : Nat) (l : List (Subject × Nat)) : State :=
  l.foldl (fun s e => event s 0x0102 1 e.1.keySlot e.1.handle 0 [layer, e.2]) s

/-- The pages that depend on a tile become ABSENT, in the owner and in sessions that reference it (R80, R127). -/
def pagesAbsent (s : State) (t : Tile) : State :=
  match subjAny s t.handle with
  | none => s
  | some x =>
    let ps := dependentPages x t
    { s with subjects := s.subjects.map fun y =>
        if y.handle = t.handle then setMap y t.layer (absentIn (mapOf y t.layer) none ps)
        else if y.kind = .session then setMap y t.layer (absentIn (mapOf y t.layer) (some t.handle) ps)
        else y }

/-- Committed drafter KV reaches only to the lowest position that a lost DRAFT tile held (R218). -/
def draftLost (s : State) (t : Tile) : State :=
  updSubj s t.handle fun x =>
    { x with draft :=
        if t.format = 0 then none
        else x.draft.map fun d =>
          if t.first < 0x80000000 then { d with kvEnd := min d.kvEnd t.first }
          else { d with kvNodes := d.kvNodes.filter fun k => !(decide (t.first - 0x80000000 ≤ k) &&
            decide (k < t.first - 0x80000000 + t.count)) } }

/-- The subject enters DAMAGED (R80); one that is CLOSING goes on closing, and would return to DAMAGED (R85). -/
def damage (x : Subject) : Subject := if x.state = 4 then { x with prior := 5 } else { x with state := 5 }

/-- No copy of a tile at its mapped version is valid (R80): the subject of a durable one is DAMAGED; the pages that depend on a tile
read ABSENT, with one event each. A lost tile that no page depends on has one event, with page 0xFFFFFFFF. Log 155 (DESIGN CHOICE). -/
def tileLost (s : State) (h n : Nat) : State :=
  match tileOf s h n with
  | none => s
  | some t =>
    let s := updTile s h n fun t => { t with copies := t.copies.filter (fun c => c.version != t.version), lodged := none }
    let pages := pagesLost s t
    if t.durable then
      let s := pagesAbsent (updSubj s h damage) t
      absentEvents (event s 0x0103 1 t.keySlot h 0 [n]) t.layer (pages.filter fun e => e.1.handle != h)
    else if t.kind = 9 then event (draftLost s t) 0x0102 1 t.keySlot h 0 [t.layer, 0xFFFFFFFF]
    else if pages.isEmpty then event (pagesAbsent s t) 0x0102 1 t.keySlot h 0 [t.layer, 0xFFFFFFFF]
    else absentEvents (pagesAbsent s t) t.layer pages

/-- Tiles kept here: own ones and those lodged for other owners (R351). -/
def keptTiles (s : State) : List Tile := s.tiles.filter (fun t => t.version != 0) ++ s.own.lodged

/-- Change a tile that is kept here, an own one or one lodged for another owner. -/
def updHeld (s : State) (h n : Nat) (f : Tile → Tile) : State :=
  let s := updTile s h n f
  { s with own := { s.own with lodged := updIf (fun t => t.handle == h && t.number == n) f s.own.lodged } }

/-- Drop the copies that a tile has in a T3 range; a tile whose master lay there becomes absent, whatever lies below (R107). -/
def loseInRange (s : State) (r : Nat) (t : Tile) : State :=
  let master := masterPlace t == (3, r)
  let s := updHeld s t.handle t.number fun x => { x with copies := x.copies.filter fun c => !(c.tier == 3 && c.place == r) }
  if master then tileLost s t.handle t.number else s

/-- The range is lost: its tiles become absent, and an event names the range and each affected session (R107). -/
def loseRange (s : State) (r : Nat) : State :=
  let hit := (keptTiles s).filter fun t => t.copies.any fun c => c.tier == 3 && c.place == r
  let s := hit.foldl (fun s t => loseInRange s r t) s
  let s := regSet s .stoT3StatusState r 3
  let names := (hit.map fun t => (t.handle, t.keySlot)).dedup
  if names.isEmpty then event s 0x0304 0 0xFFFF 0 (locate 10 0 0 0 r) [r]
  else names.foldl (fun s e => event s 0x0304 0 e.2 e.1 (locate 10 0 0 0 r) [r]) s

/-- Count the bytes of a tile that are read from one tier and written to another, 0 for none (R489). -/
def countMove (s : State) (t : Tile) (src dst unit : Nat) : State :=
  let bed := homeOf s t.handle
  let s := if src = 0 then s else countAll s 5 src bed unit t.keySlot 0xFFFF tileBytes
  if dst = 0 then s else countAll s 6 dst bed unit t.keySlot 0xFFFF tileBytes

/-- The outermost unit on which a work is in flight, 0xFFFF for none. -/
def workRoot (s : State) (id : Nat) : Nat :=
  match workOf s id with
  | none => 0xFFFF
  | some w => match w.place with
    | .flight l => if l = 0xFFFF then 0xFFFF else rootOf s l
    | _ => 0xFFFF

/-- Time within which a second failed copy retires its row: 24 h (R447). -/
abbrev dayNs : Nat := 86400000000000

/-- A DRAM row is retired: a T1 row goes to a spare row of its vault while it has one, a T2 row is blocked (R447, R461). Which row a copy lies
in, and how many spare rows a vault has, is open; a vault without one fails by a DRAM_CHANNEL_FAULT (R455). Log 189 (DESIGN CHOICE). -/
def retireRow (s : State) (tier place row : Nat) : State :=
  let used := (aget s.nv.rowsUsed place).getD 0
  let s := { s with flt := { s.flt with rowFails := adel s.flt.rowFails (tier, place, row) } }
  if tier = 1 ∧ Config.spareRows ≤ used then s
  else
    let s := if tier = 1 then regAdd { s with nv := { s.nv with rowsUsed := aset s.nv.rowsUsed place (used + 1) } } .fltRepairT1Rows 0 1 32 else s
    event s 0x0106 1 0xFFFF 0 (placeLoc tier place + row % 2 ^ 32) [row]

/-- A copy in a row has failed: the second one within 24 h retires the row (R447). -/
def rowFailed (s : State) (tier place row : Nat) : State :=
  if (aget s.flt.rowFails (tier, place, row)).any fun t => decide (s.time < t + dayNs) then retireRow s tier place row
  else { s with flt := { s.flt with rowFails := aset s.flt.rowFails (tier, place, row) s.time } }

/-- When copies in a T3 range have failed within the last second. -/
def rangeFailures (s : State) (r : Nat) : List Nat := ((aget s.flt.rangeFails r).getD []).filter fun t => decide (s.time < t + 1000000000)

/-- A copy in a T3 range has failed: after more than 16 in 1 s the range is treated as unreachable (R447, R107). -/
def rangeFailed (s : State) (r : Nat) : State :=
  let l := s.time :: rangeFailures s r
  let s := { s with flt := { s.flt with rangeFails := aset s.flt.rangeFails r l } }
  if 16 < l.length ∧ regGet s .stoT3StatusState r ≠ 3 then loseRange s r else s

/-- What a failed copy does to its place (R447): a DRAM row, where one that was written again from its twin is read back, or a T3 range; T4
blocks are retired by their own command. -/
def placeFailed (s : State) (twin : Bool) (t : Tile) (tier place : Nat) : State :=
  let row := Config.rowOf tier place t.handle t.number t.version
  if tier = 3 then rangeFailed s place
  else if tier = 4 then s
  else if twin then (if Config.verdict s.free then rowFailed (takeFree s) tier place row else retireRow (takeFree s) tier place row)
  else rowFailed s tier place row

/-- A copy fails its checksum (R80): it is dropped and, in a tier of two copies, written again from the other; the next copy
down serves; with none left the tile is lost. -/
def copyDropped (s : State) (h n tier place : Nat) : State :=
  match tileOf s h n with
  | none => s
  | some t =>
    let bad : TileCopy := { tier := tier, place := place, version := t.version }
    if bad ∈ t.copies then
      let rest := t.copies.filter fun c => c ≠ bad
      let twin := rest.any fun c => c.tier == tier && c.version == t.version
      let s := regAdd s .fltCsumCntCount tier 1 64
      let loc := placeLoc tier place
      let s := setLast (raiseClass s 1) 1 loc 0
      if twin then event (updTile s h n fun x => { x with copies := bad :: rest }) 0x0101 1 t.keySlot h loc [n]
      else
        let s := updTile s h n fun x => { x with copies := rest }
        if rest.any (fun c => c.version == t.version) then
          (if t.durable then event s 0x0101 1 t.keySlot h loc [n] else s)
        else tileLost s h n
    else s

/-- A copy of a tile that is lodged here for another owner fails: it is counted and dropped, and the place goes by R447; a tile without one is
served no more (R353, R354). -/
def lodgedFailed (s : State) (h n tier place : Nat) : State :=
  match s.own.lodged.find? fun t => t.handle == h && t.number == n && t.copies.any fun c => c.tier == tier && c.place == place with
  | none => s
  | some t =>
    let s := setLast (raiseClass (regAdd s .fltCsumCntCount tier 1 64) 1) 1 (placeLoc tier place) 0
    let s := updHeld s h n fun x => { x with copies := x.copies.filter fun c => !(c.tier == tier && c.place == place) }
    placeFailed s false t tier place

/-- A copy fails its checksum: the tile goes by R80, the place by R447. -/
def copyFailed (s : State) (h n tier place : Nat) : State :=
  match tileOf s h n with
  | none => lodgedFailed s h n tier place
  | some t =>
    if ({ tier := tier, place := place, version := t.version } : TileCopy) ∈ t.copies then
      placeFailed (copyDropped s h n tier place) (t.copies.any fun c => c.tier == tier && c.version == t.version && c.place != place) t tier place
    else s

/-- A copy that is read fails its checksum: the tile's master copy is dropped, and the next one serves (R80, R94). -/
def masterFails (s : State) (h n : Nat) : State :=
  match tileOf s h n with
  | none => s
  | some t => if masterTier t = 0 ∨ t.lodged.isSome then s else copyFailed s h n (masterPlace t).1 (masterPlace t).2

/-- Copies fail that a command reads of some tiles: each entry of `bad` names a tile of which one more copy fails (R94). -/
def readFails (s : State) (bad names : List (Nat × Nat)) : State :=
  (bad.filter fun e => decide (e ∈ names)).foldl (fun s e => masterFails s e.1 e.2) s

/-- A tile whose slot has become ACTIVE under another tenant's key fails its checksum in every copy when it is read (R67). -/
def keyChecked (s : State) (h n : Nat) : State :=
  match tileOf s h n with
  | none => s
  | some t =>
    if t.version = 0 ∨ t.lodged.isSome ∨ masterTier t = 0 ∨ !slotActive s t.keySlot ∨ keyOf s t.keySlot = t.key then s
    else
      let s := (t.copies.filter fun c => c.version == t.version).foldl (fun s c => regAdd s .fltCsumCntCount c.tier 1 64) s
      tileLost (setLast (raiseClass s 1) 1 (placeLoc (masterTier t) 0) 0) h n

/-- Read the HEAD of a subject under its slot's key (R67). -/
def subjectChecked (s : State) (h : Nat) : State := keyChecked s h 0

/-! ### Demand, adoption and new versions -/

/-- Numbers that the map of a subject names. -/
def mapNumbers (x : Subject) : List Nat := x.maps.flatMap fun l => l.code ++ l.scale ++ l.summary ++ l.patch

/-- Numbers of the shared range that a subject uses, or that work not yet completed has taken (R69). -/
def usedNumbers (s : State) (h : Nat) : List Nat :=
  ((subjAny s h).map mapNumbers).getD [] ++ ((tilesOf s h).filter fun t => t.version != 0).map (·.number) ++
    ((stagedTiles s).filter fun t => t.handle == h).map (·.number)

/-- The `n` lowest free numbers from `lo` upward. -/
def freeNumbers : Nat → Nat → List Nat → List Nat
  | 0, _, _ => []
  | k + 1, lo, used =>
    let n := lowestFree used.length lo used
    n :: freeNumbers k (n + 1) used

/-- The lowest free numbers of the shared range; `none` beyond its end. -/
def takeNumbers (s : State) (h n : Nat) : Option (List Nat) :=
  let l := freeNumbers n 0x2000 (usedNumbers s h)
  if l.all (fun x => decide (x ≤ 0xFFFFFF)) then some l else none

/-- Ask the hosts that hold lines of tiles to release them (R96): the lines not asked for yet. -/
def snoopLines (s : State) (lines : List (Nat × Nat)) : State :=
  let new := lines.filter fun e => !(e ∈ s.cxl.biPending)
  let s := new.foldl (fun s e => emit s (.snoop e.1 e.2)) s
  { s with cxl := { s.cxl with biPending := s.cxl.biPending ++ new } }

/-- Tell the holder that a lodged tile is no longer named (R353). -/
def releaseLodged (s : State) (t : Tile) : State :=
  match t.lodged with
  | none => s
  | some o => sendPeer s o 0x07 (t.version % 2 ^ 32) t.handle t.number 0 (t.version / 2 ^ 32)

/-- The key that a new version of a tile is to be stored under: its slot's, or, while the slot is not ACTIVE, that of the version before. -/
def newKey (s : State) (t : Tile) : List Byte :=
  if slotActive s t.keySlot then keyOf s t.keySlot else ((tileOf s t.handle t.number).map (·.key)).getD t.key

/-- Assign a version to a tile and put it in place, referenced. -/
def putVersion (s : State) (t : Tile) (tier : Nat) (places : List Nat) : State :=
  let key := newKey s t
  let s := assignVersion s t.handle t.number t.keySlot
  let f := ((tileOf s t.handle t.number).map fun x => (x.floor, x.recFloor)).getD (0, 0)
  putTile s (withCopies { t with version := f.1, floor := f.1, recFloor := f.2, copies := [], wrote := false, lastUse := tick s,
                                 key := key, lodged := none } tier places)

/-- Before a tile of a restored subject is written, the subject's version base rises, and HEAD, which holds it, is written (R61, R63). A
buffer region's base stands in the region table. -/
def raiseBase (s : State) (h : Nat) : State :=
  match subjAny s h with
  | none => s
  | some x =>
    if x.raise = 0 then s
    else
      let s := updSubj s h fun y => { y with vfloor := y.vfloor + y.raise, raise := 0 }
      if x.kind = .buffer then s
      else
        let t := { blankTile h 0 x.keySlot with kind := 1, count := 0, first := 0, durable := true }
        match placeNew s t with
        | none => s
        | some p => putVersion s t p.1 p.2

/-- Reference a new version of a tile at once, at given places: a change that the device makes itself (R63). A holder of the old version is told
(R353). Lines of the tile that hosts
still hold are back-invalidated in the same step (R96). Log 156 (DESIGN CHOICE). -/
def commitAt (s : State) (t : Tile) (tier : Nat) (places : List Nat) : State :=
  let s := snoopLines s (heldLines s t.handle t.number)
  let s := ((tileOf s t.handle t.number).map (releaseLodged s)).getD s
  countMove (putVersion (raiseBase s t.handle) t tier places) t 0 tier 0xFFFF

/-- Reference a new version at once; `none` where no tier has room. -/
def commitIn (s : State) (t : Tile) : Option State := (placeNew s t).map fun p => commitAt s t p.1 p.2

/-- Reference a new version at once where a tier has room; without room nothing changes. -/
def commitNow (s : State) (t : Tile) : State := (commitIn s t).getD s

/-- A durable record tile of a subject: HEAD, TEXT_STATE, MAP or TOKEN_LOG. -/
def recordTile (x : Subject) (n kind count first : Nat) : Tile :=
  { blankTile x.handle n x.keySlot with kind := kind, count := count, first := first, durable := true }

/-- HEAD and the MAP tile, which change with every change of the session record or of the map (assumption 22). Log 22 (DEDUCED). -/
def headTiles (x : Subject) : List Tile := [recordTile x 0 1 0 0, recordTile x 0x100 3 0 0]

/-- The device has changed the tile map of a subject: HEAD and MAP take new versions; a buffer region's map is a system
table (R358). -/
def touchMap (s : State) (h : Nat) : State :=
  match subjAny s h with
  | none => s
  | some x => if x.kind = .buffer then s else (headTiles x).foldl commitNow s

/-- Sub-scales of a head-page, by its place in the layer's own sequence (R72). -/
def headScales (s : State) (x : Subject) (l : LayerMap) (m : Nat) : List Byte :=
  let dp := storedDim x.dim
  let n := l.scale.getD (m / max 1 (scalePer x)) 0xFFFFFFFF
  match tileOf s x.handle n with
  | none => zeros (4 * dp)
  | some t => cellRead t.payload (m % max 1 (scalePer x) * (4 * dp)) (4 * dp)

/-- Pages that a run of `per` head-pages, place `i` of a layer's sequence, touches, among some. -/
def runPages (x : Subject) (l : LayerMap) (per i : Nat) (ps : List Nat) : List Nat := ps.filter fun p => decide (p ∈ pagesOfRun x l per i)

/-- An SX2 tile can be expanded: T2 has room for both SX4 tiles, and the scales of its head-pages are held here (R72, R106). -/
def expandable (s : State) (t : Tile) : Bool :=
  match subjAny s t.handle with
  | none => false
  | some x =>
    let l := mapOf x t.layer
    let i := (placesOf t.number l.code).headD 0 / 2
    let scales := (List.range (2 * codePer x)).map fun k => l.scale.getD ((2 * codePer x * i + k) / max 1 (scalePer x)) 0xFFFFFFFF
    !(t2Places s t).isEmpty && decide (t2UsedOf s (partOf s t) + 2 * tileBytes ≤ t2CapOf s (partOf s t)) &&
      scales.all fun n => (tileOf s t.handle n).all fun y => y.lodged.isNone

/-- Expand an SX2 code tile into two SX4 tiles in T2 (R106): the first keeps the number, the second takes the lowest free
one; both stay LOWERED (R162). Without room or a number nothing changes. -/
def expandPair (s : State) (t : Tile) : State :=
  match subjAny s t.handle, takeNumbers s t.handle 1 with
  | some x, some [n2] =>
    let l := mapOf x t.layer
    let i := ((placesOf t.number l.code).headD 0) / 2
    let c := codePer x
    let dp := storedDim x.dim
    let scales := (List.range (2 * c)).flatMap fun k => headScales s x l (2 * c * i + k)
    let b := raiseCodes (cellRead t.payload 0 (2 * c * (16 * dp))) scales
    let half := c * (32 * dp)
    if !expandable s t then s
    else
      let a : Tile := { t with format := 1, lowered := true, refiled := runPages x l c (2 * i) t.refiled,
                               count := min t.count c, payload := cellsOf (b.take half) }
      let b : Tile := { t with number := n2, format := 1, lowered := true, refiled := runPages x l c (2 * i + 1) t.refiled,
                               count := t.count - c, first := t.first + c,
                               payload := cellsOf (b.drop half), floor := 0, recFloor := 0 }
      let s := commitAt (commitAt s a 2 (t2Places s t)) b 2 (t2Places s b)
      let l := { l with code := setAt 0 l.code (2 * i + 1) n2 }
      touchMap (updSubj s t.handle fun x => setMap x t.layer l) t.handle
  | _, _ => s

/-- Bytes of an entry of a ledger's ring (R312, R524, R525). -/
def entrySize (s : State) (l : Nat) : Nat :=
  (if regGet s .ldgCfgType l = 0 then 128 else 32) / (if compatLedger s l then 2 else 1)

/-- State Range spans of an enabled ledger's ring and lines: LOC 1 (R312, R315). -/
def ledgerSpans (s : State) (l : Nat) : List (Nat × Nat) :=
  if regGet s .ldgStatusState l = 0 ∨ regGet s .ldgCfgLoc l ≠ 1 then []
  else
    [(regGet s .ldgBaseAddr l, 2 ^ regGet s .ldgCfgSizeLog2 l * entrySize s l), (regGet s .ldgLineAddrAddr l, 64),
     (regGet s .ldgHeadAddrAddr l, 64)].filterMap fun e =>
      match addrOf e.1 with
      | .state off => some (off, e.2)
      | _ => none

/-- The tile holds the ring or a line of an enabled ledger: it never leaves home-bed T1 (R315). -/
def pinned (s : State) (t : Tile) : Bool :=
  t.kind == 10 && (List.range 4096).any fun l => (ledgerSpans s l).any fun e =>
    (spanFrames e.1 e.2).any fun f => tileAt s f == some (t.handle, t.number)

/-- The order of spill: greatest age, then lower owner index, then higher tile number (R101). -/
def spillKey (s : State) (t : Tile) : Nat :=
  (oldest - ageOf s t) * 2 ^ 48 + ownerIndex s t.handle * 2 ^ 24 + (2 ^ 24 - 1 - t.number)

/-- A tile that prefetch may displace from T1 of a bed: old enough, not pinned, with no line held, and with room below (R109). -/
def displaceable (s : State) (bed part : Nat) (t : Tile) : Bool :=
  masterTier t == 1 && partOf s t == part && (t.copies.any fun c => c.tier == 1 && c.place / 16 == bed) &&
    decide (reg s .stoPrefetchProtect ≤ ageOf s t) && !pinned s t && (heldLines s t.handle t.number).isEmpty &&
    (hasCopy t 2 || t2Fits s t) && slotActive s t.keySlot

/-- Write a T1 master down to T2, unless T2 holds it already, and drop it from T1 (R102). -/
def downT1 (s : State) (t : Tile) : State :=
  updTile s t.handle t.number fun x => dropTier (if hasCopy x 2 then x else withCopies x 2 (t2Places s t)) 1

/-- Make room in T1 of a bed for a tile, displacing the oldest tiles, with their number as fuel (R109). -/
def displaceT1 : Nat → State → Tile → Nat → State
  | 0, s, _, _ => s
  | k + 1, s, t, bed =>
    if t1Fits s t bed then s
    else
      match leastBy (spillKey s) (s.tiles.filter fun x =>
          displaceable s bed (partOf s t) x && !(x.handle == t.handle && x.number == t.number)) with
      | none => s
      | some x => displaceT1 k (downT1 s x) t bed

/-- Place a tile in T1 of a bed if it has or can be given room; whether it lies there (R108, R109). -/
def bringT1 (s : State) (h n bed : Nat) : State × Bool :=
  match tileOf s h n with
  | none => (s, false)
  | some t =>
    if t.copies.any (fun c => c.tier == 1 && c.place / 16 == bed && c.version == t.version) then (useTile s h n, true)
    else if masterTier t = 0 ∨ t.format = 2 then (s, false)
    else
      let r := if t1Fits s t bed then s else displaceT1 s.tiles.length s t bed
      if t1Fits r t bed then
        (updTile (countMove r t (masterTier t) 1 0xFFFF) h n fun x =>
          { withCopies x 1 (t1Places r t bed) with lastUse := tick r, verified := true }, true)
      else (s, false)

/-- Pages of a subject whose KV is reconstructible are ABSENT after a restore (R81, R435). -/
def withoutKv (x : Subject) : Subject :=
  if hasOption x 0 ∨ x.kind ≠ .session then x
  else
    let page := fun g : Page => if g.state = 0 ∨ g.region.isSome then g else { g with state := 3, valid := 0 }
    { x with maps := x.maps.map fun l => { l with pages := l.pages.map page } }

/-- Bring a tile up on demand: a T3 or T4 master gains copies in T2, an SX2 tile expanded (R106), and, where there is room,
in home-bed T1 (R108). -/
def demand (s : State) (h n : Nat) : State :=
  match tileOf s h n with
  | none => s
  | some t =>
    let s := updTile s h n fun t => { t with lastUse := tick s }
    if masterTier t < 3 ∨ !readable s t then countMove s t (masterTier t) 0 0xFFFF
    else
      let s := if t.kind = 5 ∧ t.format = 2 then expandPair s t
        else if t2Fits s t then updTile (countMove s t 0 2 0xFFFF) h n fun x => withCopies x 2 (t2Places s t)
        else s
      (bringT1 s h n (homeOf s h)).1

/-! ### Lines that hosts hold (R96, R304) -/

/-- Back-invalidate the lines of tiles that hosts hold; whether none is left to wait for. -/
def releaseLines (s : State) (names : List (Nat × Nat)) : State × Bool :=
  let lines := names.flatMap fun k => heldLines s k.1 k.2
  (snoopLines s lines, lines.isEmpty)

/-- Aperture offset of the reply slot `k`, below the stream window: 31 slots of 16,512 bytes (R352, assumption 21).
Log 21 (DESIGN CHOICE). -/
def replyOffset (k : Nat) : Nat := k * 16512

/-- Reply slots of the aperture. -/
def replySlots : Nat := 31

/-- A tile has been asked for. -/
def asked (s : State) (t : Tile) : Bool := s.own.requests.any fun r => r.handle == t.handle && r.number == t.number

/-- Ask a tile's holder for it (R352), to adopt the reply into a tier (R119; 0: where R104 places it) or, for a DUMP, only to read it
(R499); a tile asked for already is not asked for again. -/
def askTile (keep : Bool) (tier range : Nat) (s : State) (t : Tile) : State :=
  let mine := fun r : TileReq => r.handle == t.handle && r.number == t.number
  match t.lodged with
  | none => s
  | some o =>
    if asked s t then
      let join := fun r : TileReq => { r with keep := r.keep && keep, tier := max r.tier tier, range := min r.range range }
      { s with own := { s.own with requests := updIf mine join s.own.requests } }
    else
      let k := lowestFree s.own.requests.length 0 (s.own.requests.map fun r => r.reply / 16512)
      if replySlots ≤ k then s
      else
        let s := sendPeer s o 0x06 (t.version % 2 ^ 32) t.handle t.number (replyOffset k) (t.version / 2 ^ 32)
        { s with own := { s.own with requests := s.own.requests ++
            [{ handle := t.handle, number := t.number, version := t.version, origin := o, reply := replyOffset k,
               repeated := false, keep := keep, tier := tier, range := range }] } }

/-- Ask for a lodged tile, to adopt it. -/
def requestTile (s : State) (t : Tile) : State := askTile false 0 0xFF s t

/-- Stop naming a tile number: its copies go, its floor stays (R63, R353). -/
def freeTile (s : State) (h n : Nat) : State :=
  match tileOf s h n with
  | none => s
  | some t => updTile (releaseLodged s t) h n fun t => { t with version := 0, copies := [], payload := [], lodged := none }

/-- A unit's pans do the work: what they commit to T1 is verified before a host first reads it (R94). -/
def panServes (s : State) (id : Nat) : Bool := (workOf s id).any fun w => unitType w.hdr.opcode w.ops != 0

/-- Write a new version of a tile as an effect of a work: assigned and placed now, referenced at completion (R36, R63, R104);
`none` where no tier that the class allows has room. -/
def stage (s : State) (id : Nat) (t : Tile) : Option State :=
  let s := assignVersion (raiseBase s t.handle) t.handle t.number t.keySlot
  let f := ((tileOf s t.handle t.number).map fun x => (x.floor, x.recFloor)).getD (0, 0)
  let t := { t with version := f.1, floor := f.1, recFloor := f.2, copies := [], wrote := false, lastUse := tick s
                    key := keyOf s t.keySlot, verified := !panServes s id, lodged := none }
  match placeNew s t with
  | none => none
  | some (tier, places) => some (countMove (addEff s id (.tile (withCopies t tier places))) t 0 tier (workRoot s id))

/-- Stage several tiles. -/
def stageAll (s : State) (id : Nat) : List Tile → Option State
  | [] => some s
  | t :: ts => (stage s id t).bind fun s => stageAll s id ts

/-- The TOKEN_LOG tiles that entries from `first` to `last - 1` touch, with the log's length after the change (R78). -/
def logTiles (x : Subject) (first last : Nat) : List Tile :=
  if last ≤ first then []
  else (List.range ((last - 1) / 4096 + 1 - first / 4096)).map fun i =>
    let k := first / 4096 + i
    recordTile x (0x1000 + k) 4 (min 4096 (last - 4096 * k)) (4096 * k)

/-- The TEXT_STATE tiles that hold content, or held it, after a change of the text state (R248). -/
def textTiles (x : Subject) (old new : TextState) : List Tile :=
  [recordTile x 1 2 0 0] ++
    (if old.stops ≠ new.stops then [recordTile x 2 2 0 0] else []) ++
    (if old.stack ≠ new.stack then [recordTile x 3 2 0 0] else []) ++
    (if old.image ≠ new.image then
      (List.range (ceilDiv new.image.length 16384)).map fun i => recordTile x (0x10 + i) 2 0 0
     else [])

/-! ### Reading operands (R573) -/

/-- What a read by address gives. -/
inductive Read where
  | ok (b : List Byte)
  | fail (status reason : Nat)
  | wait
deriving DecidableEq, Repr

/-- What a frame shows. -/
inductive Shown where
  | unbacked
  | lost (t : Tile)
  | lodged (t : Tile)
  | tile (t : Tile)
deriving DecidableEq, Repr

/-- The tile that a State Range offset shows (R92, R573). -/
def shownAt (s : State) (off : Nat) : Shown :=
  match (tileAt s off).bind fun k => tileOf s k.1 k.2 with
  | none => .unbacked
  | some t =>
    if t.version = 0 then .unbacked
    else if t.lodged.isSome then .lodged t
    else if masterTier t = 0 then .lost t
    else .tile t

/-- The master lies only in T4, or at a holder. -/
def notResident : Shown → Bool
  | .lodged _ => true
  | .tile t => masterTier t == 4
  | _ => false

/-- Bytes that a span of the State Range shows. -/
def shownBytes (s : State) (off len : Nat) : List Byte :=
  let all := (spanFrames off len).flatMap fun f =>
    match shownAt s f with
    | .tile t => payloadOf s t
    | _ => zeros payloadBytes
  slice all (off % 16384) len

/-- Lines of 64 bytes of a span. -/
def spanLines (off len : Nat) : List Nat :=
  if len = 0 then [] else (List.range ((off + len - 1) / 64 + 1 - off / 64)).map (off / 64 + ·)

/-- The tile, its version and the line in it that line `l` of the State Range shows. -/
def lineName (s : State) (l : Nat) : Option (Nat × Nat × Nat × Nat) :=
  (tileAt s (64 * l)).map fun k => (k.1, k.2, versionOf s k.1 k.2, l % 256)

/-- A line of a span holds poison that a host's store has left (R299). Log 183 (DESIGN CHOICE). -/
def spanPoisoned (s : State) (off len : Nat) : Bool :=
  (spanLines off len).any fun l => (lineName s l).any fun e => e ∈ s.cxl.poisoned

/-- Poison of a tile's version goes on to the version that takes its place, but for lines that are written whole. -/
def carryPoison (s t : State) (h n : Nat) (clean : Nat → Bool) : State :=
  let v := versionOf t h n
  let old := s.cxl.poisoned.filter fun e => e.1 == h && e.2.1 == n && e.2.2.1 == versionOf s h n && !clean e.2.2.2
  { t with cxl := { t.cxl with
    poisoned := (t.cxl.poisoned.filter fun e => !(e.1 == h && e.2.1 == n)) ++ old.map fun e => (h, n, v, e.2.2.2) } }

/-- Line `l` of a tile lies wholly in the bytes from `at_` on. -/
def lineWithin (at_ len l : Nat) : Bool := decide (at_ ≤ 64 * l) && decide (64 * l + 64 ≤ at_ + len)

/-- The tiles of a span are read under their slots' keys (R67). -/
def framesChecked (s : State) (off len : Nat) : State :=
  ((spanFrames off len).filterMap (tileAt s)).foldl (fun s k => keyChecked s k.1 k.2) s

/-- The event of R80 for a tile without a valid copy: SESSION_DAMAGED for a durable one, else CSUM_ABSENT. -/
def lostReason (t : Tile) : Nat := if t.durable then 0x0103 else 0x0102

/-- The event reason of the first lost tile that a span shows. -/
def lostIn (l : List Shown) : Nat :=
  (l.findSome? fun x => match x with
    | .lost t => some (lostReason t)
    | _ => none).getD 0

/-- Read a span of the State Range for a descriptor (R573). -/
def readState (s : State) (off len : Nat) (resident : Bool) : State × Read :=
  let s := framesChecked s off len
  let shown := (spanFrames off len).map (shownAt s)
  if resident && shown.any notResident then (s, .fail stNotResident 0)
  else if shown.any (· == .unbacked) then (s, .fail stPoisoned 0x0301)
  else if lostIn shown ≠ 0 then (s, .fail stPoisoned (lostIn shown))
  else if spanPoisoned s off len then (s, .fail stPoisoned 0)
  else if shown.any (fun x => match x with
      | .lodged _ => true
      | _ => false) then
    (shown.foldl (fun s x => match x with
      | .lodged t => requestTile s t
      | _ => s) s, .wait)
  else
    let b := shownBytes s off len
    (shown.foldl (fun s x => match x with
      | .tile t => demand s t.handle t.number
      | _ => s) s, .ok b)

/-- Count bytes that pass a port for a fabric operand: received (0x0C) or sent (0x0D) (R489). Log 91 (DESIGN CHOICE). -/
def countPort (s : State) (source addr n : Nat) : State :=
  match amapEntry s addr n with
  | none => s
  | some i => countAll s source 0xFF 0xFFFF 0xFFFF 0xFFFF (regGet s .cxlAmapPort i) n

/-- Read an operand: the State Range through its frames, the fabric from what the fetch returned. Log 13 (DESIGN CHOICE). -/
def readAddr (s : State) (a : Addr) (len : Nat) (resident : Bool) (f : Fetch) : State × Read :=
  match a with
  | .state off => readState s off len resident
  | .fabric p =>
    match f with
    | .poison => (s, .fail stPoisoned 0)
    | .data b => (countPort s 0x0C p len, .ok (slice b 0 len))
  | _ => (s, .fail stBad 0)

/-- Run `f` on the bytes of an operand, or end the work by what the read gave; a lodged tile is waited for. -/
def withOperand (s : State) (w : Work) (a : Addr) (len : Nat) (resident : Bool) (src : Fetch)
    (f : State → List Byte → State) : State :=
  match readAddr s a len resident src with
  | (s, .ok b) => f s b
  | (s, .fail st r) => failChk s w { ok := false, status := st, reason := r }
  | (s, .wait) => s

/-- The source of a register load (R574): its bytes, or `none` for FETCH_FAILED. -/
def readSource (s : State) (addr len : Nat) (f : Fetch) : State × Option (List Byte) :=
  if !sourceReach s (addrOf addr) len then (s, none)
  else
    match readAddr s (addrOf addr) len false f with
    | (s, .ok b) => (s, some b)
    | (s, _) => (s, none)

/-- Run `f` on the source of a register load (R574). A source that shows a lodged tile waits for it: the tile has been asked for, and the
load is to be sent again once its reply has come. Log 157 (DESIGN CHOICE). -/
def sourced (s : State) (addr len : Nat) (src : Fetch) (f : State → Option (List Byte) → State) : State :=
  if sourceReach s (addrOf addr) len && (readAddr s (addrOf addr) len false src).2 == .wait then
    (readAddr s (addrOf addr) len false src).1
  else f (readSource s addr len src).1 (readSource s addr len src).2

/-! ### Writing operands (R333, R37) -/

/-- Stage the new version of the REGION tile that a frame shows, with bytes written from an offset in it. -/
def writeFrame (s : State) (id frame at_ : Nat) (b : List Byte) : Option State :=
  match tileAt s frame with
  | none => some s
  | some (h, n) =>
    match subjAny s h with
    | none => some s
    | some x =>
      let old := ((tileOf s h n).map (·.payload)).getD []
      stage s id { blankTile h n x.keySlot with kind := 10, durable := x.durable, payload := cellWrite old at_ b }

/-- Write bytes to frames from a State Range offset upward, with the number of frames as fuel. -/
def writeFrames : Nat → State → Nat → Nat → List Byte → Option State
  | 0, s, _, _, _ => some s
  | k + 1, s, id, off, b =>
    if b.isEmpty then some s
    else
      let n := 16384 - off % 16384
      (writeFrame s id (off / 16384 * 16384) (off % 16384) (b.take n)).bind fun s => writeFrames k s id (off + n) (b.drop n)

/-- Write an operand: new versions of REGION tiles, or bytes in place; `none` where a tier has no room. -/
def writeAddr (s : State) (id : Nat) (a : Addr) (b : List Byte) : Option State :=
  match a with
  | .state off => writeFrames (b.length / 16384 + 2) s id off b
  | .fabric f => some (if b.isEmpty then s else countPort (emit s (.write f b)) 0x0D f b.length)
  | _ => some s

/-- Write one frame at once, as a version that is referenced; `none` where no tier has room (R104). -/
def storeFrame (s : State) (frame at_ : Nat) (b : List Byte) : Option State :=
  match tileAt s frame with
  | none => some s
  | some (h, n) =>
    match subjAny s h with
    | none => some s
    | some x =>
      let old := ((tileOf s h n).map (·.payload)).getD []
      (commitIn s { blankTile h n x.keySlot with kind := 10, durable := x.durable, payload := cellWrite old at_ b }).map fun t =>
        carryPoison s t h n (lineWithin at_ b.length)

/-- Write bytes to frames at once, with the number of frames as fuel. -/
def storeFrames : Nat → State → Nat → List Byte → Option State
  | 0, s, _, _ => some s
  | k + 1, s, off, b =>
    if b.isEmpty then some s
    else
      let n := 16384 - off % 16384
      (storeFrame s (off / 16384 * 16384) (off % 16384) (b.take n)).bind fun s => storeFrames k s (off + n) (b.drop n)

/-- Back-invalidate the lines of a span that is about to be written; whether none is left to wait for (R96). -/
def releaseSpan (s : State) (a : Addr) (len : Nat) : State × Bool :=
  match a with
  | .state off => releaseLines s ((spanFrames off len).filterMap (tileAt s))
  | _ => (s, true)

/-- Write an operand that takes effect before the completion (R197); `none` where no tier has room. -/
def writeNow (s : State) (a : Addr) (b : List Byte) : Option State :=
  match a with
  | .state off => storeFrames (b.length / 16384 + 2) s off b
  | .fabric f => some (if b.isEmpty then s else countPort (emit s (.write f b)) 0x0D f b.length)
  | _ => some s

/-! ### Ending a work with its changes -/

/-- Durable tiles among those to write that no version of exists yet and that no room is reserved for (R86). -/
def newDurable (s : State) (ts : List Tile) : Nat :=
  (ts.filter fun t => t.durable && versionOf s t.handle t.number == 0 && !isReserved s t).length

/-- End a work: stage its tiles, write an operand, gather its effects; NO_SPACE where durable space or a tier lacks room, or the
store takes no durable tile (R86, R417, R422). -/
def concludeOut (s : State) (w : Work) (status : Nat) (result : List Byte) (tiles : List Tile) (effects : List Effect)
    (a : Addr) (out : List Byte) : State :=
  let n := newDurable s tiles
  if (n ≠ 0 ∧ !durableRoom s n) ∨ (tiles.any (·.durable) ∧ !durableWritable s) then fail s w.id stNoSpace
  else
    match (stageAll s w.id tiles).bind fun s => writeAddr s w.id a out with
    | none => fail s w.id stNoSpace
    | some s => done (effects.foldl (fun s e => addEff s w.id e) s) w.id status result

/-- End a work that writes no operand. -/
def conclude (s : State) (w : Work) (status : Nat) (result : List Byte) (tiles : List Tile) (effects : List Effect) : State :=
  concludeOut s w status result tiles effects .none []

/-! ### Reach of the operands of a work (R302, R310) -/

/-- The check of R302 and R310 for one operand. -/
def reachChk (s : State) (w : Work) (a : Addr) (len : Nat) (write : Bool) : Chk :=
  match reachFault s w.hdr.keySlot a len write with
  | none => chk true 0
  | some r => chkEv false stBad r

/-- The check for an operand that may be absent. -/
def reachOpt (s : State) (w : Work) (addr len : Nat) (write : Bool) : Chk :=
  if addr = 0 then chk true 0 else reachChk s w (addrOf addr) len write

/-! ### Shapers (R289, R291) -/

/-- Shaper number of a direction (0 INBOUND, 1 OUTBOUND) and slot. -/
def shaperNo (dir slot : Nat) : Nat := dir * 4096 + slot

/-- A transfer may start: the shaper is unshaped or its level is above 0 (R291). -/
def shaperOpen (s : State) (dir slot : Nat) : Bool :=
  match shaperOf s (shaperNo dir slot) with
  | none => true
  | some x => x.rate == 0 || decide (0 < x.level)

/-- Take bytes from a shaper; the level may go negative. -/
def shaperTake (s : State) (dir slot n : Nat) : State :=
  let take := fun x : Shaper => { x with level := x.level - n }
  let shapers := updIf (fun x => x.no == shaperNo dir slot && x.rate != 0) take s.adm.shapers
  { s with adm := { s.adm with shapers := shapers } }

/-- The turn of a work at a shaper has come: no work accepted before it waits there with a transfer (R291). -/
def shaperTurn (s : State) (w : Work) (dir : Nat) : Bool :=
  s.work.all fun x => !(decide (x.id < w.id) && unfinished x && x.hdr.keySlot == w.hdr.keySlot && decide (dir ∈ x.shaping))

/-- A transfer of a work may start: there is nothing to move, or it is the work's turn and the shaper is open. -/
def mayMove (s : State) (w : Work) (dir n : Nat) : Bool := n == 0 || (shaperTurn s w dir && shaperOpen s dir w.hdr.keySlot)

/-- Take the bytes that a work moves from the shapers of its slot. -/
def moved (s : State) (w : Work) (inb outb : Nat) : State :=
  shaperTake (shaperTake (updWork s w.id fun x => { x with shaping := [] }) 0 w.hdr.keySlot inb) 1 w.hdr.keySlot outb

/-- A work waits with a transfer at its shapers. -/
def shaperWait (s : State) (w : Work) (inb outb : Nat) : State :=
  updWork s w.id fun x => { x with shaping := (if inb = 0 then [] else [0]) ++ if outb = 0 then [] else [1] }

/-- Run work that moves bytes in and out when both shapers let it; else it waits in flight (R291). -/
def shaped (s : State) (w : Work) (inb outb : Nat) (f : State → State) : State :=
  if mayMove s w 0 inb && mayMove s w 1 outb then f (moved s w inb outb) else shaperWait s w inb outb

/-- Ask the holder for a lodged tile that a shaped descriptor reads: its image passes a port (R289). -/
def askShaped (keep : Bool) (tier range : Nat) (w : Work) (s : State) (t : Tile) : State :=
  if asked s t then askTile keep tier range s t else shaped s w tileBytes 0 fun s => askTile keep tier range s t

/-- Bytes of a fabric operand that pass a port. -/
def portBytes (a : Addr) (len : Nat) : Nat :=
  match a with
  | .fabric _ => len
  | _ => 0

/-- Bytes that tiles move when they are read from T3 or T4 (R289). -/
def farBytes (ts : List Tile) : Nat := (ts.filter fun t => decide (3 ≤ masterTier t)).length * tileBytes

/-- Tiles that a State Range operand shows. -/
def operandTiles (s : State) (a : Addr) (len : Nat) : List Tile :=
  match a with
  | .state off => (spanFrames off len).filterMap fun f => match shownAt s f with
    | .tile t => some t
    | _ => none
  | _ => []

/-- Lodged tiles that a State Range operand shows. -/
def operandLodged (s : State) (a : Addr) (len : Nat) : List Tile :=
  match a with
  | .state off => (spanFrames off len).filterMap fun f => match shownAt s f with
    | .lodged t => some t
    | _ => none
  | _ => []

/-- Bytes of an operand that pass a port, or come from T3 or T4 (R289). -/
def moveBytes (s : State) (a : Addr) (len : Nat) : Nat := portBytes a len + farBytes (operandTiles s a len)

/-- Run `f` once no tile of a list is left to be asked for; lodged ones are asked for, shaped (R289, R353). -/
def fetched (s : State) (w : Work) (ts : List Tile) (f : State → State) : State :=
  if ts.isEmpty then f s else ts.foldl (askShaped false 0 0xFF w) s

/-! ### Running a work -/

/-- Start a work that stands in a control queue: it leaves the queue and is in flight (R295). -/
def startWork (s : State) (w : Work) : State :=
  match w.place with
  | .queued q =>
    let s := updWork s w.id fun w => { w with place := .flight 0xFFFF, startTime := s.time }
    if q < 0x1006 then countDispatch s q w else s
  | _ => s

/-- A planner's park of the session has started, and the descriptor waits behind it (R113, R271). -/
def behindPark (s : State) (w : Work) : Bool :=
  decide (w.hdr.opcode ∈ [0x10, 0x11, 0x12, 0x13, 0x01, 0x02, 0x03, 0x04, 0x06]) && s.adm.planners.any fun p =>
    p.members.any fun m => m.handle == subjectOf w && m.st == 1 && m.parkAt.any fun n => decide (n ≤ w.id)

/-- Run a work: one that stands in a control queue, or is in flight and not paused. A command for any other work changes
nothing. A bucket that is being rebuilt holds up acceptance, where the subject is looked up, and the works that look up or insert more.
Log 178 (DEDUCED). -/
def runWork (id : Nat) (ok : Work → Bool) (f : State → Work → State) (s : State) : State :=
  if !running s then s
  else
    match workOf s id with
    | none => s
    | some w =>
      if !ok w || paused w || behindPark s w then s
      else
        match w.place with
        | .queued q => if q < 0x1000 then s else f (startWork s w) w
        | .flight _ => f s w
        | _ => s

/-- Work that writes durable versions waits while the durable-pending bytes are at their bound (R421). -/
def durably (f : State → Work → State) (s : State) (w : Work) : State := if ddFull s then s else f s w

/-- The result of a load of a bitstream, a model or a vocabulary: an event and the management vector (R331, R465). -/
def loadResult (s : State) (arg : List Nat) : State := raiseVector (event s 0x0205 0 0xFFFF 0 0 arg) 0

/-- The opcode of a work. -/
def isOp (op : Nat) (w : Work) : Bool := w.hdr.opcode == op

/-- The opcode and the value of a mode byte. -/
def isMode (op off mode : Nat) (w : Work) : Bool := w.hdr.opcode == op && opr w off 1 == mode

/-- The opcode and mode 0, or a mode that the opcode does not have, whose checks end it. -/
def isFirstMode (op off modes : Nat) (w : Work) : Bool :=
  w.hdr.opcode == op && (opr w off 1 == 0 || decide (modes ≤ opr w off 1))

end Sys2Proof.Machine
end

