-- ==== Sys2Proof/Machine/TextOps.lean ====
section
/-! DEFINITION. Text, tokens, stop strings and grammars as functions over bytes (ch. 9): UTF-8, folding, pieces, BPE and
UNIGRAM, the stop matcher, the pushdown grammar, masks. -/

namespace Sys2Proof.Machine

/-! ### UTF-8 (R241, R254) -/

/-- What stands at the front of a string: a character of `n` bytes, an ill-formed sequence of `n` bytes, or the beginning of
a character that the string cuts off. -/
inductive U8 where
  | char (cp n : Nat)
  | bad (n : Nat)
  | cut
deriving DecidableEq, Repr

/-- Continuation bytes that a lead byte asks for, and the range of the first of them; 0 for a byte that leads nothing. -/
def u8Lead (x : Nat) : Nat × Nat × Nat :=
  if 0xC2 ≤ x ∧ x ≤ 0xDF then (1, 0x80, 0xBF)
  else if x = 0xE0 then (2, 0xA0, 0xBF)
  else if x = 0xED then (2, 0x80, 0x9F)
  else if 0xE1 ≤ x ∧ x ≤ 0xEF then (2, 0x80, 0xBF)
  else if x = 0xF0 then (3, 0x90, 0xBF)
  else if 0xF1 ≤ x ∧ x ≤ 0xF3 then (3, 0x80, 0xBF)
  else if x = 0xF4 then (3, 0x80, 0x8F)
  else (0, 0, 0)

/-- Continue a character: bytes still needed, the range of the next one, value and bytes so far. -/
def u8Cont : Nat → Nat → Nat → Nat → Nat → List Byte → U8
  | 0, _, _, v, n, _ => .char v n
  | _ + 1, _, _, _, _, [] => .cut
  | k + 1, lo, hi, v, n, b :: t =>
    if lo ≤ b.toNat ∧ b.toNat ≤ hi then u8Cont k 0x80 0xBF (v * 64 + b.toNat % 64) (n + 1) t else .bad n

/-- The front of a string; a maximal prefix of a character that goes wrong is one ill-formed sequence. Log 15 (DEDUCED). -/
def u8Next : List Byte → U8
  | [] => .cut
  | b :: t =>
    let x := b.toNat
    if x < 0x80 then .char x 1
    else
      match u8Lead x with
      | (0, _, _) => .bad 1
      | (k + 1, lo, hi) => u8Cont (k + 1) lo hi (x % 2 ^ (5 - k)) 1 t

/-- The bytes of a code point. -/
def u8Enc (c : Nat) : List Byte :=
  if c < 0x80 then [byte c]
  else if c < 0x800 then [byte (0xC0 + c / 64), byte (0x80 + c % 64)]
  else if c < 0x10000 then [byte (0xE0 + c / 4096), byte (0x80 + c / 64 % 64), byte (0x80 + c % 64)]
  else [byte (0xF0 + c / 262144), byte (0x80 + c / 4096 % 64), byte (0x80 + c / 64 % 64), byte (0x80 + c % 64)]

/-- Decode a whole string: code points, with U+FFFD for each ill-formed sequence, and their number. -/
def u8Decode : Nat → List Byte → List Nat × Nat
  | 0, _ => ([], 0)
  | k + 1, b =>
    if b.isEmpty then ([], 0)
    else
      match u8Next b with
      | .char c n => let r := u8Decode k (b.drop n); (c :: r.1, r.2)
      | .bad n => let r := u8Decode k (b.drop n); (0xFFFD :: r.1, r.2 + 1)
      | .cut => ([0xFFFD], 1)

/-- Complete characters of a string, U+FFFD for ill-formed sequences, and the incomplete rest (R254, R255). -/
def u8Complete : Nat → List Byte → List Byte × List Byte
  | 0, _ => ([], [])
  | k + 1, b =>
    if b.isEmpty then ([], [])
    else
      match u8Next b with
      | .char _ n => let r := u8Complete k (b.drop n); (b.take n ++ r.1, r.2)
      | .bad n => let r := u8Complete k (b.drop n); (u8Enc 0xFFFD ++ r.1, r.2)
      | .cut => ([], b)

/-! ### Vocabularies -/

/-- Tokens of a vocabulary. -/
def vocSize (v : Voc) : Nat := v.tokens.length

/-- The string of a token. -/
def tokString (v : Voc) (t : Nat) : List Byte := (v.tokens.getD t ([], false)).1

/-- The SPECIAL flag of a token. -/
def tokSpecial (v : Voc) (t : Nat) : Bool := (v.tokens.getD t ([], false)).2

/-- Replace every occurrence of a non-empty pattern, leftmost first, with the length as fuel. -/
def replaceAll : Nat → List Byte → List Byte → List Byte → List Byte
  | 0, _, _, b => b
  | k + 1, p, r, b =>
    match b with
    | [] => []
    | x :: t => if p.isPrefixOf b then r ++ replaceAll k p r (b.drop p.length) else x :: replaceAll k p r t

/-- The raw text bytes of a token: its string with SPACE_MARK as 0x20 (R254, R260). -/
def rawText (v : Voc) (t : Nat) : List Byte :=
  let b := tokString v t
  if v.spaceMark = 0 then b else replaceAll b.length (u8Enc v.spaceMark) [0x20] b

/-- The text of a token; none for a special one (R254). -/
def tokText (v : Voc) (t : Nat) : List Byte := if tokSpecial v t then [] else rawText v t

/-- The lowest token that spells a string and is not special (R245). Log 16 (DEDUCED). -/
def spells (v : Voc) (b : List Byte) : Option Nat :=
  (List.range (vocSize v)).find? fun t => tokString v t == b && !tokSpecial v t

/-- A character that no token spells, as its fallback tokens; `none` where the vocabulary has none (R245). -/
def fallback (v : Voc) (c : List Byte) : Option (List Nat) :=
  if v.byteFallback && v.byteBase != 0xFFFFFFFF then some (c.map fun x => v.byteBase + x.toNat)
  else if v.unkToken ≠ 0xFFFFFFFF then some [v.unkToken]
  else none

/-! ### Normalization, folding, pieces (R242 to R244) -/

/-- The full decomposition of a code point: Hangul syllables by arithmetic, others by the built-in tables; below U+00A0 each stands for
itself (R242, Unicode 15.1). Log 23 (DESIGN CHOICE). -/
def decompOf (norm c : Nat) : List Nat :=
  if c < 0xA0 then [c]
  else if 0xAC00 ≤ c ∧ c < 0xAC00 + 11172 then
    let s := c - 0xAC00
    [0x1100 + s / 588, 0x1161 + s % 588 / 28] ++ if s % 28 = 0 then [] else [0x11A7 + s % 28]
  else Config.decompose norm c

/-- The canonical combining class of a code point, 0 for a starter; there is none other below U+0300. -/
def cccOf (c : Nat) : Nat := if c < 0x300 then 0 else Config.combining c

/-- The primary composite of two code points; the second one of a pair lies at U+0300 or above. -/
def compositeOf (a b : Nat) : Option Nat :=
  if b < 0x300 then none
  else if 0x1100 ≤ a ∧ a < 0x1100 + 19 ∧ 0x1161 ≤ b ∧ b < 0x1161 + 21 then some (0xAC00 + ((a - 0x1100) * 21 + (b - 0x1161)) * 28)
  else if 0xAC00 ≤ a ∧ a < 0xAC00 + 11172 ∧ (a - 0xAC00) % 28 = 0 ∧ 0x11A7 < b ∧ b < 0x11A7 + 28 then some (a + (b - 0x11A7))
  else if Config.composite a b = 0 then none
  else some (Config.composite a b)

/-- Put non-starters in canonical order: each run of them by rising class, equal ones as they stand; `run` is the run so far. -/
def ordered (run : List Nat) : List Nat → List Nat
  | [] => sortKey cccOf run
  | c :: t => if cccOf c = 0 then sortKey cccOf run ++ c :: ordered [] t else ordered (run ++ [c]) t

/-- Compose what is in canonical order: the last starter, what stands after it, and the class of the last of that. -/
def composed (starter : Option Nat) (after : List Nat) (last : Nat) : List Nat → List Nat
  | [] => starter.toList ++ after
  | c :: t =>
    let k := cccOf c
    let joined := match starter with
      | some a => if after.isEmpty || (k != 0 && decide (last < k)) then compositeOf a c else none
      | none => none
    match joined with
    | some x => composed (some x) after last t
    | none => if k = 0 then starter.toList ++ after ++ composed (some c) [] 0 t else composed starter (after ++ [c]) k t

/-- Normalize a run of code points that the built-in tables cover. -/
def normRun (norm : Nat) (cs : List Nat) : List Nat := composed none [] 0 (ordered [] (cs.flatMap (decompOf norm)))

/-- Normalize, with the run so far and the non-starters at its end: code points above U+2FFFF pass unchanged and are never composed, and so
do non-starters from the 31st of a run onward (R242). -/
def normText (norm : Nat) (run : List Nat) (k : Nat) : List Nat → List Nat
  | [] => normRun norm run
  | c :: t =>
    if 0x2FFFF < c then normRun norm run ++ c :: normText norm [] 0 t
    else if cccOf c = 0 then normText norm (run ++ [c]) 0 t
    else if 30 ≤ k then normRun norm run ++ c :: normText norm [] (k + 1) t
    else normText norm (run ++ [c]) (k + 1) t

/-- Fold once (R243). -/
def foldText (table : List (Nat × List Nat)) (cs : List Nat) : List Nat := cs.flatMap fun c => (aget table c).getD [c]

/-- The class of a code point (R244). Log 18 (DESIGN CHOICE). -/
def classOf (v : Voc) (c : Nat) : Nat :=
  match (v.split.filter fun r => decide (r.1 ≤ c)).getLast? with
  | some r => r.2
  | none => Config.splitClass

/-- A piece boundary falls between two code points (R244). -/
def splitsBetween (v : Voc) (a b : Nat) : Bool :=
  let n := 16 * classOf v a + classOf v b
  bit ((v.matrix.getD (n / 8) 0).toNat) (n % 8)

/-- Cut code points into pieces by class. -/
def pieces (v : Voc) : List Nat → List Nat → List (List Nat)
  | [], cur => if cur.isEmpty then [] else [cur]
  | c :: t, cur =>
    match cur.getLast? with
    | some p => if splitsBetween v p c then cur :: pieces v t [c] else pieces v t (cur ++ [c])
    | none => pieces v t [c]

/-- Cut a piece at the last character boundary at or before each 1,024-byte mark (R244). -/
def cutLong : Nat → List Nat → List Nat → List (List Nat)
  | _, [], cur => if cur.isEmpty then [] else [cur]
  | off, c :: t, cur =>
    let n := (u8Enc c).length
    let m := roundUp off 1024
    if 0 < off ∧ 1024 ≤ m ∧ m < off + n ∧ !cur.isEmpty then cur :: cutLong (off + n) t [c]
    else cutLong (off + n) t (cur ++ [c])

/-! ### BPE and UNIGRAM (R245) -/

/-- The rank and result of the merge of two adjacent symbols. -/
def mergeOf (v : Voc) (a b : Nat) : Option (Nat × Nat) :=
  ((List.range v.merges.length).find? fun i =>
    let m := v.merges.getD i (0, 0, 0)
    m.1 == a && m.2.1 == b && !tokSpecial v m.2.2).map fun i => (i, (v.merges.getD i (0, 0, 0)).2.2)

/-- The lowest rank among adjacent pairs, its lowest index and its result. -/
def bestMerge (v : Voc) : Nat → List Nat → Option (Nat × Nat × Nat)
  | i, a :: b :: t =>
    let rest := bestMerge v (i + 1) (b :: t)
    match mergeOf v a b, rest with
    | some (r, x), some (r2, j, y) => if r ≤ r2 then some (r, i, x) else some (r2, j, y)
    | some (r, x), none => some (r, i, x)
    | none, o => o
  | _, _ => none

/-- Merge until no pair has an entry. -/
def bpeLoop (v : Voc) : Nat → List Nat → List Nat
  | 0, syms => syms
  | k + 1, syms =>
    match bestMerge v 0 syms with
    | none => syms
    | some (_, i, x) => bpeLoop v k (syms.take i ++ x :: syms.drop (i + 2))

/-- The symbols of characters before any merge. -/
def bpeStart (v : Voc) : List Nat → Option (List Nat)
  | [] => some []
  | c :: t =>
    match (match spells v (u8Enc c) with
      | some x => some [x]
      | none => fallback v (u8Enc c)), bpeStart v t with
    | some a, some b => some (a ++ b)
    | _, _ => none

/-- A piece by BPE. -/
def bpe (v : Voc) (cs : List Nat) : Option (List Nat) := (bpeStart v cs).map fun l => bpeLoop v l.length l

/-- The best spelling of a prefix: score in units of 2^-149, units, bytes of the last unit, tokens. -/
structure Best where
  score : Int
  count : Nat
  last : Nat
  toks : List Nat
deriving DecidableEq, Repr

/-- One candidate is better than another: higher score, then fewer tokens, then a longer last token. -/
def better (a b : Best) : Bool :=
  decide (b.score < a.score) ||
    (a.score == b.score && (decide (a.count < b.count) || (a.count == b.count && decide (b.last < a.last))))

/-- The score of a token. Log 17 (DEDUCED). -/
def scoreOf (v : Voc) (t : Nat) : Int := fpVal (v.scores.getD t 0)

/-- The lowest score of the vocabulary less 10. -/
def unkScore (v : Voc) : Int :=
  match v.scores.map fpVal with
  | [] => -10 * 2 ^ 149
  | h :: t => t.foldl min h - 10 * 2 ^ 149

/-- The better of two candidates, the first among equals. -/
def pick : Option Best → Option Best → Option Best
  | some a, some b => if better b a then some b else some a
  | some a, none => some a
  | none, o => o

/-- The token of highest score among those that spell a string and are not special, the lowest among equals (R245). -/
def bestSpelling (v : Voc) (b : List Byte) : Option Nat :=
  ((List.range (vocSize v)).filter fun t => tokString v t == b && !tokSpecial v t).foldl (fun acc t =>
    match acc with
    | none => some t
    | some a => if scoreOf v a < scoreOf v t then some t else some a) none

/-- Extend the best spelling of `cs[0 .. s)` by the unit `cs[s .. e)`. -/
def extendBy (v : Voc) (cs : List Nat) (best : List (Option Best)) (s e : Nat) : Option Best :=
  match best.getD s none with
  | none => none
  | some b =>
    let u := ((cs.drop s).take (e - s)).flatMap u8Enc
    match bestSpelling v u with
    | some t => some { score := b.score + scoreOf v t, count := b.count + 1, last := u.length, toks := b.toks ++ [t] }
    | none =>
      if e = s + 1 then
        (fallback v u).map fun l =>
          { score := b.score + unkScore v, count := b.count + 1, last := u.length, toks := b.toks ++ l }
      else none

/-- The best spellings of the prefixes, one more at each step. -/
def unigramRow (v : Voc) (cs : List Nat) : Nat → List (Option Best)
  | 0 => [some { score := 0, count := 0, last := 0, toks := [] }]
  | e + 1 =>
    let best := unigramRow v cs e
    best ++ [(List.range (e + 1)).foldl (fun acc s => pick acc (extendBy v cs best s (e + 1))) none]

/-- A piece by UNIGRAM. -/
def unigram (v : Voc) (cs : List Nat) : Option (List Nat) :=
  ((unigramRow v cs cs.length).getD cs.length none).map (·.toks)

/-- Tokens of a run of text without specials. -/
def plainTokens (v : Voc) (cs : List Nat) : Option (List Nat) :=
  ((pieces v cs []).flatMap fun p => cutLong 0 p []).foldl (fun acc p =>
    match acc, (if v.unigram then unigram v p else bpe v p) with
    | some a, some b => some (a ++ b)
    | _, _ => none) (some [])

/-- The characters left after a string of bytes at the front, `none` where it does not stand there whole. -/
def eatBytes : List Byte → List Nat → Option (List Nat)
  | [], cs => some cs
  | _ :: _, [] => none
  | b, c :: t => let x := u8Enc c; if x.isPrefixOf b then eatBytes (b.drop x.length) t else none
termination_by structural _ cs => cs

/-- The longest special string at the front of the text: its token and the text after it. Log 20 (DEDUCED). -/
def specialAt (v : Voc) (cs : List Nat) : Option (Nat × List Nat) :=
  (bestBy (fun e => (tokString v e.1).length)
    (v.specials.filterMap fun t =>
      if (tokString v t).isEmpty then none else (eatBytes (tokString v t) cs).map fun r => (t, r)))

/-- Text into tokens with special strings found leftmost first and longest at each start (R241 stage 5). -/
def withSpecials (v : Voc) : Nat → List Nat → List Nat → Option (List Nat)
  | 0, _, run => plainTokens v run
  | k + 1, cs, run =>
    match cs with
    | [] => plainTokens v run
    | c :: t =>
      match specialAt v cs with
      | some (x, rest) =>
        match plainTokens v run, withSpecials v k rest [] with
        | some a, some b => some (a ++ x :: b)
        | _, _ => none
      | none => withSpecials v k t (run ++ [c])

/-- The seven stages of TOKENIZE (R241): tokens and the number of ill-formed sequences; `none` where a character has no
representation (R245). -/
def tokens (v : Voc) (table : List (Nat × List Nat)) (special : Bool) (b : List Byte) : Option (List Nat) × Nat :=
  let d := u8Decode b.length b
  let n := if v.norm = 0 then d.1 else normText v.norm [] 0 d.1
  let f := if v.fold = 0 then n else foldText table n
  let m := if v.spaceMark = 0 then f else f.map fun c => if c = 0x20 then v.spaceMark else c
  (if special then withSpecials v m.length m [] else plainTokens v m, d.2)

/-! ### Grammar (R259, R260) -/

/-- A state entry of a grammar image. -/
def gState (g : List Byte) (q : Nat) : List Byte := slice g (64 + 16 * q) 16

/-- A transition of a grammar image. -/
def gTrans (g : List Byte) (i : Nat) : List Byte := slice g (field g 24 4 + 8 * i) 8

/-- The state accepts. -/
def gAccept (g : List Byte) (q : Nat) : Bool := bit (field (gState g q) 6 1) 0

/-- One byte of a walk; the stack's top comes first (R260). -/
def gStep (g : List Byte) (c : Nat × List Nat) (x : Byte) : Option (Nat × List Nat) :=
  let e := gState g c.1
  let first := field e 0 4
  let ts := (List.range (field e 4 2)).map fun i => gTrans g (first + i)
  match ts.find? (fun t => decide (field t 0 1 ≤ x.toNat) && decide (x.toNat ≤ field t 1 1) &&
      (match bits (field t 2 2) 15 14 with
       | 0 => true
       | 1 => true
       | 2 => c.2.head? == some (bits (field t 2 2) 13 0)
       | _ => false)) with
  | none => none
  | some t =>
    match bits (field t 2 2) 15 14 with
    | 1 => if c.2.length = 4096 then none else some (field t 4 2, bits (field t 2 2) 13 0 :: c.2)
    | 2 => some (field t 4 2, c.2.drop 1)
    | _ => some (field t 4 2, c.2)

/-- A walk over bytes. -/
def gWalk (g : List Byte) : Nat × List Nat → List Byte → Option (Nat × List Nat)
  | c, [] => some c
  | c, x :: t =>
    match gStep g c x with
    | none => none
    | some d => gWalk g d t

/-- The token is allowed in a configuration (R260). -/
def gAllowed (v : Voc) (g : List Byte) (c : Nat × List Nat) (t : Nat) : Bool :=
  if tokSpecial v t then t == v.endToken && gAccept g c.1 && c.2.isEmpty else (gWalk g c (rawText v t)).isSome

/-- A token advances a configuration; `none` where it is not allowed (R262). -/
def gAdvance (v : Voc) (g : List Byte) (c : Nat × List Nat) (t : Nat) : Option (Nat × List Nat) :=
  if !gAllowed v g c t then none else if t = v.endToken then some c else gWalk g c (rawText v t)

/-- The token lies in the run list at an offset of the image (R259). -/
def inRuns (g : List Byte) (off t : Nat) : Bool :=
  (List.range (field g off 4)).any fun i =>
    let r := field g (off + 4 + 4 * i) 4
    decide (bits r 17 0 ≤ t) && decide (t ≤ bits r 17 0 + bits r 31 18)

/-- The mask of a configuration: its allowed tokens, ascending (R260). -/
def gMask (v : Voc) (g : List Byte) (c : Nat × List Nat) : List Nat :=
  let e := gState g c.1
  let base := field g 28 4
  (List.range (vocSize v)).filter fun t =>
    inRuns g (base + field e 8 4) t || (inRuns g (base + field e 12 4) t && gAllowed v g c t)

/-- Tokens that a mask allows while no grammar is active (R264). -/
def freeMask (v : Voc) : List Nat := (List.range (vocSize v)).filter fun t => !tokSpecial v t || t == v.endToken

/-- The configuration of a text state. -/
def gConfig (t : TextState) : Nat × List Nat := (t.gstate, t.stack.reverse)

/-- The text state after the grammar has advanced over a token (R262). -/
def advanceGrammar (v : Voc) (t : TextState) (tok : Nat) : TextState :=
  if !t.active || t.dead then t
  else
    match gAdvance v t.image (gConfig t) tok with
    | none => { t with dead := true }
    | some c => { t with gstate := c.1, stack := c.2.reverse }

/-! ### The stop matcher (R253 to R258) -/

/-- The occurrence of a stop string that ends at `e` and starts at or after `release`: the longest, then the lowest number. -/
def stopEnding (stops : List (List Byte)) (s : List Byte) (release e : Nat) : Option (Nat × Nat) :=
  bestBy (fun x => x.2) ((List.range stops.length).filterMap fun i =>
    let x := stops.getD i []
    if !x.isEmpty ∧ x.length + release ≤ e ∧ (s.drop (e - x.length)).take x.length = x then some (i, x.length) else none)

/-- The first occurrence by end past `lo`: stop number, start and end. -/
def stopIn (stops : List (List Byte)) (s : List Byte) (release lo : Nat) : Option (Nat × Nat × Nat) :=
  (List.range (s.length + 1)).findSome? fun e =>
    if e ≤ lo then none else (stopEnding stops s release e).map fun x => (x.1, e - x.2, e)

/-- A string is a proper prefix of some stop string. -/
def properPrefix (stops : List (List Byte)) (b : List Byte) : Bool :=
  stops.any fun x => decide (b.length < x.length) && b.isPrefixOf x

/-- A character starts at an offset. -/
def startsChar (s : List Byte) (i : Nat) : Bool :=
  match s[i]? with
  | none => true
  | some b => b.toNat / 64 != 2

/-- Where the held suffix begins: the lowest place at or after `release` whose suffix may begin a stop string. -/
def holdFrom (stops : List (List Byte)) (s : List Byte) (release : Nat) : Nat :=
  ((List.range s.length).find? fun i =>
    decide (release ≤ i) && startsChar s i && properPrefix stops (s.drop i)).getD s.length

/-- A run of appended tokens: text state, log entries, text emitted, the stop that ended it (position and offset), whether
END_TOKEN was among them. -/
structure Run where
  text : TextState
  entries : List Nat
  out : List Byte
  stop : Option (Nat × Int)
  ended : Bool
deriving DecidableEq, Repr

/-- A log entry (R78). -/
def logEntry (source : Nat) (stop : Bool) (tok : Nat) : Nat := source * 2 ^ 30 + b2n stop * 2 ^ 29 + tok

/-- Append one SAMPLED or CORRECTED token at a log position (R255). -/
def appendOne (v : Voc) (source pos : Nat) (incl : Bool) (r : Run) (tok : Nat) : Run :=
  if r.stop.isSome then r
  else
    let t := advanceGrammar v r.text tok
    let ended := r.ended || tok == v.endToken
    if t.stopped then { r with text := t, entries := r.entries ++ [logEntry source false tok], ended := ended }
    else
      let b := t.pend ++ tokText v tok
      let c := u8Complete b.length b
      let s := t.hold ++ c.1
      match stopIn t.stops s t.release t.hold.length with
      | some (id, a, e) =>
        { text := { t with stopped := true, stopId := id, stopToken := pos, pend := [], hold := [], release := 0 }
          entries := r.entries ++ [logEntry source true tok]
          out := r.out ++ s.take a ++ (if incl then (s.drop a).take (e - a) else [])
          stop := some (pos, (e : Int) - t.hold.length - t.pend.length)
          ended := ended }
      | none =>
        let k := holdFrom t.stops s t.release
        { r with text := { t with pend := c.2, hold := s.drop k, release := 0 }
                 entries := r.entries ++ [logEntry source false tok]
                 out := r.out ++ s.take k
                 ended := ended }

/-- Append tokens in order from a log position. -/
def appendRun (v : Voc) (incl : Bool) : Nat → Run → List (Nat × Nat) → Run
  | _, r, [] => r
  | pos, r, (source, tok) :: t => appendRun v incl (pos + 1) (appendOne v source pos incl r tok) t

/-- Release what is left at the end of a descriptor, unless a stop ended in it (R254). -/
def flushRun (flush : Bool) (r : Run) : Run :=
  if (flush || r.ended) && r.stop.isNone then
    { r with out := r.out ++ r.text.hold ++ (if r.text.pend.isEmpty then [] else u8Enc 0xFFFD)
             text := { r.text with hold := [], pend := [], release := 0 } }
  else r

/-- SAMPLED and CORRECTED tokens appended to a session's text state (R253 to R256). -/
def appendSampled (v : Voc) (t : TextState) (pos : Nat) (incl resume flush : Bool) (toks : List (Nat × Nat)) : Run :=
  let t := if resume then { t with stopped := false } else t
  flushRun flush (appendRun v incl pos { text := t, entries := [], out := [], stop := none, ended := false } toks)

/-- The text state after INPUT or TOOL tokens have been appended (R253). -/
def endTurn (t : TextState) (count : Nat) : TextState :=
  { t with pend := [], hold := [], release := 0, stopped := false, turnBase := count }

/-- Bytes of HOLD that no string of a new stop set can begin with (R258). Log 25 (DEDUCED). -/
def releasedBy (stops : List (List Byte)) (hold : List Byte) : Nat :=
  ((List.range hold.length).find? fun i => properPrefix stops (hold.drop i)).getD hold.length

/-- TEXT_FLAGS of R257. -/
def textFlags (r : Run) : Nat :=
  b2n r.stop.isSome + 2 * b2n r.text.stopped + 4 * b2n r.text.dead +
    8 * b2n (!r.text.hold.isEmpty || !r.text.pend.isEmpty) + 16 * r.text.stopId

/-- The text outcome of 8 bytes (R257); a STOP_OFFSET outside 1 to 128 is a free value. Log 26 (DESIGN CHOICE). -/
def textOutcome (free : Nat) (r : Run) (len : Nat) : List Byte :=
  leBytes 4 ((r.stop.map (·.1)).getD 0xFFFFFFFF) ++ leBytes 2 len ++
    [match r.stop with
     | none => 0
     | some (_, o) => if 1 ≤ o ∧ o ≤ 128 then byte o.toNat else byte (Config.number free),
     byte (textFlags r)]

end Sys2Proof.Machine
end

