-- ==== Sys2Proof/Machine/Text.lean ====
section
/-! DEFINITION. Vocabularies, TOKENIZE, APPEND_TOKENS and MASK (ch. 9). -/

namespace Sys2Proof.Machine

/-! ### Vocabularies (R237 to R240) -/

/-- An offset and length of a section of an image. -/
def sectionAt (b : List Byte) (off : Nat) : Nat × Nat := (field b off 4, field b (off + 4) 4)

/-- A section starts on 64 bytes past the header and lies in the image. -/
def sectionOk (b : List Byte) (x : Nat × Nat) : Bool :=
  x.1 % 64 == 0 && decide (128 ≤ x.1) && decide (x.1 + x.2 ≤ b.length)

/-- A vocabulary image as the device holds it (R237, R238). -/
def vocOf (entry : Nat) (b : List Byte) : Voc :=
  let n := field b 12 4
  let tk := sectionAt b 40
  let rl := sectionAt b 48
  let sp := sectionAt b 56
  let sl := sectionAt b 64
  let uni := field b 6 1 == 1
  { entry := entry, id := field b 8 4, unigram := uni, byteFallback := bit (field b 7 1) 0, endToken := field b 16 4,
    unkToken := field b 20 4, byteBase := field b 24 4, norm := field b 28 1, fold := field b 30 2,
    spaceMark := field b 32 4
    tokens := (List.range n).map fun i =>
      let e := tk.1 + 8 * i
      (slice b (tk.1 + 8 * n + field b e 4) (field b (e + 4) 1), bit (field b (e + 5) 1) 0)
    merges := if uni then [] else (List.range (rl.2 / 12)).map fun i =>
      let e := rl.1 + 12 * i
      (field b e 4, field b (e + 4) 4, field b (e + 8) 4)
    scores := if uni then unpackNats 4 n b rl.1 else []
    specials := unpackNats 4 (sp.2 / 4) b sp.1
    split := (List.range ((sl.2 - 32) / 8)).map fun i => (field b (sl.1 + 8 * i) 4, field b (sl.1 + 8 * i + 4) 1)
    matrix := slice b (sl.1 + sl.2 - 32) 32
    digest := shake 32 b, size := b.length }

/-- Numbers strictly rise. -/
def rising : List Nat → Bool
  | a :: b :: t => decide (a < b) && rising (b :: t)
  | _ => true

/-- Check BAD_FORMAT of a vocabulary image (R237 to R239). Log 19 (DEDUCED). -/
def vocFormat (b : List Byte) : Bool :=
  let n := field b 12 4
  let tk := sectionAt b 40
  let rl := sectionAt b 48
  let sp := sectionAt b 56
  let sl := sectionAt b 64
  let v := vocOf 0 b
  let optional := fun x => x == 0xFFFFFFFF || decide (x < n)
  decide (b.length ≤ 2 ^ 26) && field b 4 2 == 1 && decide (field b 6 1 ≤ 1) && bits (field b 7 1) 7 1 == 0 && v.id != 0 &&
    decide (1 ≤ n) && decide (n ≤ 262144) && optional v.endToken && optional v.unkToken &&
    (v.byteBase == 0xFFFFFFFF || decide (v.byteBase + 256 ≤ n)) && decide (v.norm ≤ 2) && field b 29 1 == 0 &&
    decide (v.spaceMark ≤ 0x10FFFF) && field b 36 4 == 0 && field b 72 24 == 0 &&
    sectionOk b tk && sectionOk b rl && sectionOk b sp && sectionOk b sl && decide (8 * n ≤ tk.2) &&
    ((List.range n).all fun i =>
      let e := tk.1 + 8 * i
      let len := field b (e + 4) 1
      decide (1 ≤ len) && decide (len ≤ 128) && decide (8 * n + field b e 4 + len ≤ tk.2) &&
        bits (field b (e + 5) 1) 7 1 == 0 && field b (e + 6) 2 == 0) &&
    (if v.unigram then rl.2 == 4 * n && v.scores.all fpFinite
     else rl.2 % 12 == 0 && decide (rl.2 / 12 ≤ 262144) &&
       v.merges.all fun m => decide (m.1 < n) && decide (m.2.1 < n) && decide (m.2.2 < n)) &&
    sp.2 % 4 == 0 && (v.specials.all fun t => decide (t < n) && tokSpecial v t) &&
    decide (32 ≤ sl.2) && (sl.2 - 32) % 8 == 0 && rising (v.split.map (·.1)) &&
    (List.range ((sl.2 - 32) / 8)).all fun i =>
      decide (field b (sl.1 + 8 * i + 4) 1 ≤ 15) && field b (sl.1 + 8 * i + 5) 3 == 0

/-- The image fits where the model keeps vocabularies (R240). Log 38 (DEDUCED). -/
def vocRoom (s : State) (n : Nat) : Bool :=
  match s.model with
  | .full => decide ((s.vocs.map (·.size)).sum + n ≤ regApplied s .txtVocAreaMib * 2 ^ 20)
  | .reduced => true

/-- The error code of a vocabulary image, 0 for none (R239). -/
def vocError (s : State) (img : Option (List Byte)) : Nat :=
  match img with
  | none => 0x01
  | some b =>
    if field b 0 4 ≠ 0x43564250 then 0x02
    else if !vocFormat b then 0x03
    else if slice b 96 32 ≠ shake 32 (b.drop 128) then 0x04
    else if (vocById s (field b 8 4)).isSome then 0x05
    else if !vocRoom s b.length then 0x06
    else 0

/-- Load a vocabulary into an entry (R239). -/
def loadVoc (s : State) (k : Nat) (img : Fetch) : State :=
  if (vocAt s k).isSome then regSet s .txtVocStatusError k 0x08
  else
    let len := regGet s .txtVocLenLen k
    sourced s (regGet s .txtVocAddrAddr k) len img fun s b =>
      let img := if len = 0 then none else b
      let e := vocError s img
      let s := regSet s .txtVocStatusError k e
      let s := if e = 0 then { s with vocs := s.vocs ++ [vocOf k (img.getD [])] } else s
      loadResult s [k, e]

/-- VOCABULARY_LOAD (R239): a write of `TXT_VOC_CTRL.LOAD`. -/
def execVocabularyLoad (path : Path) (img : Fetch) (s : State) : Host.Outcome State Fault Refusal :=
  act s <| whenRunning fun s =>
    match entryOf s path .txtVocCtrlLoad 0 with
    | none => s
    | some k => loadVoc s k img

/-- VOCABULARY_UNLOAD (R239): a READY entry is emptied unless a session-table entry that is not FREE names it. -/
def execVocabularyUnload (path : Path) (s : State) : Host.Outcome State Fault Refusal :=
  act s <| whenRunning fun s =>
    match (entryOf s path .txtVocCtrlUnload 0).bind (vocAt s) with
    | none => s
    | some v =>
      if s.subjects.any (fun x => x.kind != .buffer && x.vocab == v.id) then regSet s .txtVocStatusError v.entry 0x07
      else regSet { s with vocs := s.vocs.filter fun y => y.entry != v.entry } .txtVocStatusError v.entry 0

/-! ### TOKENIZE (R246, R247) -/

/-- The folding table that a vocabulary names; `none` where the active configuration lacks it (R243). -/
def foldTable (s : State) (v : Voc) : Option (List (Nat × List Nat)) :=
  if v.fold = 0 then some []
  else
    match s.units.active with
    | none => none
    | some c => ((c.part.map (·.folds)).getD [] ++ c.full.folds).findSome? fun f => if f.1 = v.fold then some f.2 else none

/-- The field checks of TOKENIZE (R246, R247). -/
def tokenizeFields (w : Work) : Bool :=
  let h := opr w 0 8
  let flags := opr w 37 1
  decide (1 ≤ opr w 24 4) && decide (opr w 24 4 ≤ 1048576) && opr w 8 8 != 0 && (opr w 16 8 != 0 || opr w 28 4 == 0) &&
    (h == 0 || opr w 32 4 == 0) && (opr w 36 1 == 0 || opr w 36 1 == 2) && bits flags 7 2 == 0 &&
    !(bit flags 0 && h == 0) && (bit flags 0 || opr w 16 8 != 0) && !(bit flags 1 && opr w 36 1 == 2) &&
    reservedClear w [(0, 38)]

/-- The result of TOKENIZE (R247). -/
def tokenizeResult (n count replaced : Nat) : List Byte := leBytes 4 n ++ leBytes 4 count ++ leBytes 4 replaced

/-- Tiles and effects of an append to a session's log, with the text state after it (R36, R78). -/
def appendTiles (x : Subject) (entries : List Nat) (t : TextState) : List Tile :=
  logTiles x x.log.length (x.log.length + entries.length) ++ textTiles x x.text t ++ headTiles x

/-- The log holds `n` more tokens (R78). -/
def logRoom (x : Subject) (n : Nat) : Bool := decide (x.log.length + n ≤ 16777216)

/-- Write the tokens out and append them (R247). -/
def tokenizeEnd (s : State) (w : Work) (x : Option Subject) (toks : List Nat) (replaced : Nat) : State :=
  let n := toks.length
  let count := (x.map (·.log.length)).getD 0
  let d := opr w 16 8
  let out := if d = 0 then [] else packNats 4 toks
  if d ≠ 0 ∧ opr w 28 4 < n then finish s w.id stNoSpace (tokenizeResult n count replaced) []
  else
    match x with
    | some x =>
      if bit (opr w 37 1) 0 then
        if !logRoom x n then finish s w.id stNoSpace (tokenizeResult n count replaced) []
        else
          let t := endTurn x.text (count + n)
          concludeOut s w stDone (tokenizeResult n (count + n) replaced) (appendTiles x (toks.map fun _ => 0) t)
            [.append x.handle (toks.map (logEntry (opr w 36 1) false)), .text x.handle t] (addrOf d) out
      else concludeOut s w stDone (tokenizeResult n count replaced) [] [] (addrOf d) out
    | none => concludeOut s w stDone (tokenizeResult n 0 replaced) [] [] (addrOf d) out

/-- TOKENIZE once its session, if it has one, is known. -/
def tokenizeFor (s : State) (w : Work) (src : Fetch) (x : Option Subject) : State :=
  let v := vocById s ((x.map (·.vocab)).getD (opr w 32 4))
  let table := v.bind (foldTable s)
  checked s w
    [chk (tokenizeFields w) stBad, chkEv v.isSome stBad 0x0801, chkEv table.isSome stBad 0x0802,
     reachChk s w (addrOf (opr w 8 8)) (opr w 24 4) false, reachOpt s w (opr w 16 8) (4 * opr w 28 4) true]
    fun s => withOperand s w (addrOf (opr w 8 8)) (opr w 24 4) false src fun s b =>
      match v, table with
      | some v, some f =>
        match tokens v f (bit (opr w 37 1) 1) b with
        | (some toks, r) => tokenizeEnd s w x toks r
        | (none, _) => fail s w.id stBad
      | _, _ => s

/-- TOKENIZE. -/
def runTokenize (src : Fetch) (s : State) (w : Work) : State :=
  if subjectOf w = 0 then tokenizeFor s w src none
  else withSubject s w fun x => checked s w (sessionChks x true (bit (opr w 37 1) 0)) fun s => tokenizeFor s w src (some x)

/-- TOKENIZE (R241, R246, R247). -/
def execTokenize (work : Nat) (src : Fetch) (s : State) : Host.Outcome State Fault Refusal :=
  act s <| runWork work (isOp 0x18) fun s w =>
    if bit (opr w 37 1) 0 then durably (runTokenize src) s w else runTokenize src s w

/-! ### APPEND_TOKENS (R250 to R258) -/

/-- The session checks of APPEND_TOKENS and its vocabulary (R251 check 1). -/
def textChks (s : State) (x : Subject) (change : Bool) : List Chk :=
  sessionChks x true change ++ [chkEv (vocById s x.vocab).isSome stBad 0x0801]

/-- The fields of APPEND_TOKENS with MODE APPEND (R250). -/
def appendFields (w : Work) : Bool :=
  let n := opr w 24 2
  let flags := opr w 28 1
  opr w 26 1 == 0 && decide (1 ≤ n) && decide (n ≤ 4096) && (opr w 8 8 == 0 || decide (n ≤ 160)) && decide (opr w 27 1 ≤ 2) &&
    bits flags 2 1 != 3 && bits flags 7 4 == 0 && opr w 29 3 == 0 &&
    (if opr w 16 8 = 0 then decide (n ≤ 8) && reservedClear w [(0, 32), (32, 4 * n)] else reservedClear w [(0, 32)])

/-- Whether the stop string is emitted: INCL, or the session's default (R250). -/
def inclOf (t : TextState) (incl : Nat) : Bool := if incl = 0 then t.includeStop else incl == 1

/-- The result of APPEND_TOKENS (R257). -/
def appendResult (count appended free : Nat) (r : Run) (len : Nat) : List Byte :=
  leBytes 4 count ++ leBytes 2 appended ++ [0, 0] ++ textOutcome free r len

/-- Append tokens that are known and in range (R253, R255, R257). -/
def appendEnd (s : State) (w : Work) (x : Subject) (v : Voc) (toks : List Nat) : State :=
  let n := x.log.length
  let src := opr w 27 1
  let flags := opr w 28 1
  let t := if bit flags 3 then { x.text with stopped := false } else x.text
  let r : Run :=
    if src = 1 then
      appendSampled v t n (inclOf x.text (bits flags 2 1)) false (bit flags 0) (toks.map fun k => (1, k))
    else { text := endTurn t (n + toks.length), entries := toks.map (logEntry src false), out := [], stop := none, ended := false }
  let out := if opr w 8 8 = 0 then [] else r.out
  let status := if r.stop.isSome then stTruncated else stDone
  concludeOut (takeFree s) w status (appendResult (n + r.entries.length) r.entries.length s.free r out.length)
    (appendTiles x r.entries r.text) [.append x.handle r.entries, .text x.handle r.text] (addrOf (opr w 8 8)) out

/-- APPEND_TOKENS with MODE APPEND once its tokens can be read: check 2 on the tokens, check 3, the reach of the operands. -/
def appendWith (s : State) (w : Work) (x : Subject) (v : Voc) (toks : Option (List Nat)) : State :=
  checked s w
    [chk ((toks.getD []).all fun t => decide (t < vocSize v)) stBad, chk (logRoom x (opr w 24 2)) stNoSpace,
     reachOpt s w (opr w 16 8) (4 * opr w 24 2) false, reachOpt s w (opr w 8 8) (384 * opr w 24 2 + 256) true]
    fun s => appendEnd s w x v (toks.getD [])

/-- The checks of MODE APPEND (R255). -/
def appendChks (s : State) (w : Work) (x : Subject) : List Chk := textChks s x true ++ [chk (appendFields w) stBad]

/-- APPEND_TOKENS with MODE APPEND. -/
def runAppend (src : Fetch) (s : State) (w : Work) : State :=
  withSubject s w fun x =>
    checked s w (appendChks s w x) fun s =>
      match vocById s x.vocab with
      | none => s
      | some v =>
        let n := opr w 24 2
        let k := opr w 16 8
        if k = 0 then appendWith s w x v (some (unpackNats 4 n w.ops 32))
        else if (reachFault s w.hdr.keySlot (addrOf k) (4 * n) false).isSome then appendWith s w x v none
        else withOperand s w (addrOf k) (4 * n) false src fun s b => appendWith s w x v (some (unpackNats 4 n b 0))

/-- APPEND_TOKENS (R255). -/
def execAppendTokens (work : Nat) (src : Fetch) (s : State) : Host.Outcome State Fault Refusal :=
  act s <| runWork work (isFirstMode 0x19 26 3) (durably (runAppend src))

/-- The fields of SET_STOPS and SET_SAMPLER: those that only APPEND uses are 0 (R250). -/
def setFields (w : Work) (limit : Nat) (incl : Bool) : Bool :=
  let flags := opr w 28 1
  decide (opr w 24 2 ≤ limit) && opr w 16 8 == 0 && opr w 27 1 == 0 && bits flags 7 3 == 0 && !bit flags 0 &&
    (if incl then bits flags 2 1 != 3 else bits flags 2 1 == 0) && (opr w 24 2 == 0 || opr w 8 8 != 0) &&
    reservedClear w [(0, 16), (24, 5)]

/-- A stop entry as SET_STOPS reads it is well formed (R258). Log 24 (DEDUCED). -/
def stopEntryOk (e : List Byte) : Bool :=
  let n := field e 0 1
  decide (1 ≤ n) && decide (n ≤ 64) && field e 1 3 == 0 && leNat (e.drop (4 + n)) == 0

/-- Write a changed text state. -/
def setText (s : State) (w : Work) (x : Subject) (t : TextState) : State :=
  conclude s w stDone [] (textTiles x x.text t ++ headTiles x) [.text x.handle t]

/-- Read a source of SET_STOPS or SET_SAMPLER that may be empty. -/
def withSource (s : State) (w : Work) (len : Nat) (src : Fetch) (f : State → List Byte → State) : State :=
  if len = 0 then f s []
  else checked s w [reachChk s w (addrOf (opr w 8 8)) len false] fun s => withOperand s w (addrOf (opr w 8 8)) len false src f

/-- The entries of a stop set (R258). -/
def stopEntries (w : Work) (b : List Byte) : List (List Byte) := (List.range (opr w 24 2)).map fun i => slice b (68 * i) 68

/-- The text state with a new stop set (R258). -/
def withStops (w : Work) (t : TextState) (b : List Byte) : TextState :=
  let stops := (stopEntries w b).map fun e => slice e 4 (field e 0 1)
  let incl := bits (opr w 28 1) 2 1
  { t with stops := stops, release := releasedBy stops t.hold, includeStop := if incl = 0 then t.includeStop else incl == 1 }

/-- APPEND_TOKENS with MODE SET_STOPS. -/
def runSetStops (src : Fetch) (s : State) (w : Work) : State :=
  withSubject s w fun x =>
    checked s w (textChks s x true ++ [chk (setFields w 16 true) stBad]) fun s =>
      withSource s w (68 * opr w 24 2) src fun s b =>
        checked s w [chk ((stopEntries w b).all stopEntryOk) stBad] fun s => setText s w x (withStops w x.text b)

/-- SET_STOPS (R258). -/
def execSetStops (work : Nat) (src : Fetch) (s : State) : Host.Outcome State Fault Refusal :=
  act s <| runWork work (isMode 0x19 26 1) (durably (runSetStops src))

/-- APPEND_TOKENS with MODE SET_SAMPLER. -/
def runSetSampler (src : Fetch) (s : State) (w : Work) : State :=
  withSubject s w fun x =>
    checked s w (textChks s x true ++ [chk (setFields w 256 false) stBad]) fun s =>
      withSource s w (opr w 24 2) src fun s b => setText s w x { x.text with sampler := slice b 0 256 }

/-- SET_SAMPLER (R258). -/
def execSetSampler (work : Nat) (src : Fetch) (s : State) : Host.Outcome State Fault Refusal :=
  act s <| runWork work (isMode 0x19 26 2) (durably (runSetSampler src))

/-! ### MASK (R261 to R266) -/

/-- Bytes of a mask record (R264). -/
def maskSize (n : Nat) : Nat := 64 + max 1024 (64 * ceilDiv n 512)

/-- A mask record: allowed tokens, whether it is a list, flags, node (R264). -/
def maskRecord (n : Nat) (toks : List Nat) (list : Bool) (flags node : Nat) : List Byte :=
  let size := maskSize n
  let body := if list then packNats 4 toks
    else (List.range (size - 64)).map fun i => byte (((List.range 8).map fun j => if 8 * i + j ∈ toks then 2 ^ j else 0).sum)
  slice (leBytes 4 toks.length ++ [byte (b2n list), byte flags, 0, 0] ++ leBytes 4 node ++ zeros 52 ++ body) 0 size

/-- The record of a configuration (R264); `none` where it is dead. -/
def recordOf (v : Voc) (t : TextState) (c : Option (Nat × List Nat)) (bitmap : Bool) (node : Nat) : Option (List Byte × Nat) :=
  if !t.active then
    let m := freeMask v
    some (maskRecord (vocSize v) m (!bitmap && decide (m.length ≤ 256)) (8 + 4 * b2n (v.endToken ∈ m)) node, m.length)
  else
    match c with
    | none => none
    | some c =>
      let m := gMask v t.image c
      if t.dead || m.isEmpty then none
      else some (maskRecord (vocSize v) m (!bitmap && decide (m.length ≤ 256)) (4 * b2n (v.endToken ∈ m)) node, m.length)

/-- The END form: only END_TOKEN, with DEAD and END_ONLY (R265); a vocabulary without one leaves the token open. Log 27 (DEDUCED). -/
def endRecord (v : Voc) (free node : Nat) : List Byte :=
  maskRecord (vocSize v) [if v.endToken = 0xFFFFFFFF then Config.number free % 262144 else v.endToken] true 7 node

/-- The tokens on the path to a node of a tree, with the number of nodes as fuel (R223). -/
def pathTo (tree : List Node) : Nat → Nat → List Nat
  | 0, _ => []
  | k + 1, i =>
    match tree[i]? with
    | none => []
    | some n => (if n.parent = 0xFF then [] else pathTo tree k n.parent) ++ [n.token]

/-- The configuration after a path. -/
def afterPath (v : Voc) (t : TextState) (toks : List Nat) : Option (Nat × List Nat) :=
  toks.foldl (fun c k => c.bind fun c => gAdvance v t.image c k) (some (gConfig t))

/-- The fields of MASK (R263). -/
def maskFields (w : Work) : Bool :=
  let m := opr w 20 1
  decide (m ≤ 3) && decide (opr w 21 1 ≤ 1) && decide (opr w 22 1 ≤ 2) && reservedClear w [(0, 23)] &&
    (if m ≤ 1 then opr w 8 8 != 0 && opr w 8 8 % 64 == 0 && opr w 16 4 == 0
     else if m = 2 then opr w 8 8 != 0 && decide (1 ≤ opr w 16 4) && decide (opr w 16 4 ≤ 3932160)
     else opr w 8 8 == 0 && opr w 16 4 == 0)

/-- The result of MASK (R266). -/
def maskResult (count records deadNodes : Nat) : List Byte := leBytes 4 count ++ [byte records, byte deadNodes]

/-- Cancel the step-plan and hint items of a session (R109): sources 4 and 5 of R108. -/
def cancelItems (s : State) (h : Nat) : State :=
  { s with moving := { s.moving with items := s.moving.items.filter fun i => !(i.2.1 == h && (i.1 == 4 || i.1 == 5)) } }

/-- An earlier descriptor for the same subject has not completed. Log 28 (DEDUCED). -/
def earlierOpen (s : State) (w : Work) : Bool :=
  s.work.any fun x => decide (x.id < w.id) && subjectOf x == subjectOf w && x.hdr.keySlot == w.hdr.keySlot

/-- A dead grammar under HALT: no record, and the session becomes PARKED once every earlier descriptor for it has completed
(R265). -/
def maskHalt (s : State) (w : Work) (x : Subject) : State :=
  if earlierOpen s w then s
  else
    let s := cancelItems s x.handle
    if x.state = 2 then finish s w.id stGrammarDead (maskResult 0 0 0) []
    else finish s w.id stGrammarDead (maskResult 0 0 0) [.sessState x.handle 2]

/-- Write the records of STEP or TREE (R264, R265). -/
def maskEnd (s : State) (w : Work) (x : Subject) (v : Voc) (nodes : List (List Nat)) : State :=
  let t := x.text
  let bitmap := opr w 21 1 == 1
  let policy := if opr w 22 1 = 0 then t.policy else opr w 22 1
  let root := recordOf v t (some (gConfig t)) bitmap 0xFFFFFFFF
  let rest := (List.range nodes.length).map fun i => recordOf v t (afterPath v t (nodes.getD i [])) bitmap i
  let deadNodes := (rest.filter (·.isNone)).length
  if root.isNone && (policy == 2 || v.endToken == 0xFFFFFFFF) then maskHalt s w x
  else
    let first := (root.map (·.1)).getD (endRecord v s.free 0xFFFFFFFF)
    let bytes := first ++ (List.range rest.length).flatMap fun i =>
      match rest.getD i none with
      | some r => r.1
      | none => endRecord v (s.free + 1 + i) i
    let s := { s with free := s.free + 1 + rest.length }
    let s := updWork s w.id fun w => { w with tally := (first.take 256).map (·.toNat) }
    concludeOut s w (if root.isNone then stGrammarDead else stDone)
      (maskResult ((root.map (·.2)).getD 1) (1 + rest.length) deadNodes) [] [] (addrOf (opr w 8 8)) bytes

/-- The nodes of the outstanding tree of a session. -/
def maskNodes (x : Subject) : List Node := ((x.draft.bind fun d => d.base.map fun _ => d.tree)).getD []

/-- The checks of MASK STEP and TREE on the tree and the destination (R263, R264). -/
def maskOutChks (tree : Bool) (s : State) (w : Work) (x : Subject) (v : Voc) : List Chk :=
  [chk (!tree || (x.draft.bind (·.base)).isSome) stConflict,
   reachChk s w (addrOf (opr w 8 8)) ((if tree then 1 + (maskNodes x).length else 1) * maskSize (vocSize v)) true]

/-- MASK with MODE STEP or TREE. -/
def runMask (tree : Bool) (s : State) (w : Work) : State :=
  withSubject s w fun x =>
    checked s w (textChks s x false ++ [chk (maskFields w) stBad]) fun s =>
      match vocById s x.vocab with
      | none => s
      | some v =>
        let nodes := maskNodes x
        checked s w (maskOutChks tree s w x v) fun s =>
          maskEnd s w x v (if tree then (List.range nodes.length).map fun i => pathTo nodes nodes.length i else [])

/-- MASK STEP (R264). -/
def execMaskStep (work : Nat) (s : State) : Host.Outcome State Fault Refusal :=
  act s <| runWork work (isFirstMode 0x1A 20 4) (runMask false)

/-- MASK TREE (R264). -/
def execMaskTree (work : Nat) (s : State) : Host.Outcome State Fault Refusal :=
  act s <| runWork work (isMode 0x1A 20 1) (runMask true)

/-- The transitions of a state. -/
def transOf (g : List Byte) (q : Nat) : List (List Byte) :=
  (List.range (field (gState g q) 4 2)).map fun i => gTrans g (field (gState g q) 0 4 + i)

/-- A run list at an offset lies in the image. -/
def runsInside (g : List Byte) (off : Nat) : Bool :=
  decide (off + 4 ≤ g.length) && decide (off + 4 + 4 * field g off 4 ≤ g.length)

/-- A SHIFT or PUSH range of a state overlaps another of its ranges (R261). -/
def rangesClash (ts : List (List Byte)) : Bool :=
  (List.range ts.length).any fun i => (List.range ts.length).any fun j =>
    let a := ts.getD i []
    let b := ts.getD j []
    i != j && bits (field a 2 2) 15 14 != 2 && decide (field a 0 1 ≤ field b 1 1) && decide (field b 0 1 ≤ field a 1 1)

/-- The checks of MASK CONFIGURE on an image (R259, R261). -/
def grammarOk (g : List Byte) (len vocab : Nat) : Bool :=
  let n := field g 16 2
  field g 0 4 == 0x52474250 && field g 4 2 == 1 && field g 6 2 == 0 && field g 22 2 == 0 && field g 8 4 == vocab &&
    field g 12 4 == len && decide (1 ≤ n) && decide (field g 18 2 < n) && decide (1 ≤ field g 20 2) &&
    decide (field g 20 2 ≤ 16383) && slice g 32 32 == shake 32 (slice g 0 32 ++ zeros 32 ++ g.drop 64) &&
    decide (64 + 16 * n ≤ len) &&
    (List.range n).all fun q =>
      let e := gState g q
      let ts := transOf g q
      decide (field g 24 4 + 8 * (field e 0 4 + field e 4 2) ≤ len) && bits (field e 6 1) 7 1 == 0 && field e 7 1 == 0 &&
        runsInside g (field g 28 4 + field e 8 4) && runsInside g (field g 28 4 + field e 12 4) &&
        (ts.all fun t => bits (field t 2 2) 15 14 != 3 && decide (field t 4 2 < n) && field t 6 2 == 0 &&
          decide (bits (field t 2 2) 13 0 < field g 20 2)) && !rangesClash ts

/-- Image tiles that an image of a length takes. -/
def imageTiles (n : Nat) : List Nat := (List.range (ceilDiv n 16384)).map (0x10 + ·)

/-- Install a new grammar, or none, and free the image tiles that it does not use. -/
def setGrammar (s : State) (w : Work) (x : Subject) (t : TextState) : State :=
  conclude s w stDone [] (textTiles x x.text t ++ headTiles x)
    (.text x.handle t :: ((imageTiles x.text.image.length).filter fun n => !(n ∈ imageTiles t.image.length)).map
      fun n => .dropTile x.handle n)

/-- MASK with MODE CONFIGURE. -/
def runMaskConfigure (src : Fetch) (s : State) (w : Work) : State :=
  withSubject s w fun x =>
    let len := opr w 16 4
    checked s w (textChks s x true ++ [chk (maskFields w) stBad, reachChk s w (addrOf (opr w 8 8)) len false]) fun s =>
      withOperand s w (addrOf (opr w 8 8)) len false src fun s g =>
        checked s w [chk (grammarOk g len x.vocab) stBad] fun s =>
          setGrammar s w x { x.text with
            active := true, dead := false, gstate := field g 18 2, stack := [], image := g
            policy := if opr w 22 1 = 0 then 1 else opr w 22 1 }

/-- MASK CONFIGURE (R261). -/
def execMaskConfigure (work : Nat) (src : Fetch) (s : State) : Host.Outcome State Fault Refusal :=
  act s <| runWork work (isMode 0x1A 20 2) (durably (runMaskConfigure src))

/-- MASK with MODE CLEAR. Log 29 (DEDUCED). -/
def runMaskClear (s : State) (w : Work) : State :=
  withSubject s w fun x =>
    checked s w (textChks s x true ++ [chk (maskFields w) stBad]) fun s =>
      setGrammar s w x { x.text with active := false, dead := false, image := [] }

/-- MASK CLEAR (R261). -/
def execMaskClear (work : Nat) (s : State) : Host.Outcome State Fault Refusal :=
  act s <| runWork work (isMode 0x1A 20 3) (durably runMaskClear)

end Sys2Proof.Machine
end

