-- ==== Sys2Proof/Machine/Models.lean ====
section
/-! DEFINITION. Drafter models (ch. 8): their images and weights, MODEL_LOAD and MODEL_UNLOAD; DRAFT tiles and the draft record. -/

namespace Sys2Proof.Machine

/-! ### Models (R206 to R212) -/

/-- The beds of a unit: the beds of its leaves, each once, ascending (R207). -/
def bedsOf (s : State) (u : Nat) : List Nat :=
  ((leaves s).filter fun l => rootOf s l.id == u).foldl (fun acc l => insNat l.bed acc) []

/-- Lengths of the parts of a model image: wrapped key, layer table, payloads (R206). -/
def modelParts (b : List Byte) : Nat × Nat × Nat := (field b 40 4, field b 44 4, field b 48 8)

/-- Check BAD_FORMAT of a model image (R205, R206, R403). -/
def modelFormat (s : State) (b : List Byte) : Bool :=
  let p := modelParts b
  let shards := field b 6 1
  let layers := field b 30 1
  let dim := field b 32 2
  field b 4 2 == 1 && field b 7 1 == 0 && field b 34 2 == 0 && field b 56 72 == 0 && decide (1 ≤ shards) &&
    decide (shards ≤ bedCount s.model) && (field b 28 2 == 0xFFFF || bits (field b 28 2) 15 12 == 0) &&
    decide (1 ≤ layers) && decide (layers ≤ 64) && decide (1 ≤ field b 31 1) && decide (field b 31 1 ≤ 16) &&
    decide (32 ≤ dim) && decide (dim ≤ 256) && dim % 32 == 0 && decide (1 ≤ field b 36 4) && decide (field b 36 4 ≤ 4000) &&
    p.1 == 60 && p.2.1 == 48 * layers * shards + 16 &&
    b.length == 128 + roundUp p.1 64 + roundUp p.2.1 64 + roundUp p.2.2 64

/-- The model key: unwrapped under the key of the device set (R209, R403). -/
def modelKey (s : State) (b : List Byte) : List Byte :=
  Config.gcmOpen ((aget s.nv.sets (field b 16 8)).getD []) (slice b 128 12) (b.take 128) (slice b 140 32)

/-- An entry of the layer table: offset, length and digest of a shard (R403). -/
structure ShardEnt where
  layer : Nat
  shard : Nat
  offset : Nat
  length : Nat
  digest : List Byte
deriving DecidableEq, Repr

/-- The entries of the layer table of an image, layer-major and shard-minor, given what the model key opens the table to (R206, R403). -/
def tableOf (b table : List Byte) : List ShardEnt :=
  let n := field b 6 1
  (List.range (field b 30 1 * n)).map fun i =>
    { layer := i / n, shard := i % n, offset := field table (48 * i) 8, length := field table (48 * i + 8) 8
      digest := slice table (48 * i + 16) 32 }

/-- A shard in plaintext (R403). -/
def shardBytes (s : State) (b : List Byte) (e : ShardEnt) : List Byte :=
  let p := modelParts b
  Config.ctr (modelKey s b) (leBytes 8 (field b 8 8) ++ leBytes 8 (e.offset / 16))
    (slice b (128 + roundUp p.1 64 + roundUp p.2.1 64 + e.offset) e.length)

/-- The blocks of 16 KiB that a shard takes in its weight area (R208). -/
def shardBlocks (e : ShardEnt) : Nat := ceilDiv e.length 16384

/-- The weights of an image in blocks, each with its checksum (R208). -/
def weightsOf (s : State) (b table : List Byte) : List WeightBlock :=
  (tableOf b table).flatMap fun e => (List.range (shardBlocks e)).map fun k =>
    let part := slice (shardBytes s b e) (16384 * k) (min 16384 (e.length - 16384 * k))
    { layer := e.layer, shard := e.shard, no := k, bytes := part, sum := crc64 part }

/-- Blocks of weight area in use on a bed. -/
def weightUsed (s : State) (bed : Nat) : Nat :=
  (s.models.map fun m => (m.weights.filter fun x => (bedsOf s m.unit)[x.shard]? == some bed).length).sum

/-- Every bed of the unit has free weight area for its shards (R207, R211). The lengths are those of the layer table. Log 33 (DEDUCED). -/
def weightRoom (s : State) (u : Nat) (b table : List Byte) : Bool :=
  (List.range (bedsOf s u).length).all fun i =>
    decide (weightUsed s ((bedsOf s u).getD i 0) + (((tableOf b table).filter fun e => e.shard == i).map shardBlocks).sum ≤
      64 * regApplied s .panWeightAreaMib)

/-- The unit is an outermost drafter unit whose beds the image's shards fit (R207). -/
def unitMatches (s : State) (u : Nat) (b : List Byte) : Bool :=
  (outermost s 2).any (fun x => x.id == u) && field b 6 1 == (bedsOf s u).length

/-- The error code of a model image, 0 for none, in the order of R210's steps. -/
def modelError (s : State) (img : Option (List Byte)) (u : Nat) (table : Option (List Byte)) (digestsOk : Bool) : Nat :=
  match img with
  | none => 0x01
  | some b =>
    if field b 0 4 ≠ 0x444D4250 then 0x02
    else if !modelFormat s b then 0x03
    else if !unitMatches s u b then 0x06
    else if !weightRoom s u b (table.getD []) then 0x07
    else if (aget s.nv.sets (field b 16 8)).isNone then 0x04
    else if table.isNone || !digestsOk then 0x05
    else 0

/-- The slot of a model image that has passed its checks. Log 34 (DEDUCED). -/
def slotOf (s : State) (k u : Nat) (b table : List Byte) : ModelSlot :=
  let p := modelParts b
  { slot := k, state := 2, modelId := field b 8 8, setId := field b 16 8, keySlot := field b 28 2, vocab := field b 24 4,
    unit := u, layers := field b 30 1, kvHeads := field b 31 1, dim := field b 32 2, shards := field b 6 1,
    weights := weightsOf s b table, image := b, tableDigest := shake 32 (slice b (128 + roundUp p.1 64) p.2.1) }

/-- Load a model into a slot (R210, R211). -/
def loadModel (s : State) (k : Nat) (img : Fetch) (table : Option (List Byte)) (digestsOk : Bool) : State :=
  if (modelOf s k).isSome then regSet s .panMdlStatusError k 0x08
  else
    let len := regGet s .panMdlLenLen k
    let u := regGet s .panMdlUnitUnit k
    sourced s (regGet s .panMdlAddrAddr k) len img fun s b =>
      let img := if len = 0 then none else b
      let e := modelError s img u table digestsOk
      let s := regSet s .panMdlStatusError k e
      let s := if e = 0 then { s with models := s.models ++ [slotOf s k u (img.getD []) (table.getD [])] } else s
      loadResult s [k, e]

/-- MODEL_LOAD (R210): a write of `PAN_MDL_CTRL.LOAD`. -/
def execModelLoad (path : Path) (img : Fetch) (table : Option (List Byte)) (digestsOk : Bool) (s : State) : Host.Outcome State Fault Refusal :=
  act s <| whenRunning fun s =>
    match entryOf s path .panMdlCtrlLoad 0 with
    | none => s
    | some k => loadModel s k img table digestsOk

/-- The model slot that a DRAFT names: that of its session's draft record. -/
def draftSlot (s : State) (w : Work) : Option Nat :=
  if isMode 0x12 16 0 w then ((subjOf s (subjectOf w)).bind (·.draft)).map (·.slot) else none

/-- A READY slot becomes UNLOADING; DRAFT descriptors in flight on it are marked to run on (R212). -/
def startUnload (s : State) (k : Nat) : State :=
  { s with
    models := updIf (fun m => m.slot == k && m.state == 2) (fun m => { m with state := 3 }) s.models
    work := updIf (fun w => inFlight w && draftSlot s w == some k) (fun w => { w with tally := [1] }) s.work }

/-- MODEL_UNLOAD (R212): a write of `PAN_MDL_CTRL.UNLOAD`. -/
def execModelUnload (path : Path) (s : State) : Host.Outcome State Fault Refusal :=
  act s <| whenRunning fun s =>
    match (entryOf s path .panMdlCtrlUnload 0).bind (modelOf s) with
    | none => s
    | some m => if m.state = 2 then startUnload s m.slot else s

/-- A slot becomes EMPTY: its weight area, its T2 copy and what is pinned of it are freed (R212). -/
def emptySlot (s : State) (k : Nat) : State :=
  { s with
    models := s.models.filter fun x => x.slot != k
    units := { s.units with pinned := s.units.pinned.filter fun e => e.2.2 != k } }

/-- MODEL_UNLOAD_DONE (R212): no DRAFT is in flight on an unloading slot, which becomes EMPTY. -/
def execModelUnloadDone (slot : Nat) (s : State) : Host.Outcome State Fault Refusal :=
  act s <| whenRunning fun s =>
    match modelOf s slot with
    | none => s
    | some m =>
      if m.state ≠ 3 ∨ (s.work.any fun w => inFlight w && draftSlot s w == some slot) = true then s
      else regSet (emptySlot s slot) .panMdlStatusError slot 0

/-! ### DRAFT tiles (R216 to R218) -/

/-- Bytes of the drafter KV of one token (R217). -/
def itemBytes (m : ModelSlot) : Nat := 2 * m.kvHeads * (m.dim / 32) * 33

/-- Items of a size that a DRAFT tile holds. Log 32 (DEDUCED). -/
def itemsPer (size : Nat) : Nat := payloadBytes / max 1 size

/-- DRAFT tiles of a session with drafter KV. -/
def draftTiles (s : State) (h : Nat) : List Tile := (tilesOf s h).filter fun t => t.kind == 9 && t.format == 3 && t.version != 0

/-- The number of the draft record tile, if the session has one. -/
def recordNumber (s : State) (h : Nat) : Option Nat :=
  ((tilesOf s h).find? fun t => isDraftRecord t && t.version != 0).map (·.number)

/-- The draft record tile. -/
def draftRecord (x : Subject) (n : Nat) : Tile := { blankTile x.handle n x.keySlot with kind := 9 }

/-- The runs of at most `per` positions that a range of positions falls into, cut at multiples of `per`. -/
def runsOf (per lo hi : Nat) : List (Nat × Nat) :=
  if hi ≤ lo then []
  else (List.range ((hi - 1) / per + 1 - lo / per)).map fun i =>
    let k := lo / per + i
    (max lo (k * per), min hi ((k + 1) * per))

/-- A drafter KV item as the drafter computes it: free numbers, encoded as SX8 groups (R159, R217). -/
def freeItem (free size layer i : Nat) : List Byte :=
  (List.range (size / 33)).flatMap fun g => sx8Group .near ((List.range 32).map fun e =>
    let v := (Config.roundOff free [layer, i, g, e]).natAbs % 2 ^ 32
    if fpFinite v then fpVal v else 0)

/-- An existing tile of a layer that is continued by a run beginning at `a`: it ends where the run begins, or later (R217). -/
def openTile (s : State) (x : Subject) (size layer a : Nat) : Option Tile :=
  (draftTiles s x.handle).find? fun t =>
    t.layer == layer && decide (t.first ≤ a) && decide (a ≤ t.first + t.count) && decide (a < 0x80000000) &&
      t.first / itemsPer size == a / itemsPer size && decide (4 ≤ t.first) == decide (4 ≤ a)

/-- The tile with the items `a` to `b - 1` of a layer: one that is continued, or a new one under a number. -/
def itemTile (old : Option Tile) (x : Subject) (size layer a b number : Nat) (items : List Byte) : Tile :=
  match old with
  | some t => { t with count := max t.count (b - t.first), payload := cellWrite t.payload (size * (a - t.first)) items }
  | none => { blankTile x.handle number x.keySlot with
      kind := 9, format := 3, layer := layer, count := b - a, first := a, payload := cellsOf items }

/-- A run of items of a layer to write: the layer, the first position and the one after the last, the bytes, the tile that is continued. -/
structure ItemRun where
  layer : Nat
  first : Nat
  last : Nat
  bytes : List Byte
  old : Option Tile
deriving DecidableEq, Repr

/-- Runs of drafter KV in every layer, each item as `item layer position` gives it; `fresh` continues no tile. -/
def itemRuns (s : State) (x : Subject) (layers size : Nat) (runs : List (Nat × Nat)) (fresh : Bool) (item : Nat → Nat → List Byte) :
    List ItemRun :=
  (List.range layers).flatMap fun l => runs.map fun r =>
    { layer := l, first := r.1, last := r.2, bytes := (List.range (r.2 - r.1)).flatMap fun i => slice (item l (r.1 + i)) 0 size
      old := if fresh then none else openTile s x size l r.1 }

/-- Tile numbers that runs need. -/
def numbersFor (rs : List ItemRun) : Nat := (rs.filter fun r => r.old.isNone).length

/-- The tiles of runs, each new one under the next free number (R69). -/
def itemTiles (x : Subject) (size : Nat) : List ItemRun → List Nat → List Tile
  | [], _ => []
  | r :: rs, nums =>
    itemTile r.old x size r.layer r.first r.last (nums.headD 0) r.bytes ::
      itemTiles x size rs (if r.old.isNone then nums.tail else nums)

/-- The KV of a node of the outstanding tree in a layer, as its tile holds it (R217, R229). -/
def treeItem (s : State) (h size layer node : Nat) : List Byte :=
  let a := 0x80000000 + node
  match (draftTiles s h).find? fun t => t.layer == layer && decide (t.first ≤ a) && decide (a < t.first + t.count) with
  | none => zeros size
  | some t => cellRead t.payload (size * (a - t.first)) size

/-- Committed tiles that fall wholly outside the positions kept (R218). -/
def staleItems (s : State) (h count window : Nat) : List Tile :=
  (draftTiles s h).filter fun t =>
    decide (t.first < 0x80000000) && decide (4 ≤ t.first) && decide (t.first + t.count + window ≤ count)

/-- Tiles of tree KV. -/
def treeTiles (s : State) (h : Nat) : List Tile := (draftTiles s h).filter fun t => decide (0x80000000 ≤ t.first)

/-- Effects that free tiles. -/
def dropAll (ts : List Tile) : List Effect := ts.map fun t => .dropTile t.handle t.number

/-! ### Draft records (R216) -/

/-- A draft record with nothing in it. -/
def Draft.empty : Draft :=
  { modelId := 0, slot := 0, nodeMax := 0, depthMax := 0, width := 0, window := 0, accAvg := 256, branch := [], step := 0,
    base := none, kvEnd := 0, emptyRun := 0, configured := false, paused := false, probe := 0, tree := [], shape := (0, 0),
    kvNodes := [] }

/-- No tree is outstanding any more. -/
def noTree (d : Draft) : Draft := { d with base := none, tree := [], kvNodes := [] }

/-- All drafter KV and the tree are discarded (R220). -/
def resetKv (d : Draft) : Draft := { noTree d with kvEnd := 0, shape := (0, 0) }

end Sys2Proof.Machine
end

