-- ==== Sys2Proof/Machine/Ingest.lean ====
section
/-! DEFINITION. Filing KV blocks (R61, R69 to R77, R164 to R169, R181 to R185): the tiles of a layer read as head-pages, a
page filed, completed or extended, KV_INGEST. -/

namespace Sys2Proof.Machine

/-! ### Head-pages as stored -/

/-- The payload of a tile of a subject, empty where no copy is left. -/
def tilePayload (s : State) (h n : Nat) : List Host.Cell :=
  match tileOf s h n with
  | none => []
  | some t => if masterTier t = 0 ∧ t.lodged.isNone then [] else t.payload

/-- SX4 codes of head-page `m` of a layer's own sequence; an SX2 tile is raised (R71, R106). -/
def codesOf (s : State) (x : Subject) (l : LayerMap) (m : Nat) : List Byte :=
  let dp := storedDim x.dim
  let c := max 1 (codePer x)
  let n := l.code.getD (m / c) 0xFFFFFFFF
  let p := tilePayload s x.handle n
  match tileOf s x.handle n with
  | none => zeros (32 * dp)
  | some t =>
    if t.format = 2 then raiseCodes (cellRead p (m % (2 * c) * (16 * dp)) (16 * dp)) (headScales s x l m)
    else cellRead p (m % c * (32 * dp)) (32 * dp)

/-- Summary entry of head-page `m`. -/
def summaryAt (s : State) (x : Subject) (l : LayerMap) (m : Nat) : List Byte :=
  let k := max 1 (summaryPer x)
  cellRead (tilePayload s x.handle (l.summary.getD (m / k) 0xFFFFFFFF)) (m % k * summaryEntry x) (summaryEntry x)

/-- All patch entries of a layer in their sequence. -/
def layerEntries (s : State) (x : Subject) (l : LayerMap) : List (List Byte) :=
  l.patch.flatMap fun n => entriesIn 341 (cellRead (tilePayload s x.handle n) 0 payloadBytes)

/-- Place of a head-page in its layer's own sequence. -/
def headNo (x : Subject) (l : LayerMap) (page head : Nat) : Nat := (page - l.first) * x.kvHeads + head

/-- A head-page as its tiles hold it. -/
def headPage (s : State) (x : Subject) (l : LayerMap) (page head : Nat) : HeadPage :=
  let m := headNo x l page head
  patchesFrom (layerEntries s x l) page head
    { HeadPage.empty (storedDim x.dim) with codes := codesOf s x l m, scales := headScales s x l m }

/-- The subject and the map that hold a page of a session: its own, or those of the region it is attached to (R126). -/
def pageHome (s : State) (x : Subject) (layer page : Nat) : Subject × LayerMap :=
  match (pageOf (mapOf x layer) page).region with
  | none => (x, mapOf x layer)
  | some r =>
    match subjAny s r with
    | none => (x, mapOf x layer)
    | some y => (y, mapOf y layer)

/-- A stored group of a head-page is malformed (R156). Log 43 (DEDUCED). -/
def pageMalformed (s : State) (x : Subject) (layer page : Nat) : Bool :=
  let h := pageHome s x layer page
  (List.range x.kvHeads).any fun k =>
    let hp := headPage s h.1 h.2 page k
    (List.range (2 * storedDim x.dim)).any fun g => malformed (subPair hp g)

/-- Pages with a malformed group are treated as ABSENT, with an event each (R156, R193). -/
def dropMalformed (s : State) (x : Subject) (layer : Nat) (pages : List Nat) : State :=
  pages.foldl (fun s p =>
    let r := (pageOf (mapOf x layer) p).region
    let owner := r.getD x.handle
    let s := { s with subjects := s.subjects.map fun y =>
        if y.handle = owner then setMap y layer (absentIn (mapOf y layer) none [p])
        else if y.kind = .session then setMap y layer (absentIn (mapOf y layer) (some owner) [p])
        else y }
    touchMap (event s 0x0104 0 x.keySlot x.handle 0 [layer, p]) owner) s

/-- A page of a layer's own sequence holds groups that were lowered (R162). -/
def pageLowered (s : State) (x : Subject) (l : LayerMap) (page : Nat) : Bool :=
  (List.range x.kvHeads).any fun h =>
    (tileOf s x.handle (l.code.getD (headNo x l page h / (max 1 (codePer x))) 0xFFFFFFFF)).any fun t =>
      t.lowered && !decide (page ∈ t.refiled)

/-! ### Filing one page of one layer -/

/-- Numbers in use, to which each newly taken one is added. -/
def takeNumber (used : List Nat) : Nat × List Nat :=
  let n := lowestFree used.length 0x2000 used
  (n, n :: used)

/-- Numbers for the places of a sequence: those it has, then newly taken ones. -/
def numberPlaces (old : List Nat) : List Nat → List Nat → List (Nat × Nat) × List Nat
  | [], used => ([], used)
  | i :: t, used =>
    match old[i]? with
    | some n => let r := numberPlaces old t used; ((i, n) :: r.1, r.2)
    | none => let n := takeNumber used; let r := numberPlaces old t n.2; ((i, n.1) :: r.1, r.2)

/-- What filing a page of a layer comes to: tiles, numbers freed, effects, numbers in use, counts of groups. -/
structure LayerOut where
  tiles : List Tile
  effects : List Effect
  used : List Nat
  groups : Nat
  patched : Nat
  overflow : Nat
deriving DecidableEq, Repr

/-- Places that a page touches in a sequence of `per` head-pages; every place where the sequence begins anew. -/
def touched (x : Subject) (first page per last : Nat) (all : Bool) : List Nat :=
  let lo := (page - first) * x.kvHeads / per
  let hi := ((page - first) * x.kvHeads + x.kvHeads - 1) / per
  if all then List.range (((last - first) * x.kvHeads + x.kvHeads - 1) / per + 1)
  else (List.range (hi + 1 - lo)).map (lo + ·)

/-- The payload of place `i` of a sequence: each slot from the page filed, or as it was. -/
def slotBytes (x : Subject) (first page per size i : Nat) (new old : Nat → Nat → List Byte) : List Byte :=
  (List.range per).flatMap fun k =>
    let m := i * per + k
    let q := first + m / max 1 x.kvHeads
    let h := m % max 1 x.kvHeads
    slice (if q = page then new page h else old q h) 0 size

/-- A KV tile of a sequence (R68). Log 166 (DEDUCED). -/
def kvTile (x : Subject) (kind format layer number count first : Nat) (b : List Byte) : Tile :=
  { blankTile x.handle number x.keySlot with
    kind := kind, format := format, layer := layer, count := count, first := first, durable := hasOption x 0 || x.kind == .shared
    payload := cellsOf b }

/-- The marks of a code tile by its pages: LOWERED while one of them is, with the others noted (R162). -/
def withMarks (ps : List (Nat × Bool)) (t : Tile) : Tile :=
  if ps.any (·.2) then { t with lowered := true, refiled := (ps.filter fun e => !e.2).map (·.1) } else t

/-- The tile of a packing that holds the first entry of a page. -/
def tileOfPage (packed : List (List (List Byte))) (page : Nat) : Option Nat :=
  packed.findIdx? fun t => t.any fun e => entryPage e == page

/-- Write head-pages as page `page` of a layer: all tiles that change (R71 to R75). The map keeps its first page, or begins at
an attached page that is filed again. A code tile stays LOWERED while a page in it holds lowered groups: `low` says whether the page that
is written does (R162). Log 37 (DEDUCED). -/
def writePage (s : State) (x : Subject) (layer page valid : Nat) (low : Bool) (hps : List HeadPage) (used : List Nat) : LayerOut :=
  let l := mapOf x layer
  let dp := storedDim x.dim
  let hn := x.kvHeads
  let started := !l.code.isEmpty
  let first := if started then min l.first page else max l.first (if (l.pages.any fun g => g.region.isSome) then min page l.first else l.first)
  let moved := started && first != l.first
  let last := max page (l.pages.length - 1)
  let own := fun q => decide (l.first ≤ q) && q != page && (pageOf l q).state != 0 && (pageOf l q).region.isNone
  let hp := fun h => hps.getD h (HeadPage.empty dp)
  let c := max 1 (codePer x)
  let sc := max 1 (scalePer x)
  let sm := max 1 (summaryPer x)
  let held := fun per i => min per ((last + 1 - first) * hn - i * per)
  let cp := numberPlaces (if moved then [] else l.code) (touched x first page c last moved) used
  let sp := numberPlaces (if moved then [] else l.scale) (touched x first page sc last moved) cp.2
  let mp := numberPlaces (if moved then [] else l.summary) (touched x first page sm last moved) sp.2
  let marked := fun i => (List.range (last + 1 - first)).filterMap fun k =>
    let q := first + k
    if i * c < (k + 1) * hn ∧ k * hn < (i + 1) * c then some (q, if q = page then low else own q && pageLowered s x l q) else none
  let codeTiles := cp.1.map fun e => withMarks (marked e.1) <| kvTile x 5 1 layer e.2 (held c e.1) (first * hn + e.1 * c)
    (slotBytes x first page c (32 * dp) e.1 (fun _ h => (hp h).codes)
      fun q h => if own q then codesOf s x l (headNo x l q h) else [])
  let scaleTiles := sp.1.map fun e => kvTile x 6 4 layer e.2 (held sc e.1) (first * hn + e.1 * sc)
    (slotBytes x first page sc (4 * dp) e.1 (fun _ h => (hp h).scales)
      fun q h => if own q then headScales s x l (headNo x l q h) else [])
  let sumTiles := mp.1.map fun e => kvTile x 7 3 layer e.2 (held sm e.1) (first * hn + e.1 * sm)
    (slotBytes x first page sm (summaryEntry x) e.1 (fun _ h => summaryOf (hp h) dp valid)
      fun q h => if own q then summaryAt s x l (headNo x l q h) else [])
  let oldEs := layerEntries s x l
  let newEs := (oldEs.filter fun e => decide (entryPage e < page)) ++
    ((List.range hn).flatMap fun h => patchEntries page h (hp h)) ++ oldEs.filter fun e => decide (page < entryPage e)
  let packed := packEntries newEs []
  let start := match tileOfPage (packEntries oldEs []) page, tileOfPage packed page with
    | some a, some b => min a b
    | some a, none => a
    | none, some b => b
    | none, none => packed.length
  let pp := numberPlaces l.patch ((List.range packed.length).drop start) mp.2
  let patchTiles := pp.1.map fun e =>
    kvTile x 8 0 layer e.2 (packed.getD e.1 []).length e.1 (packed.getD e.1 []).flatten
  let patchNos := l.patch.take (min start packed.length) ++ pp.1.map (·.2)
  let gone := (l.patch.drop packed.length) ++ (if moved then l.code ++ l.scale ++ l.summary else [])
  { tiles := codeTiles ++ scaleTiles ++ sumTiles ++ patchTiles
    effects := .seqs x.handle layer first cp.1 sp.1 mp.1 patchNos :: .page x.handle layer page (if valid = 32 then 2 else 1) valid none ::
      gone.map fun n => .dropTile x.handle n
    used := pp.2, groups := 0, patched := 0, overflow := 0 }

/-- The policy of a key slot (R163). -/
def policyOf (s : State) (slot : Nat) : Policy :=
  { keyThr := regGet s .stoQpolKeyThr slot, valThr := regGet s .stoQpolValThr slot,
    outMax := regGet s .stoQpolOutlierMax slot, outRatio := regGet s .stoQpolOutlierRatio slot }

/-- Row width of a source (R182). -/
def rowBytes (fmt dp : Nat) : Nat := fmtBytes fmt dp

/-- Bytes of a source for `t` tokens and `n` layers (R182). -/
def sourceBytes (x : Subject) (fmt t n : Nat) : Nat := n * (2 * t * x.kvHeads * rowBytes fmt (storedDim x.dim))

/-- A row of a source: numbers of the real channels, padding 0; `none` where one is not finite (R153, R182). -/
def rowAt (x : Subject) (fmt tn : Nat) (b : List Byte) (i : Nat) (val : Bool) (t h : Nat) : Option (List Int) :=
  let dp := storedDim x.dim
  let w := rowBytes fmt dp
  let off := i * (2 * tn * x.kvHeads * w) + (if val then tn * x.kvHeads * w else 0) + (t * x.kvHeads + h) * w
  (List.range dp).foldr (fun c acc =>
    match acc, (if c < x.dim then fmtVal fmt b off c else some 0) with
    | some l, some v => some (v :: l)
    | _, _ => none) (some [])

/-- The first non-finite row of a source: layer place, token, head (R153). -/
def badRow (x : Subject) (fmt tn n : Nat) (b : List Byte) : Option (Nat × Nat × Nat) :=
  ((List.range (n * tn * x.kvHeads)).find? fun k =>
    let i := k / (tn * x.kvHeads)
    let t := k / x.kvHeads % tn
    let h := k % x.kvHeads
    (rowAt x fmt tn b i false t h).isNone || (rowAt x fmt tn b i true t h).isNone).map
    fun k => (k / (tn * x.kvHeads), k / x.kvHeads % tn, k % x.kvHeads)

/-- File tokens `v` to `v + tn - 1` of a page of one layer from place `i` of a source. A page that keeps filed tokens keeps their mark.
Log 36 (DESIGN CHOICE). Log 166 (DEDUCED). -/
def fileLayer (s : State) (w : Work) (x : Subject) (layer page v tn : Nat) (fmt : Nat) (b : List Byte) (i : Nat)
    (used : List Nat) : LayerOut :=
  let l := mapOf x layer
  let pol := policyOf s w.hdr.keySlot
  let prot := fun t => decide (32 * page + t < 4) || decide (32 * page + t ∈ w.globals)
  let fs := (List.range x.kvHeads).map fun h =>
    let old := if v = 0 then HeadPage.empty (storedDim x.dim) else headPage s x l page h
    let rows := fun val => (List.range tn).map fun t => (rowAt x fmt tn b i val t h).getD []
    fileHead x.dim (storedDim x.dim) pol (v == 0) v prot (rows false) (rows true) old
  let o := writePage s x layer page (v + tn) (v != 0 && pageLowered s x l page) (fs.map (·.page)) used
  { o with groups := (fs.map (·.groups)).sum, patched := (fs.map (·.patched)).sum, overflow := (fs.map (·.overflow)).sum }

/-- File a page in several layers, each from its place in the source. -/
def fileLayers (s : State) (w : Work) (x : Subject) (page v tn fmt : Nat) (b : List Byte) :
    List (Nat × Nat) → List Nat → LayerOut
  | [], used => { tiles := [], effects := [], used := used, groups := 0, patched := 0, overflow := 0 }
  | (layer, i) :: t, used =>
    let a := fileLayer s w x layer page v tn fmt b i used
    let r := fileLayers s w x page v tn fmt b t a.used
    { tiles := a.tiles ++ r.tiles, effects := a.effects ++ r.effects, used := r.used, groups := a.groups + r.groups,
      patched := a.patched + r.patched, overflow := a.overflow + r.overflow }

/-- SX2 code tiles that a page touches are raised first (R106). -/
def expandFor (s : State) (x : Subject) (layers : List Nat) (page : Nat) : State :=
  layers.foldl (fun s layer =>
    let l := mapOf ((subjAny s x.handle).getD x) layer
    if page < l.first then
      l.code.foldl (fun s n => match tileOf s x.handle n with
        | some t => if t.format = 2 then expandPair s t else s
        | none => s) s
    else
      (touched x l.first page (max 1 (codePer x)) page false).foldl (fun s i =>
        match tileOf s x.handle (l.code.getD i 0xFFFFFFFF) with
        | some t => if t.format = 2 then expandPair s t else s
        | none => s) s) s

/-- A code tile that a page touches is still SX2: no room to raise it. -/
def stillLowered (s : State) (x : Subject) (layers : List Nat) (page : Nat) : Bool :=
  layers.any fun layer =>
    let l := mapOf x layer
    (touched x l.first page (max 1 (codePer x)) page false).any fun i =>
      (tileOf s x.handle (l.code.getD i 0xFFFFFFFF)).any fun t => t.format == 2

/-- Other work has written pages of a layer of the session and is not yet completed (R77). Log 39 (DEDUCED). -/
def layerBusy (s : State) (w : Work) (h : Nat) (layers : List Nat) : Bool :=
  s.work.any fun x => x.id != w.id && x.effects.any fun e =>
    match e with
    | .seqs y l _ _ _ _ _ => y == h && decide (l ∈ layers)
    | _ => false

/-- The tiles that filing a page of some layers reads: those with a place that the page touches, and the layers' patches (R73, R75). -/
def filingTiles (s : State) (x : Subject) (layers : List Nat) (page : Nat) : List Tile :=
  layers.flatMap fun k =>
    let l := mapOf x k
    let at_ := fun (seq : List Nat) (per : Nat) =>
      if page < l.first then seq else (touched x l.first page (max 1 per) page false).filterMap (seq[·]?)
    (at_ l.code (codePer x) ++ at_ l.scale (scalePer x) ++ at_ l.summary (summaryPer x) ++ l.patch).filterMap (tileOf s x.handle)

/-- Lodged tiles that filing a page of some layers reads, asked of their holder (R352). -/
def lodgedOf (s : State) (x : Subject) (layers : List Nat) (page : Nat) : List Tile :=
  (filingTiles s x layers page).filter (·.lodged.isSome)

/-- Count what an ingest has filed (R158, R489). -/
def countFiled (s : State) (w : Work) (x : Subject) (o : LayerOut) : State :=
  let s := if o.overflow = 0 then s else countReg s .stoQstatOverflow 0 o.overflow
  countAll (countAll s 7 0xFF x.homeBed 0xFFFF w.hdr.keySlot 0xFFFF o.groups) 8 0xFF x.homeBed 0xFFFF w.hdr.keySlot 0xFFFF
    o.patched

/-- File a page of several layers, but for those lost, from a source that has been read, and end the work. -/
def ingestEnd (s : State) (w : Work) (x : Subject) (layers lost : List Nat) (page v tn fmt : Nat) (b : List Byte)
    (status : Nat) (result : List Byte) (extra : List Effect) : State :=
  match badRow x fmt tn layers.length b with
  | some (i, t, h) => fail (workEvent s w 0x0105 [layers.getD i 0, page, h, v + t]) w.id stBad
  | none =>
    let s := expandFor s x layers page
    match subjAny s x.handle with
    | none => s
    | some x =>
      if stillLowered s x layers page then fail s w.id stNoSpace
      else
        let places := ((List.range layers.length).map fun i => (layers.getD i 0, i)).filter fun e => !(e.1 ∈ lost)
        let o := fileLayers s w x page v tn fmt b places (usedNumbers s x.handle)
        if o.used.any (fun n => decide (0xFFFFFF < n)) then fail s w.id stNoSpace
        else conclude (countFiled s w x o) w status result (o.tiles ++ headTiles x) (o.effects ++ extra)

/-! ### KV_INGEST (R181, R184, R185) -/

/-- The checks of the session that KV_INGEST and FAR_ATTN share (R188 checks 1 to 3). -/
def farChks (x : Subject) (change : Bool) : List Chk :=
  [chk (isSession x) stBad, chk (x.state != 5) stPoisoned, chk (x.state != 2 && !(change && isOffered x)) stConflict]

/-- Layers of the range of a KV_INGEST. -/
def ingestLayers (w : Work) : List Nat := (List.range (opr w 22 2)).map (opr w 20 2 + ·)

/-- The fields of FILE and COMPLETE (R181, R184 check 1). -/
def ingestFields (x : Subject) (w : Work) : Bool :=
  decide (opr w 24 1 ≤ 3) && opr w 8 8 != 0 && opr w 8 8 % 64 == 0 && decide (1 ≤ opr w 22 2) && decide (opr w 22 2 ≤ 256) &&
    decide (opr w 20 2 + opr w 22 2 ≤ x.layers) && decide (0x10 ≤ opr w 25 1) && decide (opr w 25 1 ≤ 0x16) &&
    reservedClear w [(0, 26)] && decide (32 * (opr w 16 4 + 1) ≤ x.log.length)

/-- Pages below `p` are FILED or ABSENT in a layer (R76). -/
def filedBelow (l : LayerMap) (p : Nat) : Bool :=
  (List.range p).all fun q => (pageOf l q).state == 2 || (pageOf l q).state == 3

/-- A fabric operand lies in memory of a kind: 0 a host's, 1 accelerator memory (R302). One that lies nowhere fails its reach.
Log 167 (DEDUCED). -/
def inKind (s : State) (a : Addr) (len kind : Nat) : Bool :=
  match a with
  | .fabric f => (amapEntry s f len).all fun i => regGet s .cxlAmapKind i == kind
  | _ => true

/-- The checks of an operand in accelerator memory or the State Range, after the opcode's own (R181, R302). -/
def nearChks (s : State) (w : Work) (a : Addr) (len : Nat) (write : Bool) : List Chk :=
  [chk (inKind s a len 1) stBad, reachChk s w a len write]

/-- A work waits, its own checks behind it: `v` valid tokens were found. -/
def ingestWaits (s : State) (w : Work) (v : Nat) : State := updWork s w.id fun y => { y with tally := [v] }

/-- Layers whose partial page holds a malformed group (R156). -/
def badPartial (s : State) (x : Subject) (layers : List Nat) (page v : Nat) : List Nat :=
  if v = 0 then [] else layers.filter fun k => pageMalformed s x k page

/-- Read the source and file (R169). A partial page that a malformed group makes ABSENT ends COMPLETE in CONFLICT (R184). -/
def ingestWith (s : State) (w : Work) (x : Subject) (src : Fetch) (v : Nat) : State :=
  let layers := ingestLayers w
  let fmt := opr w 25 1
  let tn := 32 - v
  let len := sourceBytes x fmt tn layers.length
  let a := addrOf (opr w 8 8)
  checked s w (nearChks s w a len false) fun s =>
    let s := ingestWaits s w v
    let bad := badPartial s x layers (opr w 16 4) v
    if layerBusy s w x.handle layers then s
    else fetched s w (lodgedOf s x layers (opr w 16 4) ++ operandLodged s a len) fun s =>
    if !bad.isEmpty then fail (bad.foldl (fun s k => dropMalformed s x k [opr w 16 4]) s) w.id stConflict
    else shaped s w (moveBytes s a len + farBytes (filingTiles s x layers (opr w 16 4))) 0 fun s => withOperand s w a len false src fun s b =>
      ingestEnd s w x layers [] (opr w 16 4) v tn fmt b stDone [] []

/-- The checks of MODE FILE (R183, R184). -/
def fileChks (x : Subject) (w : Work) : List Chk :=
  let p := opr w 16 4
  let ls := (ingestLayers w).map (mapOf x)
  farChks x true ++
    [chk (opr w 24 1 == 0 && ingestFields x w) stBad, chk (ls.all fun l => filedBelow l p) stBad,
     chk (ls.all fun l => (pageOf l p).state != 2) stConflict]

/-- KV_INGEST with MODE FILE. -/
def runFile (src : Fetch) (s : State) (w : Work) : State :=
  withSubject s w fun x =>
    checked s w (fileChks x w) fun s => ingestWith s w x src 0

/-- KV_INGEST FILE (R184). -/
def execKvIngestFile (work : Nat) (src : Fetch) (s : State) : Host.Outcome State Fault Refusal :=
  act s <| runWork work (isFirstMode 0x10 24 4) (durably (runFile src))

/-- Valid tokens of the page that MODE COMPLETE completes: in the first layer of its range, as found when it was checked. -/
def completeValid (x : Subject) (w : Work) : Nat :=
  w.tally.headD (((((ingestLayers w).map (mapOf x)).head?).map fun l => (pageOf l (opr w 16 4)).valid).getD 0)

/-- The checks of MODE COMPLETE (R184): a page that changes while it waits makes it CONFLICT (R77). -/
def completeChks (x : Subject) (w : Work) : List Chk :=
  let p := opr w 16 4
  farChks x true ++
    [chk (ingestFields x w) stBad,
     chk (((ingestLayers w).map (mapOf x)).all fun l => (pageOf l p).state == 1 && (pageOf l p).valid == completeValid x w)
       (if w.tally.isEmpty then stBad else stConflict)]

/-- KV_INGEST with MODE COMPLETE. -/
def runComplete (src : Fetch) (s : State) (w : Work) : State :=
  withSubject s w fun x =>
    checked s w (completeChks x w) fun s => ingestWith s w x src (completeValid x w)

/-- KV_INGEST COMPLETE (R184). -/
def execKvIngestComplete (work : Nat) (src : Fetch) (s : State) : Host.Outcome State Fault Refusal :=
  act s <| runWork work (isMode 0x10 24 1) (durably (runComplete src))

/-- Change the registered global positions (R185): a new version of HEAD. -/
def setGlobals (s : State) (w : Work) (x : Subject) (g : List Nat) : State :=
  conclude s w stDone [] (headTiles x) [.globals x.handle g]

/-- The global set with the positions of REGISTER (R185). -/
def registered (x : Subject) (w : Work) : List Nat := (unpackNats 4 (opr w 26 1) w.ops 32).foldl (fun l p => insNat p l) x.globals

/-- The checks of MODE REGISTER (R185). -/
def registerChks (x : Subject) (w : Work) : List Chk :=
  let n := opr w 26 1
  farChks x true ++
    [chk (decide (1 ≤ n) && decide (n ≤ 8) && opr w 8 8 == 0 && reservedClear w [(0, 8), (24, 1), (26, 1), (32, 4 * n)]) stBad,
     chk (decide ((registered x w).length ≤ 64)) stBad]

/-- Other work is about to change the registered positions of a session. -/
def globalsBusy (s : State) (w : Work) (h : Nat) : Bool :=
  s.work.any fun x => x.id != w.id && x.effects.any fun e =>
    match e with
    | .globals y _ => y == h
    | _ => false

/-- KV_INGEST with MODE REGISTER: one change of the positions after another. -/
def runRegister (s : State) (w : Work) : State :=
  withSubject s w fun x =>
    if globalsBusy s w x.handle then s else checked s w (registerChks x w) fun s => setGlobals s w x (registered x w)

/-- KV_INGEST REGISTER (R185). -/
def execKvIngestRegister (work : Nat) (s : State) : Host.Outcome State Fault Refusal :=
  act s <| runWork work (isMode 0x10 24 2) (durably runRegister)

/-- The checks of MODE CLEAR (R185). -/
def clearChks (x : Subject) (w : Work) : List Chk := farChks x true ++ [chk (reservedClear w [(0, 8), (24, 1)]) stBad]

/-- KV_INGEST with MODE CLEAR. -/
def runClear (s : State) (w : Work) : State :=
  withSubject s w fun x =>
    if globalsBusy s w x.handle then s else checked s w (clearChks x w) fun s => setGlobals s w x []

/-- KV_INGEST CLEAR (R185). -/
def execKvIngestClear (work : Nat) (s : State) : Host.Outcome State Fault Refusal :=
  act s <| runWork work (isMode 0x10 24 3) (durably runClear)

end Sys2Proof.Machine
end

