-- ==== Sys2Proof/Machine/Attend.lean ====
section
/-! DEFINITION. The arithmetic of one attention head (R167, R173 to R178): exact sums over the stored values, in fixed point,
and what FP32 rounding leaves open around them. -/

namespace Sys2Proof.Machine

/-! ### Fixed point -/

/-- A real number in units of 2^-200. -/
abbrev Fx := Int

/-- One. -/
def fxOne : Fx := 2 ^ 200

/-- A number in units of 2^-149 as a fixed-point number. -/
def fxOf (v : Int) : Fx := v * 2 ^ 51

/-- A product. -/
def fxMul (a b : Fx) : Fx := a * b / 2 ^ 200

/-- A quotient, 0 where the divisor is 0. -/
def fxDiv (a b : Fx) : Fx := a * 2 ^ 200 / b

/-- The whole square root of a number, bit by bit from bit `k - 1` down. -/
def rootFrom : Nat → Nat → Nat → Nat
  | 0, r, _ => r
  | k + 1, r, n => if (r + 2 ^ k) * (r + 2 ^ k) ≤ n then rootFrom k (r + 2 ^ k) n else rootFrom k r n

/-- The Euclidean norm of numbers in units of 2^-149. -/
def fxNorm (xs : List Int) : Fx :=
  let n := norm2 xs * 2 ^ 102
  rootFrom (bitLen n / 2 + 1) 0 n

/-- The square root of a fixed-point number that is not negative. -/
def fxRoot (a : Fx) : Fx := let n := a.toNat * 2 ^ 200; rootFrom (bitLen n / 2 + 1) 0 n

/-- The natural logarithm of 2, by its series. -/
def fxLn2 : Fx := ((List.range 200).map fun i => fxOne / (2 ^ (i + 1) * (i + 1 : Nat))).sum

/-- The first terms of the series of the exponential, from term `n` upward. -/
def expTerms : Nat → Nat → Fx → Fx → Fx
  | 0, _, _, _ => 0
  | k + 1, n, r, term => term + expTerms k (n + 1) r (fxMul term r / (n + 1 : Nat))

/-- The exponential. -/
def fxExp (x : Fx) : Fx :=
  let k := x / fxLn2
  let e := expTerms 44 0 (x - k * fxLn2) fxOne
  if k < 0 then e / 2 ^ k.natAbs else e * 2 ^ k.natAbs

/-! ### What rounding leaves open (R173 to R175) -/

/-- The FP32 pattern of a fixed-point number. -/
def fxFp (a : Fx) : Nat := fpRound a 51

/-- The relative rounding of a sum of `n` terms in FP32, in any order, as a part of `a`. Log 168 (DESIGN CHOICE). -/
def fxRel (n : Nat) (a : Fx) : Fx := a * (n + 64 : Nat) / 2 ^ 22

/-! ### Relative errors (R167) -/

/-- The relative error of a group, as a fraction: of a patched one, of an SX4 one by its class, of one in a LOWERED tile (R167). -/
def groupError (patched lowered : Bool) (q : Nat) : Nat × Nat :=
  let b := 2 ^ (5 - q)
  if patched then (63, 1000) else if lowered then (b + 3, 2 * b) else (1, b)

/-- The error class of a group, by the error bits of its sub-scales (R167). -/
def groupClass (p : Nat × Nat) : Nat := 2 * (p.2 / 128) + p.1 / 128

/-- The quotient r / (1 - r) of a relative error, as a fraction. -/
def errorRatio (r : Nat × Nat) : Nat × Nat := (r.1, r.2 - r.1)

/-- A part of a number. -/
def fxPart (a : Fx) (p : Nat × Nat) : Fx := a * (p.1 : Nat) / (p.2 : Nat)

/-! ### One position -/

/-- A position as a head attends to it: stored key and value, and the error of each of their groups. -/
structure Attended where
  key : List Int
  val : List Int
  keyErr : List (Nat × Nat)
  valErr : List (Nat × Nat)
deriving DecidableEq, Repr

/-- The errors of the key or value groups of a token. -/
def tokenErrors (hp : HeadPage) (dp : Nat) (low val : Bool) (t : Nat) : List (Nat × Nat) :=
  (List.range (dp / 32)).map fun g =>
    let p := subPair hp (groupNo dp val t g)
    groupError (isPatched p) low (groupClass p)

/-- Token `t` of a head-page. -/
def attendedAt (hp : HeadPage) (dp : Nat) (low : Bool) (t : Nat) : Attended :=
  { key := (List.range dp).map fun c => kvAt hp dp false t c, val := (List.range dp).map fun c => kvAt hp dp true t c
    keyErr := tokenErrors hp dp low false t, valErr := tokenErrors hp dp low true t }

/-- A group of a vector. -/
def groupOf (xs : List Int) (g : Nat) : List Int := (xs.drop (32 * g)).take 32

/-- The products of a query and a key, in units of 2^-298. -/
def products (q k : List Int) : List Int := List.zipWith (· * ·) q k

/-- A logit (R176): the softmax scale times a sum of products. -/
def logit (sigma : Fx) (ps : List Int) : Fx := sigma * ps.sum / 2 ^ 298

/-- How far a logit may move by the errors of its key's groups and of a query rounded from FP32 (R176). -/
def logitShift (sigma : Fx) (fp32 : Bool) (q : List Int) (a : Attended) : Fx :=
  ((List.range a.keyErr.length).map fun g =>
    let p := errorRatio (a.keyErr.getD g (0, 1))
    let part := if fp32 then (256 * p.1 + p.1 + p.2, 256 * p.2) else p
    fxPart (fxMul sigma (fxMul (fxNorm (groupOf q g)) (fxNorm (groupOf a.key g)))) part).sum

/-- The error of a value by the errors of its groups (R176). -/
def valueError (a : Attended) : Fx :=
  let e := (List.range a.valErr.length).map fun g => fxPart (fxNorm (groupOf a.val g)) (errorRatio (a.valErr.getD g (0, 1)))
  fxRoot ((e.map fun x => fxMul x x).sum)

/-! ### One head -/

/-- What a head's attention comes to by exact arithmetic: largest logit, sum of exponentials, output, bound, dmax, how far rounding can
move a logit, the norms that scale the rounding of the rest, the largest magnitude of a logit. -/
structure HeadSum where
  m : Fx
  l : Fx
  out : List Fx
  bound : Fx
  dmax : Fx
  slack : Fx
  spread : Fx
  peak : Fx
deriving DecidableEq, Repr

/-- Attention of a query over positions, none of them left out (R174, R176). -/
def attendHead (sigma : Fx) (fp32 : Bool) (q : List Int) (ps : List Attended) : HeadSum :=
  let prods := ps.map fun a => products q a.key
  let s := prods.map (logit sigma)
  let m := s.foldl max (s.headD 0)
  let p := s.map fun x => fxExp (x - m)
  let l := p.sum
  let avg := fun xs : List Fx => fxDiv ((List.zipWith fxMul p xs).sum) l
  let out := (List.range q.length).map fun c => avg (ps.map fun a => fxOf (a.val.getD c 0))
  let a := avg (ps.map valueError)
  let n := avg (ps.map fun x => fxNorm x.val)
  let dmax := (ps.map (logitShift sigma fp32 q)).foldl max 0
  let o := fxRoot ((out.map fun x => fxMul x x).sum)
  -- beyond this the exponential has no FP32 value, and the head is not finite
  let e := if dmax ≤ 50 * fxOne then fxExp (2 * dmax) else 2 ^ 400
  { m := m, l := l, out := out, bound := fxMul e a + fxMul (e - fxOne) (n + o), dmax := dmax
    slack := (prods.map fun x => fxRel q.length (logit sigma (x.map fun v => (v.natAbs : Int)))).foldl max 0
    spread := n + o, peak := s.foldl (fun a x => max a (x.natAbs : Int)) 0 }

/-- The largest finite FP32 number. -/
def fxMax : Fx := fxOf (fpVal fpMax)

/-- Numbers whose squares and sums no FP32 computation of a head can take beyond the format. -/
def fxMild : Fx := 2 ^ 259

/-- Every FP32 quantity of a head is finite, in whatever order it is computed (R178). -/
def surelyFinite (sigma : Fx) (q : List Int) (ps : List Attended) (h : HeadSum) : Bool :=
  decide (2 * h.dmax ≤ 88 * fxOne) && decide (h.bound ≤ fxMax / 2) && decide (sigma ≤ fxMild) && decide (fxNorm q ≤ fxMild) &&
    ps.all fun a => decide (fxNorm a.key ≤ fxMild) && decide (fxNorm a.val ≤ fxMild)

/-- Some FP32 quantity of a head is not finite, in whatever order it is computed (R178). -/
def surelyInfinite (h : HeadSum) : Bool :=
  decide (2 * fxMax ≤ h.peak) || decide (90 * fxOne ≤ 2 * h.dmax) || (decide (2 * fxMax ≤ h.bound) && decide (8 * h.slack < fxOne))

/-- The part of `a` by which rounding can move what the weights of `n` positions average: none for one position, whose weight is 1. -/
def weightPart (n : Nat) (h : HeadSum) (a : Fx) : Fx :=
  if n ≤ 1 then 0
  else if 8 * h.slack < fxOne then 4 * fxMul h.slack a + fxRel n a
  else if h.slack ≤ 40 * fxOne then fxMul (fxExp (4 * h.slack)) a
  else 2 ^ 330

/-- M, L, BOUND and DMAX of a head as FP32 arithmetic may give them: within rounding of the exact ones (R175, R176). -/
def headFields (n : Nat) (key : List Nat) (count : Nat) (h : HeadSum) : Nat × Nat × Nat × Nat :=
  let e := fxExp (2 * h.dmax)
  let d := drift n (3 :: key) (fxRel count h.dmax)
  let b := weightPart count h h.bound + fxRel count h.bound + fxMul (fxRel count (fxMul e (fxOne + 4 * h.dmax))) h.spread +
    fxMul (e - fxOne) (weightPart count h h.spread)
  (fxFp (h.m + drift n (0 :: key) (h.slack + fxRel 0 h.m.natAbs)), fxFp (max 0 (h.l + drift n (1 :: key) (weightPart count h h.l))),
   fxFp (max 0 (h.bound + drift n (2 :: key) b)), fxFp (max 0 (h.dmax + d)))

/-- An output vector as FP32 arithmetic may give it, in the output format: an element moves with the weights by a part of the values'
spread (R154, R175). -/
def headOut (n : Nat) (key : List Nat) (count fmt d : Nat) (h : HeadSum) : List Byte :=
  let e := 2 * weightPart count h h.spread
  (List.range d).flatMap fun c =>
    let v := fxFp (h.out.getD c 0 + drift n (4 :: c :: key) e)
    if fmt = 0x10 then leBytes 4 v else leBytes 2 (bfRound v)

end Sys2Proof.Machine
end

