-- ==== Sys2Proof/Machine/FarAttn.lean ====
section
/-! DEFINITION. FAR_ATTN (ch. 7): its checks, the watch of ready words, selection, records, and the layers one by one. -/

namespace Sys2Proof.Machine

/-! ### Fields (R186 to R188) -/

/-- Query heads of a session (R187). -/
def queryHeads (x : Subject) : Nat := x.kvHeads * x.ratio

/-- The descriptor is STREAMED, or STRICT. -/
def isStreamed (w : Work) : Bool := bit (opr w 62 1) 0
def isStrict (w : Work) : Bool := bit (opr w 62 1) 1

/-- Layers, query tokens and FAR_END of a FAR_ATTN. -/
def farLayers (w : Work) : Nat := opr w 50 2
def farQueries (w : Work) : Nat := opr w 52 2
def farEnd (w : Work) : Nat := opr w 32 4

/-- The field checks of FAR_ATTN (R186, R188 check 4). -/
def farFields (x : Subject) (w : Work) : Bool :=
  let pol := opr w 58 1
  let par := opr w 54 2
  let pha := opr w 56 2
  opr w 8 8 != 0 && opr w 8 8 % 64 == 0 && opr w 16 8 != 0 && opr w 16 8 % 64 == 0 && opr w 24 8 % 64 == 0 &&
    decide (farEnd w ≤ x.log.length) && fpFinite (opr w 36 4) && !bit (opr w 36 4) 31 && fpFinite (opr w 40 4) &&
    !bit (opr w 40 4) 31 && decide (1 ≤ farLayers w) && decide (farLayers w ≤ 256) &&
    decide (opr w 48 2 + farLayers w ≤ x.layers) && decide (1 ≤ farQueries w) && decide (farQueries w ≤ 512) &&
    decide (pol ≤ 2) &&
    (if pol = 0 then par == 0 && opr w 59 1 == 0 else if pol = 1 then decide (1 ≤ par) && decide (par ≤ 512)
     else decide (2 ≤ par) && decide (par ≤ 1024) && decide (pha < par)) &&
    (pol == 2 || pha == 0) && decide (opr w 59 1 ≤ 64) && decide (0x10 ≤ opr w 60 1) && decide (opr w 60 1 ≤ 0x16) &&
    (opr w 61 1 == 0x10 || opr w 61 1 == 0x11) && bits (opr w 62 1) 7 2 == 0 && opr w 63 1 == 0 &&
    decide (farQueries w * queryHeads x ≤ 32768)

/-- The checks of R188 once the session is found. -/
def farAllChks (x : Subject) (w : Work) : List Chk :=
  farChks x false ++
    [chk (farFields x w) stBad, chk ((opr w 24 8 != 0) == isStreamed w && (!isStreamed w || w.hdr.deadline != 0)) stBad]

/-- Bytes of OUT in a record (R194). -/
def outBytes (x : Subject) (w : Work) : Nat := roundUp (x.dim * (if opr w 61 1 = 0x10 then 4 else 2)) 16

/-- Bytes of a query row (R187). -/
def queryRow (x : Subject) (w : Work) : Nat := fmtBytes (opr w 60 1) (storedDim x.dim)

/-- Bytes of the query rows of a layer, and of its records. -/
def layerQueries (x : Subject) (w : Work) : Nat := farQueries w * queryHeads x * queryRow x w
def layerRecords (x : Subject) (w : Work) : Nat := farQueries w * queryHeads x * (outBytes x w + 32)

/-! ### Ready words (R197, R314) -/

/-- Lines that the device can watch (R314). -/
def watchLimit : Nat := 32768

/-- Lines of host memory that hold the ready words of a work. -/
def readyLines (w : Work) : List Nat :=
  if w.hdr.opcode == 0x11 && isStreamed w && inFlight w then
    match addrOf (opr w 24 8) with
    | .fabric a => (List.range ((a + 8 * farLayers w - 1) / 64 + 1 - a / 64)).map (a / 64 + ·)
    | _ => []
  else []

/-- Watch the ready lines of the work in flight, as many as find room; the others are polled (R314). -/
def tidyReady (s : State) : State :=
  let lines := (s.work.flatMap readyLines).dedup
  let kept := s.ledg.readyWatched.filter fun l => l ∈ lines
  let new := lines.filter fun l => !(l ∈ kept)
  let room := watchLimit - (s.ledg.watched.length + kept.length)
  { s with ledg := { s.ledg with
      readyWatched := kept ++ new.take room
      readyPolled := new.drop room
      readyWords := s.ledg.readyWords.filter fun e => e.1 / 64 ∈ lines } }

/-- The ready word of layer `i`: in the State Range as its tile holds it, in host memory as last read. -/
def readyWord (s : State) (w : Work) (i : Nat) : Option Nat :=
  match addrOf (opr w 24 8) with
  | .state off => some (leNat (shownBytes s (off + 8 * i) 8))
  | .fabric a => aget s.ledg.readyWords (a + 8 * i)
  | _ => none

/-- Layer `i` may begin: its word holds STAMP with DONE at 0 (R197). -/
def layerReady (s : State) (w : Work) (i : Nat) : Bool :=
  !isStreamed w || (readyWord s w i).any fun v => bits v 31 0 == opr w 44 4 && !bit v 32

/-- A ready word as the device now knows it. -/
def setReadyWord (s : State) (addr word : Nat) : State :=
  { s with ledg := { s.ledg with readyWords := aset s.ledg.readyWords addr (word % 2 ^ 64) } }

/-- READY_WORD_UPDATE (R197): a word of a watched line has a new value; the layer that waits on it may then begin. Log 42 (DEDUCED). -/
def execReadyWordUpdate (addr word : Nat) (s : State) : Host.Outcome State Fault Refusal :=
  act s <| whenRunning fun s =>
    if addr / 64 ∈ s.ledg.readyWatched ∧ addr % 8 = 0 then setReadyWord s addr word else s

/-- READY_LINE_POLL (R314): a line that found no watch room is read. -/
def execReadyLinePoll (addr : Nat) (line : Fetch) (s : State) : Host.Outcome State Fault Refusal :=
  act s <| whenRunning fun s =>
    match line with
    | .poison => s
    | .data b =>
      if addr / 64 ∈ s.ledg.readyPolled then
        (List.range 8).foldl (fun s i => setReadyWord s (addr / 64 * 64 + 8 * i) (field b (8 * i) 8)) s
      else s

/-! ### What is attended (R189 to R193) -/

/-- The far pages of a layer (R189). -/
def farPages (w : Work) : List Nat := List.range (ceilDiv (farEnd w) 32)

/-- Every position below FAR_END is filed, or lies in an ABSENT page (R189). -/
def allFiled (l : LayerMap) (w : Work) : Bool :=
  (farPages w).all fun p =>
    let g := pageOf l p
    g.state == 2 || g.state == 3 || (g.state == 1 && decide (farEnd w ≤ 32 * p + g.valid))

/-- The global set (R190). -/
def globalSet (w : Work) : List Nat := ([0, 1, 2, 3] ++ w.globals.filter fun p => decide (4 ≤ p)).filter fun p => decide (p < farEnd w)

/-- The recent pages. -/
def recentPages (w : Work) : List Nat := (farPages w).drop ((farPages w).length - opr w 59 1)

/-- A query row as it is used: FP32 is rounded to BF16 (R173); `none` where an element is not finite. -/
def queryAt (x : Subject) (w : Work) (b : List Byte) (t j : Nat) : Option (List Int) :=
  let off := (t * queryHeads x + j) * queryRow x w
  (List.range (storedDim x.dim)).foldr (fun c acc =>
    match acc, (if c < x.dim then fmtVal (opr w 60 1) b off c else some 0) with
    | some l, some v =>
      some ((if opr w 60 1 = 0x10 then fpVal (65536 * bfRound (field b (off + 4 * c) 4)) else v) :: l)
    | _, _ => none) (some [])

/-- The terms of the score of a page for one query head (R191). -/
def scoreTerms (sum : List Byte) (q : List Int) : List Int :=
  let n := q.length / 32
  (List.range q.length).map fun c =>
    let v := q.getD c 0
    max (v * sx8Val (slice sum (33 * (c / 32)) 33) (c % 32)) (v * sx8Val (slice sum (33 * (n + c / 32)) 33) (c % 32))

/-- How far a sum of terms in units of 2^-298 may lie from the exact one in FP32, accumulated in any order: not at all where every partial
sum fits; without limit where it may pass the format (R173, R192). -/
def sumSlack (ts : List Int) : Nat :=
  let a := (ts.map Int.natAbs).sum
  let g := ts.foldl (fun g t => Nat.gcd g t.natAbs) (2 ^ 700)
  if 2 ^ 425 ≤ a then 2 ^ 800 else if a < 2 ^ 24 * g ∧ 2 ^ 149 ≤ g then 0 else a * (ts.length + 64) / 2 ^ 22 + 2 ^ 152

/-- The score of a page for one query head, as FP32 may give it (R175, R191, R192). Log 41 (DESIGN CHOICE). -/
def headScore (free : Nat) (key : List Nat) (sum : List Byte) (q : List Int) : Int :=
  let ts := scoreTerms sum q
  ts.sum + drift free (5 :: key) (sumSlack ts)

/-- The best score of a page over query heads. -/
def pageScore (free : Nat) (key : List Nat) (sum : List Byte) (qs : List (List Int)) : Int :=
  match (List.range qs.length).map fun j => headScore free (j :: key) sum (qs.getD j []) with
  | [] => 0
  | h :: t => t.foldl max h

/-- The `k` pages of highest score, lower page first among equals. -/
def topPages (k : Nat) (scored : List (Nat × Int)) : List Nat :=
  let best := scored.foldl (fun m e => max m e.2) 0
  ((sortKey (fun e => (best - e.2).toNat) scored).take k).map (·.1)

/-- The chosen pages for a query token and KV head (R191). -/
def chosenPages (s : State) (x : Subject) (w : Work) (layer t head : Nat) (absent : List Nat) (qs : List (List Int)) : List Nat :=
  match opr w 58 1 with
  | 0 => farPages w
  | 1 =>
    let cand := (farPages w).filter fun p => !(p ∈ recentPages w) && !(p ∈ absent)
    let top := if qs.isEmpty then [] else topPages (opr w 54 2) (cand.map fun p =>
      let h := pageHome s x layer p
      (p, pageScore s.free [t, head, p] (summaryAt s h.1 h.2 (headNo h.1 h.2 p head)) qs))
    (farPages w).filter fun p => p ∈ recentPages w ∨ p ∈ top
  | _ => (farPages w).filter fun p => p ∈ recentPages w ∨ p % opr w 54 2 = opr w 56 2

/-- Positions that are attended: valid positions of the chosen pages and the global set, without ABSENT pages. -/
def attendedCount (w : Work) (chosen absent : List Nat) : Nat :=
  ((chosen.filter fun p => !(p ∈ absent)).map fun p => min 32 (farEnd w - 32 * p)).sum +
    ((globalSet w).filter fun g => !(g / 32 ∈ absent) && !(g / 32 ∈ chosen)).length

/-- Pages whose tokens are read for a choice. -/
def readPages (w : Work) (chosen absent : List Nat) : List Nat :=
  (farPages w).filter fun p => !(p ∈ absent) && (decide (p ∈ chosen) || (globalSet w).any fun g => g / 32 == p)

/-- Whether absent pages affect a record (R193). -/
def absentAffects (w : Work) (chosen absent : List Nat) : Bool :=
  if opr w 58 1 = 2 then absent.any fun p => decide (p ∈ chosen) || (globalSet w).any fun g => g / 32 == p
  else !absent.isEmpty

/-! ### Tiles that a layer reads -/

/-- Code, scale and patch tiles of a page of a session (R71 to R74). -/
def pageTiles (s : State) (x : Subject) (layer page : Nat) : List (Nat × Nat) :=
  let h := pageHome s x layer page
  let y := h.1
  let l := h.2
  let c := (touched y l.first page (max 1 (codePer y)) page false).map fun i => l.code.getD i 0xFFFFFFFF
  let sc := (touched y l.first page (max 1 (scalePer y)) page false).map fun i => l.scale.getD i 0xFFFFFFFF
  let pt := l.patch.filter fun n =>
    (entriesIn 341 (cellRead (tilePayload s y.handle n) 0 payloadBytes)).any fun e => entryPage e == page
  (c ++ sc ++ pt).map fun n => (y.handle, n)

/-- Summary tiles of a page of a session. -/
def pageSummaries (s : State) (x : Subject) (layer page : Nat) : List (Nat × Nat) :=
  let h := pageHome s x layer page
  (touched h.1 h.2.first page (max 1 (summaryPer h.1)) page false).map fun i => (h.1.handle, h.2.summary.getD i 0xFFFFFFFF)

/-! ### Records (R176, R178, R194, R195) -/

/-- The softmax scale (R186). -/
def farScale (x : Subject) (w : Work) : Fx :=
  if opr w 36 4 = 0 then fxDiv fxOne (fxRoot (x.dim * fxOne)) else fxOf (fpVal (opr w 36 4))

/-- Tokens of a page that are attended: its valid positions where it is chosen, else those of the global set (R191). -/
def attendedTokens (w : Work) (chosen : List Nat) (p : Nat) : List Nat :=
  if p ∈ chosen then List.range (min 32 (farEnd w - 32 * p)) else (List.range 32).filter fun t => decide (32 * p + t ∈ globalSet w)

/-- The positions that a head attends to, as stored. -/
def attendedBy (s : State) (x : Subject) (w : Work) (layer head : Nat) (chosen absent : List Nat) : List Attended :=
  (readPages w chosen absent).flatMap fun p =>
    let h := pageHome s x layer p
    let hp := headPage s h.1 h.2 p head
    (attendedTokens w chosen p).map (attendedAt hp (storedDim x.dim) (pageLowered s h.1 h.2 p))

/-- A free FP32 number that is finite and not negative. -/
def freeFpPos (n : Nat) : Nat := let v := Config.number n % 2 ^ 31; if fpFinite v then v else 0

/-- One record with what the completion counts of it. -/
structure FarRec where
  body : List Byte
  overLimit : Bool
  absent : Bool
  nonfinite : Bool
  bound : Nat
  positions : Nat
deriving DecidableEq, Repr

/-- A record from its fields (R194); a BOUND above the limit carries OVER_BOUND (R196). -/
def makeRec (w : Work) (f : Nat) (out : List Byte) (m l bound dmax n : Nat) (absent nonfinite empty : Bool) : FarRec :=
  let limit := opr w 40 4
  let above := limit != 0 && decide (limit < bound)
  let flags := b2n above + 2 * b2n absent + 4 * b2n nonfinite + 8 * b2n empty
  { body := slice out 0 f ++ leBytes 4 m ++ leBytes 4 l ++ leBytes 4 bound ++ leBytes 4 dmax ++ leBytes 4 n ++ leBytes 2 flags ++ zeros 10
    overLimit := above, absent := absent, nonfinite := nonfinite, bound := bound, positions := n }

/-- The record of a query head, its numbers as FP32 arithmetic may give them (R174 to R178, R194, R195). DMAX of a head that is not finite
is a free value. -/
def headRecord (s : State) (x : Subject) (w : Work) (layer head : Nat) (chosen absent : List Nat) (q : Option (List Int))
    (key : List Nat) : FarRec :=
  let f := outBytes x w
  let n := attendedCount w chosen absent
  let ab := absentAffects w chosen absent
  let lost := makeRec w f [] 0xFF7FFFFF 0 0x7F800000 (freeFpPos s.free) 0 ab true false
  match q with
  | none => lost
  | some v =>
    let ps := attendedBy s x w layer head chosen absent
    let h := attendHead (farScale x w) (opr w 60 1 == 0x10) v ps
    if n = 0 then makeRec w f [] 0xFF7FFFFF 0 0 0 0 ab false true
    else if surelyInfinite h || (!surelyFinite (farScale x w) v ps h && Config.verdict (s.free + key.sum)) then lost
    else
      let r := headFields s.free key n h
      makeRec w f (headOut s.free key n (opr w 61 1) x.dim h) r.1 r.2.1 r.2.2.1 r.2.2.2 n ab false false

/-- The query rows of a KV head's group, and of one query head. -/
def groupQueries (x : Subject) (w : Work) (b : List Byte) (t head : Nat) : List (List Int) :=
  (List.range x.ratio).filterMap fun r => queryAt x w b t (head * x.ratio + r)

/-- Choices of a layer by query token and KV head. -/
def layerChoices (s : State) (x : Subject) (w : Work) (layer : Nat) (absent : List Nat) (b : List Byte) : List (List Nat) :=
  (List.range (farQueries w * x.kvHeads)).map fun i =>
    chosenPages s x w layer (i / x.kvHeads) (i % x.kvHeads) absent (groupQueries x w b (i / x.kvHeads) (i % x.kvHeads))

/-- The records of a layer in their order. -/
def layerOut (s : State) (x : Subject) (w : Work) (layer : Nat) (choices : List (List Nat)) (absent : List Nat)
    (b : List Byte) : List FarRec :=
  (List.range (farQueries w * queryHeads x)).map fun i =>
    let t := i / queryHeads x
    let j := i % queryHeads x
    headRecord s x w layer (j / max 1 x.ratio) (choices.getD (t * x.kvHeads + j / max 1 x.ratio) []) absent (queryAt x w b t j) [t, j]

/-! ### One layer -/

/-- Running result (R198): records over the bound, absent pages, the lowest of them, the largest finite bound, any flag. -/
def farTally (w : Work) : List Nat := if w.tally.isEmpty then [0, 0, 0xFFFFFFFF, 0, 0] else w.tally

/-- The running result with a layer's records. -/
def tallyWith (w : Work) (absent : List Nat) (rs : List FarRec) : List Nat :=
  let t := farTally w
  [t.getD 0 0 + (rs.filter (·.overLimit)).length, t.getD 1 0 + absent.length, absent.foldl min (t.getD 2 0),
   (rs.filter fun r => fpFinite r.bound).foldl (fun m r => max m r.bound) (t.getD 3 0),
   max (t.getD 4 0) (b2n (rs.any fun r => r.overLimit || r.absent || r.nonfinite))]

/-- Result bytes of a FAR_ATTN that wrote every layer (R198). -/
def farResult (t : List Nat) : List Byte := packNats 4 (t.take 4)

/-- Prefetch items of source 2: the same pages in the later layers of the descriptor (R108, R202). -/
def prefetchLater (s : State) (x : Subject) (w : Work) (i : Nat) (pages : List Nat) : State :=
  let names := (List.range (farLayers w - (i + 1))).flatMap fun k =>
    pages.flatMap fun p => pageTiles s x (opr w 48 2 + i + 1 + k) p
  let new := (names.filter fun n => (tileOf s n.1 n.2).any fun t => 1 < masterTier t).map fun n => (2, n.1, n.2)
  { s with moving := { s.moving with items := s.moving.items ++ (new.dedup.filter fun e => !(e ∈ s.moving.items)) } }

/-- Count a layer's records and log the heads that are not finite (R178, R489). -/
def countLayer (s : State) (w : Work) (x : Subject) (layer : Nat) (rs : List FarRec) : State :=
  let s := if rs.any (·.nonfinite) then workEvent s w 0x0105 [layer] else s
  countAll s 9 0xFF x.homeBed 0xFFFF w.hdr.keySlot 0xFFFF (rs.map (·.positions)).sum

/-- The ready word as the device writes it (R197). -/
def doneWord (w : Work) (flagged : Bool) : Nat := opr w 44 4 + 2 ^ 32 + 2 ^ 33 * b2n flagged

/-- Back-invalidate the lines of the records of a layer and of its ready word; whether none is left to wait for (R96). -/
def releaseLayer (s : State) (w : Work) (x : Subject) (i : Nat) : State × Bool :=
  let r := releaseSpan s (addrOf (opr w 16 8 + i * layerRecords x w)) (layerRecords x w)
  if !r.2 then r else if isStreamed w then releaseSpan r.1 (addrOf (opr w 24 8 + 8 * i)) 8 else r

/-- Write the records of a layer, then its ready word; `none` where no tier has room (R104). -/
def writeLayer (s : State) (w : Work) (x : Subject) (i : Nat) (rs : List FarRec) : Option State :=
  let flagged := rs.any fun r => r.overLimit || r.absent || r.nonfinite
  let ready := addrOf (opr w 24 8 + 8 * i)
  (writeNow s (addrOf (opr w 16 8 + i * layerRecords x w)) (rs.flatMap (·.body))).bind fun s =>
    if !isStreamed w then some s
    else
      let s := match ready with
        | .fabric f => setReadyWord s f (doneWord w flagged)
        | _ => s
      writeNow s ready (leBytes 8 (doneWord w flagged))

/-- The subject as it stands now. -/
def nowOf (s : State) (x : Subject) : Subject := (subjAny s x.handle).getD x

/-- Far pages of a layer that are ABSENT. -/
def absentFar (x : Subject) (w : Work) (layer : Nat) : List Nat := (farPages w).filter fun p => (pageOf (mapOf x layer) p).state == 3

/-- Read the tiles of pages: copies that `bad` names fail, and pages with a malformed group are dropped (R80, R156, R193). -/
def readLayer (s : State) (x : Subject) (layer : Nat) (pages : List Nat) (bad : List (Nat × Nat)) : State :=
  let s := readFails s bad (pages.flatMap fun p => pageTiles s x layer p)
  let y := nowOf s x
  dropMalformed s y layer (pages.filter fun p => (pageOf (mapOf y layer) p).state != 3 && pageMalformed s y layer p)

/-- Attend over one layer whose tiles are at hand; pages that become ABSENT while they are read are left out (R193). -/
def attendLayer (s : State) (w : Work) (x : Subject) (i layer : Nat) (absent0 : List Nat) (b : List Byte) (bad : List (Nat × Nat)) :
    State :=
  let choices := layerChoices s x w layer absent0 b
  let pages := (farPages w).filter fun p => choices.any fun c => decide (p ∈ readPages w c absent0)
  let s := readLayer s x layer pages bad
  let x := nowOf s x
  let absent := absentFar x w layer
  if isStrict w ∧ (choices.any fun c => absentAffects w c absent) = true then tidyReady (fail s w.id stPoisoned)
  else
    let rs := layerOut s x w layer choices absent b
    match writeLayer s w x i rs with
    | none => tidyReady (fail s w.id stNoSpace)
    | some s =>
      let s := { s with free := s.free + 1 + rs.length }
      let s := (pages.flatMap fun p => pageTiles s x layer p).dedup.foldl (fun s n => demand s n.1 n.2) s
      let s := prefetchLater (countLayer s w x layer rs) x w i pages
      let t := tallyWith w absent rs
      if i + 1 < farLayers w then updWork s w.id fun w => { w with layer := i + 1, tally := t }
      else tidyReady (done s w.id (if t.getD 4 0 = 0 then stDone else stTruncated) (farResult t))

/-- Tiles of a layer that lie at a holder: they are asked for, and the layer waits (R352). -/
def lodgedFor (s : State) (x : Subject) (w : Work) (layer : Nat) (absent : List Nat) : List Tile :=
  let names := ((farPages w).filter fun p => !(p ∈ absent)).flatMap fun p => pageTiles s x layer p ++ pageSummaries s x layer p
  (names.dedup.filterMap fun n => tileOf s n.1 n.2).filter fun t => t.lodged.isSome

/-- Summary tiles that selection reads. -/
def scoreTiles (s : State) (x : Subject) (w : Work) (layer : Nat) (absent : List Nat) : List (Nat × Nat) :=
  if opr w 58 1 ≠ 1 then []
  else (((farPages w).filter fun p => !(p ∈ absent) && !(p ∈ recentPages w)).flatMap fun p => pageSummaries s x layer p).dedup

/-- Run layer `i` on its query rows (R189 to R198). -/
def runLayer (s : State) (w : Work) (x : Subject) (i : Nat) (b : List Byte) (bad : List (Nat × Nat)) : State :=
  let layer := opr w 48 2 + i
  if !allFiled (mapOf x layer) w then tidyReady (finish s w.id stConflict (leBytes 2 layer ++ [1]) [])
  else
    let lodged := lodgedFor s x w layer (absentFar x w layer)
    if !lodged.isEmpty then lodged.foldl requestTile s
    else
      let r := releaseLayer s w x i
      if !r.2 then r.1
      else
        let names := scoreTiles r.1 x w layer (absentFar x w layer)
        let s := names.foldl (fun s n => demand s n.1 n.2) (readFails r.1 bad names)
        let x := nowOf s x
        attendLayer s w x i layer (absentFar x w layer) b bad

/-- Read the query rows of layer `i`, and run it (R187, R197). -/
def readAndRun (s : State) (w : Work) (x : Subject) (i : Nat) (queries : List Fetch) (bad : List (Nat × Nat)) : State :=
  let len := layerQueries x w
  match readAddr s (addrOf (opr w 8 8 + i * len)) len false (queries.getD i .poison) with
  | (s, .ok b) => runLayer s w (nowOf s x) i b bad
  | (s, .fail st r) => tidyReady (failChk s w { ok := false, status := st, reason := r })
  | (s, .wait) => s

/-- Run the layers that may begin, one after another, with the number of layers as fuel. -/
def runLayers : Nat → State → Nat → List Fetch → List (Nat × Nat) → State
  | 0, s, _, _, _ => s
  | k + 1, s, id, qs, bad =>
    match workOf s id with
    | none => s
    | some w =>
      match subjAny s (subjectOf w) with
      | none => s
      | some x =>
        if !inFlight w || !layerReady s w w.layer then s
        else
          let t := readAndRun s w x w.layer qs bad
          match workOf t id with
          | none => t
          | some v => if v.layer = w.layer then t else runLayers k t id qs bad

/-- The checks of FAR_ATTN while no layer is done: those of acceptance again, then where its operands lie and their reach (R186, R188,
R302). -/
def farRunChks (s : State) (w : Work) (x : Subject) : List Chk :=
  let n := farLayers w
  let qlen := n * layerQueries x w
  let olen := n * layerRecords x w
  let ready := addrOf (opr w 24 8)
  if w.layer ≠ 0 then []
  else farAllChks x w ++
    [chk (inKind s (addrOf (opr w 8 8)) qlen 1 && inKind s (addrOf (opr w 16 8)) olen 1 &&
       (!isStreamed w || inKind s ready (8 * n) 0)) stBad,
     reachChk s w (addrOf (opr w 8 8)) qlen false, reachChk s w (addrOf (opr w 16 8)) olen true,
     if isStreamed w then reachChk s w ready (8 * n) true else chk true 0]

/-- FAR_ATTN: the operands' reach, the watch of its ready words, then its layers. -/
def runFar (queries : List Fetch) (bad : List (Nat × Nat)) (s : State) (w : Work) : State :=
  match (subjAny s (subjectOf w)).bind fun x => if x.keySlot = w.hdr.keySlot then some x else none with
  | none => fail s w.id stNotOwner
  | some x => checked s w (farRunChks s w x) fun s => runLayers (farLayers w) (tidyReady s) w.id queries bad

/-- FAR_ATTN (R188): selects and attends layer by layer. A streamed one, or one that waits for a tile, goes on from the layer
that it has reached. `queries` holds what the fetches of each layer's query rows return from the fabric, `bad` the tiles of which a copy
fails its checksum as it is read. -/
def execFarAttn (run : ReadRun) (queries : List Fetch) (s : State) : Host.Outcome State Fault Refusal :=
  act s <| runWork run.work (isOp 0x11) (runFar queries run.bad)

end Sys2Proof.Machine
end

