-- ==== Sys2Proof/Machine/Store.lean ====
section
/-! DEFINITION. The tiered store's own acts (ch. 4): write-back, spill and the lowering of code pairs, prefetch, T3 ranges;
and the accesses of hosts and peers to the State Range with back-invalidation (ch. 11). -/

namespace Sys2Proof.Machine

/-! ### Write-back (R98) -/

/-- Durable-dirty tiles that may be written back now, versions that no work's end has referenced yet among them (R420): readable under their
key, not being written already. Log 48 (DEDUCED). -/
def toWrite (s : State) : List Tile :=
  (heldTiles s).filter fun t =>
    durableDirty t && readable s t && !((t.handle, t.number, t.version) ∈ s.dur.writing)

/-- The tile that write-back takes next: the one that became durable-dirty first (R98). Log 48 (DEDUCED). -/
def nextWrite (s : State) : Option Tile := leastBy (fun t => s.dur.dirty.idxOf (t.handle, t.number)) (toWrite s)

/-! ### Turns on a medium (R108, R110) -/

/-- The medium of a tile's master, or the crystallizer of its home bed: a T3 range, the flash store, or the bed (R108, R110). -/
def mediumOf (s : State) (t : Tile) : Nat × Nat :=
  match masterTier t with
  | 3 => masterPlace t
  | 4 => (4, 0)
  | _ => (2, homeOf s t.handle)

/-- A class may be served on a medium while classes above it wait: it has had none of the last seven turns, so that it keeps its eighth
(R110). Log 161 (DESIGN CHOICE). -/
def eighth (s : State) (m : Nat × Nat) (c : Nat) : Bool :=
  let l := (aget s.moving.served m).getD []
  decide (7 ≤ l.length) && !decide (c ∈ l)

/-- A class takes a turn on a medium. -/
def takeTurn (s : State) (m : Nat × Nat) (c : Nat) : State :=
  { s with moving := { s.moving with served := aset s.moving.served m ((c :: (aget s.moving.served m).getD []).take 7) } }

/-- The flash store as a medium of writes: class 0 is durable write-back, class 1 spill (R110). -/
def flashWrites : Nat × Nat := (14, 0)

/-- Blocks wait for the scrub that comes before any other background write (R419). -/
def scrubFirst (s : State) : Bool :=
  s.dur.unscrubbed.any fun k => (keptTiles s).any fun t => t.handle == k.1 && t.number == k.2 && hasCopy t 4

/-- Spill may write to a tier now: to T4 not before a scrub that comes first (R419), and not before durable write-back that waits, but for
its eighth (R110). -/
def spillTurn (s : State) (tier : Nat) : Bool :=
  tier != 4 || !scrubFirst s && ((toWrite s).isEmpty && s.dur.writing.isEmpty) || reg s .durFlashState == 3 || eighth s flashWrites 1

/-- WRITEBACK_START (R98): the oldest durable-dirty tile begins to be written to T4, unless flash takes no writes (R417) or a scrub comes
first (R419). -/
def execWritebackStart (s : State) : Host.Outcome State Fault Refusal :=
  act s <| whenRunning fun s =>
    match nextWrite s with
    | none => s
    | some t =>
      if reg s .durFlashState = 3 ∨ scrubFirst s then s
      else { s with dur := { s.dur with writing := s.dur.writing ++ [(t.handle, t.number, t.version)] } }

/-- T4 holds the mapped version of a tile, whatever tier is its master. -/
def inFlash (s : State) (t : Tile) : Tile := withCopies t 4 [t4Place s t]

/-- Change a version of a tile that work has staged. -/
def updStaged (s : State) (h n : Nat) (f : Tile → Tile) : State :=
  let one : Effect → Effect := fun e => match e with
    | .tile t => .tile (if t.handle = h ∧ t.number = n then f t else t)
    | e => e
  { s with work := s.work.map fun w => { w with effects := w.effects.map one } }

/-- WRITEBACK_TILE_DONE (R98): the version that was being written reaches T4, an unreferenced one too (R420). -/
def execWritebackTileDone (handle number : Nat) (s : State) : Host.Outcome State Fault Refusal :=
  act s <| whenRunning fun s =>
    match s.dur.writing.find? (fun e => e.1 == handle && e.2.1 == number) with
    | none => s
    | some e =>
      let s := takeTurn { s with dur := { s.dur with writing := s.dur.writing.filter fun x => x ≠ e } } flashWrites 0
      let written := fun t : Tile => if t.version = e.2.2 ∧ t.version ≠ 0 then inFlash s t else t
      let s := ((heldTiles s).find? fun t => t.handle == handle && t.number == number && t.version == e.2.2).elim s fun t =>
        countMove s t (masterTier t) 4 0xFFFF
      updStaged (updHeld s handle number written) handle number written

/-! ### Spill (R100 to R106) -/

/-- Bytes used and capacity of a spill scope: T1 of a bed and partition (bed * 16 + partition), T2 of a partition, a T3 range. -/
def scopeLoad (s : State) (tier scope : Nat) : Nat × Nat :=
  match tier with
  | 1 => (t1UsedOf s (scope / 16) (scope % 16), t1CapOf s (scope / 16) (scope % 16) * 2 ^ 20)
  | 2 => (t2UsedOf s scope, t2CapOf s scope)
  | _ => (t3Used s scope, t3Size s scope)

/-- High and low marks of a tier (R100). -/
def tierMarks (s : State) (tier : Nat) : Nat × Nat :=
  match tier with
  | 1 => (reg s .stoWmT1High, reg s .stoWmT1Low)
  | 2 => (reg s .stoWmT2High, reg s .stoWmT2Low)
  | _ => (reg s .stoWmT3High, reg s .stoWmT3Low)

/-- Occupancy lies above a mark in per cent. -/
def aboveMark (load : Nat × Nat) (mark : Nat) : Bool := decide (mark * load.2 < 100 * load.1)

/-- The scope exists. -/
def scopeExists (s : State) (tier scope : Nat) : Bool :=
  match tier with
  | 1 => decide (scope < 16 * bedCount s.model)
  | 2 => decide (scope < 16)
  | 3 => decide (scope < 64)
  | _ => false

/-- SPILL_START (R100): occupancy of a scope lies above its high mark. -/
def execSpillStart (tier scope : Nat) (s : State) : Host.Outcome State Fault Refusal :=
  act s <| whenRunning fun s =>
    if scopeExists s tier scope && aboveMark (scopeLoad s tier scope) (tierMarks s tier).1 &&
        !((tier, scope) ∈ s.moving.spilling) then
      { s with moving := { s.moving with spilling := s.moving.spilling ++ [(tier, scope)] } }
    else s

/-- The spill scope that a tile's master lies in. -/
def scopeOf (s : State) (t : Tile) : Nat × Nat :=
  let place := (masterPlace t).2
  match masterTier t with
  | 1 => (1, place / 16 * 16 + partOf s t)
  | 2 => (2, partOf s t)
  | m => (m, place)

/-- T3 ranges that may receive spill: serving, not a compute range, below the low mark (R102, R107). -/
def spillRanges (s : State) : List Nat :=
  (List.range 64).filter fun r =>
    regGet s .stoT3StatusState r == 1 && regGet s .stoT3CtrlCompute r == 0 &&
      decide (100 * t3Used s r < reg s .stoWmT3Low * t3Size s r) && decide (t3Used s r + tileBytes ≤ t3Size s r)

/-- The range that receives a spilled tile: the lowest occupancy, then the lowest number (R102). -/
def spillRange (s : State) : Option Nat :=
  if reg s .stoSpillT3En = 1 then leastBy (t3Load s) (spillRanges s) else none

/-- Where a tile goes that spills from a tier: tier and places; `none` where nothing takes it (R102, R104, R351). A durable tile whose
partition has channels in one package only goes from T1 to T4, once T4 holds it (R462). -/
def spillFrom (s : State) (t : Tile) (tier : Nat) : Option (Nat × List Nat) :=
  match tier with
  | 1 =>
    if hasCopy t 2 then some (2, [])
    else if t2Fits s t then some (2, t2Places s t)
    else if t.durable ∧ (t2Places s t).length < 2 ∧ hasCopy t 4 then some (4, [])
    else none
  | 2 =>
    if t.durable then (if hasCopy t 4 then some (4, []) else none)
    else
      match spillRange s with
      | some r => some (3, [r])
      | none => if hasCopy t 4 then some (4, []) else if sharedRoom s then some (4, [t4Place s t]) else none
  | 3 => if hasCopy t 4 then some (4, []) else if sharedRoom s then some (4, [t4Place s t]) else none
  | _ => none

/-- Where a tile's master goes at spill. -/
def spillTo (s : State) (t : Tile) : Option (Nat × List Nat) := spillFrom s t (masterTier t)

/-- The tile may be spilled now. -/
def spillable (s : State) (t : Tile) : Bool :=
  t.version != 0 && t.lodged.isNone && readable s t && !pinned s t &&
    decide (scopeOf s t ∈ s.moving.spilling) && (spillTo s t).isSome

/-- The next tile that a scope spills: greatest age first (R101). -/
def nextSpill (s : State) (tier scope : Nat) : Option Tile :=
  leastBy (spillKey s) ((keptTiles s).filter fun t => spillable s t && scopeOf s t == (tier, scope))

/-- The other SX4 tile of a code tile's pair, with the map and the place of the pair (R105). -/
def pairOf (s : State) (t : Tile) : Option (Subject × LayerMap × Nat × Tile × Tile) :=
  match subjAny s t.handle with
  | none => none
  | some x =>
    let l := mapOf x t.layer
    match (placesOf t.number l.code).head? with
    | none => none
    | some i =>
      let a := l.code.getD (i / 2 * 2) 0xFFFFFFFF
      let b := l.code.getD (i / 2 * 2 + 1) 0xFFFFFFFF
      match tileOf s t.handle a, tileOf s t.handle b with
      | some ta, some tb => if a = b then none else some (x, l, i / 2, ta, tb)
      | _, _ => none

/-- The conversion of R105 applies to a tile that spills from T2: reconstructible SX4 code, options set, the partner's master in T2 or
above it, so that both spill together. Log 49 (DEDUCED). -/
def pairConverts (s : State) (t : Tile) : Bool :=
  t.kind == 5 && t.format == 1 && !t.durable && reg s .stoSpillSx2En == 1 &&
    match pairOf s t with
    | none => false
    | some (x, _, _, a, b) =>
      hasOption x 1 && ([a, b].all fun y => y.format == 1 && y.lodged.isNone && decide (1 ≤ masterTier y) && decide (masterTier y ≤ 2) &&
        !pinned s y && readable s y)

/-- Codes and sub-scales of a pair's head-pages. -/
def pairBytes (s : State) (x : Subject) (l : LayerMap) (k : Nat) (a b : Tile) : List Byte × List Byte :=
  let c := codePer x
  let size := c * (32 * storedDim x.dim)
  (cellRead a.payload 0 size ++ cellRead b.payload 0 size,
   (List.range (2 * c)).flatMap fun i => headScales s x l (2 * c * k + i))

/-- Pages of a pair of code tiles that hold a malformed group (R156). -/
def malformedIn (s : State) (x : Subject) (l : LayerMap) (k : Nat) : List Nat :=
  ((pagesOfRun x l (codePer x) (2 * k) ++ pagesOfRun x l (codePer x) (2 * k + 1)).dedup).filter fun p =>
    (pageOf l p).region.isNone && ((pageOf l p).state == 1 || (pageOf l p).state == 2) &&
      (List.range x.kvHeads).any fun h =>
        let hp := headPage s x l p h
        (List.range (2 * storedDim x.dim)).any fun g => malformed (subPair hp g)

/-- Every unpatched group of a pair lowers with an error of at most one half (R161). -/
def pairLowers (codes scales : List Byte) : Bool :=
  (List.range (codes.length / 16)).all fun g =>
    lowersWell (slice codes (16 * g) 16) (field scales (2 * g) 1, field scales (2 * g + 1) 1)

/-- Lower a pair to one SX2 tile at a destination: it takes the first number at a new version; the second is freed (R105). -/
def lowerPair (s : State) (x : Subject) (l : LayerMap) (k : Nat) (a b : Tile) (codes scales : List Byte) (tier : Nat)
    (places : List Nat) : State :=
  let t : Tile := { a with format := 2, lowered := true, refiled := [], count := a.count + b.count, payload := cellsOf (lowerCodes codes scales) }
  let s := freeTile (commitAt s t tier places) b.handle b.number
  let l := { l with code := setAt 0xFFFFFFFF l.code (2 * k + 1) a.number }
  touchMap (updSubj s a.handle fun y => setMap y a.layer l) (x.handle)

/-- Move a tile's master to its spill destination and drop the copies above it (R103). -/
def spillPlain (s : State) (t : Tile) (tier : Nat) (places : List Nat) : State :=
  updHeld (if places.isEmpty then s else countMove s t (masterTier t) tier 0xFFFF) t.handle t.number fun x =>
    let y := if places.isEmpty then x else withCopies x tier places
    { y with copies := y.copies.filter fun c => decide (tier ≤ c.tier) }

/-- Spill a tile, with the pair that it belongs to where R105 converts it. -/
def spillOne (s : State) (t : Tile) : State :=
  match spillTo s t with
  | none => s
  | some (tier, places) =>
    if masterTier t = 2 ∧ pairConverts s t then
      match pairOf s t with
      | none => s
      | some (x, l, k, a, b) =>
        let r := pairBytes s x l k a b
        if pairLowers r.1 r.2 && (malformedIn s x l k).isEmpty then
          lowerPair s x l k a b r.1 r.2 tier (if places.isEmpty then [t4Place s a] else places)
        else
          let s := countReg (dropMalformed s x t.layer (malformedIn s x l k)) .stoQstatSx2Kept 0 1
          let s := spillPlain s a tier (if tier = 4 then [t4Place s a] else places)
          match spillFrom s b 2 with
          | some (tb, pb) => spillPlain s b tb pb
          | none => s
    else spillPlain s t tier places

/-- End the spill of scopes that have fallen to their low mark (R100). -/
def endSpills (s : State) : State :=
  let left := s.moving.spilling.filter fun e => aboveMark (scopeLoad s e.1 e.2) (tierMarks s e.1).2
  { s with moving := { s.moving with spilling := left } }

/-- Tiles whose versions or T1 masters a spill of a tile changes: itself, and its pair where R105 converts it, with HEAD and MAP. -/
def spillNames (s : State) (t : Tile) : List (Nat × Nat) :=
  if masterTier t = 2 ∧ pairConverts s t then
    match pairOf s t with
    | none => []
    | some (x, _, _, a, b) => [(x.handle, a.number), (x.handle, b.number), (x.handle, 0), (x.handle, 0x100)]
  else if masterTier t = 1 then [(t.handle, t.number)] else []

/-- Spill a tile once no host holds a line of what changes with it (R96). -/
def spillDone (s : State) (t : Tile) : State :=
  let r := releaseLines s (spillNames s t)
  if r.2 then
    let s := match spillTo r.1 t with
      | some (4, _) => takeTurn r.1 flashWrites 1
      | _ => r.1
    endSpills (spillOne s t)
  else r.1

/-- A tile has a copy in a T3 range that drains (R107). Log 162 (DEDUCED). -/
def drains (s : State) (t : Tile) : Bool := t.copies.any fun c => c.tier == 3 && regGet s .stoT3StatusState c.place == 2

/-- A tile of a range that drains moves to T4: its copy there is dropped once T4 holds the tile; a stale copy, or a clean one that T4 has
no room for, is only dropped (R87, R107). Log 162 (DEDUCED). -/
def drainTile (s : State) (t : Tile) : State :=
  let left := fun y : Tile => { y with copies := y.copies.filter fun c => !(c.tier == 3 && regGet s .stoT3StatusState c.place == 2) }
  if masterTier t = 3 then (if readable s t && (spillTo s t).isSome then spillOne s t else s)
  else
    let s := if hasCopy t 3 && !hasCopy t 4 && sharedRoom s then updHeld s t.handle t.number fun y => withCopies y 4 [t4Place s t] else s
    updHeld s t.handle t.number left

/-- SPILL_TILE_DONE (R103): the tile that its scope spills next, or a tile of a draining range, is written down. -/
def execSpillTileDone (handle number : Nat) (s : State) : Host.Outcome State Fault Refusal :=
  act s <| whenRunning fun s =>
    let s := endSpills s
    match (keptTiles s).find? (fun t => t.handle == handle && t.number == number) with
    | none => s
    | some t =>
      if drains s t then endSpills (drainTile s t)
      else
        match nextSpill s (scopeOf s t).1 (scopeOf s t).2 with
        | none => s
        | some u =>
          if u.handle = handle ∧ u.number = number ∧ spillTurn s (((spillTo s t).map (·.1)).getD 0) = true then spillDone s t else s

/-! ### Prefetch (R108, R109) -/

/-- Bring a tile into T2 or above; whether it lies there: an SX2 tile is expanded (R106). One that lies there already is used: a spill of
it is abandoned (R103, R128). -/
def bringT2 (s : State) (h n : Nat) : State × Bool :=
  match tileOf s h n with
  | none => (s, false)
  | some t =>
    if masterTier t = 0 then (s, false)
    else if masterTier t ≤ 2 then (useTile s h n, true)
    else if t.kind = 5 ∧ t.format = 2 then
      let s := expandPair s t
      (s, (tileOf s h n).any fun x => x.format == 1)
    else if t2Fits s t then
      (updTile (countMove s t (masterTier t) 2 0xFFFF) h n fun x => { withCopies x 2 (t2Places s t) with lastUse := tick s }, true)
    else (s, false)

/-- Bring a tile into T1 of a bed from wherever it lies. -/
def raiseT1 (s : State) (h n bed : Nat) : State × Bool :=
  match tileOf s h n with
  | none => (s, false)
  | some t => if t.kind = 5 ∧ t.format = 2 then let r := bringT2 s h n; bringT1 r.1 h n bed else bringT1 s h n bed

/-- Bring a tile into T1 of a bed on demand: one from T3 or T4 is also kept in T2 (R108). -/
def raiseDemand (s : State) (h n bed : Nat) : State × Bool :=
  match tileOf s h n with
  | none => (s, false)
  | some t => if masterTier t < 3 then raiseT1 s h n bed else raiseT1 (bringT2 s h n).1 h n bed

/-- Tiles of the working set that are placed in T2 (R115). -/
def workingT2 (s : State) (x : Subject) : List (Nat × Nat) :=
  let ts := (tilesOf s x.handle).filter fun t => t.version != 0
  let logs := sortKey id ((ts.filter fun t => t.kind == 4).map (·.number))
  let fixed := (ts.filter fun t => t.kind == 1 || t.kind == 2 || t.kind == 3).map (·.number)
  ((sortKey id fixed) ++ logs.drop (logs.length - 2)).map fun n => (x.handle, n)

/-- The newest FILED or PARTIAL pages of a layer, `n` of them. -/
def newestPages (l : LayerMap) (n : Nat) : List Nat :=
  let ps := (List.range l.pages.length).filter fun p => (pageOf l p).state == 1 || (pageOf l p).state == 2
  ps.drop (ps.length - n)

/-- Subjects whose tiles a session's layer names: itself and the regions that it references. -/
def layerOwners (x : Subject) (l : LayerMap) : List Nat :=
  (x.handle :: l.pages.filterMap (·.region)).dedup

/-- Summary and patch tiles of a layer that a session names: all of its own, and of a region those of the pages that it references. -/
def layerHeads (s : State) (x : Subject) (k : Nat) : List (Nat × Nat) :=
  let l := mapOf x k
  let own := (l.summary ++ l.patch).map fun n => (x.handle, n)
  let isPatch := fun e : Nat × Nat => (tileOf s e.1 e.2).any fun t => t.kind == 8
  own ++ ((List.range l.pages.length).filter fun p => (pageOf l p).region.isSome).flatMap fun p =>
    pageSummaries s x k p ++ (pageTiles s x k p).filter isPatch

/-- Tiles of the working set that are placed in home-bed T1 (R115); a buffer region has none. Log 163 (DESIGN CHOICE). -/
def workingT1 (s : State) (x : Subject) (recent : Nat) : List (Nat × Nat) :=
  ((List.range x.layers).flatMap fun k =>
    layerHeads s x k ++ (newestPages (mapOf x k) recent).flatMap fun p => pageTiles s x k p).dedup.filter fun e =>
      (tileOf s e.1 e.2).any fun t => t.version != 0

/-- Items of the sources above one wait for the same medium (R108). -/
def itemsAhead (s : State) (source : Nat) (m : Nat × Nat) : Bool :=
  s.moving.items.any fun e => decide (e.1 < source) &&
    (tileOf s e.2.1 e.2.2).any fun t => t.version != 0 && t.lodged.isNone && readable s t && mediumOf s t == m

/-- Serve a prefetch item, or a demand: home-bed T1 if it finds room, T2 for the tiles that R115 places there (R108). -/
def serveItem (s : State) (source : Nat) (t : Tile) : State :=
  if source = 1 then (raiseDemand (demand s t.handle t.number) t.handle t.number (homeOf s t.handle)).1
  else if source = 5 ∧ t.kind ≤ 4 then (bringT2 s t.handle t.number).1
  else (raiseT1 s t.handle t.number (homeOf s t.handle)).1

/-- PREFETCH_ITEM (R108): a queued item, or a demand, is served in the order of the sources, but for a class's eighth (R110); one that
finds no room, or lies at a holder, is dropped. A copy that fails its checksum is dropped, and the item is served from the next. -/
def execPrefetchItem (source handle : Nat) (tile : TileRead) (s : State) : Host.Outcome State Fault Refusal :=
  act s <| whenRunning fun s =>
    let number := tile.number
    if source = 1 ∨ (source, handle, number) ∈ s.moving.items then
      let left := { s with moving := { s.moving with items := s.moving.items.filter fun e => e ≠ (source, handle, number) } }
      match tileOf s handle number with
      | none => left
      | some t =>
        if t.lodged.isSome ∨ !readable s t then left
        else if source ≠ 1 ∧ itemsAhead s source (mediumOf s t) = true ∧ eighth s (mediumOf s t) source = false then s
        else if !tile.good then masterFails s handle number
        else serveItem (takeTurn left (mediumOf s t) source) source t
    else s

/-! ### T3 ranges (R107, R334, R561) -/

/-- Two spans of granules overlap. -/
def spansMeet (a la b lb : Nat) : Bool := decide (a < b + lb) && decide (b < a + la)

/-- A write of VALID 1 is taken: SIZE is not 0, and no valid range and no KIND 0 span overlaps (R561). -/
def t3Grantable (s : State) (r : Nat) : Bool :=
  let b := regGet s .stoT3BaseBase r
  let n := regGet s .stoT3SizeSize r
  regGet s .stoT3CtrlValid r == 0 && n != 0 &&
    (List.range 64).all (fun k => k == r || regGet s .stoT3CtrlValid k == 0 ||
      !spansMeet b n (regGet s .stoT3BaseBase k) (regGet s .stoT3SizeSize k)) &&
    (List.range 256).all fun k => regGet s .cxlAmapValid k == 0 || regGet s .cxlAmapKind k == 1 ||
      !spansMeet (4 * b) (4 * n) (regGet s .cxlAmapBase k) (regGet s .cxlAmapSize k)

/-- Run `f` on the T3 range that a path selects. -/
def withRange (path : Path) (f : State → Nat → State) (s : State) : State :=
  match entryOf s path .stoT3CtrlValid 0 with
  | none => s
  | some r => f s r

/-- T3_GRANT (R107): a write of `STO_T3_CTRL.VALID` 1. -/
def execT3Grant (path : Path) (s : State) : Host.Outcome State Fault Refusal :=
  act s <| whenRunning <| withRange path fun s r =>
    if t3Grantable s r then regSet (regSet s .stoT3CtrlValid r 1) .stoT3StatusState r 1 else s

/-- T3_WITHDRAW (R561): a write of `STO_T3_CTRL.VALID` 0 while the range is empty. -/
def execT3Withdraw (path : Path) (s : State) : Host.Outcome State Fault Refusal :=
  act s <| whenRunning <| withRange path fun s r =>
    if t3Used s r = 0 then regSet (regSet s .stoT3CtrlValid r 0) .stoT3StatusState r 0 else s

/-- T3_DRAIN (R107): spill into the range stops, and its tiles move to T4. -/
def execT3Drain (path : Path) (s : State) : Host.Outcome State Fault Refusal :=
  act s <| whenRunning <| withRange path fun s r =>
    if regGet s .stoT3StatusState r = 1 then regSet s .stoT3StatusState r 2 else s

/-- T3_COMPUTE (R334): a write of `STO_T3_CTRL.COMPUTE` 1 is taken while the range holds no tile. -/
def execT3Compute (path : Path) (s : State) : Host.Outcome State Fault Refusal :=
  act s <| whenRunning <| withRange path fun s r =>
    if t3Used s r = 0 then regSet s .stoT3CtrlCompute r 1 else s

/-- T3_RANGE_LOST (R107): a granted range becomes unreachable. -/
def execT3RangeLost (range : Nat) (s : State) : Host.Outcome State Fault Refusal :=
  act s <| whenRunning fun s =>
    if range < 64 ∧ regGet s .stoT3CtrlValid range = 1 ∧ regGet s .stoT3StatusState range ≠ 3 then loseRange s range else s

/-! ### Accesses of hosts and peers (R92 to R97, R300 to R311) -/

/-- The host number of a PBR ID (R300). -/
def hostOf (s : State) (pbr : Nat) : Option Nat :=
  (List.range 32).find? fun h => regGet s .cxlHostMapValid h == 1 && regGet s .cxlHostMapPbrId h == pbr

/-- A host holds an extent that covers a window (R306). -/
def extentCovers (s : State) (h w : Nat) : Bool :=
  s.cxl.extents.any fun e => e.host == h && e.phase == 1 && decide (e.first ≤ w) && decide (w < e.first + e.count)

/-- Answer an access that is not served: a load with poison, a store dropped. -/
def refuseAccess (s : State) (a : Access) : State := emit s (if a.write.isSome then .dropped else .poison)

/-- Refuse an access with an event that names the host. -/
def refuseEvent (s : State) (a : Access) (reason slot handle : Nat) (arg : List Nat) : State :=
  event (refuseAccess s a) reason 0 slot handle (locate 9 0 0 0 a.host) arg

/-- Refuse an access by R93: a load that completes with poison writes a General Media record as well (R463). -/
def refuseMedia (s : State) (a : Access) (reason slot handle : Nat) (arg : List Nat) : State :=
  let s := refuseEvent s a reason slot handle arg
  if a.write.isNone then eventAt s (severityOf reason) 0x10001 0 slot handle (locate 9 0 0 0 a.host) [a.off] else s

/-- Capacity of the snoop filter (R304). -/
def snoopLimit : Nat := 4194304

/-- Lines that others hold and that a store must have released: of the whole tile where it takes a new version (R95, R96),
else those of the lines written. -/
def storeHolds (s : State) (a : Access) (t : Tile) : List (Nat × Nat) :=
  if t.wrote then heldLines s t.handle t.number
  else (heldLines s t.handle t.number).filter fun e => e.2 ∈ spanLines a.off a.len ∧ (a.peer ∨ e.1 ≠ a.host)

/-- Let an access wait, once. -/
def waitAccess (s : State) (a : Access) : State :=
  if a ∈ s.cxl.waiting then s else { s with cxl := { s.cxl with waiting := s.cxl.waiting ++ [a] } }

/-- Record that a host holds a line: oldest entries first (R304). Log 50 (DEDUCED). -/
def holdLine (s : State) (a : Access) : State :=
  let e := (a.host, a.off / 64)
  if a.peer ∨ e ∈ s.cxl.snoop then s else { s with cxl := { s.cxl with snoop := s.cxl.snoop ++ [e] } }

/-- The part of a store's bytes that lies in the frame at `f`, with its offset in the frame. -/
def partIn (f off : Nat) (b : List Byte) : Nat × List Byte :=
  let lo := max f off
  (lo - f, (b.drop (lo - off)).take (f + 16384 - lo))

/-- Write bytes of a store into a tile: a version that has left the package gets a new one, in the T1 places of the tile (R95). A tile that
T1 had no room for takes the store as a new version in the next tier with room, and the store is dropped where none has any.
Log 164 (DESIGN CHOICE). -/
def storeInto (s : State) (t : Tile) (f off : Nat) (b : List Byte) : State :=
  let p := partIn f off b
  let u := { t with payload := cellWrite t.payload p.1 p.2, lastUse := tick s }
  let r :=
    if masterTier t ≠ 1 then commitNow s u
    else if t.wrote then commitAt s u 1 ((t.copies.filter fun c => c.tier == 1 && c.version == t.version).map (·.place))
    else putTile s u
  carryPoison s r t.handle t.number (lineWithin p.1 p.2.length)

/-- The device writes bytes of a span as a host would, in place where a tile stands in T1: a ring or a line of a ledger (R315). -/
def storeSpan (s : State) (off : Nat) (b : List Byte) : State :=
  (spanFrames off b.length).foldl (fun s f =>
    match (tileAt s f).bind fun k => tileOf s k.1 k.2 with
    | none => s
    | some t => storeInto s t f off b) s

/-- The lines of a span hold poison. -/
def taintSpan (s : State) (off len : Nat) : State :=
  { s with cxl := { s.cxl with poisoned := (s.cxl.poisoned ++ (spanLines off len).filterMap (lineName s)).dedup } }

/-- Serve an access to tiles that are at hand (R93 to R96). A store waits for the lines that others hold, and a load for
room in the snoop filter. Poisoned data leave the bytes as they are and mark their line (R299). -/
def serveAccess (s : State) (a : Access) (ts : List (Nat × Tile)) : State :=
  match a.write with
  | none =>
    if !a.peer ∧ (a.host, a.off / 64) ∉ s.cxl.snoop ∧ snoopLimit ≤ s.cxl.snoop.length then
      waitAccess (snoopLines s (s.cxl.snoop.filter fun e => (s.cxl.snoop.head?.map (·.2)) == some e.2)) a
    else
      let s := emit s (if spanPoisoned s a.off a.len then .poison else .response (shownBytes s a.off a.len))
      ts.foldl (fun s t => useTile s t.2.handle t.2.number) (holdLine s a)
  | some b =>
    let held := ts.flatMap fun t => storeHolds s a t.2
    if held.isEmpty then
      let b := if a.tainted then shownBytes s a.off a.len else b
      let s := ts.foldl (fun s t => storeInto s t.2 t.1 a.off b) s
      if a.tainted then taintSpan s a.off a.len else s
    else waitAccess (snoopLines s held) a

/-- A promotion to T1 of the owner's home bed begins. -/
def promote (s : State) (t : Tile) : State :=
  if (t.handle, t.number) ∈ s.moving.promoting then s
  else emit { s with moving := { s.moving with promoting := s.moving.promoting ++ [(t.handle, t.number)] } } (.fetchTile t.handle t.number)

/-- A tile may be served to an access: it stands in T1 verified (R94), or a copy of its version has come to the port block for the
access (R93). -/
def servable (a : Access) (t : Tile) : Bool :=
  (masterTier t == 1 && t.verified) || decide ((t.handle, t.number, t.version) ∈ a.got)

/-- Route an access that has passed the checks on its requester, by what its frames show (R92, R93, R408). An access to a tile that may
not be served yet waits for it: for its promotion, or for the verification of a T1 tile that a pan has committed (R94). -/
def routeAccess (s : State) (a : Access) : State :=
  let frames := spanFrames a.off a.len
  let bound := frames.map fun f => bindingOf s (f / 2 ^ 30)
  let tiles := frames.map fun f => (tileAt s f).bind fun k => tileOf s k.1 k.2
  let view := bound.any fun b => match b with
    | some (.view _ _) => true
    | _ => false
  let who := (bound.findSome? fun b => b.bind fun b => subjAny s (boundTo b)).elim (0xFFFF, 0) fun x => (x.keySlot, x.handle)
  if a.write.isSome ∧ view then refuseMedia s a 0x0302 who.1 who.2 [a.off]
  else
    match tiles.find? (fun t => (t.all fun x => x.version == 0)) with
    | some _ => refuseMedia s a 0x0301 who.1 who.2 [a.off]
    | none =>
      let ts := tiles.filterMap id
      match ts.find? (fun t => !slotActive s t.keySlot) with
      | some t => refuseMedia s a 0x0601 t.keySlot t.handle [t.number]
      | none =>
        let s := framesChecked s a.off a.len
        let ts := ts.filterMap fun t => tileOf s t.handle t.number
        match ts.find? (fun t => t.lodged.isSome || masterTier t == 4) with
        | some t => refuseMedia s a 0x0303 t.keySlot t.handle [t.handle, t.number]
        | none =>
          match ts.find? (fun t => masterTier t == 0) with
          | some t => refuseMedia s a (lostReason t) t.keySlot t.handle [t.layer, t.number]
          | none =>
            let pairs := (List.range frames.length).filterMap fun i => (ts[i]?).map fun t => (frames.getD i 0, t)
            match ts.find? (fun t => !servable a t) with
            | some t => waitAccess (promote s t) a
            | none => serveAccess s a pairs

/-- Lines are released: the snoop filter and the wait forget them. -/
def dropLines (s : State) (p : Nat × Nat → Bool) : State :=
  { s with cxl := { s.cxl with snoop := s.cxl.snoop.filter fun e => !p e, biPending := s.cxl.biPending.filter fun e => !p e } }

/-- Waiting accesses of a host, or of the peer that its PAIR names, to the windows of an extent (R363). -/
def extentWaits (s : State) (e : Extent) : List Access :=
  s.cxl.waiting.filter fun a =>
    (if a.peer then regGet s .cxlHostMapPairValid e.host == 1 && regGet s .cxlHostMapPair e.host == a.host else a.host == e.host) &&
      (spanWindows a.off a.len).any fun w => decide (e.first ≤ w) && decide (w < e.first + e.count)

/-- An extent's windows hold a line. -/
def extentLine (e : Extent) (l : Nat × Nat) : Bool := l.1 == e.host && decide (e.first ≤ l.2 / 2 ^ 24) && decide (l.2 / 2 ^ 24 < e.first + e.count)

/-- The release of an extent completes (R363 step 4): the host's lines in it are forgotten without back-invalidation, it leaves the host,
and an extent change is recorded (R463). -/
def endRelease (s : State) (e : Extent) : State :=
  let s := dropLines s (extentLine e)
  let s := { s with cxl := { s.cxl with
    extents := s.cxl.extents.filter fun x => x ≠ e
    te := s.cxl.te.filter fun x => !(x.1 == e.host && decide (e.first ≤ x.2) && decide (x.2 < e.first + e.count)) } }
  eventAt s 0 0x10004 0 0xFFFF 0 (locate 9 0 0 0 e.host) [e.first, e.count, e.tag]

/-- Releases whose requests have drained complete (R363 step 3). -/
def endReleases (s : State) : State :=
  (s.cxl.extents.filter fun e => e.phase == 2 && (extentWaits s e).isEmpty).foldl endRelease s

/-- Try the waiting accesses again, in their order. -/
def retryAccesses (s : State) : State :=
  endReleases (s.cxl.waiting.foldl routeAccess { s with cxl := { s.cxl with waiting := [] } })

/-- The copy of a tile that has come to the port block serves the accesses that wait for it (R93). -/
def arriveAt (s : State) (h n : Nat) : State :=
  match tileOf s h n with
  | none => s
  | some t =>
    let got := fun a : Access =>
      if (spanFrames a.off a.len).any (fun f => tileAt s f == some (h, n)) then { a with got := (h, n, t.version) :: a.got } else a
    { s with cxl := { s.cxl with waiting := s.cxl.waiting.map got } }

/-- A host is suspended (R305). -/
def suspended (s : State) (h : Nat) : Bool := regGet s .cxlHostStatusSuspended h == 1

/-- The port of a host serves requests: it has not failed and its protection stands (R310). -/
def portServes (s : State) (p : Nat) : Bool := portUp s p && portProtected s p

/-- A CXL.mem request of 64 bytes from a PBR ID (R93, R300, R303, R306, R310, R311). Log 51 (DEDUCED). -/
def hostAccess (s : State) (pbr addr : Nat) (te : Bool) (body : Option (List Byte)) (tainted : Bool) : State :=
  match hostOf s pbr with
  | none => refuseEvent s { host := 0xFFFF, peer := false, off := 0, len := 64, write := body, tainted := tainted, got := [] } 0x0402 0xFFFF 0 [pbr]
  | some h =>
    let base := (aget s.cxl.hdm h).getD 0
    let a : Access := { host := h, peer := false, off := (addr - base) / 64 * 64, len := 64, write := body, tainted := tainted, got := [] }
    let w := a.off / 2 ^ 30
    if !portServes s (regGet s .cxlHostMapPort h) then s
    else if suspended s h then refuseAccess s a
    else if (aget s.cxl.hdm h).isNone ∨ addr < base ∨ !windowExists s w ∨ !extentCovers s h w then refuseEvent s a 0x0404 0xFFFF 0 [h, w]
    else if (h, w) ∈ s.cxl.te ∧ !te then refuseEvent s a 0x0406 0xFFFF 0 [h, w]
    else routeAccess s a

/-- Before ready, in FAILED and once QUIESCED, loads are answered with poison and stores are dropped (R453, R512); without power
nothing answers. Log 95 (DEDUCED). -/
def whenServing (body : Option (List Byte)) (f : State → State) (s : State) : State :=
  if running s then f s else if powered s then emit s (if body.isSome then .dropped else .poison) else s

/-- HOST_LOAD (R93). -/
def execHostLoad (pbr addr : Nat) (te : Bool) (s : State) : Host.Outcome State Fault Refusal :=
  act s <| whenServing none fun s => hostAccess s pbr addr te none false

/-- HOST_STORE (R93): its data may carry poison (R299). Log 183 (DESIGN CHOICE). -/
def execHostStore (pbr addr : Nat) (te : Bool) (body : Fetch) (s : State) : Host.Outcome State Fault Refusal :=
  match body with
  | .data b => act s <| whenServing (some b) fun s => hostAccess s pbr addr te (some (slice b 0 64)) false
  | .poison => act s <| whenServing (some []) fun s => hostAccess s pbr addr te (some (zeros 64)) true

/-- The host whose PAIR names a peer and whose extents cover a span (R307). -/
def pairHost (s : State) (pbr off len : Nat) : Option Nat :=
  (List.range 32).find? fun h =>
    regGet s .cxlHostMapValid h == 1 && regGet s .cxlHostMapPairValid h == 1 && regGet s .cxlHostMapPair h == pbr &&
      (spanWindows off len).all fun w => windowExists s w && extentCovers s h w

/-- PEER_UIO_ACCESS (R307): an unordered-I/O read or write of at most 512 bytes. -/
def execPeerUioAccess (pbr off len : Nat) (write : Option (List Byte)) (s : State) : Host.Outcome State Fault Refusal :=
  act s <| whenServing write fun s =>
    if len = 0 ∨ 512 < len then s
    else
      let a : Access := { host := pbr, peer := true, off := off, len := len, write := write.map fun b => slice b 0 len, tainted := false, got := [] }
      match pairHost s pbr off len with
      | none => event (refuseAccess s a) 0x0404 0 0xFFFF 0 (locate 11 0 0 0 pbr) [off]
      | some _ => routeAccess s a

/-- TILE_PROMOTION_DONE (R93): the tile arrives; it is placed in T1 where there is room, and the accesses that wait are served, from the
arrived copy where there is none. A copy that fails its checksum is dropped, and the next copy down is promoted. -/
def execTilePromotionDone (handle number : Nat) (good : Bool) (s : State) : Host.Outcome State Fault Refusal :=
  act s <| whenRunning fun s =>
    if (handle, number) ∉ s.moving.promoting then s
    else
      let s := { s with moving := { s.moving with promoting := s.moving.promoting.filter fun e => e ≠ (handle, number) } }
      let s := if good then
          (raiseDemand (updTile (arriveAt s handle number) handle number fun t => { t with verified := true }) handle number (homeOf s handle)).1
        else masterFails s handle number
      retryAccesses s

/-- BI_RESPONSE (R304): a host responds to a BISnpInv, and the line is released. -/
def execBiResponse (host line : Nat) (s : State) : Host.Outcome State Fault Refusal :=
  act s <| whenRunning fun s =>
    if (host, line) ∈ s.cxl.biPending then retryAccesses (dropLines s fun e => e == (host, line)) else s

/-- Suspend a host (R305): its lines count as released. -/
def suspendHost (s : State) (h : Nat) : State :=
  dropLines (regSet s .cxlHostStatusSuspended h 1) fun e => e.1 == h

/-- BI_TIMEOUT (R305): a host has not responded to a BISnpInv in time. -/
def execBiTimeout (host : Nat) (s : State) : Host.Outcome State Fault Refusal :=
  act s <| whenRunning fun s =>
    if s.cxl.biPending.any (fun e => e.1 == host) then
      retryAccesses (event (suspendHost s host) 0x0403 0 0xFFFF 0 (locate 9 0 0 0 host) [host])
    else s

/-- HOST_RESUME (R305): a write of `CXL_HOST_CTRL.RESUME` for the selected host. -/
def execHostResume (path : Path) (s : State) : Host.Outcome State Fault Refusal :=
  act s <| whenRunning fun s =>
    match entryOf s path .cxlHostStatusSuspended 0 with
    | none => s
    | some h => regSet s .cxlHostStatusSuspended h 0

end Sys2Proof.Machine
end

