-- ==== Sys2Proof/Machine/Sessions.lean ====
section
/-! DEFINITION. Opening, closing, parking, reviving and placing sessions and regions (ch. 3, ch. 4): SESSION_OPEN,
SESSION_CLOSE, PARK, REVIVE and MOVE. -/

namespace Sys2Proof.Machine

/-! ### Handles (R55, R56, R441) -/

/-- What issuing a handle comes to. -/
inductive Issue where
  | wait (s : State)
  | full
  | ok (s : State) (handle : Nat)
deriving DecidableEq, Repr

/-- Issue a handle: a serial of a lease whose record a named buddy has acknowledged. Log 46 (DEDUCED). Log 144 (DEDUCED). -/
def issueHandle (s : State) : Issue :=
  let n := s.nv.serial + 1
  let h := origin s * 2 ^ 40 + n
  if 2 ^ 40 ≤ n ∨ h = 2 ^ 64 - 1 then .full
  else if n ≤ s.nv.leaseEnd then .ok { s with nv := { s.nv with serial := n } } h
  else if buddy s = 0 then .ok { s with nv := { s.nv with serial := n, leaseEnd := s.nv.leaseEnd + 65536 } } h
  else if s.dur.unacked.any (fun r => field r.2 0 1 == 3) then .wait s
  else .wait (sendStream s 0x03 0 0 0 0 (leBytes 8 (s.nv.leaseEnd + 65536)))

/-! ### SESSION_OPEN (R82 to R84) -/

/-- Beds that may home new subjects (R29). Log 45 (DEDUCED). -/
def homeBeds (s : State) : List Nat :=
  let ok := (List.range (bedCount s.model)).filter fun b => !(b ∈ s.flt.bedsOut)
  let far := ok.filter fun b => (leaves s).any fun l => l.bed == b && (outermost s 1).any fun u => u.id == rootOf s l.id
  if far.isEmpty then ok else far

/-- The home bed of a new session: the most free T1, then the lowest number (R29, R117). -/
def chooseBed (s : State) (slot : Nat) (beds : List Nat) : Option Nat := bestBy (fun b => t1FreeOf s b (slotPart s slot)) beds

/-- The fields of SESSION_OPEN (R82, R4). -/
def openFields (w : Work) : Bool :=
  decide (1 ≤ opr w 0 2) && decide (opr w 0 2 ≤ 256) && decide (1 ≤ opr w 2 1) && decide (opr w 2 1 ≤ 64) &&
    decide (1 ≤ opr w 3 1) && decide (opr w 3 1 ≤ 16) && decide (1 ≤ opr w 4 2) && decide (opr w 4 2 ≤ 256) &&
    bits (opr w 6 1) 7 3 == 0 && decide (opr w 7 1 ≤ 3) && reservedClear w [(0, 12)]

/-- The record of ownership of a subject that this device creates. -/
def ownedHere (s : State) (epoch : Nat) : OwnRec :=
  { epoch := epoch, owner := origin s, state := 0, target := 0, granted := false, since := s.time }

/-- A session as SESSION_OPEN creates it. -/
def openedSession (s : State) (w : Work) (handle index bed : Nat) : Subject :=
  { Subject.blank index handle w.hdr.keySlot .session with
    homeBed := bed, own := ownedHere s 1, layers := opr w 0 2, kvHeads := opr w 2 1, ratio := opr w 3 1, dim := opr w 4 2
    options := opr w 6 1, priority := opr w 7 1, vocab := opr w 8 4 }

/-- Stage tiles of a subject that is not held yet. -/
def stageNew (s : State) (id : Nat) (x : Subject) (ts : List Tile) : Option State :=
  (stageAll { s with subjects := s.subjects ++ [x] } id ts).map fun t => { t with subjects := s.subjects }

/-- Create a subject as the effect of a work: its tiles, its pending handle entry and itself (R84, R145). -/
def createSubject (s : State) (id : Nat) (x : Subject) (ts : List Tile) : Option State :=
  (stageNew s id x ts).map fun s => addEff (placeEntry s (handleEntry x true)) id (.openSubject x)

/-- Result of an opcode that creates a subject: handle and index. -/
def createdResult (x : Subject) : List Byte := leBytes 8 x.handle ++ leBytes 3 x.index

/-- The checks of SESSION_OPEN (R84). -/
def openChks (s : State) (w : Work) : List Chk :=
  [chk (slotActive s w.hdr.keySlot) stKeyRevoked, chkEv (origin s != 0) stBad 0x0409, chk (openFields w) stBad,
   chk (vocById s (opr w 8 4)).isSome stBad,
   chk ((freeIndex s).isSome && (chooseBed s w.hdr.keySlot (homeBeds s)).isSome && !s.nv.noStep) stNoSpace,
   chk (durableRoom s 4) stNoSpace]

/-- The tiles that a new session begins with: its head, its first text-state tile, its map (R84). -/
def openTiles (x : Subject) : List Tile := [recordTile x 0 1 0 0, recordTile x 1 2 0 0, recordTile x 0x100 3 0 0]

/-- SESSION_OPEN. The insertion waits where the new handle's bucket is being rebuilt (R148). -/
def runOpen (s : State) (w : Work) : State :=
  let bed := chooseBed s w.hdr.keySlot (homeBeds s)
  checked s w (openChks s w) fun s =>
      match issueHandle s, freeIndex s, bed with
      | .wait s, _, _ => s
      | .ok s h, some i, some b =>
        let x := openedSession s w h i b
        if bucketBusy s h then s
        else
          match createSubject s w.id x (openTiles x) with
          | none => fail s w.id stNoSpace
          | some s => done s w.id stDone (createdResult x)
      | _, _, _ => fail s w.id stNoSpace

/-- SESSION_OPEN (R83, R84). -/
def execSessionOpen (work : Nat) (s : State) : Host.Outcome State Fault Refusal :=
  act s <| runWork work (isOp 0x08) (durably runOpen)

/-! ### Freeing a subject (R57, R85, R120, R127) -/

/-- A member leaves its planner: from its list and its entries due (R276). -/
def leavePlanner (s : State) (h : Nat) : State :=
  { s with adm := { s.adm with planners := s.adm.planners.map fun p =>
      { p with members := p.members.filter fun m => m.handle != h, due := p.due.filter fun e => e.1 != h
               manifest := p.manifest.map fun l => l.filter fun e => e.1 != h } } }

/-- Windows that show tiles of a subject are UNBOUND, and the lines of those windows are forgotten. -/
def unbindAll (s : State) (h : Nat) : State :=
  let ws := (s.windows.filter fun e => boundTo e.2 == h).map (·.1)
  dropLines { s with windows := s.windows.filter fun e => boundTo e.2 != h } fun l => l.2 / 2 ^ 24 ∈ ws

/-- Everything that hangs on a subject's handle, but for its planner, its tiles and itself. -/
def detach (s : State) (h : Nat) : State :=
  let s := unbindAll s h
  let index := ((subjAny s h).map (·.index)).getD 0
  let s := dirDelete s fun e => e.index == index
  { s with
    moving := { s.moving with
      items := s.moving.items.filter fun e => e.2.1 != h }
    obs := { s.obs with arms := s.obs.arms.filter fun a => a.handle != h, captures := s.obs.captures.filter fun c => c.handle != h }
    own := { s.own with requests := s.own.requests.filter fun r => r.handle != h }
    dur := { s.dur with writing := s.dur.writing.filter fun e => e.1 != h } }

/-- Tiles of a subject that T4 holds copies of: durable ones and others. -/
def flashCopies (s : State) (h : Nat) : Nat × Nat :=
  let ts := (tilesOf s h).filter fun t => t.copies.any fun c => c.tier == 4
  ((ts.filter fun t => t.durable).length, (ts.filter fun t => !t.durable).length)

/-- Free a subject with its tiles; holders of lodged ones are told (R353). What T4 holds of it stays taken until the next successful
checkpoint (R85). -/
def forget (s : State) (h : Nat) : State :=
  let n := flashCopies s h
  let s := (tilesOf s h).foldl releaseLodged s
  let s := detach { s with dur := { s.dur with freed := (s.dur.freed.1 + n.1, s.dur.freed.2 + n.2) } } h
  { s with subjects := s.subjects.filter fun x => x.handle != h, tiles := s.tiles.filter fun t => t.handle != h }

/-- Sessions and regions that reference a prefix region, or are about to (R127). -/
def references (s : State) (r : Nat) : Nat :=
  (s.subjects.filter fun x => x.parent == r && x.kind == .shared ||
      x.maps.any fun l => l.pages.any fun p => p.region == some r).length +
    (s.work.filter fun w => w.effects.any fun e =>
      match e with
      | .page _ _ _ _ _ (some y) => y == r
      | .openSubject x => x.kind == .shared && x.parent == r
      | _ => false).length

/-- Free closed regions that nothing references any more, with the number of subjects as fuel. Log 47 (DEDUCED). -/
def reap : Nat → State → State
  | 0, s => s
  | k + 1, s =>
    match s.subjects.find? fun x => x.closed && references s x.handle == 0 with
    | none => s
    | some x => reap k (forget s x.handle)

/-- Close a subject: a referenced region keeps its tiles (R127). -/
def closeSubject (s : State) (x : Subject) : State :=
  let s := sendNotice s 0x17 x.own.epoch x.handle 0
  let s := if x.kind = .shared ∧ references s x.handle ≠ 0 then updSubj (detach s x.handle) x.handle fun y => { y with closed := true }
    else forget s x.handle
  reap s.subjects.length s

/-! ### SESSION_CLOSE (R85) -/

/-- The checks of SESSION_CLOSE at acceptance, and step 1: the state becomes CLOSING, what is not in flight and a REVIVE in
progress are discarded; a region leaves the directory (R127). -/
def closeAccepted (s : State) (w : Work) : State :=
  match heldFor s w.hdr.keySlot (subjectOf w) with
  | none => fail s w.id stNotOwner
  | some x =>
    if isOffered x then fail s w.id stConflict
    else if !reservedClear w [(0, 8)] then fail s w.id stBad
    else
      let s := failAll s (fun y => y.id != w.id && subjectOf y == x.handle && y.hdr.keySlot == w.hdr.keySlot &&
        (notStarted y || y.hdr.opcode == 0x02)) stDiscarded
      let s := cancelItems s x.handle
      let s := updSubj s x.handle fun y => { y with state := 4, prior := if y.state = 3 then 2 else y.state }
      if x.kind = .shared then dirDelete s fun e => e.index == x.index else s

/-- SESSION_CLOSE, steps 2 to 4: waits for what was accepted earlier, then frees the subject and completes DONE, which withdraws it from
its planner (R276). -/
def runClose (s : State) (w : Work) : State :=
  match subjAny s (subjectOf w) with
  | none => fail s w.id stNotOwner
  | some x =>
    if earlierOpen s w then s
    else
      let r := releaseLines s ((tilesOf s x.handle).map fun t => (t.handle, t.number))
      if r.2 then finish (closeSubject r.1 x) w.id stDone [] [.unmember 0 x.handle] else r.1

/-- SESSION_CLOSE (R85). -/
def execSessionClose (work : Nat) (s : State) : Host.Outcome State Fault Refusal :=
  act s <| runWork work (isOp 0x09) runClose

/-! ### What an ended work without success leaves behind -/

/-- Status of a descriptor whose effects are made referenced, beside DONE: DONE_TRUNCATED, GRAMMAR_DEAD and PAUSED. -/
def keepsEffects (st : Nat) : Bool := st == stDone || st == stTruncated || st == stGrammarDead || st == stPaused

/-- Indices that creations not yet completed have taken. -/
def pendingIndices (s : State) : List Nat :=
  s.work.flatMap fun w => w.effects.filterMap fun e =>
    match e with
    | .openSubject x => some x.index
    | _ => none

/-- Remove PENDING directory entries that no creation stands behind any more (R145). -/
def sweepDir (s : State) : State :=
  let live := pendingIndices s
  dirDelete s fun e => e.pending && !(e.index ∈ live)

/-- A REVIVE that was the one in progress ended without success: the session is PARKED again; a SESSION_CLOSE that ended without
success gives its subject the state back that it had (R85). -/
def undoWork (s : State) (w : Work) : State :=
  let h := subjectOf w
  let s := if w.hdr.opcode = 0x02 ∧ w.tally = [1] then updSubj s h fun x => if x.state = 3 then { x with state := 2 } else x else s
  if w.hdr.opcode = 0x09 then
    match subjAny s h with
    | none => s
    | some x =>
      if x.state ≠ 4 ∨ x.closed then s
      else
        let s := updSubj s h fun x => { x with state := x.prior }
        if x.kind = .shared then
          let s := placeEntry s (handleEntry x false)
          insertBlocks (if x.isPublic then placeEntry s (publicEntry x false) else s) x false
        else s
  else s

/-! ### PARK (R112, R113) -/

/-- The page that PARK files, and the first token whose KV is not filed (R112). -/
def parkPage (w : Work) : Nat := opr w 16 4 / 32

/-- Valid tokens of the page where it is PARTIAL in a layer. -/
def partialOf (l : LayerMap) (p : Nat) : Option Nat := if (pageOf l p).state = 1 then some (pageOf l p).valid else none

/-- Valid tokens that the page already holds: as its fields were checked, once they have been. -/
def parkValid (x : Subject) (w : Work) : Nat := w.tally.headD ((partialOf (mapOf x 0) (parkPage w)).getD 0)

/-- The fields and conditions of PARK (R112). -/
def parkFields (x : Subject) (w : Work) : Bool :=
  let kv := opr w 16 4
  let p := parkPage w
  let ls := (List.range x.layers).map (mapOf x)
  let v := parkValid x w
  decide (kv ≤ x.log.length) && bits (opr w 20 1) 7 1 == 0 && reservedClear w [(0, 21)] &&
    (ls.all fun l => partialOf l p == partialOf (mapOf x 0) p) && decide (v ≤ kv % 32) &&
    ((opr w 8 8 == 0) == (32 * p + v == kv)) &&
    (ls.all fun l => filedBelow l p) &&
    (ls.all fun l => (List.range l.pages.length).all fun q => decide (q < ceilDiv kv 32) || (pageOf l q).state == 0) &&
    (kv % 32 == 0 || ls.all fun l => (pageOf l p).state != 2)

/-- Give every tile of a session the saturated age (R112 COLD), those that a work has staged as well. -/
def makeCold (s : State) (h : Nat) : State :=
  let cold := fun t : Tile => if t.handle = h then { t with lastUse := tick s - oldest } else t
  { s with
    tiles := s.tiles.map cold
    work := s.work.map fun w => { w with effects := w.effects.map fun e =>
      match e with
      | .tile t => .tile (cold t)
      | e => e } }

/-- PARK's step 3 once its work has ended with success: prefetch items are cancelled, and COLD is applied. -/
def parkTail (s : State) (id h : Nat) (cold : Bool) : State :=
  match workOf s id with
  | none => s
  | some w =>
    if w.place = .ended ∧ (w.status = some stDone ∨ w.status = some stTruncated) then
      let s := cancelItems s h
      if cold then makeCold s h else s
    else s

/-- The outstanding tree ends at PARK (R225): its record and the tiles of tree KV. -/
def parkDraft (s : State) (x : Subject) : List Tile × List Effect :=
  match x.draft, recordNumber s x.handle with
  | some d, some n => if d.base.isSome then ([draftRecord x n], .draft x.handle (some (noTree d)) :: dropAll (treeTiles s x.handle)) else ([], [])
  | _, _ => ([], [])

/-- Layers whose partial page has become ABSENT since the fields of a PARK were checked (R80, R113). -/
def parkLost (x : Subject) (w : Work) : List Nat :=
  if parkValid x w = 0 then [] else (List.range x.layers).filter fun k => (pageOf (mapOf x k) (parkPage w)).state == 3

/-- File the near window, or nothing, and make the session PARKED: DONE_TRUNCATED where layers are left out (R113). -/
def parkWith (s : State) (w : Work) (x : Subject) (src : Fetch) : State :=
  let p := parkPage w
  let v := parkValid x w
  let tn := opr w 16 4 - (32 * p + v)
  let layers := List.range x.layers
  let len := sourceBytes x 0x12 tn x.layers
  let a := addrOf (opr w 8 8)
  let d := parkDraft s x
  let extra := d.2 ++ [.sessState x.handle 2]
  let lost := parkLost x w
  let status := if lost.isEmpty then stDone else stTruncated
  let result := leBytes 4 (filedMin x)
  let s := updWork s w.id fun y => { y with tally := [v] }
  if tn = 0 then conclude s w status result d.1 extra
  else
    checked s w (nearChks s w a len false) fun s =>
      let bad := badPartial s x (layers.filter fun k => !(k ∈ lost)) p v
      if layerBusy s w x.handle layers then s
      else fetched s w (lodgedOf s x layers p ++ operandLodged s a len) fun s =>
      if !bad.isEmpty then bad.foldl (fun s k => dropMalformed s x k [p]) s
      else shaped s w (moveBytes s a len + farBytes (filingTiles s x layers p)) 0 fun s => withOperand s w a len false src fun s b =>
        match stageAll s w.id d.1 with
        | none => fail s w.id stNoSpace
        | some s => ingestEnd s w x layers lost p v tn 0x12 b status result extra

/-- The checks of PARK before its fields (R60, R111, R346). Log 147 (DEDUCED). -/
def parkChks (x : Subject) : List Chk := sessionChks x true true ++ [chk (x.state != 3) stConflict]

/-- PARK. Log 56 (DEDUCED). -/
def runPark (src : Fetch) (s : State) (w : Work) : State :=
  withSubject s w fun x =>
    checked s w (parkChks x) fun s =>
      if x.state = 2 then finish s w.id stDone (leBytes 4 (filedMin x)) []
      else checked s w [chk (!w.tally.isEmpty || parkFields x w) stBad] fun s =>
        parkTail (parkWith s w x src) w.id x.handle (bit (opr w 20 1) 0)

/-- PARK (R113). -/
def execPark (work : Nat) (src : Fetch) (s : State) : Host.Outcome State Fault Refusal :=
  act s <| runWork work (isOp 0x01) (durably (runPark src))

/-! ### REVIVE (R114 to R117) -/

/-- RECENT, with its default. -/
def recentOf (s : State) (w : Work) : Nat := if opr w 10 2 = 0 then reg s .stoReviveRecent else opr w 10 2

/-- The field checks of REVIVE (R114). -/
def reviveFields (w : Work) : Bool :=
  decide (opr w 8 1 ≤ 2) && bits (opr w 9 1) 7 1 == 0 && decide (opr w 10 2 ≤ 1024) && reservedClear w [(0, 12)]

/-- The bed that a tile of a session's working set is raised to: a region's own home for a region's (R89). -/
def raiseBed (s : State) (x : Subject) (bed h : Nat) : Nat := if h = x.handle then bed else homeOf s h

/-- Bytes of T1 that the tiles of a set take on a bed whose vaults serve, if it were the session's home (R79, R117). Log 148 (DEDUCED). -/
def t1Share (s : State) (x : Subject) (bed : Nat) (names : List (Nat × Nat)) : Nat :=
  (((names.filter fun e => raiseBed s x bed e.1 == bed).filterMap fun e => tileOf s e.1 e.2).map fun t =>
    if t.durable then 2 else 1).sum * tileBytes

/-- The bed that a REVIVE places in (R117). -/
def reviveBed (s : State) (w : Work) (x : Subject) (t1 : List (Nat × Nat)) : Nat :=
  let part := slotPart s x.keySlot
  let need := fun b => t1Share s x b t1
  let cap := t1CapOf s x.homeBed part * 2 ^ 20
  let free := cap - min (t1UsedOf s x.homeBed part) (cap * reg s .stoWmT1Low / 100)
  let others := (List.range (bedCount s.model)).filter fun b => b != x.homeBed && decide (b ∈ homeBeds s) &&
    ((leaves s).any fun l => l.bed == b && (outermost s 1).any fun u => u.id == rootOf s l.id) && decide (need b ≤ t1FreeOf s b part)
  if bit (opr w 9 1) 0 ∨ x.state = 1 ∨ need x.homeBed ≤ free then x.homeBed else (chooseBed s x.keySlot others).getD x.homeBed

/-- Place tiles one after another; whether all of them were placed. -/
def placeAll (f : State → Nat → Nat → State × Bool) (s : State) (names : List (Nat × Nat)) : State × Bool :=
  names.foldl (fun r e => let q := f r.1 e.1 e.2; (q.1, r.2 && (q.2 || (tileOf q.1 e.1 e.2).all fun t => masterTier t == 0))) (s, true)

/-- The result of REVIVE (R116). Log 55 (DEDUCED). -/
def reviveResult (x : Subject) (bed : Nat) : List Byte :=
  let absent := (List.range x.layers).flatMap fun k =>
    let l := mapOf x k
    (List.range l.pages.length).filter fun p => (pageOf l p).state == 3
  leBytes 4 (filedMin x) ++ leBytes 4 absent.length ++ leBytes 4 (absent.foldl min 0xFFFFFFFF) ++ [byte bed]

/-- Another REVIVE WORKING or FULL is in progress for the session (R111). -/
def reviveInProgress (s : State) (w : Work) : Option Work :=
  s.work.find? fun y => y.id != w.id && y.hdr.opcode == 0x02 && subjectOf y == subjectOf w && y.tally == [1]

/-- End the REVIVE in progress, and those that complete with it (R111). Log 54 (DEDUCED). -/
def endRevive (s : State) (w : Work) (status : Nat) (result : List Byte) (effects : List Effect) : State :=
  let joined := s.work.filter fun y => y.id != w.id && unfinished y && y.hdr.opcode == 0x02 && subjectOf y == subjectOf w && y.tally == [2]
  let s := finish s w.id status result effects
  joined.foldl (fun s y => finish s y.id status result []) s

/-- The set of a REVIVE (R115): tiles for T2, for home-bed T1, and with MODE FULL every other tile. -/
def reviveNames (s : State) (w : Work) (x : Subject) (full : Bool) : List (Nat × Nat) × List (Nat × Nat) × List (Nat × Nat) :=
  (workingT2 s x, workingT1 s x (recentOf s w),
   if full then ((tilesOf s x.handle).filter fun t => t.version != 0).map fun t => (t.handle, t.number) else [])

/-- Tiles whose T1 master moves to another bed, or whose versions change as SX2 tiles are expanded (R96, R106, R117). -/
def reviveMoves (s : State) (x : Subject) (bed : Nat) (t1 all : List (Nat × Nat)) : List (Nat × Nat) :=
  let elsewhere := t1.filter fun e => (tileOf s e.1 e.2).any fun t =>
    masterTier t == 1 && !t.copies.any fun c => c.tier == 1 && c.place / 16 == raiseBed s x bed e.1
  let two := all.filter fun e => (tileOf s e.1 e.2).any fun t => t.kind == 5 && t.format == 2
  elsewhere ++ two ++ if two.isEmpty then [] else [(x.handle, 0), (x.handle, 0x100)]

/-- Place the tiles of a REVIVE's set (R116): the state after it, and whether each found its place. -/
def placeSet (s : State) (x : Subject) (bed : Nat) (t2 t1 rest : List (Nat × Nat)) : State × Bool :=
  let a := placeAll bringT2 s t2
  let b := placeAll (fun s h n => raiseT1 s h n (raiseBed s x bed h)) a.1 t1
  -- what T1 cannot take stays in T2
  let c := placeAll bringT2 b.1 t1
  let d := placeAll bringT2 c.1 rest
  (d.1, a.2 && b.2 && d.2)

/-- Place the set of a REVIVE and end it (R116). Copies that fail their checksum as they are read are dropped (`bad` names their tiles); a
durable tile without a valid copy damages the subject (R80); a lodged tile is adopted first; lines of tiles that move are released (R96). -/
def reviveSet (bad : List (Nat × Nat)) (s : State) (w : Work) (x : Subject) (full : Bool) : State :=
  let n := reviveNames s w x full
  let all := (n.1 ++ n.2.1 ++ n.2.2).dedup
  let s := readFails s bad all
  let tiles := all.filterMap fun e => tileOf s e.1 e.2
  if (subjAny s x.handle).any fun y => y.state == 5 then endRevive s w stPoisoned [] []
  else
    match tiles.find? (fun t => t.durable && masterTier t == 0 && t.lodged.isNone && t.handle == x.handle) with
    | some t => endRevive (tileLost s t.handle t.number) w stPoisoned [] []
    | none =>
      let lodged := tiles.filter fun t => t.lodged.isSome
      if !lodged.isEmpty then lodged.foldl (askShaped false 0 0xFF w) s
      else
        let bed := reviveBed s w x n.2.1
        let r := releaseLines s (reviveMoves s x bed n.2.1 all)
        if !r.2 then r.1
        else shaped r.1 w ((tiles.filter fun t => decide (3 ≤ masterTier t)).length * tileBytes) 0 fun s =>
          let d := placeSet s x bed n.1 n.2.1 n.2.2
          let y := (subjAny d.1 x.handle).getD x
          let state := if x.kind = .session then [Effect.sessState x.handle 1] else []
          let home := if bed = x.homeBed then [] else [Effect.homeBed x.handle bed]
          endRevive d.1 w (if d.2 then stDone else stTruncated) (reviveResult y bed) (state ++ home)

/-- The checks of REVIVE WORKING and FULL (R60, R114, R346). -/
def reviveChks (x : Subject) (w : Work) : List Chk :=
  [chk (x.state != 5) stPoisoned, chk (reviveFields w) stBad, chk (!isOffered x) stConflict]

/-- A REVIVE that starts on a PARKED session makes it REVIVING (R60, R111). -/
def beginRevive (s : State) (w : Work) (x : Subject) : State :=
  if x.state = 2 then updSubj (updWork s w.id fun z => { z with tally := [1] }) x.handle fun y => { y with state := 3 } else s

/-- A REVIVE WORKING or FULL that is accepted, and waits for nothing, makes its PARKED session REVIVING at once, if its checks pass
(R60). -/
def acceptRevive (s : State) (w : Work) : State :=
  match heldFor s w.hdr.keySlot (subjectOf w) with
  | none => s
  | some x => if w.waits.isEmpty && isSession x && (firstFail (reviveChks x w)).isNone then beginRevive s w x else s

/-- REVIVE with MODE WORKING or FULL. -/
def runRevive (full : Bool) (bad : List (Nat × Nat)) (s : State) (w : Work) : State :=
  withSubject s w fun x =>
    checked s w (reviveChks x w) fun s =>
      if x.state = 3 ∧ w.tally ≠ [1] then
        match reviveInProgress s w with
        | none => reviveSet bad (updWork s w.id fun y => { y with tally := [1] }) w x full
        | some y =>
          if opr y 8 1 ≠ opr w 8 1 then fail s w.id stConflict
          else if y.place = .ended then finish s w.id (y.status.getD stDone) y.result []
          else updWork s w.id fun z => { z with tally := [2] }
      else
        reviveSet bad (beginRevive s w x) w x full

/-- REVIVE WORKING (R116). -/
def execReviveWorking (run : ReadRun) (s : State) : Host.Outcome State Fault Refusal :=
  act s <| runWork run.work (isFirstMode 0x02 8 3) (runRevive false run.bad)

/-- REVIVE FULL (R115). -/
def execReviveFull (run : ReadRun) (s : State) : Host.Outcome State Fault Refusal :=
  act s <| runWork run.work (isMode 0x02 8 1) (runRevive true run.bad)

/-- Add prefetch items that are not queued yet (R108). -/
def addItems (s : State) (items : List (Nat × Nat × Nat)) : State :=
  { s with moving := { s.moving with items := s.moving.items ++ items.filter fun e => !(e ∈ s.moving.items) } }

/-- The working set queued as resume-hint prefetch; a REVIVING session is left alone (R111, R115). -/
def hinted (s : State) (w : Work) (x : Subject) : State :=
  if x.state = 3 then s else addItems s ((workingT2 s x ++ workingT1 s x (recentOf s w)).map fun e => (5, e.1, e.2))

/-- REVIVE with MODE HINT. -/
def runHint (s : State) (w : Work) : State :=
  withSubject s w fun x =>
    checked s w [chk (x.state != 5) stPoisoned, chk (reviveFields w) stBad] fun s => done (hinted s w x) w.id stDone []

/-- A REVIVE HINT completes at acceptance, unless it waits for descriptors accepted earlier (R113, R115). -/
def acceptHint (s : State) (w : Work) : State := if w.waits.isEmpty then runHint s w else s

/-- REVIVE HINT (R115): one that had to wait. -/
def execReviveHint (work : Nat) (s : State) : Host.Outcome State Fault Refusal :=
  act s <| runWork work (isMode 0x02 8 2) runHint

/-! ### MOVE PLACE (R118, R119) -/

/-- The field checks of PLACE. Log 52 (DEDUCED). -/
def placeFields (x : Subject) (w : Work) : Bool :=
  let f := opr w 12 2
  let n := opr w 14 2
  decide (opr w 8 1 ≤ 3) && decide (1 ≤ opr w 9 1) && decide (opr w 9 1 ≤ 4) && bits (opr w 10 1) 7 3 == 0 && opr w 11 1 == 0 &&
    reservedClear w [(0, 25)] && decide (f < max 1 x.layers) && (n == 0 || decide (f + n ≤ x.layers)) &&
    (opr w 9 1 != 3 || decide (opr w 24 1 < 64) || opr w 24 1 == 0xFF)

/-- The tile is selected by WHAT, layers and pages. -/
def selected (x : Subject) (w : Work) (t : Tile) : Bool :=
  let what := opr w 10 1
  let f := opr w 12 2
  let n := opr w 14 2
  let pf := opr w 16 4
  let pn := opr w 20 4
  t.version != 0 &&
    ((bit what 1 && decide (t.kind ≤ 4)) || (bit what 2 && t.kind == 9) ||
     (bit what 0 && decide (5 ≤ t.kind) && decide (t.kind ≤ 8) && decide (f ≤ t.layer) && (n == 0 || decide (t.layer < f + n)) &&
       (dependentPages x t).any fun p => decide (pf ≤ p) && (pn == 0 || decide (p < pf + pn))))

/-- What placing one tile comes to. -/
inductive Put where
  | placed
  | skipped
  | stop
  | wait
deriving DecidableEq, Repr

/-- Write a tile's master to a tier, in given new places or where it lies already, and drop the copies above it; a T1 master waits
for its lines. -/
def putDown (s : State) (t : Tile) (tier : Nat) (places : List Nat) : State × Put :=
  let r := if masterTier t = 1 then releaseLines s [(t.handle, t.number)] else (s, true)
  if !r.2 then (r.1, .wait)
  else (updTile (spillPlain r.1 t tier places) t.handle t.number fun x => { x with lastUse := tick r.1 }, .placed)

/-- A reconstructible tile's place in a granted T3 range, else T4 (R104). -/
def placeLow (s : State) (t : Tile) : Option (Nat × List Nat) :=
  match t3New s with
  | some r => some (3, [r])
  | none => if sharedRoom s then some (4, [t4Place s t]) else none

/-- Where a tile that is read from its holder goes: the tier and places, if it has room; PLACE names the tier (R119). An SX2 tile that
cannot be expanded goes no higher than T3 (R106). -/
def adoptPlace (s : State) (t : Tile) (tier : Nat) (range : Option Nat) : Option (Nat × List Nat) :=
  let bed := homeOf s t.handle
  if t.kind = 5 ∧ t.format = 2 ∧ tier ≤ 2 then
    (if expandable s t then some (2, t2Places s t) else if tier = 0 then placeLow s t else none)
  else match tier with
  | 0 => placeNew s t
  | 1 => if t1Fits s t bed then some (1, t1Places s t bed) else none
  | 2 => if t2Fits s t then some (2, t2Places s t) else none
  | 3 => range.map fun r => (3, [r])
  | _ => if (t.durable && durableWritable s) || (!t.durable && sharedRoom s) then some (4, [t4Place s t]) else none

/-- The T3 range that PLACE uses: the one named, or the one of lowest occupancy, if it serves and lies below its high mark. -/
def placeRange (s : State) (r : Nat) : Option Nat :=
  let ok := fun k => regGet s .stoT3StatusState k == 1 && regGet s .stoT3CtrlCompute k == 0 &&
    decide (100 * t3Used s k < reg s .stoWmT3High * t3Size s k) && decide (t3Used s k + tileBytes ≤ t3Size s k)
  if r = 0xFF then leastBy (t3Load s) ((List.range 64).filter ok) else if ok r then some r else none

/-- T1 of a tile's home bed has reached its high mark (R119). -/
def t1AtHigh (s : State) (t : Tile) : Bool :=
  let l := scopeLoad s 1 (homeOf s t.handle * 16 + partOf s t)
  decide (reg s .stoWmT1High * l.2 ≤ 100 * l.1)

/-- Bytes that placing a tile moves into and out of the logic package through a port, or from or to T3 or T4 (R289). -/
def placeMoves (s : State) (t : Tile) (tier range : Nat) : Nat × Nat :=
  let m := masterTier t
  let stays := m == tier && (tier != 3 || range == 0xFF || (scopeOf s t).2 == range)
  let out := if 3 ≤ tier ∧ (tier = 3 ∨ !hasCopy t tier) then tileBytes else 0
  if tier = 3 ∧ t.durable then (0, 0)
  else if t.lodged.isSome then (if asked s t then 0 else tileBytes, out)
  else if m = 0 ∨ stays then (0, 0)
  else (if 3 ≤ m ∧ (tier < 3 ∨ out ≠ 0) then tileBytes else 0, out)

/-- Make a tier the master tier of a tile (R119). A tile that has no valid copy is skipped. Log 165 (DESIGN CHOICE). -/
def placeTile (s : State) (t : Tile) (tier range : Nat) : State × Put :=
  let bed := homeOf s t.handle
  if tier = 3 ∧ t.durable then (s, .skipped)
  else if t.lodged.isSome then
    (if (tier = 1 ∧ t1AtHigh s t) ∨ (adoptPlace s t tier (placeRange s range)).isNone then (s, .stop)
     else (askTile false tier range s t, .wait))
  else if masterTier t = 0 then (s, .skipped)
  else if masterTier t = tier ∧ tier ≠ 3 then (useTile s t.handle t.number, .placed)
  else
    match tier with
    | 1 =>
      if t1AtHigh s t then (s, .stop)
      else let r := raiseT1 s t.handle t.number bed; (r.1, if r.2 then .placed else .stop)
    | 2 =>
      if masterTier t = 1 then
        (if hasCopy t 2 then putDown s t 2 [] else if t2Fits s t then putDown s t 2 (t2Places s t) else (s, .stop))
      else let r := bringT2 s t.handle t.number; (r.1, if r.2 then .placed else .stop)
    | 3 =>
      if masterTier t = 3 ∧ (range = 0xFF ∨ (scopeOf s t).2 = range) then (useTile s t.handle t.number, .placed)
      else
        match placeRange s range with
        | none => (s, .stop)
        | some r => putDown s t 3 [r]
    | _ =>
      if hasCopy t 4 then putDown s t 4 []
      else if (t.durable && durableWritable s) || (!t.durable && sharedRoom s) then putDown s t 4 [t4Place s t]
      else (s, .stop)

/-- Place a tile once its shapers let it move (R289, R291). -/
def placeShaped (s : State) (w : Work) (t : Tile) (tier range : Nat) : State × Put :=
  let n := placeMoves s t tier range
  if mayMove s w 0 n.1 && mayMove s w 1 n.2 then
    let r := placeTile s t tier range
    (if r.2 = .placed ∨ r.2 = .wait then moved r.1 w n.1 n.2 else r.1, r.2)
  else (shaperWait s w n.1 n.2, .wait)

/-- Place the selected tiles in order of their numbers: state, placed, skipped, how it ended. -/
def placeLoop (w : Work) (tier range : Nat) : List (Nat × Nat) → State → Nat → Nat → State × Nat × Nat × Put
  | [], s, a, b => (s, a, b, .placed)
  | e :: es, s, a, b =>
    match tileOf s e.1 e.2 with
    | none => placeLoop w tier range es s a b
    | some t =>
      match placeShaped s w t tier range with
      | (s, .placed) => placeLoop w tier range es s (a + 1) b
      | (s, .skipped) => placeLoop w tier range es s a (b + 1)
      | (s, p) => (s, a, b, p)

/-- The checks of PLACE (R60, R111, R118, R346). -/
def placeChks (x : Subject) (w : Work) : List Chk :=
  [chk (x.state != 5) stPoisoned, chk (x.state != 3 && !isOffered x) stConflict, chk (opr w 8 1 == 0 && placeFields x w) stBad]

/-- The tiles that PLACE selects, by ascending number. -/
def placeNames (s : State) (x : Subject) (w : Work) : List (Nat × Nat) :=
  sortKey (·.2) (((tilesOf s x.handle).filter (selected x w)).map fun t => (t.handle, t.number))

/-- MOVE with MODE PLACE. Copies that fail their checksum as they are read are dropped (`bad` names their tiles); a durable tile that is lost
so damages the subject (R80). -/
def runPlace (bad : List (Nat × Nat)) (s : State) (w : Work) : State :=
  withSubject s w fun x =>
    checked s w (placeChks x w) fun s =>
      let names := placeNames s x w
      let s := readFails s bad names
      if (subjAny s x.handle).any fun y => y.state == 5 then fail s w.id stPoisoned
      else
        match placeLoop w (opr w 9 1) (opr w 24 1) names s 0 0 with
        | (s, _, _, .wait) => s
        | (s, a, b, p) => finish s w.id (if p = .stop then stTruncated else stDone) (leBytes 4 a ++ leBytes 4 b) []

/-- MOVE PLACE (R119). -/
def execMovePlace (run : ReadRun) (s : State) : Host.Outcome State Fault Refusal :=
  act s <| runWork run.work (isFirstMode 0x03 8 4) (runPlace run.bad)

/-! ### MOVE VIEW and UNVIEW (R120) -/

/-- The window is UNBOUND, and no work is about to bind it. -/
def windowFree (s : State) (w : Nat) : Bool :=
  windowExists s w && (bindingOf s w).isNone && s.work.all fun y => y.effects.all fun e =>
    match e with
    | .bind v _ => v != w
    | _ => true

/-- The checks that VIEW, UNVIEW and ATTACH share. Log 53 (DEDUCED). -/
def moveChks (x : Subject) : List Chk :=
  [chk (isSession x) stNotOwner, chk (x.state != 5) stPoisoned, chk (x.state != 3 && !isOffered x) stConflict]

/-- The checks of VIEW (R118, R120). -/
def viewChks (s : State) (w : Work) (x : Subject) : List Chk :=
  let a := opr w 16 8
  let base := opr w 24 4
  moveChks x ++
    [chk (reservedClear w [(0, 9), (16, 12)] && a % 2 ^ 30 == 0 && base % 65536 == 0 && decide (base < 2 ^ 24)) stBad,
     chk (windowFree s (a / 2 ^ 30)) stBad]

/-- MOVE with MODE VIEW. -/
def runView (s : State) (w : Work) : State :=
  withSubject s w fun x =>
    checked s w (viewChks s w x) fun s => finish s w.id stDone [] [.bind (opr w 16 8 / 2 ^ 30) (.view x.handle (opr w 24 4))]

/-- MOVE VIEW (R120). -/
def execMoveView (work : Nat) (s : State) : Host.Outcome State Fault Refusal :=
  act s <| runWork work (isMode 0x03 8 1) runView

/-- A view of a session in a window. -/
def viewOf (s : State) (h w : Nat) : Bool :=
  match bindingOf s w with
  | some (.view x _) => x == h
  | _ => false

/-- Release the lines of a window; whether none is left. -/
def releaseWindow (s : State) (w : Nat) : State × Bool :=
  let lines := s.cxl.snoop.filter fun e => e.2 / 2 ^ 24 == w
  (snoopLines s lines, lines.isEmpty)

/-- The checks of UNVIEW (R118, R120). -/
def unviewChks (s : State) (w : Work) (x : Subject) : List Chk :=
  let a := opr w 16 8
  moveChks x ++
    [chk (reservedClear w [(0, 9), (16, 12)] && a % 2 ^ 30 == 0 && opr w 24 4 % 65536 == 0) stBad,
     chk (viewOf s x.handle (a / 2 ^ 30)) stBad]

/-- MOVE with MODE UNVIEW. -/
def runUnview (s : State) (w : Work) : State :=
  withSubject s w fun x =>
    let a := opr w 16 8
    checked s w (unviewChks s w x) fun s =>
        let r := releaseWindow s (a / 2 ^ 30)
        if r.2 then finish r.1 w.id stDone [] [.unbind (a / 2 ^ 30)] else r.1

/-- MOVE UNVIEW (R120). -/
def execMoveUnview (work : Nat) (s : State) : Host.Outcome State Fault Refusal :=
  act s <| runWork work (isMode 0x03 8 2) runUnview

/-! ### MOVE ATTACH (R123 to R126) -/

/-- Tokens of a run of log entries. -/
def tokensAt (x : Subject) (first n : Nat) : List Nat := ((x.log.drop first).take n).map fun e => e % 2 ^ 18

/-- The block hashes 0 to `n - 1` of a token log (R123). -/
def hashChain (tag : Nat) (x : Subject) : Nat → List (List Byte)
  | 0 => []
  | n + 1 =>
    let before := hashChain tag x n
    let prev := match before.getLast? with
      | none => leBytes 8 tag
      | some h => h
    before ++ [shake 16 (prev ++ packNats 4 (tokensAt x (32 * n) 32))]

/-- The subject that a directory entry names. -/
def entrySubject (s : State) (e : DirEntry) : Option Subject := s.subjects.find? fun x => x.index == e.index && x.kind == .shared

/-- A prefix region by its handle, as an attach finds it (R125). -/
def attachRegion (s : State) (slot h : Nat) : Option Subject :=
  if h = 0 then none else (dirLookup s 3 slot (handleValue h)).bind (entrySubject s)

/-- The chain of a region: itself and its ancestors, with the number of subjects as fuel. Log 57 (DEDUCED). -/
def regionChain : Nat → State → Nat → Option Subject → List Subject
  | 0, _, _, _ => []
  | _, _, _, none => []
  | k + 1, s, slot, some r => r :: regionChain k s slot (attachRegion s slot r.parent)

/-- The region that may supply page `k` (R125). -/
def supplier (s : State) (w : Work) (hashes : List (List Byte)) (k : Nat) : Option Subject :=
  if bit (opr w 9 1) 0 then
    (regionChain s.subjects.length s w.hdr.keySlot (attachRegion s w.hdr.keySlot (opr w 16 8))).find? fun r =>
      decide (r.firstPage ≤ k) && decide (k < r.firstPage + r.count)
  else
    match dirLookup s 4 w.hdr.keySlot (hashes.getD k []) with
    | none => none
    | some e => if e.block = k then entrySubject s e else none

/-- The region's shape, vocabulary and MODEL_TAG are the session's and the descriptor's, and it still holds the page. -/
def supplies (w : Work) (x r : Subject) (k : Nat) : Bool :=
  r.layers == x.layers && r.kvHeads == x.kvHeads && r.ratio == x.ratio && r.dim == x.dim && r.vocab == x.vocab &&
    r.modelTag == opr w 24 8 && (List.range r.layers).all fun l => (pageOf (mapOf r l) k).state == 2

/-- Leading pages of the session that may be attached (R125). -/
def attachLimit (x : Subject) (w : Work) : Nat :=
  let n := x.log.length / 32
  let m := if opr w 32 4 = 0 then n else min n (opr w 32 4)
  ((List.range m).find? fun p => (List.range x.layers).any fun l =>
    (pageOf (mapOf x l) p).state != 0 && (pageOf (mapOf x l) p).state != 3).getD m

/-- The regions of the longest run of pages from `k`, and whether a mismatch of tokens ended it, with the limit as fuel (R125). -/
def attachRun (s : State) (w : Work) (x : Subject) (hashes : List (List Byte)) : Nat → Nat → Option Nat → List Subject × Bool
  | 0, _, _ => ([], false)
  | n + 1, k, prev =>
    match supplier s w hashes k with
    | none => ([], false)
    | some r =>
      let chain := (regionChain s.subjects.length s w.hdr.keySlot (some r)).map (·.handle)
      if !supplies w x r k || prev.any (fun p => !(p ∈ chain)) then ([], false)
      else if tokensAt r (32 * k) 32 ≠ tokensAt x (32 * k) 32 then ([], true)
      else
        let t := attachRun s w x hashes n (k + 1) (some r.handle)
        (r :: t.1, t.2)

/-- Apply an effect on the map of a layer at once, on a state that is only computed with. -/
def scratchEffect (s : State) (e : Effect) : State :=
  match e with
  | .page h layer page st valid region =>
    updSubj s h fun x =>
      let l := mapOf x layer
      setMap x layer { l with pages := setAt { state := 0, valid := 0, region := none } l.pages page { state := st, valid := valid, region := region } }
  | .seqs h layer first code scale summary patch =>
    updSubj s h fun x =>
      let l := mapOf x layer
      let set := fun (old : List Nat) (new : List (Nat × Nat)) => new.foldl (fun a e => setAt 0xFFFFFFFF a e.1 e.2) old
      setMap x layer { l with
        first := first, code := set l.code code, scale := set l.scale scale, summary := set l.summary summary, patch := patch }
  | _ => s

/-- Apply what filing a page came to, at once. -/
def scratchLayer (s : State) (o : LayerOut) : State :=
  o.effects.foldl scratchEffect (o.tiles.foldl (fun s t => putTile s { t with version := 1, copies := [{ tier := 2, place := 0, version := 1 }] }) s)

/-- Copy a page of a region into the session's own tiles of a layer (R126), on a state that is only computed with. -/
def copyPage (s : State) (x r : Subject) (layer page : Nat) (used : List Nat) : State × List Nat × List (Nat × Nat) :=
  match subjAny s x.handle with
  | none => (s, used, [])
  | some y =>
    let hps := (List.range r.kvHeads).map fun h => headPage s r (mapOf r layer) page h
    let o := writePage s y layer page 32 (pageLowered s r (mapOf r layer) page) hps used
    (scratchLayer s o, o.used, o.tiles.map fun t => (t.handle, t.number))

/-- Attach page `page` of every layer to a region: by reference under one key, else by copy (R126). -/
def attachPage (a : State × List Nat × List (Nat × Nat)) (x r : Subject) (page : Nat) : State × List Nat × List (Nat × Nat) :=
  (List.range x.layers).foldl (fun a layer =>
    if r.keySlot = x.keySlot then
      let s := scratchEffect a.1 (.page x.handle layer page 2 32 (some r.handle))
      let s := updSubj s x.handle fun y =>
        let l := mapOf y layer
        if l.code.isEmpty then setMap y layer { l with first := page + 1 } else y
      (s, a.2.1, a.2.2)
    else
      let c := copyPage a.1 x r layer page a.2.1
      (c.1, c.2.1, a.2.2 ++ c.2.2)) a

/-- The effects that turn one map of a layer into another: every place of its sequences, and the pages below a limit. -/
def mapEffects (h layer n : Nat) (l : LayerMap) : List Effect :=
  let places := fun (q : List Nat) => (List.range q.length).map fun i => (i, q.getD i 0xFFFFFFFF)
  .seqs h layer l.first (places l.code) (places l.scale) (places l.summary) l.patch ::
    (List.range n).map fun p => let g := pageOf l p; .page h layer p g.state g.valid g.region

/-- End an ATTACH of the regions found. -/
def attachEnd (s : State) (w : Work) (x : Subject) (rs : List Subject) : State :=
  let n := rs.length
  let result := leBytes 4 n
  if n = 0 then done s w.id stDone result
  else
    let a := (List.range n).foldl (fun a k =>
      match rs[k]? with
      | none => a
      | some r => attachPage a x r k) (s, usedNumbers s x.handle, [])
    if a.2.1.any (fun n => decide (0xFFFFFF < n)) then fail s w.id stNoSpace
    else
      match subjAny a.1 x.handle with
      | none => s
      | some y =>
        let names := a.2.2.dedup
        let kept := names.filterMap fun e => tileOf a.1 e.1 e.2
        let freed := ((List.range x.layers).flatMap fun k =>
          let l := mapOf x k
          let m := mapOf y k
          (l.code ++ l.scale ++ l.summary ++ l.patch).filter fun n => !(n ∈ m.code ++ m.scale ++ m.summary ++ m.patch)).dedup
        conclude s w stDone result (kept ++ headTiles x)
          (((List.range x.layers).flatMap fun k => mapEffects x.handle k n (mapOf y k)) ++
            freed.map fun n => .dropTile x.handle n)

/-- Region tiles at a holder that an ATTACH by copy must read. -/
def attachLodged (s : State) (x : Subject) (rs : List Subject) : List Tile :=
  ((rs.filter fun r => r.keySlot != x.keySlot).map (·.handle)).dedup.flatMap fun h =>
    (tilesOf s h).filter fun t => t.lodged.isSome && decide (5 ≤ t.kind) && decide (t.kind ≤ 8)

/-- The checks of ATTACH (R118). Log 58 (DEDUCED). -/
def attachChks (w : Work) (x : Subject) : List Chk :=
  moveChks x ++ [chk (bits (opr w 9 1) 7 1 == 0 && reservedClear w [(0, 10), (16, 20)]) stBad]

/-- What ATTACH finds: the regions of the longest run, and whether a mismatch of tokens ended it (R125). -/
def attachFound (s : State) (w : Work) (x : Subject) : List Subject × Bool :=
  let limit := attachLimit x w
  attachRun s w x (if bit (opr w 9 1) 0 then [] else hashChain (opr w 24 8) x limit) limit 0 none

/-- Pages that an ATTACH had found when it first had to wait, 0 while it has not (R128). -/
def attachNoted (w : Work) : Nat := w.tally.headD 0

/-- An ATTACH waits: the pages that it has found are its range (R128). -/
def attachWaits (s : State) (w : Work) (n : Nat) : State :=
  updWork s w.id fun y => { y with tally := if y.tally.isEmpty then [n] else y.tally }

/-- MODE ATTACH copies pages of other tenants' regions: bytes of their tiles in T3 or T4 (R289). -/
def attachBytes (s : State) (x : Subject) (rs : List Subject) : Nat :=
  let hs := ((rs.filter fun r => r.keySlot != x.keySlot).map (·.handle)).dedup
  ((s.tiles.filter fun t => decide (t.handle ∈ hs) && decide (5 ≤ t.kind) && decide (t.kind ≤ 8) && decide (3 ≤ masterTier t)).length) *
    tileBytes

/-- Pages with a malformed group that an ATTACH by copy would read: region, layer, page (R156). -/
def attachBad (s : State) (x : Subject) (rs : List Subject) : List (Subject × Nat × Nat) :=
  (List.range rs.length).flatMap fun p =>
    match rs[p]? with
    | none => []
    | some r =>
      if r.keySlot = x.keySlot then []
      else ((List.range r.layers).filter fun k => pageMalformed s r k p).map fun k => (r, k, p)

/-- An ATTACH looks up a bucket that is being rebuilt: by handle, those of the region and of its PARENT chain; else those of the block
hashes (R132, R148). -/
def attachBusy (s : State) (w : Work) (x : Subject) : Bool :=
  if bit (opr w 9 1) 0 then
    let chain := regionChain s.subjects.length s w.hdr.keySlot (attachRegion s w.hdr.keySlot (opr w 16 8))
    bucketBusy s (opr w 16 8) || chain.any fun r => r.parent != 0 && bucketBusy s r.parent
  else (hashChain (opr w 24 8) x (attachLimit x w)).any fun b => bucketOf s 4 b ∈ s.dir.rebuilding

/-- MODE ATTACH. A page of its range that other work has filed while it waited makes it CONFLICT (R128). -/
def runAttach (s : State) (w : Work) : State :=
  withSubject s w fun x =>
    checked s w (attachChks w x ++ [chk (decide (attachNoted w ≤ attachLimit x w)) stConflict]) fun s =>
      let r := attachFound s w x
      let lodged := attachLodged s x r.1
      if attachBusy s w x then s
      else if layerBusy s w x.handle (List.range x.layers) then attachWaits s w r.1.length
      else if !lodged.isEmpty then lodged.foldl (askShaped false 0 0xFF w) (attachWaits s w r.1.length)
      else if !(attachBad s x r.1).isEmpty then
        (attachBad s x r.1).foldl (fun s e => dropMalformed s e.1 e.2.1 [e.2.2]) (attachWaits s w 0)
      else shaped (attachWaits s w r.1.length) w (attachBytes s x r.1) 0 fun s =>
        attachEnd (if r.2 then workEvent s w 0x0305 [r.1.length] else s) w x r.1

/-- MOVE ATTACH (R125). -/
def execMoveAttach (work : Nat) (s : State) : Host.Outcome State Fault Refusal :=
  act s <| runWork work (isMode 0x03 8 3) (durably runAttach)

end Sys2Proof.Machine
end

