-- ==== Sys2Proof/Machine/Effects.lean ====
section
/-! DEFINITION. What a completion makes referenced (R36, R325): the changes of subjects, tiles, windows and planners, the token
log's stream records, and the order in which waiting descriptors go on. -/

namespace Sys2Proof.Machine

/-! ### The token log's records to the buddy (R440, R441) -/

/-- Unsent entries that the next LOG record of a subject takes: consecutive ones, at most 22. -/
def logRun (s : State) (h : Nat) : List (Nat × Nat × Nat × Nat) :=
  let l := s.dur.logBuf.filter fun e => e.1 == h
  match l with
  | [] => []
  | e :: _ => (l.take 22).filter fun x => decide (x.2.1 < e.2.1 + 22)

/-- LOG records that wait in the buffer of 64 MiB while the buddy is unreachable (R442). -/
def logBufferLimit : Nat := 524288

/-- The oldest LOG record is dropped when the buffer overflows, and its subject's tail has a gap (R442). -/
def trimLogs (s : State) : State :=
  if reg s .durBuddyState = 1 then s
  else
    let logs := s.dur.unacked.filter fun r => field r.2 0 1 == 1
    if logs.length ≤ logBufferLimit then s
    else
      match logs with
      | [] => s
      | r :: _ => { s with dur := { s.dur with
          unacked := s.dur.unacked.filter fun x => x.1 != r.1, gaps := insNat (field r.2 8 8) s.dur.gaps } }

/-- Send the next LOG record of a subject: its entries under the slot's key (R440). -/
def sendLog (s : State) (h : Nat) : State :=
  match logRun s h, subjAny s h with
  | [], _ => s
  | _, none => { s with dur := { s.dur with logBuf := s.dur.logBuf.filter fun e => e.1 != h } }
  | e :: l, some x =>
    let run := e :: l
    let first := e.2.1
    let key := ((slotRec s x.keySlot).map fun k => k.data.key).getD []
    let tweak := shake 16 (ascii "PB-LOG" ++ leBytes 3 (origin s) ++ leBytes 4 (reg s .durGenGen) ++ leBytes 8 h ++ leBytes 4 first)
    let plain := slice (packNats 4 (run.map fun r => r.2.2.1)) 0 88
    let s := { s with dur := { s.dur with logBuf := s.dur.logBuf.filter fun r => !(r ∈ run) } }
    trimLogs (sendStream s 0x01 run.length x.keySlot h first (Config.xts key tweak plain))

/-- Send the LOG records of a subject that hold 22 entries, with the number of entries as fuel. -/
def sendFullLogs : Nat → State → Nat → State
  | 0, s, _ => s
  | k + 1, s, h => if 22 ≤ (s.dur.logBuf.filter fun e => e.1 == h).length then sendFullLogs k (sendLog s h) h else s

/-- Append entries to a token log; with a buddy named they await their LOG record (R441). -/
def appendLog (s : State) (h : Nat) (entries : List Nat) : State :=
  match subjAny s h with
  | none => s
  | some x =>
    let n := x.log.length
    let s := updSubj s h fun x => { x with log := x.log ++ entries }
    if buddy s = 0 ∨ x.kind ≠ .session then s
    else
      let new := (List.range entries.length).map fun i => (h, n + i, entries.getD i 0, s.time)
      sendFullLogs entries.length { s with dur := { s.dur with logBuf := s.dur.logBuf ++ new } } h

/-! ### Planner members (R269, R282) -/

/-- The planner that a session is enrolled in. -/
def plannerOf (s : State) (h : Nat) : Option Planner := s.adm.planners.find? fun p => p.members.any fun m => m.handle == h

/-- A session's member record. -/
def memberOf (s : State) (h : Nat) : Option Member := (plannerOf s h).bind fun p => p.members.find? fun m => m.handle == h

/-- Change the planners. -/
def mapPlanners (s : State) (f : Planner → Planner) : State := { s with adm := { s.adm with planners := s.adm.planners.map f } }

/-- Change a member of any planner. -/
def updMember (s : State) (h : Nat) (f : Member → Member) : State :=
  mapPlanners s fun p => { p with members := updIf (fun m => m.handle == h) f p.members }

/-- Pending tokens of a member (R269). -/
def pendingOf (s : State) (m : Member) : Nat := ((subjAny s m.handle).map fun x => x.log.length - m.kvTokens).getD 0

/-- A member is ready (R269); one whose key slot is not ACTIVE is not placed (R296). -/
def memberReady (s : State) (m : Member) : Bool :=
  m.st == 0 && (subjAny s m.handle).any fun x => x.state == 1 && slotActive s x.keySlot && decide (m.kvTokens < x.log.length)

/-- Note since when members have been ready: the time with 1 added, 0 while not ready (R282). -/
def noteReady (s : State) : State :=
  let note := fun m : Member =>
    if memberReady s m then (if m.readySince = 0 then { m with readySince := s.time + 1 } else m) else { m with readySince := 0 }
  mapPlanners s fun p => { p with members := p.members.map note }

/-- An entry of a kind is due in the next manifest of a session's planner. -/
def dueEntry (s : State) (h kind : Nat) : State :=
  mapPlanners s fun p => if p.members.any (fun m => m.handle == h) then { p with due := p.due ++ [(h, kind)] } else p

/-! ### Effects -/

/-- A new version becomes the mapped one. A holder of the version before it is told (R353). -/
def applyTile (s : State) (t : Tile) : State :=
  match subjAny s t.handle with
  | none => s
  | some _ =>
    match tileOf s t.handle t.number with
    | none => putTile s t
    | some old => putTile (releaseLodged s old) { t with floor := max old.floor t.floor, recFloor := max old.recFloor t.recFloor }

/-- Planner parameters from the effect of a CONFIGURE: budget, entries, chunk, pause step, resume hold, goals (R273, R274). -/
def plannerWith (p : Planner) (l : List Nat) : Planner :=
  { p with budget := l.getD 0 0, maxEntries := l.getD 1 0, chunk := l.getD 2 0, pauseStep := l.getD 3 0, resumeHold := l.getD 4 0
           itl := (l.drop 5).take 4, ttr := (l.drop 9).take 4 }

/-- A planner before its first PLAN. -/
def Planner.fresh (n : Nat) : Planner :=
  { no := n, budget := 0, maxEntries := 0, chunk := 0, pauseStep := 0, resumeHold := 0, itl := [], ttr := [], step := 0,
    manifest := none, due := [], meets := 0, members := [] }

/-- A CONFIGURE takes effect: the planner is made, changed or removed (R274). -/
def applyConfig (s : State) (n : Nat) (l : List Nat) : State :=
  let old := s.adm.planners.find? fun p => p.no == n
  let rest := s.adm.planners.filter fun p => p.no != n
  if l.getD 0 0 = 0 then { s with adm := { s.adm with planners := rest } }
  else { s with adm := { s.adm with planners := plannerWith (old.getD (Planner.fresh n)) l :: rest } }

/-- A PLAN takes effect: its manifest is pending, the entries that were due are in it, and those placed are streaming. -/
def applyPlan (p : Planner) (step : Nat) (manifest : List (Nat × Nat × Nat × Nat)) (taken kept : List (Nat × Nat))
    (meets now : Nat) :
    Planner :=
  let placed := (manifest.filter fun e => decide (e.2.1 ≤ 2)).map (·.1)
  { p with
    step := step, manifest := some manifest, due := kept ++ p.due.filter (fun e => !(e ∈ taken)), meets := meets
    members := p.members.map fun m => if m.handle ∈ placed then { m with lastPlaced := now, streaming := true } else m }

/-- The park that a planner runs for a member, as a work that no ledger holds (R271). -/
def parkWork (s : State) (slot : Nat) (m : Member) : Work :=
  { id := s.nextId, ledger := 4096, slot := 0
    hdr := { opcode := 0x01, order := 0, notify := false, keySlot := slot, deadline := 0, epoch := 0, tag := 0, clean := true }
    ops := leBytes 8 m.handle ++ leBytes 8 (if m.kvTokens % 32 = 0 then 0 else m.near) ++ leBytes 4 m.kvTokens ++ zeros 44
    acceptTime := s.time, startTime := s.time, policy := slotPolicy s slot,
    globals := ((subjAny s m.handle).map (·.globals)).getD [], tokens := ((subjAny s m.handle).map (·.log.length)).getD 0, place := .flight 0xFFFF
    waits := [], behind := 0, suspendedAt := [], shares := [], final := false, expired := false, transfers := [], shaping := [], layer := 0, tally := []
    status := none, result := [], effects := [] }

/-- The park of a PAUSING member would not complete BAD_DESCRIPTOR, so it starts (R271); that of a PARKED session completes DONE (R111).
Log 67 (DEDUCED). Log 169 (DEDUCED). -/
def startPark (s : State) (m : Member) : Member :=
  if m.st = 1 ∧ m.parkAt.isNone ∧ ((subjAny s m.handle).any fun x => x.state == 2 || parkFields x (parkWork s x.keySlot m)) then
    { m with parkAt := some s.nextId }
  else m

/-- Start the parks of PAUSING members that can start. -/
def startParks (s : State) : State := mapPlanners s fun p => { p with members := p.members.map (startPark s) }

/-- Summary tiles of regions' pages that a session references. -/
def sharedSummaries (s : State) (h : Nat) : List (Nat × Nat) :=
  match subjAny s h with
  | none => []
  | some x =>
    ((List.range x.layers).flatMap fun k =>
      ((List.range (mapOf x k).pages.length).filter fun p => (pageOf (mapOf x k) p).region.isSome).flatMap fun p =>
        pageSummaries s x k p).dedup

/-- Step-plan prefetch of the sessions that a manifest places: KV_SUMMARY of every layer, of referenced regions as well (R108). -/
def planItems (s : State) (manifest : List (Nat × Nat × Nat × Nat)) : State :=
  let placed := ((manifest.filter fun e => decide (e.2.1 ≤ 2)).map (·.1)).dedup
  addItems s (placed.flatMap fun h =>
    let last := (((tilesOf s h).filter fun t => t.kind == 4 && t.version != 0).map (·.number)).foldl max 0
    let own := (tilesOf s h).filter fun t => t.version != 0 && (t.kind == 2 || t.kind == 7 || (t.kind == 4 && t.number == last))
    own.map (fun t => (4, t.handle, t.number)) ++ (sharedSummaries s h).map fun e => (4, e.1, e.2))

/-- A session enrols, or a member's planner state changes; a session that is RESUMING is REVIVING (R270, R284). -/
def applyMember (s : State) (n h kv st near : Nat) : State :=
  if near ≠ 0 then
    let m : Member := { handle := h, near := near, kvTokens := kv, st := st, order := s.adm.enrolled + 1, readySince := 0,
                        lastPlaced := 0, streaming := false, pausedAt := s.time, parkAt := none, retry := 0 }
    let s := { s with adm := { s.adm with enrolled := s.adm.enrolled + 1 } }
    startParks (mapPlanners s fun p => if p.no = n then { p with members := p.members ++ [m] } else p)
  else
    let s := updMember s h fun m => { m with st := st, parkAt := none, retry := 0 }
    if st = 3 then updSubj s h fun x => if x.state = 2 then { x with state := 3 } else x else startParks s

/-- An arm is placed or removed (R501). -/
def applyArm (s : State) (id : Nat) (a : Option (Nat × Nat × Nat × Nat × List Nat)) : State :=
  let rest := s.obs.arms.filter fun x => x.no != id
  match a with
  | none => { s with obs := { s.obs with arms := rest } }
  | some (slot, handle, name, left, sel) =>
    { s with obs := { s.obs with arms := rest ++ [{ no := id, slot := slot, handle := handle, name := name, left := left, sel := sel }] } }

/-- A version number of a region is published: it and a notice (R362). -/
def applyVersion (s : State) (h v : Nat) : State :=
  let e := ((subjAny s h).map fun x => x.own.epoch).getD 0
  sendNotice (updSubj s h fun x => { x with version := v }) 0x16 e h v

/-- A restored subject stands in place of the damaged one: its tiles are those of the step, and every other number stops being named; floors
never fall (R63). -/
def applyRestore (s : State) (x : Subject) (ts writes : List Tile) : State :=
  let s := ((tilesOf s x.handle).map (·.number)).foldl (fun s n => freeTile s x.handle n) s
  let s := ts.foldl applyTile { s with subjects := updIf (fun y => y.handle == x.handle) (fun _ => x) s.subjects }
  writes.foldl commitNow s

/-- Make one effect of a completion referenced. -/
def applyEffect (s : State) (e : Effect) : State :=
  match e with
  | .openSubject x => dirReveal { s with subjects := s.subjects ++ [x] } x.index
  | .sessState h st => updSubj s h fun x => if x.state = 4 ∨ x.state = 5 then x else { x with state := st }
  | .page h layer page st valid region => scratchEffect s (.page h layer page st valid region)
  | .seqs h layer first code scale summary patch => scratchEffect s (.seqs h layer first code scale summary patch)
  | .tile t => applyTile s t
  | .dropTile h n => freeTile s h n
  | .globals h g => updSubj s h fun x => { x with globals := g }
  | .append h entries => appendLog s h entries
  | .text h t => updSubj s h fun x => { x with text := t }
  | .draft h d => updSubj s h fun x => { x with draft := d }
  | .bind w b => { s with windows := aset s.windows w b }
  | .unbind w => dropLines { s with windows := adel s.windows w } fun l => l.2 / 2 ^ 24 == w
  | .own h o notice => sendNotice (updSubj s h fun x => { x with own := o }) notice o.epoch h 0
  | .homeBed h bed => updSubj s h fun x => { x with homeBed := bed }
  | .version h v => applyVersion s h v
  | .reveal h => dirReveal s (ownerIndex s h)
  | .plan p step manifest taken kept meets now =>
    let s := mapPlanners s fun q => if q.no = p then applyPlan q step manifest taken kept meets now else q
    startParks (planItems s manifest)
  | .member p h kv st near => applyMember s p h kv st near
  | .unmember _ h => leavePlanner s h
  | .planner p params => applyConfig s p params
  | .kvTokens h n => updMember s h fun m => { m with kvTokens := m.kvTokens + n }
  | .traceTaken n lost => { s with obs := { s.obs with ring := s.obs.ring.filter (fun r => decide (n ≤ r.seq)), lostSeen := lost } }
  | .restore x ts writes => applyRestore s x ts writes
  | .arm id a => applyArm s id a

/-- A subject is created before what belongs to it. -/
def opensSubject (e : Effect) : Bool :=
  match e with
  | .openSubject _ => true
  | _ => false

/-- A new version whose copies a fault has taken since it was written is lost as it becomes referenced (R80), and a page of a region that
has lost it meanwhile becomes ABSENT (R127). -/
def loseUncopied (s : State) (e : Effect) : State :=
  match e with
  | .tile t =>
    if (tileOf s t.handle t.number).any fun x => x.version == t.version && x.version != 0 && masterTier x == 0 && x.lodged.isNone then
      tileLost s t.handle t.number
    else s
  | .page h l p _ _ (some r) =>
    match subjAny s h with
    | none => s
    | some x =>
      if (subjAny s r).any fun y => (pageOf (mapOf y l) p).state == 2 then s
      else absentEvents (updSubj s h fun y => setMap y l (absentIn (mapOf y l) (some r) [p])) l [(x, p)]
  | _ => s

/-- Make the effects of a completion referenced, all at once. -/
def applyEffects (s : State) (l : List Effect) : State :=
  let s := (l.filter opensSubject ++ l.filter fun e => !opensSubject e).foldl applyEffect s
  noteReady (l.foldl loseUncopied s)

/-- Tiles whose lines must be released before the effects are made referenced (R96). -/
def changedNames (s : State) (l : List Effect) : List (Nat × Nat) :=
  (l.filterMap fun e =>
    match e with
    | .tile t => some (t.handle, t.number)
    | .dropTile h n => some (h, n)
    | _ => none).filter fun k => versionOf s k.1 k.2 != 0

/-! ### Dispatch (R27, R327) -/

/-- No eligible unit serves the descriptor (R27). Log 150 (DESIGN CHOICE). -/
def noUnit (s : State) (w : Work) : State := fail (workEvent s w 0x0203 [w.hdr.opcode]) w.id stBad

/-- Send a work that waits for nothing to its queue, or hold it for dispatch (R27, R294). -/
def dispatch (s : State) (w : Work) : State :=
  let put := fun p : Place => updWork s w.id fun w => { w with place := p }
  if unitType w.hdr.opcode w.ops = 0 then
    let q := controlQueue w.hdr.opcode
    if q < 0x1006 ∧ queueDepth s q ≤ (queued s q).length then put .forDispatch else put (.queued q)
  else
    match route s w.hdr.opcode w.ops with
    | .unit u => put (.queued u)
    | .full _ => put .forDispatch
    | .nowhere => noUnit s w

/-- Works held for dispatch, of a unit type or of the control queues, in their order of acceptance. -/
def heldForDispatch (s : State) (t : Nat) : List Work :=
  sortKey (·.id) (s.work.filter fun w => w.place == .forDispatch && unitType w.hdr.opcode w.ops == t)

/-- Release works held for dispatch while there is room, in their order (R27). -/
def releaseHeld (s : State) (t : Nat) : State := (heldForDispatch s t).foldl dispatch s

/-- Works that wait for nothing any more go to dispatch, in their order of acceptance. -/
def releaseWaiters (s : State) : State :=
  (sortKey (·.id) (s.work.filter fun w => w.place == .waiting && w.waits.isEmpty)).foldl dispatch s

/-- A work has its completion, or is gone without one: what waited for it goes on. -/
def retireWork (s : State) (w : Work) : State :=
  releaseWaiters { s with work := (s.work.filter fun x => x.id != w.id).map fun x =>
    { x with waits := x.waits.filter fun i => i != w.id } }

/-- A work ends without a completion: its effects are never referenced (R325). A close that has freed its subject still withdraws it. -/
def abandon (s : State) (w : Work) : State :=
  let s := if w.hdr.opcode = 0x09 ∧ (subjAny s (subjectOf w)).isNone then leavePlanner s (subjectOf w) else s
  let s := retireWork (undoWork s w) w
  tidyReady (sweepDir (reap s.subjects.length s))

end Sys2Proof.Machine
end

