-- ==== Sys2Proof/Machine/Bitstream.lean ====
section
/-! DEFINITION. The configuration bitstream (ch. 2): the container and its checks, load, activation with its drain, rollback, and the
spare pans that repair maps. -/

namespace Sys2Proof.Machine

open Sys2Proof

/-! ### The container (R39 to R44, R243) -/

/-- An entry of the section table: type, layout version, flags, offset, length, and whether its reserved bits are 0 (R40). -/
structure Section where
  type : Nat
  version : Nat
  flags : Nat
  off : Nat
  len : Nat
  clean : Bool
deriving DecidableEq, Repr

/-- The section table of a container. -/
def sectionsOf (b : List Byte) : List Section :=
  (List.range (field b 24 2)).map fun i =>
    let o := 128 + 16 * i
    { type := field b o 2, version := field b (o + 2) 1, flags := field b (o + 3) 1, off := field b (o + 4) 4, len := field b (o + 8) 4
      clean := bits (field b (o + 3) 1) 7 1 == 0 && field b (o + 12) 4 == 0 }

/-- The content of a section. -/
def contentOf (b : List Byte) (x : Section) : List Byte := slice b x.off x.len

/-- The contents of the sections of a type, in table order. -/
def sectionsIn (b : List Byte) (t : Nat) : List (List Byte) := ((sectionsOf b).filter fun x => x.type == t).map (contentOf b)

/-- Entries of a fixed size in the section of a type that stands once. -/
def entriesOf (b : List Byte) (t size : Nat) : List (List Byte) :=
  let c := ((sectionsIn b t).head?).getD []
  (List.range (c.length / size)).map fun i => slice c (size * i) size

/-- A unit entry (R42). -/
def unitFrom (e : List Byte) : UnitEnt :=
  { id := field e 0 2, parent := field e 2 2, type := field e 4 1, dispatch := field e 5 1, depth := field e 6 2, bed := field e 8 1
    resident := bit (field e 9 1) 0, ways := field e 10 1, constMask := field e 12 4 }

/-- A microcode image: its header, then the code, then the initial scalar data (R44). -/
def imageHead (c : List Byte) : ImageEnt :=
  { no := field c 0 2, stepMax := field c 2 2, code := field c 4 4, data := field c 8 4, liveMax := field c 12 4, entry := field c 16 4
    codeBytes := (c.drop 32).take (field c 4 4), dataBytes := (c.drop (32 + field c 4 4)).take (field c 8 4) }

/-- The entries of a folding table: source code point, and its replacements (R243). -/
def foldFrom (c : List Byte) : Nat × List (Nat × List Nat) :=
  (field c 0 2, (List.range (field c 4 4)).map fun i =>
    let o := 16 + 16 * i
    let src := field c o 4
    (bits src 20 0, ((List.range (bits src 31 24)).map fun k => bits (field c (o + 4 + 4 * k) 4) 20 0)))

/-- Rising without repeats. -/
def risingNat : List Nat → Bool
  | [] => true
  | [_] => true
  | a :: b :: t => decide (a < b) && risingNat (b :: t)

/-- A folding table keeps the layout of R243. Log 82 (DEDUCED). -/
def foldWell (c : List Byte) : Bool :=
  let n := field c 4 4
  decide (1 ≤ field c 0 2) && field c 2 2 == 0 && decide (1 ≤ n) && decide (n ≤ 131072) && field c 8 8 == 0 &&
    c.length == 16 + 16 * n && risingNat ((foldFrom c).2.map (·.1)) && (List.range n).all fun i =>
      let o := 16 + 16 * i
      decide (bits (field c o 4) 31 24 ≤ 3) && bits (field c o 4) 23 21 == 0 &&
        (List.range 3).all fun k => bits (field c (o + 4 + 4 * k) 4) 31 21 == 0

/-- The container that bytes declare. -/
def containerOf (b : List Byte) : Container :=
  { id := field b 8 8, svn := field b 16 4, tool := field b 20 4, part := bit (field b 7 1) 0, digest := slice b 32 64
    units := (entriesOf b 1 32).map unitFrom
    pans := (entriesOf b 2 8).map fun e => { bed := field e 0 1, pos := field e 1 1, unit := field e 2 2, image := field e 4 2 }
    scorers := (entriesOf b 3 4).map fun e => (field e 0 1, field e 2 2)
    images := (sectionsIn b 4).map imageHead
    consts := sectionsIn b 6
    routes := (entriesOf b 5 4).map fun e => (field e 0 2, field e 2 1)
    folds := (sectionsIn b 7).map foldFrom }

/-! ### Checks (R45) -/

/-- The type is one that the device knows (R41). -/
def typeKnown (t : Nat) : Bool := decide (1 ≤ t) && decide (t ≤ 7)

/-- The body ends with its last section, filled up to a multiple of 64 (R39). -/
def bodyEnds (b : List Byte) : Bool :=
  field b 28 4 % 64 == 0 && roundUp (((sectionsOf b).map fun x => x.off + x.len).foldl max 0) 64 == 128 + field b 28 4

/-- 0x0A: entries within the body, aligned, apart from one another, of layout version 1 where the type is known (R40); the body as R39
bounds it; the required sections once each; whole entries; folding tables as R243 gives them (R41). Log 83 (DEDUCED). -/
def tableWell (b : List Byte) : Bool :=
  let xs := sectionsOf b
  let n := fun t => (xs.filter fun x => x.type == t).length
  decide (1 ≤ xs.length) && decide (xs.length ≤ 256) && decide (128 + 16 * xs.length ≤ 128 + field b 28 4) &&
    bodyEnds b && (xs.all fun x => x.clean && (!typeKnown x.type || x.version == 1) && x.off % 64 == 0 && decide (128 + 16 * xs.length ≤ x.off) && decide (x.off + x.len ≤ 128 + field b 28 4)) &&
    ((List.range xs.length).all fun i => (List.range i).all fun j =>
      match xs[i]?, xs[j]? with
      | some x, some y => x.len == 0 || y.len == 0 || decide (x.off + x.len ≤ y.off) || decide (y.off + y.len ≤ x.off)
      | _, _ => true) &&
    n 1 == 1 && n 2 == 1 && n 3 == 1 && decide (n 5 ≤ 1) &&
    (xs.all fun x => (x.type != 1 || x.len % 32 == 0) && (x.type != 2 || x.len % 8 == 0) && (x.type != 3 || x.len % 4 == 0) &&
      (x.type != 5 || x.len % 4 == 0)) &&
    (sectionsIn b 7).all foldWell && decide (((sectionsIn b 7).map fun c => field c 0 2).Nodup)

/-- 0x0B: every type is known, or optional. -/
def typesKnown (b : List Byte) : Bool :=
  (sectionsOf b).all fun x => typeKnown x.type || bit x.flags 0

/-- A unit has children. -/
def hasChildren (us : List UnitEnt) (u : UnitEnt) : Bool := us.any fun v => v.parent == u.id

/-- The chain of parents ends at an outermost unit, with the number of units as fuel. -/
def endsAbove : Nat → List UnitEnt → UnitEnt → Bool
  | 0, _, _ => false
  | k + 1, us, u =>
    u.parent == 0xFFFF || (match us.find? fun v => v.id == u.parent with
      | none => false
      | some v => v.type == u.type && endsAbove k us v)

/-- A unit suits its type and its place in the tree (R22, R30, R42). -/
def unitWell (us : List UnitEnt) (u : UnitEnt) : Bool :=
  decide (u.id < 0x1000) && decide (1 ≤ u.type) && decide (u.type ≤ 5) && decide (u.dispatch ≤ 4) && endsAbove us.length us u &&
    (if hasChildren us u then u.dispatch != 0 && u.bed == 0xFF else u.dispatch == 0) &&
    (u.dispatch != 1 || u.type == 1 || u.type == 2) && (u.dispatch != 4 || u.type == 1 || u.type == 5) &&
    (if u.parent = 0xFFFF then decide (1 ≤ u.depth) && decide (u.depth ≤ 1024) else u.depth == 0)

/-- 0x0C: the unit tree, with the bindings of function codes to outermost scorer units. -/
def treeWell (b : List Byte) (c : Container) : Bool :=
  decide ((c.units.map (·.id)).Nodup) && c.units.all (unitWell c.units) &&
    ((entriesOf b 1 32).all fun e => bits (field e 9 1) 7 1 == 0 && field e 11 1 == 0 && field e 16 16 == 0) &&
    ((entriesOf b 3 4).all fun e => field e 1 1 == 0) && decide ((c.scorers.map (·.1)).Nodup) &&
    c.scorers.all fun e => decide (0x80 ≤ e.1) && c.units.any fun u => u.id == e.2 && u.type == 4 && u.parent == 0xFFFF

/-- 0x0D: positions (R43). -/
def pansWell (m : Model) (b : List Byte) (c : Container) : Bool :=
  (c.pans.all fun p => decide (p.bed < bedCount m) && decide (p.pos ≤ 15) &&
    c.units.any fun u => u.id == p.unit && u.dispatch == 0 && u.bed == p.bed) &&
    ((entriesOf b 2 8).all fun e => field e 6 2 == 0) && decide ((c.pans.map fun p => (p.bed, p.pos)).Nodup) &&
    c.units.all fun u => u.dispatch != 0 || c.pans.any fun p => p.unit == u.id

/-- 0x0E: images (R44). -/
def imagesWell (b : List Byte) (c : Container) : Bool :=
  decide ((c.images.map (·.no)).Nodup) && (c.pans.all fun p => c.images.any fun i => i.no == p.image) &&
    (sectionsIn b 4).all fun x =>
      let i := imageHead x
      decide (i.code ≤ 131072) && decide (i.data ≤ 65536) && decide (32 + i.code + i.data ≤ x.length) && decide (i.entry < i.code) &&
        field x 20 12 == 0

/-- Bytes of CONST data that a leaf takes; `none` where its mask names a section that is not there (R42). -/
def constBytes (c : Container) (u : UnitEnt) : Option Nat :=
  (List.range 32).foldl (fun acc n =>
    if bit u.constMask n then
      match acc, c.consts[n]? with
      | some a, some l => some (a + l.length)
      | _, _ => none
    else acc) (some 0)

/-- 0x10: ways, CONST placement, totals of units and queues, mesh shares. -/
def resourcesFit (c : Container) : Bool :=
  let roots := c.units.filter fun u => u.parent == 0xFFFF
  decide (1 ≤ c.units.length) && decide (c.units.length ≤ 4096) && decide (roots.length ≤ 1024) &&
    decide ((roots.map (·.depth)).sum ≤ 65536) &&
    (c.units.all fun u => decide (1 ≤ u.ways) && decide (u.ways ≤ 16) &&
      match constBytes c u with
      | some n => decide (n ≤ u.ways * 65536)
      | none => false) &&
    (c.routes.all fun r => decide (1 ≤ r.2) && decide (r.2 ≤ 64) && roots.any fun u => u.id == r.1) &&
    decide ((c.routes.map (·.2)).sum ≤ 48)

/-- The error of the first check that a fetched container fails, 0 for none (R45). -/
def containerError (s : State) (img : Option (List Byte)) (sigOk : Bool) : Nat :=
  match img with
  | none => 0x01
  | some b =>
    let c := containerOf b
    if b.length < 192 ∨ 67108864 < b.length then 0x01
    else if field b 0 4 ≠ 0x53424250 then 0x02
    else if field b 4 2 ≠ 2 ∨ bits (field b 7 1) 7 1 ≠ 0 ∨ field b 96 32 ≠ 0 then 0x03
    else if field b 6 1 ≠ reg s .sysIdModel then 0x04
    else if 128 + field b 28 4 + 3309 ≠ b.length then 0x05
    else if 16 ≤ field b 26 2 ∨ (aget s.nv.bsSigners (field b 26 2)).isNone then 0x06
    else if !sigOk then 0x07
    else if slice b 32 64 ≠ shake 64 (slice b 128 (field b 28 4)) then 0x08
    else if c.svn < reg s .panBsSvnMinValue then 0x09
    else if !tableWell b then 0x0A
    else if !typesKnown b then 0x0B
    else if !treeWell b c then 0x0C
    else if !pansWell s.model b c then 0x0D
    else if !imagesWell b c then 0x0E
    else if c.images.any fun i => decide (240 < i.stepMax) then 0x0F
    else if !resourcesFit c then 0x10
    else 0

/-! ### Load (R46) -/

/-- The state code and the error of `PAN_BS_STATUS`. -/
def bsStatus (s : State) (st err : Nat) : State := setReg (setReg s .panBsStatusState st) .panBsStatusError err

/-- Load a container: it is staged, or the load has failed. -/
def loadContainer (s : State) (img : Fetch) (sigOk : Bool) : State :=
  let len := reg s .panBsLenLen
  let s := { s with units := { s.units with staged := none } }
  let go := fun s (b : Option (List Byte)) =>
    let e := containerError s b sigOk
    let s := if e = 0 then { s with units := { s.units with staged := b.map containerOf } } else s
    loadResult (bsStatus s (if e = 0 then 3 else 4) e) [e]
  if len < 192 ∨ 67108864 < len then go s none else sourced (setReg s .panBsStatusState 1) (reg s .panBsAddrAddr) len img go

/-- BITSTREAM_LOAD (R46): one that arrives during an activation is ignored with error BUSY. -/
def execBitstreamLoad (_path : Path) (img : Fetch) (sigOk : Bool) (s : State) : Host.Outcome State Fault Refusal :=
  act s <| whenRunning fun s =>
    if s.units.drain.isSome then setReg s .panBsStatusError 0x11 else loadContainer s img sigOk

/-! ### Spare pans (R52, R53) -/

/-- Physical pans of a bed beyond the 16 positions. -/
def sparePans (m : Model) : List Nat :=
  match m with
  | .full => [16, 17]
  | .reduced => [16]

/-- The lowest spare of a bed that is neither in use nor unusable. -/
def freeSpare (s : State) (bed : Nat) : Option Nat :=
  (sparePans s.model).find? fun p => !((bed, p) ∈ s.nv.badPans) &&
    !((List.range 16).any fun q => regGet s .panMapPhys (bed * 16 + q) == p && regGet s .panMapLost (bed * 16 + q) == 0)

/-- The pan that serves a position has its code, scalar data and CONST data loaded, from the copy in T2 that the configuration gives
(R48 step 5, R52 step 3). -/
def loadPan (s : State) (bed pos : Nat) : State :=
  { s with units := { s.units with
      ran := s.units.ran.filter fun e => e ≠ (bed, pos)
      sram := s.units.sram.filter fun e => !(e.1.1 == bed && e.1.2.1 == pos) } }

/-- The pan that serves a position fails: it is unusable from now on, and a spare takes the position and is loaded, or the position is
lost. -/
def repairPan (s : State) (bed pos : Nat) : State :=
  let i := bed * 16 + pos
  let s := { s with nv := { s.nv with badPans := (s.nv.badPans ++ [(bed, regGet s .panMapPhys i)]).dedup } }
  match freeSpare s bed with
  | some p => regAdd (regAdd (regSet (loadPan s bed pos) .panMapPhys i p) .panRepairSparesUsed bed 1 2) .fltRepairPanSpares 0 1 8
  | none =>
    if regGet s .panMapLost i = 1 then s
    else
      let s := regAdd (regAdd (regSet s .panMapLost i 1) .panRepairLost bed 1 5) .fltRepairPositionsLost 0 1 8
      event s 0x0207 0 0xFFFF 0 (locate 1 bed pos 0 0) [bed, pos]

/-- A pan fails where no unit of it runs: it is mapped out as R52 has it, with its class flagged and its event (R54). -/
def mapOut (s : State) (bed pos : Nat) (arg : List Nat) : State :=
  event (repairPan (raiseClass s 3) bed pos) 0x0201 3 0xFFFF 0 (locate 1 bed pos 0 0) arg

/-! ### Taking work off units -/

/-- Take the steps of a work off its pans. -/
def dropSteps (s : State) (id : Nat) : State :=
  { s with units := { s.units with steps := s.units.steps.filter fun e => e.work != id } }

/-- Discard every work in flight that meets a condition (R449). -/
def discardFlight (s : State) (p : Work → Bool) : State :=
  (s.work.filter fun w => inFlight w && p w).foldl (fun s w => fail (dropSteps s w.id) w.id stDiscarded) s

/-- The outermost unit on which a work is in flight. -/
def flightRoot (s : State) (w : Work) : Option Nat :=
  match w.place with
  | .flight l => if l = 0xFFFF then none else some (rootOf s l)
  | _ => none

/-- A work is in flight on one of some outermost units. -/
def flightOn (s : State) (us : List Nat) (w : Work) : Bool := (flightRoot s w).any fun u => decide (u ∈ us)

/-- Forget what the pans of some outermost units hold: slots, steps, contexts, saved images and pinned weights (R48 step 4, R212, R387). -/
def clearUnits (s : State) (us : List Nat) : State :=
  let mine := fun l => decide (rootOf s l ∈ us)
  let onPan := fun bed pos => (leafOfPan s bed pos).any mine
  { s with units := { s.units with
      current := s.units.current.filter fun e => !mine e.1, saved := s.units.saved.filter fun e => !mine e.1
      switching := s.units.switching.filter fun e => !mine e.1, images := s.units.images.filter fun e => !mine e.1
      expired := s.units.expired.filter fun l => !mine l, slots := s.units.slots.filter fun e => !onPan e.bed e.pos
      steps := s.units.steps.filter fun e => !onPan e.bed e.pos, turn := s.units.turn.filter fun e => !onPan e.1.1 e.1.2
      pinned := s.units.pinned.filter fun e => !decide (e.1 ∈ us) } }

/-! ### Activation (R47 to R49) -/

/-- The configuration that activating a container gives: a full one alone, a partial one on the same full bitstream. -/
def targetOf (s : State) (c : Container) : Option UnitConfig :=
  if c.part then s.units.active.map fun a => { full := a.full, part := some c } else some { full := c, part := none }

/-- Outermost units of a configuration. -/
def configRoots (c : UnitConfig) : List Nat := ((configUnits c).filter fun u => u.parent == 0xFFFF).map (·.id)

/-- Outermost units, active or new, that an activation affects (R48). Log 85 (DEDUCED). -/
def affectedBy (s : State) (t : UnitConfig) : List Nat :=
  match s.units.active with
  | none => configRoots t
  | some a =>
    if a.full = t.full ∧ t.part.isSome then
      ((t.part.map rootsOf).getD [] ++ (a.part.map rootsOf).getD []).dedup
    else (configRoots a ++ configRoots t).dedup

/-- A partial container claims no position of a unit that it does not replace (R48). -/
def positionsFree (t : UnitConfig) : Bool :=
  match t.part with
  | none => true
  | some p =>
    let us := t.full.units
    p.pans.all fun e => !(t.full.pans.any fun q => q.bed == e.bed && q.pos == e.pos && !(rootIn us.length us q.unit ∈ rootsOf p))

/-- The value of measurement 0x04 for a configuration (R405). -/
def configMeasure (c : Option UnitConfig) : List Byte :=
  let one := fun x : Container => x.digest ++ leBytes 8 x.id ++ leBytes 4 x.svn
  shake 64 (match c with
    | none => []
    | some c => one c.full ++ (c.part.map one).getD [])

/-- Models whose bound unit goes, or changes its beds, under a new configuration are unloaded (R212). -/
def dropModels (s : State) (c : UnitConfig) : State :=
  let t := { s with units := { s.units with active := some c } }
  (s.models.filter fun m => m.state == 2).foldl (fun s m =>
    let gone := !((outermost t 2).any fun u => u.id == m.unit) || bedsOf s m.unit != bedsOf t m.unit
    if gone then event (startUnload s m.slot) 0x0206 0 0xFFFF 0 0 [m.slot, m.modelId] else s) s

/-- The queues of some outermost units are created anew: their samples, maxima and dispatch counts are discarded, and the threshold
of each is again that of the image, or the default (R294, R296). -/
def freshQueues (s : State) (us : List Nat) : State :=
  let mine := fun c : (Fld × Nat) × Nat =>
    decide (c.1.1 ∈ ([.admQyelThreshold, .admQmaxDepth, .admQmaxDelay, .admQsampDepth, .admQsampDelay, .admQsampSeq] : List Fld)) &&
      decide (c.1.2 ∈ us)
  { s with
    regs := { s.regs with cells := s.regs.cells.filter (fun c => !mine c) ++
      s.regs.applied.filter fun c => c.1.1 == .admQyelThreshold && decide (c.1.2 ∈ us) }
    adm := { s.adm with dispatched := s.adm.dispatched.filter fun e => !(e.1 ∈ us) } }

/-- Queued work of some units goes to dispatch again, in its order of acceptance (R48 step 3). -/
def redispatch (s : State) (us : List Nat) : State :=
  let ws := sortKey (·.id) (s.work.filter fun w => match w.place with
    | .queued q => decide (q < 0x1000) && decide (q ∈ us)
    | _ => false)
  let s := ws.foldl (fun s w => updWork s w.id fun w => { w with place := .waiting }) s
  let s := ws.foldl dispatch s
  [1, 2, 3, 4, 5].foldl releaseHeld s

/-- Pans that fail at step 5, among those that a configuration assigns. Log 86 (DESIGN CHOICE). -/
def failingPans (t : UnitConfig) (us : List Nat) (bad : List (Nat × Nat)) : List (Nat × Nat) :=
  bad.filter fun b => (configPans t).any fun p => p.bed == b.1 && p.pos == b.2 &&
    decide (rootIn (configUnits t).length (configUnits t) p.unit ∈ us)

/-- Steps 4 to 8 of an activation: the new configuration is in force, or, where a pan failed that no spare replaces, the old one. -/
def switchConfig (s : State) (t : UnitConfig) (back : Bool) (us : List Nat) (bad : List (Nat × Nat)) : State :=
  let s := clearUnits { s with units := { s.units with drain := none } } us
  let hits := failingPans t us bad
  let s1 := hits.foldl (fun s b => mapOut s b.1 b.2 []) s
  let lost := hits.any fun b => regGet s1 .panMapLost (b.1 * 16 + b.2) == 1 && regGet s .panMapLost (b.1 * 16 + b.2) == 0
  let free := fun s : State => { s with units := { s.units with states := s.units.states.filter fun e => !(e.1 ∈ us && e.2 == 3) } }
  if lost then
    redispatch (free (bsStatus (event s1 0x0204 0 0xFFFF 0 0 [0x12]) (if s1.units.staged.isSome then 3 else 0) 0x12)) us
  else
    let old := s1.units.active
    let s1 := (configPans t).foldl (fun s e =>
      if rootIn (configUnits t).length (configUnits t) e.unit ∈ us then loadPan (wakeBed s e.bed) e.bed e.pos else s) s1
    let s2 := { s1 with units := { s1.units with active := some t, previous := old, staged := if back then s1.units.staged else none } }
    let s3 := freshQueues (free s2) us
    let s4 := { s3 with sec := { s3.sec with history := shake 64 (s3.sec.history ++ configMeasure (some t)) } }
    redispatch (event (bsStatus s4 0 0) 0x0205 0 0xFFFF 0 0 [0]) us

/-- The affected units of the drain under way have nothing in flight any more. Log 84 (DEDUCED). -/
def drained (s : State) (us : List Nat) : Bool := s.work.all fun w => !flightOn s us w

/-- An activation whose affected units have ended their work goes on (R48 step 3). -/
def drainCheck (s : State) : State :=
  match s.units.drain with
  | none => s
  | some (t, back, us, bad) => if drained s us then switchConfig s t back us bad else s

/-- Activate a configuration under the present MODE (R47, R48): the affected units are SWAPPING until their work has ended. -/
def activateConfig (s : State) (t : UnitConfig) (back : Bool) (bad : List (Nat × Nat)) : State :=
  let us := affectedBy s t
  let swap := us.filter fun u => (unitEnt s u).isSome
  let s := { s with units := { s.units with
    states := (s.units.states.filter fun e => !(e.1 ∈ us)) ++ swap.map fun u => (u, 3), drain := some (t, back, us, bad) } }
  let s := dropModels (setReg s .panBsStatusState 5) t
  drainCheck (if reg s .panBsCtrlMode = 1 then discardFlight s (flightOn s us) else s)

/-- ACTIVATE (R47): the staged container; a partial one is rejected with ACTIVATE_FAILED where R48 says so. -/
def execActivate (_path : Path) (badPans : List (Nat × Nat)) (s : State) : Host.Outcome State Fault Refusal :=
  act s <| whenRunning fun s =>
    if s.units.drain.isSome then s
    else
      match s.units.staged with
      | none => s
      | some c =>
        match targetOf s c with
        | none => setReg s .panBsStatusError 0x12
        | some t => if positionsFree t then activateConfig s t false badPans else setReg s .panBsStatusError 0x12

/-- BITSTREAM_DRAIN_TIMEOUT (R47): the work that remains in flight completes DISCARDED, and the activation goes on. -/
def execBitstreamDrainTimeout (badPans : List (Nat × Nat)) (s : State) : Host.Outcome State Fault Refusal :=
  act s <| whenRunning fun s =>
    match s.units.drain with
    | none => s
    | some (t, back, us, bad) => switchConfig (discardFlight s (flightOn s us)) t back us (bad ++ badPans)

/-- The SVN of a configuration for R50 and R51: the lower one of its full and its partial bitstream. Log 158 (DESIGN CHOICE). -/
def configSvn (c : UnitConfig) : Nat := min c.full.svn ((c.part.map (·.svn)).getD c.full.svn)

/-- ROLLBACK (R50): the previous configuration, unless none is held or its SVN lies below the minimum. -/
def execRollback (_path : Path) (badPans : List (Nat × Nat)) (s : State) : Host.Outcome State Fault Refusal :=
  act s <| whenRunning fun s =>
    if s.units.drain.isSome then s
    else
      match s.units.previous with
      | none => setReg s .panBsStatusError 0x13
      | some c =>
        if configSvn c < reg s .panBsSvnMinValue then setReg s .panBsStatusError 0x09 else activateConfig s c true badPans

end Sys2Proof.Machine
end

