-- ==== Sys2Proof/Machine/Ledgers.lean ====
section
/-! DEFINITION. Submission and completion ledgers (ch. 11): enabling and draining them, consuming descriptors with the checks of
acceptance, writing completions, interrupts, unknown opcodes and sluices. -/

namespace Sys2Proof.Machine

/-! ### Meters (R292 to R294) -/

/-- A meter by its key slot. -/
def meterOf (s : State) (k : Nat) : Option Meter := s.adm.meters.find? fun m => m.slot == k

/-- A descriptor's worth of a bucket: levels count units of 10^-9 descriptors. -/
def meterUnit : Nat := 1000000000

/-- Refill both buckets up to a time. -/
def refilled (m : Meter) (now : Nat) : Meter :=
  { m with c := min (m.cbs * meterUnit) (m.c + m.cir * (now - m.last)), p := min (m.pbs * meterUnit) (m.p + m.pir * (now - m.last))
           last := now }

/-- Meter one descriptor in colour-blind mode (RFC 2698): the meter after it, and its colour: 0 green, 1 yellow, 2 red. Log 62 (DEDUCED). -/
def meterColour (m : Meter) (now : Nat) : Meter × Nat :=
  if !m.enable then (m, 0)
  else
    let m := refilled m now
    if m.p < meterUnit then (m, 2)
    else if m.c < meterUnit then ({ m with p := m.p - meterUnit }, 1)
    else ({ m with p := m.p - meterUnit, c := m.c - meterUnit }, 0)

/-- The target queue of a descriptor (R294): where dispatch would send it now, or would if no queue were full. -/
def targetQueue (s : State) (w : Work) : Nat :=
  if unitType w.hdr.opcode w.ops = 0 then controlQueue w.hdr.opcode
  else
    match route s w.hdr.opcode w.ops with
    | .unit u => u
    | .full u => u
    | .nowhere => 0x1006

/-- SLUICE, SESSION_CLOSE and PARK are neither metered nor counted (R293). -/
def unmetered (w : Work) : Bool := w.hdr.opcode ∈ [0x07, 0x09, 0x01]

/-- Meter a work: the state with its bucket, and whether it is admitted (R293). -/
def metered (s : State) (w : Work) : State × Bool :=
  match meterOf s w.hdr.keySlot with
  | none => (s, true)
  | some m =>
    if unmetered w then (s, true)
    else
      let r := meterColour m s.time
      let s := { s with adm := { s.adm with meters := updIf (fun x => x.slot == m.slot) (fun _ => r.1) s.adm.meters } }
      let q := targetQueue s w
      (s, r.2 == 0 || (r.2 == 1 && decide ((queued s q).length < yellow s q)))

/-- A descriptor refused by the meter: counted, with at most one event a millisecond for its slot (R293). -/
def refuseMetered (s : State) (w : Work) : State :=
  let k := w.hdr.keySlot
  let s := countReg s .admMtrRefusedCount k 1
  let recent := (aget s.adm.lastRefusal k).any fun t => decide (s.time < t + 1000000)
  let s := if recent then s
    else { event s 0x0902 0 k 0 0 [regGet s .admMtrRefusedCount k] with adm := { s.adm with lastRefusal := aset s.adm.lastRefusal k s.time } }
  fail s w.id stRefused

/-! ### Acceptance (R316, R322, R365, R374, R386, R526) -/

/-- The map epoch of a descriptor is honoured (R364). -/
def epochHonoured (s : State) (e : Nat) : Bool := e == reg s .sysMapEpochCurrent || s.own.epochs.any fun x => x.1 == e

/-- Opcodes that take no deadline (R286). -/
def noDeadline (op : Nat) : Bool := op ∈ [0x07, 0x09, 0x28]

/-- A unit serves the opcode (R27). -/
def served (s : State) (w : Work) : Bool := unitType w.hdr.opcode w.ops == 0 || route s w.hdr.opcode w.ops != .nowhere

/-- Checks 1 to 7 of R322. -/
def acceptChks (s : State) (w : Work) : List Chk :=
  [chk (decide (w.hdr.opcode ∈ opcodes)) stBad, chk (w.hdr.clean && decide (w.hdr.order ≤ 2)) stBad,
   chk (anySlot s w || w.hdr.keySlot == regGet s .ldgCfgSlot w.ledger) stBad, chk (slotActive s w.hdr.keySlot) stKeyRevoked,
   chk (epochHonoured s w.hdr.epoch) stReroute, chk (!noDeadline w.hdr.opcode || w.hdr.deadline == 0) stBad,
   chkEv (served s w) stBad 0x0203]

/-- The key slot lies in the partition of the ledger's context; asked of ledgers with ANY_SLOT (R374). -/
def partMatches (s : State) (w : Work) : Bool :=
  !anySlot s w || slotPart s w.hdr.keySlot == regGet s .ctxCfgPart (contextOf s w)

/-- A descriptor stays within what compatibility mode serves (R386, R526). -/
def compatAdmits (w : Work) : Bool :=
  match w.hdr.opcode with
  | 0x11 => false
  | 0x10 => opr w 24 1 != 2 || decide (opr w 26 1 ≤ 4)
  | 0x19 => opr w 26 1 != 0 || opr w 16 8 != 0 || decide (opr w 24 2 ≤ 4)
  | _ => true

/-- The checks of a sluice, made at acceptance: an ill-formed one holds nothing back (R328). Log 61 (DEDUCED). -/
def sluiceChks (s : State) (w : Work) : List Chk :=
  let g := opr w 8 1
  [chk (decide (g ≤ 2) && bits (opr w 9 1) 7 1 == 0 && (!bit (opr w 9 1) 0 || (g == 2 && anySlot s w)) &&
     (g == 0 || opr w 0 8 == 0) && reservedClear w [(0, 10)]) stBad,
   chk (g != 0 || (heldFor s w.hdr.keySlot (opr w 0 8)).isSome) stNotOwner,
   chk (g != 0 || !(heldFor s w.hdr.keySlot (opr w 0 8)).any fun x => x.state == 5) stPoisoned]

/-- Checks and changes of the opcodes whose chapters place some at acceptance: FAR_ATTN (R188), SESSION_CLOSE (R85), REVIVE (R60, R115)
and SLUICE.
A PARK of a session that is REVIVING meets R111 here: behind the REVIVE, where R113 would let it start, no session is REVIVING.
Log 178 (DEDUCED). -/
def acceptOwn (s : State) (w : Work) : State :=
  match w.hdr.opcode with
  | 0x11 =>
    match heldFor s w.hdr.keySlot (subjectOf w) with
    | none => fail s w.id stNotOwner
    | some x => checked s w (farAllChks x w) id
  | 0x09 => closeAccepted s w
  | 0x07 => checked s w (sluiceChks s w) id
  | 0x02 => if opr w 8 1 = 2 then acceptHint s w else if opr w 8 1 ≤ 1 then acceptRevive s w else s
  | 0x01 => checked s w [chk (!(heldFor s w.hdr.keySlot (subjectOf w)).any fun x => x.state == 3) stConflict] id
  | _ => s

/-- A work that has passed acceptance waits, or goes to dispatch. -/
def allowWork (s : State) (id : Nat) : State :=
  match workOf s id with
  | none => s
  | some w => if w.place = .waiting ∧ w.waits.isEmpty then dispatch s w else s

/-- Look up the subject of a work, and run the checks that its chapter makes at acceptance. -/
def admitWork (s : State) (w : Work) : State := allowWork (acceptOwn (subjectChecked s (subjectOf w)) w) w.id

/-- A work whose lookup waited on a bucket waits for itself (R148): its lookup is made now, if nothing has ended it. -/
def resumeLookup (s : State) (w : Work) : State :=
  let turn : Work → Work := fun x => { x with waits := x.waits.filter fun i => i != w.id }
  if w.place = .waiting then admitWork (updWork s w.id turn) (turn w) else s

/-- Run the checks of acceptance on a work that has been entered. Its lookup waits where the bucket is being rebuilt (R148). -/
def acceptChecks (s : State) (w : Work) : State :=
  match firstFail (acceptChks s w) with
  | some c =>
    if c.status = stReroute then finish (regAdd s .sysMapStatRerouted 0 1 32) w.id stReroute (leBytes 4 (reg s .sysMapEpochCurrent)) []
    else failChk s w c
  | none =>
    match metered s w with
    | (s, false) => refuseMetered s w
    | (s, true) =>
      if !partMatches s w then failChk s w { ok := false, status := stBad, reason := 0x0606 }
      else if compatLedger s w.ledger && !compatAdmits w then fail s w.id stBad
      else if subjectOf w ≠ 0 ∧ bucketBusy s (subjectOf w) then updWork s w.id fun y => { y with waits := y.id :: y.waits }
      else admitWork s w

/-- DIR_REBUILD_DONE (R148): the bucket stands rebuilt, and what waits on it resumes, in the order of acceptance. -/
def execDirRebuildDone (bucket : Nat) (s : State) : Host.Outcome State Fault Refusal :=
  act s <| whenRunning fun s =>
    if bucket ∈ s.dir.rebuilding then
      let s := rebuildBucket s bucket
      (sortKey (·.id) (s.work.filter fun w => decide (w.id ∈ w.waits) && !bucketBusy s (subjectOf w))).foldl resumeLookup s
    else s

/-- The work of a descriptor that is consumed as entry `n` of a ledger. -/
def newWork (s : State) (l n : Nat) (desc : List Byte) : Work :=
  let p := if compatLedger s l then parseCompat desc else parseFull desc
  let x := (subjAny s (subjectIn p.1.opcode p.2)).bind fun x => if x.keySlot = p.1.keySlot then some x else none
  let w : Work :=
    { id := s.nextId, ledger := l, slot := n % 2 ^ regGet s .ldgCfgSizeLog2 l, hdr := p.1, ops := p.2, acceptTime := s.time,
      startTime := 0, policy := slotPolicy s p.1.keySlot, globals := (x.map (·.globals)).getD [],
      tokens := (x.map (·.log.length)).getD 0, place := .waiting, waits := [], behind := 0, suspendedAt := [], shares := [],
      final := false, expired := false, transfers := [], shaping := [], layer := 0, tally := [], status := none, result := [], effects := [] }
  let ws := waitList s w
  { w with waits := ws, behind := (s.work.filter (sluiceScope w)).length }

/-- Consume one descriptor: HEAD moves on, and it is accepted (R316). -/
def acceptWork (s : State) (l : Nat) (desc : List Byte) : State :=
  let n := regGet s .ldgHeadCount l
  let w := newWork s l n desc
  let s := regSet s .ldgHeadCount l ((n + 1) % 2 ^ 32)
  let s := countAll s 1 w.hdr.opcode 0xFFFF 0xFFFF w.hdr.keySlot (regGet s .ldgCfgPort l) 1
  acceptChecks { s with work := s.work ++ [w], nextId := s.nextId + 1 } w

/-! ### Ledger states (R312 to R318) -/

/-- The ledger serves: powered, RUNNING, ACTIVE, of the type given. -/
def ledgerActive (s : State) (l type : Nat) : Bool :=
  decide (l < 4096) && regGet s .ldgStatusState l == 1 && regGet s .ldgCfgType l == type

/-- Halt a ledger with an error (R318). -/
def haltLedger (s : State) (l err : Nat) : State := regSet (regSet s .ldgStatusState l 3) .ldgStatusError l err

/-- What a read of a ledger's ring or line returns: State Range lines come from their tiles, under the tenant of SLOT (R315). -/
def ledgerFetch (s : State) (l addr len : Nat) (f : Fetch) : Fetch :=
  if regGet s .ldgCfgLoc l = 0 then f
  else
    match addrOf addr with
    | .state off =>
      if slotActive s (regGet s .ldgCfgSlot l) && ((spanFrames off len).all fun o => match shownAt s o with
          | .tile _ => true
          | _ => false) && !spanPoisoned s off len
      then .data (shownBytes s off len) else .poison
    | _ => .poison

/-- Publish HEAD in the head line, where there is one (R312, R316). Log 63 (DEDUCED). -/
def publishHead (s : State) (l : Nat) : State :=
  let h := regGet s .ldgHeadCount l
  match addrOf (regGet s .ldgHeadAddrAddr l) with
  | .state off =>
    let r := releaseSpan s (.state off) 4
    storeSpan (emit r.1 (.headLine l h)) off (leBytes 4 h)
  | .fabric _ => emit s (.headLine l h)
  | _ => s

/-- Consume `n` descriptors in slot order; HEAD is published at every 16th and when nothing is left (R316). A descriptor that reads
with poison halts the ledger (R318). Log 60 (DEDUCED). -/
def consume : Nat → State → Nat → List Fetch → State
  | 0, s, l, _ => publishHead s l
  | k + 1, s, l, fs =>
    let n := regGet s .ldgHeadCount l
    let size := entrySize s l
    let addr := regGet s .ldgBaseAddr l + n % 2 ^ regGet s .ldgCfgSizeLog2 l * size
    match fs, regGet s .ldgCfgLoc l with
    | [], 0 => publishHead s l
    | _, _ =>
      match ledgerFetch s l addr size (fs.headD .poison) with
      | .poison => haltLedger (publishHead s l) l 2
      | .data b =>
        let s := acceptWork s l (slice b 0 size)
        let s := if regGet s .ldgHeadCount l % 16 = 0 then publishHead s l else s
        consume k s l fs.tail

/-- Act on a count that a submission ledger's tail line shows. -/
def takeTail (s : State) (l tail : Nat) (descs : List Fetch) : State :=
  let n := (tail + 2 ^ 32 - regGet s .ldgHeadCount l) % 2 ^ 32
  let s := regSet s .ldgHeadSeen l tail
  if 2 ^ regGet s .ldgCfgSizeLog2 l < n then haltLedger s l 1 else consume n s l descs

/-- LEDGER_TAIL_UPDATE (R314): the device reads TAIL and consumes the new descriptors. -/
def execLedgerTailUpdate (ledger : Nat) (line : Fetch) (descs : List Fetch) (s : State) : Host.Outcome State Fault Refusal :=
  act s <| whenRunning fun s =>
    if !ledgerActive s ledger 0 then s
    else
      match ledgerFetch s ledger (regGet s .ldgLineAddrAddr ledger) 64 line with
      | .poison => haltLedger s ledger 2
      | .data b => takeTail s ledger (field b 0 4) descs

/-- UNKNOWN_OPCODE (R321): a descriptor with an opcode outside the table is consumed and completes BAD_DESCRIPTOR. -/
def execUnknownOpcode (ledger : Nat) (desc : List Byte) (s : State) : Host.Outcome State Fault Refusal :=
  act s <| whenRunning fun s =>
    if ledgerActive s ledger 0 && !(decide (field desc 0 1 ∈ opcodes)) then publishHead (acceptWork s ledger desc) ledger else s

/-- Free slots of a completion ledger remain. -/
def cqRoom (s : State) (cq : Nat) : Bool :=
  decide ((regGet s .ldgHeadCount cq + 2 ^ 32 - regGet s .ldgHeadSeen cq) % 2 ^ 32 < 2 ^ regGet s .ldgCfgSizeLog2 cq)

/-- Act on a count that a consumed line shows (R313); a stall ends when there is room (R319). -/
def takeConsumed (s : State) (l n : Nat) : State :=
  let s := regSet s .ldgHeadSeen l n
  if 2 ^ regGet s .ldgCfgSizeLog2 l < (regGet s .ldgHeadCount l + 2 ^ 32 - n) % 2 ^ 32 then haltLedger s l 1
  else if cqRoom s l then { s with ledg := { s.ledg with stalled := s.ledg.stalled.filter (· ≠ l) } }
  else s

/-- A completion ledger receives: ACTIVE or DRAINING. -/
def cqReceives (s : State) (l : Nat) : Bool :=
  regGet s .ldgCfgType l == 1 && (regGet s .ldgStatusState l == 1 || regGet s .ldgStatusState l == 2)

/-- CONSUMED_LINE_UPDATE (R313): the host has freed completion slots. -/
def execConsumedLineUpdate (ledger : Nat) (line : Fetch) (s : State) : Host.Outcome State Fault Refusal :=
  act s <| whenRunning fun s =>
    if ledger < 4096 ∧ cqReceives s ledger then
      match ledgerFetch s ledger (regGet s .ldgLineAddrAddr ledger) 64 line with
      | .poison => haltLedger s ledger 2
      | .data b => takeConsumed s ledger (field b 0 4)
    else s

/-- An address of a ledger passes R312: reserved bits, alignment, and where it lies. -/
def ledgerAddrOk (s : State) (l addr len align : Nat) : Bool :=
  decide (addr % align = 0) &&
    match addrOf addr with
    | .fabric a => regGet s .ldgCfgLoc l == 0 && (amapEntry s a len).any fun i =>
        regGet s .cxlAmapKind i == 0 && regGet s .cxlAmapPort i == regGet s .ldgCfgPort l
    | .state off => regGet s .ldgCfgLoc l == 1 && decide (off + len ≤ 2 ^ 46) && stateReach s (regGet s .ldgCfgSlot l) off len true
    | _ => false

/-- The addresses of a ledger pass R312. -/
def ledgerAddrs (s : State) (l : Nat) : Bool :=
  ledgerAddrOk s l (regGet s .ldgBaseAddr l) (2 ^ regGet s .ldgCfgSizeLog2 l * entrySize s l) 4096 &&
    ledgerAddrOk s l (regGet s .ldgLineAddrAddr l) 64 64 &&
    (regGet s .ldgHeadAddrAddr l == 0 || ledgerAddrOk s l (regGet s .ldgHeadAddrAddr l) 64 64)

/-- The enable checks of R312, R318 with R525, and R374, in order: 0, or the error of the first that fails. -/
def enableError (s : State) (l : Nat) : Nat :=
  let cq := regGet s .ldgCfgCq l
  if !ledgerAddrs s l then 7
  else if regGet s .ldgCfgType l = 1 then 0
  else if !ledgerActive s cq 1 || compatLedger s l != compatLedger s cq then 4
  else if slotPart s (regGet s .ldgCfgSlot l) ≠ regGet s .ctxCfgPart (regGet s .ldgCfgCtx l) then 5
  else 0

/-- The tiles that hold the ring and the lines of a ledger with LOC 1 are raised to T1 of their home bed, where they stay (R315). -/
def pinLedger (s : State) (l : Nat) : State :=
  (((ledgerSpans s l).flatMap fun e => spanFrames e.1 e.2).filterMap (tileAt s)).dedup.foldl
    (fun s k => (raiseDemand s k.1 k.2 (homeOf s k.1)).1) s

/-- LEDGER_ENABLE (R318): a DISABLED ledger of the path's selector is checked and becomes ACTIVE; the count that its line shows is
taken at once (R313). -/
def execLedgerEnable (path : Path) (line : Nat) (s : State) : Host.Outcome State Fault Refusal :=
  act s <| whenRunning fun s =>
    match entryOf s path .ldgStatusState 0 with
    | none => s
    | some l =>
      if !ledgerDisabled s l || s.power.quiescing then s
      else
        let e := enableError s l
        if e ≠ 0 then regSet s .ldgStatusError l e
        else
          let s := regSet (regSet (regSet (regSet s .ldgStatusState l 1) .ldgStatusError l 0) .ldgHeadCount l 0) .ldgHeadSeen l 0
          let s := regSet s .ldgCtrlEnable l 1
          let s := if regGet s .ldgCfgLoc l = 0 then { s with ledg := { s.ledg with watched := insNat l s.ledg.watched } } else pinLedger s l
          match ledgerFetch s l (regGet s .ldgLineAddrAddr l) 64 (.data (leBytes 4 line)) with
          | .poison => haltLedger s l 2
          | .data b => if regGet s .ldgCfgType l = 0 then takeTail s l (field b 0 4) [] else takeConsumed s l (field b 0 4)

/-- A ledger begins to drain (R318). -/
def drainLedger (s : State) (l : Nat) : State :=
  if regGet s .ldgStatusState l = 1 ∨ regGet s .ldgStatusState l = 3 then
    regSet (regSet s .ldgStatusState l 2) .ldgCtrlEnable l 0
  else s

/-- LEDGER_DISABLE (R318). -/
def execLedgerDisable (path : Path) (s : State) : Host.Outcome State Fault Refusal :=
  act s <| whenRunning fun s =>
    match entryOf s path .ldgStatusState 0 with
    | none => s
    | some l => drainLedger s l

/-- No work of a submission ledger is left, or none that completes into a completion ledger. -/
def ledgerEmpty (s : State) (l : Nat) : Bool :=
  s.work.all fun w => if regGet s .ldgCfgType l = 0 then w.ledger != l else regGet s .ldgCfgCq w.ledger != l

/-- A DRAINING ledger becomes DISABLED. -/
def disableLedger (s : State) (l : Nat) : State :=
  { regSet s .ldgStatusState l 0 with ledg := { s.ledg with watched := s.ledg.watched.filter (· ≠ l) } }

/-- LEDGER_DRAIN_END (R318). -/
def execLedgerDrainEnd (ledger : Nat) (s : State) : Host.Outcome State Fault Refusal :=
  act s <| whenRunning fun s =>
    if ledger < 4096 ∧ regGet s .ldgStatusState ledger = 2 ∧ ledgerEmpty s ledger then disableLedger s ledger else s

/-! ### Completions (R323, R325, R36) -/

/-- The bytes of a completion, with PHASE as WRITTEN stands before the write (R323, R525). -/
def completionBytes (s : State) (w : Work) (cq status : Nat) (result : List Byte) : List Byte :=
  let phase := if regGet s .ldgHeadCount cq / 2 ^ regGet s .ldgCfgSizeLog2 cq % 2 = 0 then 1 else 0
  let op := if w.hdr.opcode ∈ opcodes then w.hdr.opcode else 0
  if compatLedger s cq then leBytes 4 w.hdr.tag ++ [byte status, byte op, byte phase, 0] ++ slice result 0 8
  else
    leBytes 8 w.hdr.tag ++ [byte status, byte op, byte phase, 0] ++ leBytes 2 w.ledger ++ leBytes 2 w.slot ++ slice result 0 16

/-- The layers of a session whose page a PARK was to file and which became ABSENT since (R80, R112). -/
def lostLayers (s : State) (w : Work) : List Nat :=
  if w.hdr.opcode ≠ 0x01 ∨ w.tally.getD 0 0 = 0 then []
  else w.effects.filterMap fun e =>
    match e with
    | .page h l p _ _ none => if ((subjAny s h).map fun x => (pageOf (mapOf x l) p).state) = some 3 then some l else none
    | _ => none

/-- An effect belongs to the KV of a layer. -/
def ofLayer (l : Nat) (e : Effect) : Bool :=
  match e with
  | .page _ k _ _ _ _ => k == l
  | .seqs _ k _ _ _ _ _ => k == l
  | .tile t => decide (5 ≤ t.kind) && decide (t.kind ≤ 8) && t.layer == l
  | _ => false

/-- A page that the work was to file or to attach has changed under it (R76, R77, R128). -/
def pageMoved (s : State) (w : Work) (e : Effect) : Bool :=
  match e with
  | .page h l p _ _ _ =>
    let st := ((subjAny s h).map fun x => (pageOf (mapOf x l) p).state).getD 0
    if w.hdr.opcode = 0x10 then (if opr w 24 1 = 1 then st != 1 else st == 2)
    else if w.hdr.opcode = 0x03 then st == 1 || st == 2
    else false
  | _ => false

/-- Status, result and effects as the completion is written: what changed since the work ended may turn a page's filing into
CONFLICT, or leave layers of a PARK out. -/
def revised (s : State) (w : Work) : Nat × List Byte × List Effect :=
  let st := w.status.getD stDone
  let lost := lostLayers s w
  if !keepsEffects st then (st, w.result, [])
  else if w.effects.any (pageMoved s w) then (stConflict, [], [])
  else if lost.isEmpty then (st, w.result, w.effects)
  else (stTruncated, w.result, w.effects.filter fun e => !(lost.any fun l => ofLayer l e))

/-- Signal a completion to its group: NOTIFY or COUNT raise the vector (R332). -/
def signal (s : State) (cq : Nat) (notify : Bool) : State :=
  let g := regGet s .ldgCfgGroup cq
  if g = 0 then s
  else
    let n := (aget s.ledg.coal g).getD 0 + 1
    if notify || decide (regGet s .ldgGrpCoalCount g ≤ n) then
      raiseVector { s with ledg := { s.ledg with coal := adel s.ledg.coal g } } g
    else { s with ledg := { s.ledg with coal := aset s.ledg.coal g n } }

/-- The payload of a DESC record: up to 64 appended log entries, or the first 256 bytes of a MASK's record 0 (R493). -/
def descPayload (w : Work) (l : List Effect) : List Byte :=
  let entries := l.flatMap fun e =>
    match e with
    | .append _ es => es
    | _ => []
  if w.hdr.opcode ∈ [0x18, 0x19, 0x13] then packNats 4 (entries.take 64)
  else if w.hdr.opcode = 0x1A then w.tally.map byte
  else []

/-- Write the DESC record of a completion (R493, R494). -/
def traceDesc (s : State) (w : Work) (status : Nat) (l : List Effect) : State :=
  if reg s .obsTraceCfgDesc = 0 then s
  else
    let p := if reg s .obsTraceCfgPayload = 1 then descPayload w l else []
    let shown := consents s w.hdr.keySlot
    let flags := if p.isEmpty then 0 else if shown then 1 else 2
    trace s 0x05 flags w.hdr.keySlot 0xFF (subjectOf w) false
      ([byte w.hdr.opcode, byte status] ++ leBytes 2 w.ledger ++ zeros 4 ++ leBytes 8 w.hdr.tag ++ leBytes 8 w.acceptTime ++
        leBytes 8 w.startTime) (if shown then p else [])

/-- A host's REVIVE of a session that its planner withholds: it is RUNNING again, and RESUME is due (R285). -/
def plannerRevived (s : State) (w : Work) : State :=
  if w.hdr.opcode = 0x02 ∧ opr w 8 1 ≤ 1 then
    match memberOf s (subjectOf w) with
    | none => s
    | some m => if m.st = 2 ∨ m.st = 3 then dueEntry (updMember s m.handle fun m => { m with st := 0, retry := 0 }) m.handle 5 else s
  else s

/-- A completion has been written: its effects are referenced, the work is gone, and what waited goes on. -/
def completed (s : State) (w : Work) (cq status : Nat) (effects : List Effect) : State :=
  let s := regSet s .ldgHeadCount cq ((regGet s .ldgHeadCount cq + 1) % 2 ^ 32)
  let s := applyEffects s effects
  let s := if keepsEffects status then plannerRevived s w else undoWork s w
  let s := traceDesc (signal s cq w.hdr.notify) w status effects
  let s := countAll s 2 status 0xFFFF 0xFFFF w.hdr.keySlot (regGet s .ldgCfgPort cq) 1
  let s := retireWork s w
  tidyReady (noteReady (sweepDir (reap s.subjects.length s)))

/-- In a compatibility context, earlier descriptors of the ledger are still without completion (R386). -/
def compatWaits (s : State) (w : Work) : Bool :=
  compatLedger s w.ledger && s.work.any fun x => x.ledger == w.ledger && decide (x.id < w.id)

/-- Indices of the subjects that a work creates or whose entries its completion reveals. -/
def createdIndices (w : Work) : List Nat :=
  w.effects.filterMap fun e =>
    match e with
    | .openSubject x => some x.index
    | _ => none

/-- Works whose completion is ready to be written into a completion ledger, in the order in which they finished (R319, R325). -/
def readyFor (s : State) (cq : Nat) : List Work :=
  s.work.filter fun x => x.place == .ended && regGet s .ldgCfgCq x.ledger == cq && !compatWaits s x &&
    !(createdIndices x).any (revealBusy s) && (changedNames s (revised s x).2.2).all fun k => (heldLines s k.1 k.2).isEmpty

/-- The completion ledger of a work can not be reached any more: it lay behind a failed port (R338). -/
def cqLost (s : State) (cq : Nat) : Bool := regGet s .ldgStatusState cq == 3 && regGet s .ldgStatusError cq == 3

/-- The windows that effects unbind show lines no host holds any more (R120). -/
def unbindLines (l : List Effect) : List Nat :=
  l.filterMap fun e =>
    match e with
    | .unbind w => some w
    | _ => none

/-- Write the completion of a work that has ended, unless it waits: for its order, for a bucket that is being rebuilt, for lines that hosts hold, for a free slot.
Log 59 (DEDUCED). -/
def writeCompletion (s : State) (w : Work) : State :=
  let cq := regGet s .ldgCfgCq w.ledger
  if cqLost s cq then abandon s w
  else if !cqReceives s cq || compatWaits s w || (createdIndices w).any (revealBusy s) then s
  else
    let r := revised s w
    let q := releaseLines s (changedNames s r.2.2)
    if !q.2 then q.1
    else
      let s := q.1
      if ((readyFor s cq).head?.map (·.id)) ≠ some w.id ∨ !cqRoom s cq then s
      else
        let n := regGet s .ldgHeadCount cq
        let body := completionBytes s w cq r.1 r.2.1
        let addr := regGet s .ldgBaseAddr cq + n % 2 ^ regGet s .ldgCfgSizeLog2 cq * entrySize s cq
        match regGet s .ldgCfgLoc cq, addrOf addr with
        | 1, .state off =>
          let p := releaseSpan s (.state off) body.length
          if !p.2 then p.1 else completed (emit (storeSpan p.1 off body) (.completion cq n body)) w cq r.1 r.2.2
        | _, _ => completed (emit s (.completion cq n body)) w cq r.1 r.2.2

/-! ### Stalls and interrupts -/

/-- CQ_FULL_TIMEOUT (R319): completions have waited on a full ledger; one event for a stall. -/
def execCqFullTimeout (ledger : Nat) (s : State) : Host.Outcome State Fault Refusal :=
  act s <| whenRunning fun s =>
    if ledger < 4096 ∧ cqReceives s ledger ∧ !cqRoom s ledger ∧ ledger ∉ s.ledg.stalled ∧
        s.work.any (fun w => w.place == .ended && regGet s .ldgCfgCq w.ledger == ledger) then
      let s := event s 0x0407 0 0xFFFF 0 (locate 8 0 0 0 ledger) []
      { s with ledg := { s.ledg with stalled := insNat ledger s.ledg.stalled } }
    else s

/-- INTERRUPT_COAL_TIMEOUT (R332): TIME has passed since the first completion that is not signalled. -/
def execInterruptCoalTimeout (group : Nat) (s : State) : Host.Outcome State Fault Refusal :=
  act s <| whenRunning fun s =>
    if regGet s .ldgGrpCoalTime group ≠ 0 ∧ (aget s.ledg.coal group).isSome then
      raiseVector { s with ledg := { s.ledg with coal := adel s.ledg.coal group } } group
    else s

/-! ### Sluices (R329, R330) -/

/-- A sluice whose descriptors have all completed: DONE with their number. Its fabric records are written as they change, so none is
left to flush. -/
def runSluice (s : State) (w : Work) : State := done s w.id stDone (leBytes 4 w.behind)

/-- SLUICE_SESSION (R329). -/
def execSluiceSession (work : Nat) (s : State) : Host.Outcome State Fault Refusal :=
  act s <| runWork work (isMode 0x07 8 0) runSluice

/-- SLUICE_PUBLISH (R329). -/
def execSluicePublish (work : Nat) (s : State) : Host.Outcome State Fault Refusal :=
  act s <| runWork work (isMode 0x07 8 1) runSluice

/-- SLUICE_GLOBAL (R329). -/
def execSluiceGlobal (work : Nat) (s : State) : Host.Outcome State Fault Refusal :=
  act s <| runWork work (isMode 0x07 8 2) runSluice

end Sys2Proof.Machine
end

