-- ==== Sys2Proof/Machine/Admission.lean ====
section
/-! DEFINITION. Step admission and traffic control (ch. 10): STEP_PLAN with its four modes, the planner's parks and revives,
deadlines, shapers, meters and the queue maxima. -/

namespace Sys2Proof.Machine

/-! ### PLAN (R277 to R284) -/

/-- An entry of a manifest: handle, kind, first, count. -/
abbrev PlanEntry : Type := Nat × Nat × Nat × Nat

/-- The class of a session: its PRIORITY (R274). -/
def prioOf (s : State) (h : Nat) : Nat := ((subjAny s h).map (·.priority)).getD 0

/-- KV_TOKENS that the outcome DONE of a pending manifest adds to a session (R278). -/
def outcomeOf (l : List PlanEntry) (h : Nat) : Nat :=
  (l.map fun e => if e.1 ≠ h then 0 else if e.2.1 = 1 then 1 else if e.2.1 = 0 ∨ e.2.1 = 2 then e.2.2.2 else 0).sum

/-- The wait of a ready member in ns, and the goal that it is judged against in ns (R282). -/
def waitOf (now : Nat) (m : Member) : Nat := if m.streaming then now - m.lastPlaced else now + 1 - m.readySince

/-- The goal that applies to a member of a class. -/
def goalOf (p : Planner) (c : Nat) (m : Member) : Nat :=
  if m.streaming then p.itl.getD c 0 * 1000 else p.ttr.getD c 0 * 1000000

/-- What a PLAN works with: the ready members after the outcome, with class and wait. -/
structure Judged where
  member : Member
  cls : Nat
  wait : Nat
  pend : Nat
  nodes : Nat
  index : Nat
deriving DecidableEq, Repr

/-- The ready members of a planner, in the order of placement: class, greatest wait, lower session index (R279). -/
def readyNow (s : State) (now : Nat) (ms : List Member) : List Judged :=
  let js := (ms.filter (memberReady s)).map fun m =>
    let x := subjAny s m.handle
    { member := m, cls := prioOf s m.handle, wait := waitOf now m, pend := pendingOf s m
      nodes := ((x.bind (·.draft)).map fun d => if d.base.isSome then d.tree.length else 0).getD 0
      index := ownerIndex s m.handle : Judged }
  let longest := js.foldl (fun a j => max a j.wait) 0
  sortKey (fun j => (j.cls * (longest + 1) + (longest - j.wait)) * 2 ^ 24 + j.index) js

/-- Classes that miss their goals (R282). -/
def missing (p : Planner) (js : List Judged) : List Nat :=
  (List.range 4).filter fun c => js.any fun j =>
    j.cls == c && goalOf p c j.member != 0 && decide (goalOf p c j.member < j.wait)

/-- The members that a miss pauses (R283). -/
def victims (s : State) (p : Planner) (ms : List Member) (js : List Judged) (misses : List Nat) : List Member :=
  match misses with
  | [] => []
  | c :: _ =>
    let placed := (p.manifest.getD []).filter fun e => decide (e.2.1 ≤ 2)
    let able := ms.filter fun m => m.st == 0 && decide (c < prioOf s m.handle) &&
      (js.any (fun j => j.member.handle == m.handle) || placed.any fun e => e.1 == m.handle)
    let v := (able.map fun m => prioOf s m.handle).foldl max 0
    let most := able.foldl (fun a m => max a (pendingOf s m)) 0
    let latest := able.foldl (fun a m => max a m.order) 0
    (sortKey (fun m => (most - pendingOf s m) * (latest + 1) + (latest - m.order)) (able.filter fun m => prioOf s m.handle == v)).take
      p.pauseStep

/-- The PAUSED members that revive after enough PLANs have met their goals (R284). -/
def resumed (s : State) (p : Planner) (ms : List Member) : List Member :=
  let latest := ms.foldl (fun a m => max a m.pausedAt) 0
  (sortKey (fun m => prioOf s m.handle * (latest + 1) + m.pausedAt) (ms.filter fun m => m.st == 2)).take p.pauseStep

/-- Decode and tree entries (R279): entries, budget left. -/
def placeDecodes : List Judged → Nat → Nat → List PlanEntry × Nat
  | [], budget, _ => ([], budget)
  | j :: js, budget, room =>
    let need := 1 + j.nodes
    if j.pend = 1 ∧ need ≤ budget ∧ 0 < room then
      let r := placeDecodes js (budget - need) (room - 1)
      ((j.member.handle, if j.nodes = 0 then 0 else 1, j.member.kvTokens, need) :: r.1, r.2)
    else placeDecodes js budget room

/-- The length of a chunk: to the end of the pending tokens, or to a page boundary (R279). -/
def chunkLen (chunk budget : Nat) (j : Judged) : Nat :=
  let len := min chunk (min j.pend budget)
  if len < j.pend then 32 * ((j.member.kvTokens + len) / 32) - j.member.kvTokens else len

/-- Chunk entries (R279). -/
def placeChunks (chunk : Nat) : List Judged → Nat → Nat → List PlanEntry
  | [], _, _ => []
  | j :: js, budget, room =>
    let len := chunkLen chunk budget j
    if 1 < j.pend ∧ 0 < len ∧ 0 < room then
      (j.member.handle, 2, j.member.kvTokens, len) :: placeChunks chunk js (budget - len) (room - 1)
    else placeChunks chunk js budget room

/-- The bytes of an entry (R280): LAST where a chunk reaches the end of the pending tokens. -/
def manifestEntry (s : State) (js : List Judged) (e : PlanEntry) : List Byte :=
  let last := e.2.1 == 2 && js.any fun j => j.member.handle == e.1 && j.pend == e.2.2.2
  leBytes 8 e.1 ++ leBytes 4 e.2.2.1 ++ leBytes 2 e.2.2.2 ++ [byte e.2.1, byte (prioOf s e.1 + 4 * b2n last)]

/-- CLASS_MISS. -/
def missBits (l : List Nat) : Nat := (l.map fun c => 2 ^ c).sum

/-- Members after the outcome, as a PLAN sees them. -/
def afterOutcome (p : Planner) (outcome : Nat) : List Member :=
  p.members.map fun m => if outcome = 1 then { m with kvTokens := m.kvTokens + outcomeOf (p.manifest.getD []) m.handle } else m

/-- A PLAN's result (R281). -/
def planResult (step entries misses tokens : Nat) : List Byte :=
  leBytes 4 step ++ leBytes 2 entries ++ [byte misses, 0] ++ leBytes 4 tokens

/-- Run a PLAN that has passed its checks. A park or a revive that failed is tried again without another entry (R271). Log 65 (DEDUCED).
Log 169 (DEDUCED). -/
def planStep (s : State) (w : Work) (p : Planner) : State :=
  let now := s.time
  let old := p.manifest.getD []
  let ms0 := afterOutcome p (opr w 2 1)
  let ms := ms0.map fun m => if memberReady s m then m else { m with streaming := false }
  let js := readyNow s now ms
  let misses := missing p js
  let carried := if opr w 2 1 = 2 then old.filter (fun e => decide (3 ≤ e.2.1)) else []
  let pauses := victims s p ms js misses
  let count := p.meets + 1
  let revives := if misses.isEmpty && decide (p.resumeHold ≤ count) then resumed s p ms else []
  let meets := if !misses.isEmpty || !revives.isEmpty then 0 else count
  let again := ms.filter fun m => (m.retry == 1 && m.st == 0) || (m.retry == 3 && m.st == 2)
  let first := fun h => ((ms.find? fun m => m.handle == h).map (·.kvTokens)).getD 0
  let due := carried.map (fun e => (e.1, e.2.1)) ++ (pauses.map fun m => (m.handle, 3)) ++ p.due
  let due : List PlanEntry := due.map fun e => (e.1, e.2, first e.1, 0)
  let control := (sortKey (fun e : PlanEntry => e.2.1) due).take p.maxEntries
  let kept := ((sortKey (fun e : PlanEntry => e.2.1) due).drop p.maxEntries).map fun e => (e.1, e.2.1)
  let able := js.filter fun j => !((pauses ++ again).any fun m => m.handle == j.member.handle)
  let room := p.maxEntries - control.length
  let dec := placeDecodes able p.budget room
  let chk := placeChunks p.chunk able dec.2 (room - dec.1.length)
  let entries := control ++ dec.1 ++ chk
  let tokens := ((dec.1 ++ chk).map fun e => e.2.2.2).sum
  let held := (ms.filter fun m => m.st != 0 || pauses.any (fun v => v.handle == m.handle) || again.any (fun v => v.handle == m.handle)).length
  let step := p.step + 1
  let head := leBytes 4 step ++ [byte p.no, byte (missBits misses)] ++ leBytes 2 entries.length ++ leBytes 4 tokens ++
    leBytes 4 (able.length - dec.1.length - chk.length) ++ leBytes 4 held ++ zeros 4 ++ leBytes 8 now ++ zeros 32
  let gains := (ms.filter fun m => opr w 2 1 == 1 && outcomeOf old m.handle != 0).map fun m =>
    Effect.kvTokens m.handle (outcomeOf old m.handle)
  let s := mapPlanners s fun q =>
    if q.no = p.no then
      let quiet := fun m : Member => if ms.any (fun n => n.handle == m.handle && !n.streaming) then { m with streaming := false } else m
      { q with members := q.members.map quiet }
    else q
  concludeOut s w stDone (planResult step entries.length (missBits misses) tokens) []
    (gains ++ (again.map fun m => .member p.no m.handle 0 m.retry 0) ++ (pauses.map fun m => .member p.no m.handle 0 1 0) ++ (revives.map fun m => .member p.no m.handle 0 3 0) ++
      [.plan p.no step entries p.due kept meets now])
    (addrOf (opr w 16 8)) (head ++ entries.flatMap (manifestEntry s js))

/-- A planner by its number. -/
def plannerNo (s : State) (n : Nat) : Option Planner := s.adm.planners.find? fun p => p.no == n

/-- The outcome of a PLAN fits the pending manifest (R277). -/
def outcomeFits (p : Planner) (w : Work) : Bool :=
  if opr w 2 1 = 0 then p.manifest.isNone else p.manifest.isSome && opr w 4 4 == p.step

/-- The checks of PLAN (R277), then the reach of its buffer (R302). -/
def planChks (s : State) (w : Work) (p : Planner) : List Chk :=
  let a := opr w 16 8
  [chk (opr w 1 1 == 0 && reservedClear w [(0, 3), (4, 4), (16, 8)] && a != 0 && a % 64 == 0 && decide (opr w 2 1 ≤ 2)) stBad,
   chk (outcomeFits p w) stConflict, reachChk s w (addrOf a) (64 + 16 * p.maxEntries) true]

/-- PLAN. -/
def runPlan (s : State) (w : Work) : State :=
  let s := noteReady s
  match plannerNo s (opr w 0 1) with
  | none => fail s w.id stBad
  | some p => checked s w (planChks s w p) fun s => planStep s w p

/-- PLAN (R278). -/
def execPlan (work : Nat) (s : State) : Host.Outcome State Fault Refusal :=
  act s <| runWork work (isFirstMode 0x38 1 4) runPlan

/-! ### ENROLL, WITHDRAW and CONFIGURE (R274 to R276) -/

/-- An ENROLL that has ended is about to enrol the session. -/
def enrolling (s : State) (h : Nat) : Bool :=
  s.work.any fun w => w.effects.any fun e =>
    match e with
    | .member _ y _ _ near => y == h && near != 0
    | _ => false

/-- Sessions that ENROLLs which have ended are about to enrol in a planner. -/
def enrollsDue (s : State) (n : Nat) : Nat :=
  (s.work.flatMap fun w => w.effects.filter fun e =>
    match e with
    | .member p _ _ _ near => p == n && near != 0
    | _ => false).length

/-- A class is under pause in a planner (R283). -/
def underPause (s : State) (p : Planner) (c : Nat) : Bool := p.members.any fun m => m.st != 0 && prioOf s m.handle == c

/-- Sessions that a planner holds (R268). -/
def plannerCapacity : Nat := 262144

/-- The checks of ENROLL (R275). -/
def enrollChks (s : State) (w : Work) (x : Subject) : List Chk :=
  let h := opr w 16 8
  let p := plannerNo s (opr w 0 1)
  [chk (isSession x) stBad, chk (x.state != 5) stPoisoned,
   chk (p.isSome && reservedClear w [(0, 2), (16, 20)] && decide (opr w 32 4 ≤ x.log.length) && opr w 24 8 != 0) stBad,
   chk ((plannerOf s h).isNone && !enrolling s h) stConflict,
   chk (p.any fun p => decide (p.members.length + enrollsDue s p.no < plannerCapacity)) stNoSpace]

/-- ENROLL. -/
def runEnroll (s : State) (w : Work) : State :=
  let h := opr w 16 8
  match heldFor s w.hdr.keySlot h with
  | none => fail s w.id stNotOwner
  | some x =>
    let p := plannerNo s (opr w 0 1)
    checked s w (enrollChks s w x) fun s =>
      let st := if p.any (fun p => underPause s p x.priority) then 1 else 0
      finish s w.id (if st = 1 then stPaused else stDone) [] [.member (opr w 0 1) h (opr w 32 4) st (opr w 24 8)]

/-- ENROLL (R275). -/
def execEnroll (work : Nat) (s : State) : Host.Outcome State Fault Refusal :=
  act s <| runWork work (isMode 0x38 1 1) runEnroll

/-- WITHDRAW: waits for a park or revive that the planner has started. -/
def runWithdraw (s : State) (w : Work) : State :=
  let h := opr w 16 8
  match heldFor s w.hdr.keySlot h with
  | none => fail s w.id stNotOwner
  | some x =>
    if x.state = 5 then fail s w.id stPoisoned else
    match (plannerOf s h).bind fun p => if p.no = opr w 0 1 ∧ reservedClear w [(0, 2), (16, 8)] then p.members.find? fun m => m.handle == h else none with
    | none => fail s w.id stBad
    | some m =>
      if (m.st = 1 ∧ m.parkAt.isSome) ∨ m.st = 3 then s
      else finish s w.id stDone [byte x.state] [.unmember (opr w 0 1) h]

/-- WITHDRAW (R276). -/
def execWithdraw (work : Nat) (s : State) : Host.Outcome State Fault Refusal :=
  act s <| runWork work (isMode 0x38 1 2) runWithdraw

/-- The fields of CONFIGURE lie in their ranges (R273). -/
def planFields (w : Work) : Bool :=
  decide (opr w 0 1 ≤ 63) && reservedClear w [(0, 2), (4, 10), (16, 24)] && decide (opr w 4 4 ≤ 65536) &&
    decide (1 ≤ opr w 8 2) && decide (opr w 8 2 ≤ 4096) &&
    (opr w 10 2 == 0 || (decide (32 ≤ opr w 10 2) && decide (opr w 10 2 ≤ 4096) && opr w 10 2 % 32 == 0)) &&
    decide (opr w 12 1 ≤ 64)

/-- The checks of CONFIGURE (R274). -/
def planConfigureChks (s : State) (w : Work) : List Chk :=
  [chk (planFields w) stBad, chk (opr w 4 4 != 0 || (plannerNo s (opr w 0 1)).all fun p => p.members.isEmpty) stConflict]

/-- The parameters of CONFIGURE, 0 read as the default (R274). -/
def planParams (w : Work) : List Nat :=
  let or := fun n d => if n = 0 then d else n
  [opr w 4 4, opr w 8 2, or (opr w 10 2) 512, or (opr w 12 1) 8, or (opr w 13 1) 16] ++ unpackNats 4 4 w.ops 16 ++ unpackNats 2 4 w.ops 32

/-- CONFIGURE. -/
def runPlanConfigure (s : State) (w : Work) : State :=
  checked s w (planConfigureChks s w) fun s => finish s w.id stDone [] [.planner (opr w 0 1) (planParams w)]

/-- STEP_PLAN_CONFIGURE (R274). -/
def execStepPlanConfigure (work : Nat) (s : State) : Host.Outcome State Fault Refusal :=
  act s <| runWork work (isMode 0x38 1 3) runPlanConfigure

/-! ### The planner's parks and revives (R271, R284) -/

/-- The revive that a planner runs for a member (R271): MODE WORKING, KEEP_BED 0. -/
def reviveWork (s : State) (slot : Nat) (m : Member) : Work :=
  let w := parkWork s slot m
  { w with hdr := { w.hdr with opcode := 0x02 }, ops := leBytes 8 m.handle ++ zeros 56 }

/-- Take a planner's own work out again. -/
def dropOwn (s : State) (id : Nat) : State := { s with work := s.work.filter fun w => w.id != id }

/-- Run a planner's own work to its end at once: while it waits, only what it asked for remains; with success its effects are
referenced, otherwise none (R271). -/
def runOwn (s : State) (w : Work) (run : State → Work → State) (good bad : State → State) : State :=
  let t := run { s with work := s.work ++ [w], nextId := s.nextId + 1 } w
  match workOf t w.id with
  | none => t
  | some v =>
    if v.place ≠ .ended then { dropOwn t w.id with nextId := s.nextId }
    else
      let r := revised t v
      if !keepsEffects r.1 then bad (undoWork (dropOwn t w.id) v)
      else
        let q := releaseLines t (changedNames t r.2.2)
        if !q.2 then { dropOwn q.1 w.id with nextId := s.nextId } else good (noteReady (applyEffects (dropOwn q.1 w.id) r.2.2))

/-- Earlier descriptors for a session have not completed: those before the planner's park started. -/
def parkWaits (s : State) (h at_ : Nat) : Bool := s.work.any fun w => subjectOf w == h && decide (w.id < at_)

/-- PLANNER_PARK_DONE (R284): the park of a PAUSING session runs; the session is PAUSED, and a RELEASE entry is due. -/
def execPlannerParkDone (handle : Nat) (src : Fetch) (s : State) : Host.Outcome State Fault Refusal :=
  act s <| whenRunning fun s =>
    match memberOf s handle, subjAny s handle with
    | some m, some x =>
      match m.st, m.parkAt with
      | 1, some n =>
        let back := fun s => updMember s handle fun m => { m with st := 0, parkAt := none, retry := 1 }
        if !slotActive s x.keySlot then back s
        else if parkWaits s handle n || ddFull s then s
        else
          runOwn s (parkWork s x.keySlot m) (runPark src)
            (fun s => dueEntry (updMember s handle fun m => { m with st := 2, parkAt := none, pausedAt := s.time }) handle 4) back
      | _, _ => s
    | _, _ => s

/-- PLANNER_REVIVE_DONE (R284): the revive of a RESUMING session runs; the session is RUNNING, and a RESUME entry is due. -/
def execPlannerReviveDone (handle : Nat) (s : State) : Host.Outcome State Fault Refusal :=
  act s <| whenRunning fun s =>
    match memberOf s handle, subjAny s handle with
    | some m, some x =>
      if m.st ≠ 3 then s
      else
        let back := fun s =>
          updSubj (updMember s handle fun m => { m with st := 2, retry := 3 }) handle fun x => if x.state = 3 then { x with state := 2 } else x
        if !slotActive s x.keySlot then back s
        else
          runOwn s (reviveWork s x.keySlot m) (runRevive false [])
            (fun s => noteReady (dueEntry (updMember s handle fun m => { m with st := 0 }) handle 5)) back
    | _, _ => s

/-! ### Deadlines (R286 to R288) -/

/-- The time at which a deadline of a work expires. -/
def deadlineOf (w : Work) : Nat := w.acceptTime + 1000 * w.hdr.deadline

/-- A deadline is missed: the work completes DEADLINE; the miss is logged and counted (R288). -/
def missDeadline (s : State) (w : Work) : State :=
  let s := workEvent (setLast (raiseClass s 2) 2 0 0) w 0x0901 [w.hdr.opcode, w.ledger, s.time - deadlineOf w]
  tidyReady (fail (dropSteps (countReg s .admDlMissCount w.hdr.keySlot 1) w.id) w.id stDeadline)

/-- A tile step of a work runs on some pan. -/
def stepping (s : State) (w : Work) : Bool := s.units.steps.any fun e => e.work == w.id

/-- DEADLINE_EXPIRY (R287): a work whose final step has not begun completes DEADLINE, at once or at the end of the step that runs. -/
def execDeadlineExpiry (work : Nat) (s : State) : Host.Outcome State Fault Refusal :=
  act s <| whenRunning fun s =>
    match workOf s work with
    | none => s
    | some w =>
      if w.hdr.deadline = 0 ∨ !unfinished w ∨ w.final then s
      else if stepping s w then updWork s work fun x => { x with expired := true }
      else missDeadline s w

/-! ### Shapers (R290, R291) -/

/-- Shapers that a record or a written parameter names. -/
def shaperNos (s : State) : List Nat :=
  (s.adm.shapers.map (·.no) ++ s.regs.cells.filterMap fun c =>
    if c.1.1 = .admShpRateRate ∨ c.1.1 = .admShpBurstBurst then some c.1.2 else none).dedup

/-- Refill one shaper: pending parameters first, then the level (R291). RATE in MB/s by INTERVAL in µs gives bytes. Log 66 (DEDUCED). -/
def refillShaper (s : State) (k : Nat) : Shaper :=
  let rate := regGet s .admShpRateRate k
  let burst := regGet s .admShpBurstBurst k
  let level := ((shaperOf s k).map (·.level)).getD (1024 * fldReset s.model .admShpBurstBurst k : Int)
  { no := k, rate := rate, burst := burst, level := min (level + rate * s.adm.interval) (1024 * burst) }

/-- SHAPER_REFILL (R291): every shaper at once; a written INTERVAL holds from this refill on. -/
def execShaperRefill (s : State) : Host.Outcome State Fault Refusal :=
  act s <| whenRunning fun s =>
    { s with adm := { s.adm with shapers := (shaperNos s).map (refillShaper s), interval := reg s .admShpCfgInterval } }

/-! ### Meters and queue maxima (R292, R295) -/

/-- A meter that no commit has changed: its default sizes, full. -/
def Meter.fresh (k : Nat) : Meter :=
  { slot := k, enable := false, cir := 1000000, pir := 2000000, cbs := 4096, pbs := 8192, c := 4096 * meterUnit,
    p := 8192 * meterUnit, last := 0 }

/-- Commit the staged parameters of a meter (R292): each bucket to the lesser of its level and its new size. -/
def commitMeter (s : State) (k : Nat) : State :=
  let cir := regGet s .admMtrCirCir k
  let pir := regGet s .admMtrPirPir k
  let cbs := regGet s .admMtrCbsCbs k
  let pbs := regGet s .admMtrPbsPbs k
  if pir < cir then s
  else
    let m := refilled ((meterOf s k).getD (Meter.fresh k)) s.time
    let new : Meter :=
      { slot := k, enable := regGet s .admMtrCtrlEnable k == 1, cir := cir, pir := pir, cbs := cbs, pbs := pbs
        c := min m.c (cbs * meterUnit), p := min m.p (pbs * meterUnit), last := s.time }
    { s with adm := { s.adm with meters := new :: s.adm.meters.filter fun x => x.slot != k } }

/-- METER_COMMIT (R292). -/
def execMeterCommit (path : Path) (s : State) : Host.Outcome State Fault Refusal :=
  act s <| whenRunning fun s =>
    match entryOf s path .admMtrCirCir 0 with
    | none => s
    | some k => commitMeter s k

/-- CLR_MAX (R295). -/
def execClrMax (path : Path) (s : State) : Host.Outcome State Fault Refusal :=
  act s <| whenRunning fun s =>
    match entryOf s path .admQmaxDepth 0 with
    | none => s
    | some q => regSet (regSet s .admQmaxDepth q 0) .admQmaxDelay q 0

end Sys2Proof.Machine
end

