-- ==== Sys2Proof/Machine/Units.lean ====
section
/-! DEFINITION. Units at work (ch. 2, ch. 13): descriptors that reach a leaf, contexts and their switches, tile steps with their slots,
messages between pans, and pan faults. -/

namespace Sys2Proof.Machine

open Sys2Proof

/-! ### Contexts on a leaf or a resident unit (R376 to R385) -/

/-- The outermost unit above a leaf. -/
def rootEnt (s : State) (leaf : Nat) : Option UnitEnt := unitEnt s (rootOf s leaf)

/-- The leaf belongs to a RESIDENT unit. -/
def isResident (s : State) (leaf : Nat) : Bool := (rootEnt s leaf).any (·.resident)

/-- What holds a current context: the leaf, or its whole RESIDENT unit. -/
def holder (s : State) (leaf : Nat) : Nat := if isResident s leaf then rootOf s leaf else leaf

/-- The leaves of a holder. -/
def holderLeaves (s : State) (k : Nat) : List UnitEnt := (leaves s).filter fun l => holder s l.id == k

/-- The current context of a holder, with since when. -/
def currentOf (s : State) (k : Nat) : Option (Nat × Nat) := aget s.units.current k

/-- The leaves that have read a work in flight: one, or those of its shares that have been read (R26, R30). -/
def leavesAt (w : Work) : List Nat :=
  match w.place with
  | .flight l => if l = 0xFFFF then [] else if w.shares.isEmpty then [l] else (w.shares.filter (·.read)).map (·.leaf)
  | _ => []

/-- Works in flight at a holder. -/
def flightAt (s : State) (k : Nat) : List Work := s.work.filter fun w => (leavesAt w).any fun l => holder s l == k

/-- A work is pre-empted at a holder. -/
def suspendedOn (k : Nat) (w : Work) : Bool := decide (k ∈ w.suspendedAt)

/-- Works in flight at a holder that are not pre-empted there. -/
def runningAt (s : State) (k : Nat) : List Work := (flightAt s k).filter fun w => !suspendedOn k w

/-- Priority of a work's context. -/
def prioCtx (s : State) (w : Work) : Nat := regGet s .ctxCfgPrio (contextOf s w)

/-- Bytes of a pan's code region, which microcode does not write (R20). -/
abbrev codeBytesMax : Nat := 0x20000

/-- The key of the choice among waiting descriptors: priority, then acceptance (R376). -/
def choiceKey (s : State) (w : Work) : Nat := prioCtx s w * 2 ^ 64 + w.id

/-- The children of a unit that are not HELD, in identifier order. -/
def openChildren (s : State) (u : Nat) : List UnitEnt :=
  sortKey (·.id) ((unitsOf s).filter fun c => c.parent == u && !unitHeld s c)

/-- Works in flight below a unit. -/
def depthBelow (s : State) (u : Nat) : Nat :=
  let us := (unitsOf s).map fun x => if x.id = u then { x with parent := 0xFFFF } else x
  (s.work.filter fun w => (leavesAt w).any fun l => l == u || rootIn us.length us l == u).length

/-- A unit contains a leaf on a bed, itself or below it. -/
def reachesBed (s : State) (u bed : Nat) : Bool :=
  let us := (unitsOf s).map fun x => if x.id = u then { x with parent := 0xFFFF } else x
  (leaves s).any fun l => l.bed == bed && (l.id == u || rootIn us.length us l.id == u)

/-- The child of a composite unit that a descriptor goes to, by its DISPATCH policy; every open child takes a share of a SPLIT. Of
several children that hold a leaf on the home bed, AFFINITY takes the one with the lowest identifier. Log 159 (DESIGN CHOICE).
Log 88 (DESIGN CHOICE). -/
def childFor (s : State) (u : UnitEnt) (w : Work) : List UnitEnt :=
  let cs := openChildren s u.id
  let least := (leastBy (fun c => depthBelow s c.id * 65536 + c.id) cs).toList
  match u.dispatch with
  | 1 =>
    let home := (subjAny s (subjectOf w)).map (·.homeBed)
    match cs.find? (fun c => home.any fun b => reachesBed s c.id b) with
    | some c => [c]
    | none => least
  | 3 =>
    let p := (aget s.units.next u.id).getD 0
    match cs.find? fun c => decide (p ≤ c.id) with
    | some c => [c]
    | none => cs.take 1
  | 4 => cs
  | _ => least

/-- What a SPLIT divides: the layers of FAR_ATTN and KV_INGEST, the bytes of a near-memory operation (R30). -/
def spanOf (w : Work) : Nat × Nat :=
  match w.hdr.opcode with
  | 0x10 => (opr w 20 2, opr w 22 2)
  | 0x11 => (opr w 48 2, opr w 50 2)
  | 0x20 => (0, opr w 8 8)
  | 0x23 => (0, opr w 32 8 * elemBytes w)
  | _ => (0, opr w 16 8)

/-- Share `i` of `n` contiguous shares of a span: they differ by one at most, and the first ones are the larger. Log 88 (DESIGN CHOICE). -/
def shareOf (first count n i : Nat) : Nat × Nat :=
  (first + i * (count / n) + min i (count % n), count / n + (if i < count % n then 1 else 0))

/-- The shares of a descriptor that reaches a unit, by leaf, with the number of units as fuel; a child whose share would be empty takes
none (R30). -/
def sharesFor : Nat → State → UnitEnt → Work → Nat → Nat → List Share
  | 0, _, _, _, _, _ => []
  | k + 1, s, u, w, first, count =>
    if u.dispatch = 0 then [{ leaf := u.id, first := first, count := count, read := false }]
    else
      let cs := childFor s u w
      (List.range cs.length).flatMap fun i =>
        let p := shareOf first count cs.length i
        match cs[i]? with
        | some c => if p.2 = 0 ∧ i ≠ 0 then [] else sharesFor k s c w p.1 p.2
        | none => []

/-- The shares of a queued descriptor of an outermost unit. -/
def sharesOf (s : State) (u : UnitEnt) (w : Work) : List Share :=
  let p := spanOf w
  sharesFor (unitsOf s).length s u w p.1 p.2

/-- Descriptors that wait for a leaf: in its outermost unit's queue, or in flight with a share that the leaf has not read. -/
def waitingFor (s : State) (leaf : Nat) : List Work :=
  match rootEnt s leaf with
  | none => []
  | some u =>
    ((queued s u.id).filter fun w => (sharesOf s u w).any fun x => x.leaf == leaf) ++
      s.work.filter fun w => inFlight w && w.shares.any fun x => x.leaf == leaf && !x.read

/-- Descriptors that wait for a holder: in the queue, or suspended. -/
def waitingAt (s : State) (k : Nat) : List Work :=
  (((holderLeaves s k).flatMap fun l => waitingFor s l.id) ++ (flightAt s k).filter (suspendedOn k)).dedup

/-- The pans of a holder. -/
def pansAt (s : State) (k : Nat) : List PanEnt := (pansOf s).filter fun p => holder s p.unit == k

/-- A tile step is in progress on a holder. -/
def holderSteps (s : State) (k : Nat) : Bool := s.units.steps.any fun e => (pansAt s k).any fun p => p.bed == e.bed && p.pos == e.pos

/-- The container of the active configuration that assigns a pan. -/
def containerAt (s : State) (p : PanEnt) : Option Container :=
  s.units.active.bind fun c => match c.part with
    | some q => if p ∈ q.pans then some q else some c.full
    | none => some c.full

/-- The image that a pan runs. -/
def imageAt (s : State) (p : PanEnt) : Option ImageEnt := (containerAt s p).bind fun c => c.images.find? fun i => i.no == p.image

/-- Largest live state of a pan's image, with its step record (R378). Log 87 (DEDUCED). -/
def saveBytes (s : State) (p : PanEnt) : Nat := ((imageAt s p).map (·.liveMax)).getD 0 + 256

/-- Contexts that have suspended descriptors at a holder. -/
def savedAt (s : State) (k : Nat) : List Nat := (((flightAt s k).filter (suspendedOn k)).map (contextOf s)).dedup

/-- A leaf of an ordinary unit may be pre-empted: its ways, and room in every pan's save area (R377). -/
def preemptible (s : State) (k : Nat) : Bool :=
  (holderLeaves s k).all (fun l => decide (l.ways ≤ 10)) &&
    (pansAt s k).all fun p => decide (((savedAt s k).length + 1) * saveBytes s p ≤ regApplied s .ctxSaveMib * 2 ^ 20)

/-- SRAM bytes of the pans of a holder. -/
def imageBytes (s : State) (k : Nat) : Nat := (pansAt s k).length * 1572864

/-- Saved images with the bytes that they take. -/
def imagesUsed (s : State) : Nat := (s.units.images.map fun e => imageBytes s e.1).sum

/-- Make room for one more saved image, dropping images without suspended descriptors, the oldest first, with their number as fuel
(R385); `none` where all that is left is needed. -/
def imageRoom : Nat → State → Nat → Option State
  | fuel, s, k =>
    if imagesUsed s + imageBytes s k ≤ regApplied s .ctxResAreaGib * 2 ^ 30 then some s
    else
      match fuel, s.units.images.find? (fun e => !(e.2 ∈ savedAt s e.1)) with
      | n + 1, some e => imageRoom n { s with units := { s.units with images := s.units.images.filter fun x => x ≠ e } } k
      | _, _ => none

/-- Clear the input slots of a holder's pans: they are not saved (R378). -/
def clearSlots (s : State) (k : Nat) : State :=
  let ps := pansAt s k
  { s with units := { s.units with
      slots := s.units.slots.filter fun e => !ps.any fun p => p.bed == e.bed && p.pos == e.pos
      turn := s.units.turn.filter fun e => !ps.any fun p => p.bed == e.1.1 && p.pos == e.1.2 } }

/-- A switch of a holder to a context begins. -/
def startSwitch (s : State) (k c : Nat) : State :=
  let s := clearSlots s k
  { s with units := { s.units with switching := s.units.switching ++ [(k, c)], expired := s.units.expired.filter fun x => x != k } }

/-- All SRAM of a resident unit is saved under the next value of the save counter (R384). Log 188 (DEDUCED). -/
def saveImage (s : State) (k c : Nat) : State :=
  { s with units := { s.units with
      images := s.units.images ++ [(k, c)], saves := s.units.saves + 1, savedAs := aset s.units.savedAs (k, c) s.units.saves } }

/-- The end switch of a resident unit saves its image as every resident switch does, where there is room for it (R384, R385).
Log 188 (DEDUCED). -/
def saveAtEnd (s : State) (k c : Nat) : State :=
  if (unitEnt s k).any (·.resident) then
    match imageRoom s.units.images.length s k with
    | some s => saveImage s k c
    | none => s
  else s

/-- Suspend what runs at a holder under its current context, and switch to another one (R378, R383). -/
def preempt (s : State) (k old c : Nat) : State :=
  let ids := (runningAt s k).map (·.id)
  let s := { s with work := updIf (fun w => decide (w.id ∈ ids)) (fun w => { w with suspendedAt := insNat k w.suspendedAt }) s.work }
  let root := ((holderLeaves s k).head?.map fun l => rootOf s l.id).getD 0xFFFF
  startSwitch (countAll s 0xE 0xFF 0xFFFF root 0xFFFF 0xFFFF 1) k c |> fun s =>
    if (unitEnt s k).any (·.resident) then saveImage s k old
    else { s with units := { s.units with saved := s.units.saved ++ [(k, old)] } }

/-- The unit above a holder takes part: neither RECOVERING nor SWAPPING, and its leaf not HELD. -/
def serving (s : State) (leaf : Nat) : Bool :=
  (rootEnt s leaf).any (fun u => (aget s.units.states u.id).isNone) && (leaves s).any fun l => l.id == leaf && !leafHeld s l

/-- The tile boundary of a holder: its current context may change (R35, R377, R383). -/
def boundary (s : State) (k : Nat) : State :=
  if holderSteps s k || s.units.switching.any (fun e => e.1 == k) || !(holderLeaves s k).any (fun l => serving s l.id) then s
  else
    match currentOf s k with
    | none => s
    | some (c, _) =>
      match leastBy (choiceKey s) ((waitingAt s k).filter fun w => contextOf s w != c) with
      | none => s
      | some w =>
        let next := contextOf s w
        if (runningAt s k).isEmpty then startSwitch (saveAtEnd s k c) k next
        else if (unitEnt s k).any (·.resident) then
          (if k ∈ s.units.expired then
            match imageRoom s.units.images.length s k with
            | some s => preempt s k c next
            | none => s
           else s)
        else if preemptible s k ∧ (prioCtx s w < regGet s .ctxCfgPrio c ∨
            (prioCtx s w = regGet s .ctxCfgPrio c ∧ k ∈ s.units.expired)) then preempt s k c next
        else s

/-- Resident contexts that exist at once (R382). -/
def residentLimit : Nat := 16

/-- Holders of resident contexts. -/
def residents (s : State) : List (Nat × Nat × Nat) := s.units.current.filter fun e => (unitEnt s e.1).any (·.resident)

/-- A resident unit without a current context finds a place: one of 16, or that of the context that has been current longest among those
with nothing in flight (R382). -/
def residentPlace (s : State) (k : Nat) : Option State :=
  if !(unitEnt s k).any (·.resident) || decide ((residents s).length < residentLimit) then some s
  else
    (leastBy (fun e => e.2.2) ((residents s).filter fun e => (flightAt s e.1).isEmpty)).map fun e =>
      { s with units := { s.units with current := s.units.current.filter fun x => x.1 != e.1 } }

/-- A context that starts fresh at a resident unit has no weights pinned there (R213, R384). -/
def startsFresh (s : State) (k c : Nat) : State :=
  if (k, c) ∈ s.units.images then s
  else { s with units := { s.units with pinned := s.units.pinned.filter fun e => !(e.1 == k && e.2.1 == c) } }

/-- A context becomes current at a holder that had none. Log 89 (DEDUCED). -/
def makeCurrent (s : State) (k c : Nat) : State :=
  { startsFresh s k c with units := { (startsFresh s k c).units with current := aset s.units.current k (c, s.time) } }

/-- FAR_ATTN in flight, on a bed or on all (R201). -/
def sequences (s : State) (bed : Option Nat) : Nat :=
  (s.work.filter fun w => isOp 0x11 w && (leavesAt w).any fun l => bed.all fun b => (leaves s).any fun x => x.id == l && x.bed == b).length

/-- One more sequence fits (R201). -/
def sequenceRoom (s : State) (leaf : Nat) : Bool :=
  decide (sequences s none < match s.model with
    | .full => 4096
    | .reduced => 2048) &&
    (leaves s).all fun l => l.id != leaf || decide (sequences s (some l.bed) < 256)

/-- Move the round-robin pointers of the composites above a leaf past it, with the number of units as fuel (R30). -/
def advanceNext : Nat → State → Nat → State
  | 0, s, _ => s
  | k + 1, s, u =>
    match unitEnt s u with
    | none => s
    | some x =>
      if x.parent = 0xFFFF then s
      else
        let last := (openChildren s x.parent).foldl (fun m c => max m c.id) 0
        let n := if last ≤ u then 0 else u + 1
        advanceNext k { s with units := { s.units with next := aset s.units.next x.parent n } } x.parent

/-- The shares of a work with that of a leaf read. -/
def readShare (leaf : Nat) (l : List Share) : List Share := l.map fun x => if x.leaf = leaf then { x with read := true } else x

/-- A leaf reads a descriptor: a queued one is in flight from its first reader on (R26), divided where a SPLIT stands above the leaf (R30). -/
def takeDescriptor (s : State) (w : Work) (leaf : Nat) : State :=
  let q := rootOf s leaf
  let all := match rootEnt s leaf with
    | some u => sharesOf s u w
    | none => []
  let first := decide (w.place = .queued q)
  let s := advanceNext (unitsOf s).length s leaf
  let s := match unitEnt s leaf with
    | some u => wakeBed s u.bed
    | none => s
  let s := updWork s w.id fun x =>
    if first then { x with place := .flight leaf, startTime := s.time, shares := if all.length ≤ 1 then [] else readShare leaf all }
    else { x with shares := readShare leaf x.shares }
  if first then countDispatch s q w else s

/-- DESCRIPTOR_WINDOW_READ (R26): the descriptor that R376 chooses next for a leaf is in flight; one of another context asks for a
switch. -/
def execDescriptorWindowRead (leaf work : Nat) (s : State) : Host.Outcome State Fault Refusal :=
  act s <| whenRunning fun s =>
    match workOf s work with
    | none => s
    | some w =>
      let k := holder s leaf
      let ws := waitingFor s leaf
      if !serving s leaf || s.units.switching.any (fun e => e.1 == k) || !(ws.any fun x => x.id == work) ||
          (isOp 0x11 w && !sequenceRoom s leaf) then s
      else
        match currentOf s k with
        | none =>
          if (leastBy (choiceKey s) ws).map (·.id) = some work then
            match residentPlace s k with
            | some s => takeDescriptor (makeCurrent s k (contextOf s w)) w leaf
            | none => s
          else s
        | some (c, _) =>
          if contextOf s w = c then
            (if (leastBy (choiceKey s) (ws.filter fun x => contextOf s x == c)).map (·.id) = some work then takeDescriptor s w leaf
             else s)
          else boundary s k

/-- The image that a resident unit reloads passes its verification; one that fails is dropped, and what it holds suspended is discarded
(R384). -/
def reloadImage (s : State) (k c : Nat) : State :=
  if (k, c) ∈ s.units.images ∧ !Config.savedPasses s.sec.saveKey c k ((aget s.units.savedAs (k, c)).getD 0) then
    let ids := ((flightAt s k).filter fun w => contextOf s w == c && suspendedOn k w).map (·.id)
    let s := ids.foldl (fun s id => fail (dropSteps s id) id stDiscarded) s
    { s with units := { s.units with images := s.units.images.filter fun e => e ≠ (k, c) } }
  else s

/-- What the incoming context does not reload is zeroed, and scalar data comes from the image where it has no saved state (R378). -/
def freshPans (s : State) (k c : Nat) : State :=
  let mine := fun bed pos => (pansAt s k).any fun p => p.bed == bed && p.pos == pos
  let saved := (k, c) ∈ s.units.images ∨ (k, c) ∈ s.units.saved
  { s with units := { s.units with
      sram := s.units.sram.filter fun e => !(mine e.1.1 e.1.2.1 && decide (codeBytesMax ≤ e.1.2.2))
      ran := if saved then s.units.ran else s.units.ran.filter fun e => !mine e.1 e.2 } }

/-- CONTEXT_SWITCH_DONE (R379): the incoming context is current, and its suspended descriptors go on. -/
def execContextSwitchDone (leaf : Nat) (s : State) : Host.Outcome State Fault Refusal :=
  act s <| whenRunning fun s =>
    let k := holder s leaf
    match aget s.units.switching k with
    | none => s
    | some c =>
      let s := reloadImage s k c
      let ids := ((flightAt s k).filter fun w => contextOf s w == c).map (·.id)
      let s := freshPans (startsFresh s k c) k c
      { s with
        work := updIf (fun w => decide (w.id ∈ ids)) (fun w => { w with suspendedAt := w.suspendedAt.filter fun x => x != k }) s.work
        units := { s.units with
          switching := s.units.switching.filter fun e => e.1 != k, current := aset s.units.current k (c, s.time)
          saved := s.units.saved.filter fun e => e ≠ (k, c), images := s.units.images.filter fun e => e ≠ (k, c) } }

/-- The slice of a holder's current context has passed. -/
def sliceOver (s : State) (k : Nat) : State :=
  if (currentOf s k).isSome then boundary { s with units := { s.units with expired := insNat k s.units.expired } } k else s

/-- CONTEXT_SLICE_EXPIRY (R377): the switch follows at the next tile boundary. -/
def execContextSliceExpiry (leaf : Nat) (s : State) : Host.Outcome State Fault Refusal :=
  act s <| whenRunning fun s => if isResident s leaf then s else sliceOver s leaf

/-- RESIDENT_SLICE_EXPIRY (R383). Log 93 (DEDUCED). -/
def execResidentSliceExpiry (unit : Nat) (s : State) : Host.Outcome State Fault Refusal :=
  act s <| whenRunning fun s => if isResident s unit then sliceOver s (rootOf s unit) else s

/-- DISPATCH_HELD_RELEASE (R27): descriptors held for dispatch leave for queues with room; type 0 stands for the control queues. -/
def execDispatchHeldRelease (utype : Nat) (s : State) : Host.Outcome State Fault Refusal :=
  act s <| whenRunning fun s => releaseHeld s utype

/-! ### Pan faults (R52, R53) -/

/-- A pan of an active unit fails: its outermost unit is RECOVERING, its work in flight is discarded, and a spare takes the position.
Log 90 (DEDUCED). -/
def panFails (s : State) (bed pos reason : Nat) : State :=
  match leafOfPan s bed pos with
  | none => s
  | some l =>
    let u := rootOf s l
    let s := wakeBed (raiseClass s 3) bed
    let s := clearUnits (discardFlight s (flightOn s [u])) [u]
    let s := { s with
      units := { s.units with states := (u, 2) :: s.units.states.filter fun e => e.1 != u }
      flt := { s.flt with recovering := (s.flt.recovering ++ [(3, bed * 16 + pos)]).dedup } }
    event (repairPan s bed pos) reason 3 0xFFFF 0 (locate 1 bed pos 0 0) [u]

/-- PAN_FAULT (R52). -/
def execPanFault (bed pos : Nat) (s : State) : Host.Outcome State Fault Refusal :=
  act s <| whenRunning fun s => panFails s bed pos 0x0201

/-- The pan is halted through the TAP (R505). -/
def panHalted (s : State) (bed pos : Nat) : Bool := decide ((bed, pos) ∈ s.sec.haltedPans)

/-- STEP_OVERRUN (R33): a step in progress has reached cycle 241. -/
def execStepOverrun (bed pos : Nat) (s : State) : Host.Outcome State Fault Refusal :=
  act s <| whenRunning fun s => if s.units.steps.any (fun e => e.bed == bed && e.pos == pos) && !panHalted s bed pos then panFails s bed pos 0x0202 else s

/-! ### Tile steps (R32 to R36) -/

/-- The works that a pan may act for: in flight on its leaf under the current context. -/
def panWorks (s : State) (bed pos : Nat) : List Work :=
  match leafOfPan s bed pos with
  | none => []
  | some l => s.work.filter fun w => decide (l ∈ leavesAt w) && !suspendedOn (holder s l) w

/-- The work of a pan's present request: that of its step, else the oldest in flight. -/
def panWork (s : State) (bed pos : Nat) : Option Work :=
  match s.units.steps.find? fun e => e.bed == bed && e.pos == pos with
  | some e => workOf s e.work
  | none => leastBy (·.id) (panWorks s bed pos)

/-- Class and place of a transfer from a tier (R448): a vault or T2 channel, a flash die, else none. -/
def transferOf (tier place : Nat) : Option (Nat × Nat) :=
  match tier with
  | 1 => some (4, 256 + place)
  | 2 => some (4, place)
  | 4 => some (5, place)
  | _ => none

/-- Put a slot in place of the one with its number. -/
def putSlot (s : State) (e : SlotEnt) : State :=
  let rest := s.units.slots.filter fun x => !(x.bed == e.bed && x.pos == e.pos && x.slot == e.slot)
  { s with units := { s.units with slots := e :: rest } }

/-- Ask a tile into a slot from its master or its holder; without a valid copy the slot reads ABSENT (R34). -/
def askSlot (s : State) (id : Nat) (e : SlotEnt) : State :=
  match tileOf s e.handle e.number with
  | none => putSlot s { e with absent := true, ready := true }
  | some t =>
    if t.version = 0 ∨ (masterTier t = 0 ∧ t.lodged.isNone) then putSlot s { e with absent := true, ready := true }
    else
      let s := putSlot s { e with version := t.version, absent := false, ready := false }
      let m := masterPlace t
      let s := updWork s id fun y => { y with transfers := y.transfers ++ (transferOf m.1 m.2).toList }
      emit (if t.lodged.isSome then requestTile s t else s) (.fetchTile e.handle e.number)

/-- TILE_REQUEST (R32): a tile asked into an input slot; one of another tenant is refused as a pan fault, and one without a copy reads
ABSENT (R34). -/
def execTileRequest (bed pos handle number slot : Nat) (s : State) : Host.Outcome State Fault Refusal :=
  act s <| whenRunning fun s =>
    match panWork s bed pos with
    | none => s
    | some w =>
      let e : SlotEnt := { bed := bed, pos := pos, slot := slot, handle := handle, number := number, version := 0, absent := true, ready := true }
      if 8 ≤ slot ∨ panHalted s bed pos then s
      else
        match tileOf s handle number with
        | none => if (subjAny s handle).any fun x => x.keySlot != w.hdr.keySlot then panFails s bed pos 0x0201 else putSlot s e
        | some t =>
          if t.keySlot ≠ w.hdr.keySlot then panFails s bed pos 0x0201
          else askSlot (keyChecked s handle number) w.id e

/-- A tile arrives at a slot of a pan (R34, R446). A copy that fails is dropped, and the next valid one is asked for; the slot reads ABSENT
only when none is left (R80). -/
def arriveSlot (s : State) (bed pos slot handle number : Nat) (image : List Byte) : State :=
  match s.units.slots.find? (fun e => e.bed == bed && e.pos == pos && e.slot == slot && e.handle == handle && e.number == number && !e.ready),
      tileOf s handle number with
  | some e, some t =>
    let m := masterPlace t
    let s := match panWork s bed pos, transferOf m.1 m.2 with
      | some w, some x => updWork s w.id fun y => { y with transfers := y.transfers.erase x }
      | _, _ => s
    if imagePasses { t with version := e.version } image then
      let s := countAll s 4 m.1 bed ((leafOfPan s bed pos).map (rootOf s) |>.getD 0xFFFF) t.keySlot 0xFFFF 1
      let s := countAll s 5 m.1 bed ((leafOfPan s bed pos).map (rootOf s) |>.getD 0xFFFF) t.keySlot 0xFFFF tileBytes
      useTile (putSlot s { e with ready := true }) handle number
    else if e.version = t.version then askSlot (copyFailed s handle number m.1 m.2) (((panWork s bed pos).map (·.id)).getD 0) e
    else putSlot s { e with ready := true, absent := true }
  | some e, none => putSlot s { e with ready := true, absent := true }
  | none, _ => s

/-- A tile enters T1 of its home bed (R94, R446): one that fails is a failed copy. -/
def arriveT1 (s : State) (handle number : Nat) (image : List Byte) : State :=
  match tileOf s handle number with
  | none => s
  | some t =>
    let m := masterPlace t
    if t.version = 0 ∨ m.1 ≤ 1 then s
    else if imagePasses t image then (raiseDemand s handle number (homeOf s handle)).1
    else copyFailed s handle number m.1 m.2

/-- TILE_ARRIVAL (R446). -/
def execTileArrival (dest : Dest) (handle number : Nat) (image : List Byte) (s : State) : Host.Outcome State Fault Refusal :=
  act s <| whenRunning fun s =>
    match dest with
    | .slot bed pos slot => arriveSlot s bed pos slot handle number image
    | .t1 => arriveT1 s handle number image

/-- The input set of a slot: slots 0 to 3 are the first, 4 to 7 the second (R20). -/
def setOf (slot : Nat) : Nat := slot / 4

/-- The input set that a pan's next step works on: the two take turns, the first one first (R20, R33). Log 160 (DEDUCED). -/
def turnAt (s : State) (bed pos : Nat) : Nat := (aget s.units.turn (bed, pos)).getD 0

/-- TILE_STEP_BEGIN (R33): a step of a work in flight begins once every tile asked for into its input set is in its slot; one
that would write a durable version waits while the durable-pending bytes are at their bound (R421). -/
def execTileStepBegin (bed pos work : Nat) (step : StepArg) (s : State) : Host.Outcome State Fault Refusal :=
  act s <| whenRunning fun s =>
    if panHalted s bed pos || (step.writes && ddFull s) || !(panWorks s bed pos).any (fun w => w.id == work) || s.units.steps.any (fun e => e.bed == bed && e.pos == pos) ||
        s.units.slots.any (fun e => e.bed == bed && e.pos == pos && setOf e.slot == turnAt s bed pos && !e.ready) ||
        !(leafOfPan s bed pos).any (fun l => serving s l && !s.units.switching.any fun e => e.1 == holder s l) then s
    else
      let root := ((leafOfPan s bed pos).map (rootOf s)).getD 0xFFFF
      let s := { s with units := { s.units with
        steps := s.units.steps ++ [{ bed := bed, pos := pos, work := work, start := s.time, set := turnAt s bed pos }]
        ran := (bed, pos) :: s.units.ran.filter fun e => e ≠ (bed, pos)
        sram := s.units.sram.filter fun e => !(e.1.1 == bed && e.1.2.1 == pos && decide (codeBytesMax ≤ e.1.2.2)) } }
      countAll (updWork s work fun w => { w with final := w.final || step.last }) 3 0xFF bed root
        (((workOf s work).map (·.hdr.keySlot)).getD 0xFFFF) 0xFFFF 1

/-- An output tile as it is committed (R36): for the subject of the work, of the class that its kind has. -/
def outTile (s : State) (w : Work) (o : OutTile) : Option Tile :=
  (subjAny s (subjectOf w)).map fun x =>
    { blankTile x.handle o.number x.keySlot with
      kind := o.kind, format := o.format, layer := o.layer, count := o.count, first := o.first
      durable := decide (o.kind ≤ 4) || (decide (5 ≤ o.kind) && decide (o.kind ≤ 8) && hasOption x 0) || (o.kind == 10 && x.durable) || o.kind == 11
      payload := cellsOf (slice o.payload 0 payloadBytes) }

/-- STEP_END (R36): the output slots are written as new versions, and the boundary checks of R35 follow. -/
def execStepEnd (bed pos : Nat) (outs : List OutTile) (s : State) : Host.Outcome State Fault Refusal :=
  act s <| whenRunning fun s =>
    match s.units.steps.find? fun e => e.bed == bed && e.pos == pos && !panHalted s bed pos with
    | none => s
    | some e =>
      let s := { s with units := { s.units with
        steps := s.units.steps.filter fun x => x ≠ e
        slots := s.units.slots.filter fun x => !(x.bed == bed && x.pos == pos && setOf x.slot == e.set)
        turn := aset s.units.turn (bed, pos) (1 - e.set) } }
      match workOf s e.work, leafOfPan s bed pos with
      | some w, some l =>
        let k := holder s l
        let tiles := (outs.take 2).filterMap (outTile s w)
        let n := newDurable s tiles
        let s := if (n ≠ 0 ∧ !durableRoom s n) ∨ (tiles.any (·.durable) ∧ !durableWritable s) then fail s w.id stNoSpace
          else
            match stageAll s w.id tiles with
            | none => fail s w.id stNoSpace
            | some t => t
        let alive := (workOf s w.id).any unfinished
        let s := if alive && !slotActive s w.hdr.keySlot then fail (dropSteps s w.id) w.id stKeyRevoked
          else if alive && w.hdr.deadline != 0 && !w.final && !stepping s w && (w.expired || decide (deadlineOf w ≤ s.time)) then missDeadline s w
          else s
        boundary s k
      | _, _ => s

/-! ### The SRAM of a pan (R20) -/

/-- The tile that stands in an input slot of a pan, at the version that arrived; an absent one reads as zeros (R34). -/
def slotTile (s : State) (e : SlotEnt) : Option Tile :=
  match tileOf s e.handle e.number with
  | none => none
  | some t => if t.version = e.version then some t else none

/-- The input slot of a pan that holds a tile, or the mark of an absent one. -/
def slotAt (s : State) (bed pos slot : Nat) : Option SlotEnt :=
  s.units.slots.find? fun e => e.bed == bed && e.pos == pos && e.slot == slot && e.ready

/-- A byte of a pan's SRAM that the rules fix (R20, R34, R44, R48): the reserved area, the loaded code and scalar data, the input slots and
their headers. How a header says ABSENT, and all that microcode or the device keeps elsewhere, is open. Log 184 (DESIGN CHOICE). -/
def sramFixed (s : State) (bed pos addr : Nat) : Option Nat :=
  let image := ((pansOf s).find? fun p => p.bed == bed && p.pos == pos).bind (imageAt s)
  if addr < codeBytesMax then image.bind fun i => (i.codeBytes[addr]?).map (·.toNat)
  else if addr < 0x30000 then
    if (bed, pos) ∈ s.units.ran then none else image.bind fun i => (i.dataBytes[addr - codeBytesMax]?).map (·.toNat)
  else if 0x40000 ≤ addr ∧ addr < 0x60000 then
    (slotAt s bed pos ((addr - 0x40000) / payloadBytes)).bind fun e =>
      if e.absent then some 0 else (slotTile s e).map fun t => ((payloadOf s t).getD (addr % payloadBytes) 0).toNat
  else if 0x70000 ≤ addr ∧ addr < 0x70200 then
    (slotAt s bed pos ((addr - 0x70000) / 64)).bind fun e =>
      if e.absent then none else (slotTile s e).map fun t => ((imageOf s t).getD (addr % 64) 0).toNat
  else if 0x71000 ≤ addr ∧ addr < 0x80000 then some 0
  else none

/-- Bytes of a pan's SRAM (R20). -/
abbrev sramBytes : Nat := 0x180000

/-- A byte of a pan's SRAM that is known: what debug access wrote, unless it is reserved, else what the rules fix.
Log 184 (DESIGN CHOICE). -/
def sramByte (s : State) (bed pos addr : Nat) : Option Nat :=
  if 0x71000 ≤ addr ∧ addr < 0x80000 then some 0
  else
    match aget s.units.sram (bed, pos, addr) with
    | some v => some v
    | none => sramFixed s bed pos addr

/-! ### Messages between pans (R31) -/

/-- PAN_MESSAGE (R31): within one outermost unit; 64 bytes, or a bulk transfer of up to 16 KiB. -/
def execPanMessage (bed pos toBed toPos : Nat) (bulk : Bool) (body : List Byte) (s : State) : Host.Outcome State Fault Refusal :=
  act s <| whenRunning fun s =>
    match leafOfPan s bed pos, leafOfPan s toBed toPos with
    | some a, some b =>
      if rootOf s a ≠ rootOf s b ∨ panHalted s bed pos then s
      else
        let body := if bulk then body.take 16384 else slice body 0 64
        let s := if bed = toBed then s else countAll s 0xB 0xFF bed (rootOf s a) 0xFFFF 0xFFFF body.length
        emit s (.panMessage toBed toPos body)
    | _, _ => s

end Sys2Proof.Machine
end

