-- ==== Sys2Proof/Machine/Faults.lean ====
section
/-! DEFINITION. Faults (ch. 16): detection with the work that it discards, what each class takes out of service, and the end of its
recovery; links and ports; FAILED. -/

namespace Sys2Proof.Machine

open Sys2Proof

/-! ### Domains (R448 to R452) -/

/-- Location of a fault by class and place (R463). -/
def faultLoc (cls place : Nat) : Nat :=
  match cls with
  | 3 => locate 1 (place / 16) (place % 16) 0 0
  | 4 => if 256 ≤ place then placeLoc 1 (place - 256) else placeLoc 2 place
  | 5 => placeLoc 4 place
  | 6 => locate 5 0 place 0 0
  | 7 => if place < 16 then locate 6 place 0 0 0 else 0
  | 8 => locate 6 place 0 0 0
  | 9 => locate 6 place 0 0 0
  | 0xA => locate 7 0 place 0 0
  | _ => 0

/-- Outermost units with a leaf in a bed. -/
def bedUnits (s : State) (bed : Nat) : List Nat := ((unitsOf s).filter fun u => u.parent == 0xFFFF && unitOnBed s u.id bed).map (·.id)

/-- Outermost units that the domain of a class holds. -/
def domainUnits (s : State) (cls place : Nat) : List Nat :=
  match cls with
  | 3 => ((leafOfPan s (place / 16) (place % 16)).map (rootOf s)).toList
  | 7 => bedUnits s place
  | 8 => bedUnits s place
  | 9 => bedUnits s place
  | _ => []

/-- Steps 1 to 3 of a recovery: the class is flagged, the works in flight of the domain are discarded, its units are RECOVERING. -/
def openDomain (s : State) (cls place : Nat) (p : Work → Bool) : State :=
  let us := domainUnits s cls place
  let s := discardFlight (raiseClass s cls) fun w => flightOn s us w || p w
  let s := clearUnits s us
  { s with
    units := { s.units with states := us.map (fun u => (u, 2)) ++ s.units.states.filter fun e => !(e.1 ∈ us) }
    flt := { s.flt with recovering := (s.flt.recovering ++ [(cls, place)]).dedup } }

/-- The event that ends the recovery of a class; a pan fault has logged its own (R52). Log 99 (DESIGN CHOICE). -/
def recoveryEvent (s : State) (cls place : Nat) : State :=
  let put := fun s reason arg => event s reason cls 0xFFFF 0 (faultLoc cls place) arg
  match cls with
  | 4 => put s 0x030A [place % 256]
  | 5 => put s 0x030C [place]
  | 6 => put s 0x0408 [place]
  | 7 => if place < 16 then put s 0x0A02 [place] else put (takeFree s) 0x0A03 [Config.number s.free % 21]
  | 8 => put s 0x0A02 [place]
  | 9 => put s 0x0A02 [place]
  | 0xA => put s 0x0A04 [place]
  | _ => s

/-- FAULT_RECOVERY_DONE (R452): the domain is ready; the latest fault is recorded, the event is written, and queued work is dispatched to
the domain or to another unit (R26). A unit that an activation under way replaces is SWAPPING again (R48). -/
def execFaultRecoveryDone (cls place interruptNs : Nat) (s : State) : Host.Outcome State Fault Refusal :=
  act s <| whenRunning fun s =>
    if (cls, place) ∈ s.flt.recovering then
      let us := domainUnits s cls place
      let s := { s with flt := { s.flt with recovering := s.flt.recovering.filter fun e => e ≠ (cls, place) } }
      let still := s.flt.recovering.flatMap fun e => domainUnits s e.1 e.2
      let free := us.filter fun u => !(u ∈ still)
      let swap := ((s.units.drain.map (·.2.2.1)).getD []).filter fun u => decide (u ∈ free)
      let states := (s.units.states.filter fun e => !(e.1 ∈ free && e.2 == 2)) ++ swap.map fun u => (u, 3)
      let s := { s with units := { s.units with states := states } }
      let s := recoveryEvent (setLast s cls (faultLoc cls place) interruptNs) cls place
      redispatch s (us.filter fun u => (unitEnt s u).any (unitHeld s))
    else s

/-! ### FAILED (R453) -/

/-- The device enters FAILED: work in flight is discarded, accesses that wait are refused, and a Fatal event is written. -/
def deviceFailed (s : State) : State :=
  let s := discardFlight s fun _ => true
  let s := s.cxl.waiting.foldl refuseAccess { s with cxl := { s.cxl with waiting := [] } }
  let s := setReg s .fltStatusFailed 1
  event { s with power := { s.power with state := .failed, quiescing := false } } 0x0A05 0 0xFFFF 0 0 []

/-- FAULT_CONTROLLER_FAILURE (R453). -/
def execFaultControllerFailure (s : State) : Host.Outcome State Fault Refusal := act s <| whenRunning deviceFailed

/-! ### Copies that a fault takes (R80, R454 to R456) -/

/-- Drop copies, own and lodged here, and those of versions that no completion has made referenced yet; a tile left without a valid
copy is lost. -/
def dropCopies (s : State) (p : Tile → TileCopy → Bool) : State :=
  let cut := fun t : Tile => { t with copies := t.copies.filter fun c => !p t c }
  let had := s.tiles.filter fun t => masterTier t != 0 && masterTier (cut t) == 0
  let eff := fun e : Effect => match e with
    | .tile t => .tile (cut t)
    | x => x
  let s := { s with
    tiles := s.tiles.map cut, own := { s.own with lodged := s.own.lodged.map cut }
    work := s.work.map fun w => { w with effects := w.effects.map eff } }
  had.foldl (fun s t => tileLost s t.handle t.number) s

/-- Spare T2 packages of the model (R461). -/
def sparePackages (m : Model) : Nat :=
  match m with
  | .full => 3
  | .reduced => 1

/-- A T2 channel fails (R454, R462): its copies are gone; its package migrates to a spare, or is retired where none remains.
Log 100 (DEDUCED). -/
def channelFails (s : State) (c : Nat) : State :=
  let k := c / 4
  let s := openDomain s 4 c fun w => decide ((4, c) ∈ w.transfers)
  let s := dropCopies { s with flt := { s.flt with channelsOut := insNat c s.flt.channelsOut } } fun _ x => x.tier == 2 && x.place == c
  if k ∈ s.flt.migrating ∨ k ∈ s.flt.packagesOut then s
  else if reg s .fltRepairT2Packages + s.flt.migrating.length < sparePackages s.model then
    { s with flt := { s.flt with migrating := insNat k s.flt.migrating } }
  else event { s with flt := { s.flt with packagesOut := insNat k s.flt.packagesOut } } 0x0207 4 0xFFFF 0 (placeLoc 2 c) [k]

/-- A T1 vault fails (R455). Log 149 (DEDUCED). -/
def vaultFails (s : State) (bed pos : Nat) : State :=
  let s := openDomain s 4 (256 + bed * 16 + pos) fun w => decide ((4, 256 + bed * 16 + pos) ∈ w.transfers)
  dropCopies { s with flt := { s.flt with vaultsOut := s.flt.vaultsOut ++ [(bed, pos)] } } fun _ x =>
    x.tier == 1 && x.place == bed * 16 + pos

/-- DRAM_CHANNEL_FAULT (R454, R455): on a vault of a bed, or on a channel of its group. -/
def execDramChannelFault (vault : Bool) (bed unit : Nat) (s : State) : Host.Outcome State Fault Refusal :=
  act s <| whenRunning fun s =>
    if bedCount s.model ≤ bed then s
    else if vault then (if unit < 16 ∧ (bed, unit) ∉ s.flt.vaultsOut then vaultFails s bed unit else s)
    else if unit < 4 ∧ 4 * bed + unit ∉ s.flt.channelsOut then channelFails s (4 * bed + unit)
    else s

/-- A durable tile whose second T2 copy was on a failed channel is written there again from its mirror. -/
def remirror (k c : Nat) (t : Tile) : Tile :=
  match t.copies.filter fun x => x.tier == 2 && x.version == t.version with
  | [x] => if t.durable ∧ x.place / 4 ≠ k then { t with copies := { x with place := c } :: t.copies } else t
  | _ => t

/-- PACKAGE_MIGRATION_DONE (R454): the package serves from a spare, with all its channels. -/
def execPackageMigrationDone (package : Nat) (s : State) : Host.Outcome State Fault Refusal :=
  act s <| whenRunning fun s =>
    if package ∈ s.flt.migrating then
      let c := (s.flt.channelsOut.find? fun c => c / 4 == package).getD (4 * package)
      let s := { s with
        flt := { s.flt with migrating := s.flt.migrating.filter (· ≠ package), channelsOut := s.flt.channelsOut.filter (· / 4 ≠ package) }
        tiles := s.tiles.map (remirror package c) }
      event (regAdd s .fltRepairT2Packages 0 1 4) 0x030B 0 0xFFFF 0 (placeLoc 2 c) [package]
    else s

/-- A stripe that lost two dies leaves its durable tiles, on either die, to R80: which tiles share a stripe is open. -/
def losePair (s : State) (t : Tile) : State :=
  if t.durable && (t.copies.any fun c => c.tier == 4 && decide (c.place ∈ s.flt.rebuilding)) && Config.verdict s.free then
    dropCopies (takeFree s) fun x c => x.handle == t.handle && x.number == t.number && c.tier == 4 && decide (c.place ∈ s.flt.rebuilding)
  else takeFree s

/-- FLASH_DIE_FAULT (R456): reconstructible pages on the die are gone; durable ones are rebuilt from their stripes, unless a second die
of the stripe fails before that. -/
def execFlashDieFault (die : Nat) (s : State) : Host.Outcome State Fault Refusal :=
  act s <| whenRunning fun s =>
    if dieCount s.model ≤ die ∨ die ∈ s.flt.diesOut then s
    else
      let s := openDomain s 5 die fun w => decide ((5, die) ∈ w.transfers)
      let again := !s.flt.rebuilding.isEmpty
      let s := { s with flt := { s.flt with diesOut := insNat die s.flt.diesOut, rebuilding := insNat die s.flt.rebuilding } }
      let s := dropCopies s fun t c => !t.durable && c.tier == 4 && c.place == die
      if again then (s.tiles ++ s.own.lodged).foldl losePair s else s

/-- DIE_REBUILD_DONE (R456): the durable pages of the die lie on other dies. -/
def execDieRebuildDone (die : Nat) (s : State) : Host.Outcome State Fault Refusal :=
  act s <| whenRunning fun s =>
    if die ∈ s.flt.rebuilding then
      let move := fun t : Tile => { t with copies := updIf (fun c => c.tier == 4 && c.place == die) (fun c => { c with place := t4Place s t }) t.copies }
      regAdd { s with
        flt := { s.flt with rebuilding := s.flt.rebuilding.filter (· ≠ die) }
        tiles := s.tiles.map move, own := { s.own with lodged := s.own.lodged.map move } } .fltRepairFlashDies 0 1 8
    else s

/-! ### Beds, clocks, blocks and cores (R458 to R460) -/

/-- A transfer lies in a bed: at one of its vaults or at a channel of its group. -/
def transferIn (bed : Nat) (e : Nat × Nat) : Bool := e.1 == 4 && (if 256 ≤ e.2 then (e.2 - 256) / 16 == bed else e.2 / 4 == bed)

/-- A work is at the crystallizer of a bed: a PARK or KV_INGEST in flight of a session homed there. Log 98 (DEDUCED). -/
def atCrystallizer (s : State) (bed : Nat) (w : Work) : Bool :=
  decide (w.hdr.opcode ∈ [0x01, 0x10]) && (subjAny s (subjectOf w)).any fun x => x.homeBed == bed

/-- A BED or bed-clock fault: the bed leaves service with its T1 and its T2 group (R459). -/
def bedFails (s : State) (cls bed : Nat) : State :=
  let s := openDomain s cls bed fun w => w.transfers.any (transferIn bed) || atCrystallizer s bed w
  let s := wakeBed s bed
  dropCopies { s with flt := { s.flt with
      bedsOut := insNat bed s.flt.bedsOut, packagesOut := insNat bed s.flt.packagesOut
      migrating := s.flt.migrating.filter (· ≠ bed) } } fun _ c =>
    (c.tier == 1 && c.place / 16 == bed) || (c.tier == 2 && c.place / 4 == bed)

/-- BED_FAULT (R459), of the bed's crossbar, mesh port or crystallizer, or of its clock (R458). -/
def execBedFault (bed : Nat) (clock : Bool) (s : State) : Host.Outcome State Fault Refusal :=
  act s <| whenRunning fun s =>
    if bed < bedCount s.model ∧ bed ∉ s.flt.bedsOut then bedFails s (if clock then 7 else 9) bed else s

/-- A bed is held for margin or temperature (R459, R478): its pans stop, its memory serves on. -/
def holdBed (s : State) (bed : Nat) : State :=
  let s := openDomain s 8 bed fun w => w.transfers.any (transferIn bed) || atCrystallizer s bed w
  setBed s bed fun b => { b with held := true, holds := s.time :: b.holds }

/-- The lock state of a root PLL: 0 A, 1 B. -/
def pllLocked (s : State) (p : Nat) : Bool := (if p = 0 then reg s .clkPllStatusLockA else reg s .clkPllStatusLockB) == 1

/-- A root PLL loses lock. -/
def unlockPll (s : State) (p : Nat) : State := if p = 0 then setReg s .clkPllStatusLockA 0 else setReg s .clkPllStatusLockB 0

/-- PLL_LOSS_OF_LOCK (R458, R468): the standby takes over; a crossing that reports an error is a fault of its bed; without a standby
the device is FAILED. -/
def execPllLossOfLock (crossing : Option Nat) (s : State) : Host.Outcome State Fault Refusal :=
  act s <| whenRunning fun s =>
    let a := reg s .clkPllStatusActive
    let s := unlockPll s a
    if pllLocked s (1 - a) then
      let s := openDomain (regAdd (setReg s .clkPllStatusActive (1 - a)) .clkPllStatusSwitches 0 1 16) 7 256 fun _ => false
      match crossing with
      | none => s
      | some b => if b < bedCount s.model ∧ b ∉ s.flt.bedsOut then bedFails s 9 b else s
    else deviceFailed (raiseClass s 7)

/-- STANDBY_PLL_LOSS_OF_LOCK (R468): `CLK_PLL_STATUS` shows that the standby has lost lock. -/
def execStandbyPllLossOfLock (s : State) : Host.Outcome State Fault Refusal :=
  act s <| whenRunning fun s => unlockPll s (1 - reg s .clkPllStatusActive)

/-- A work is in flight in a fixed-function block: 0 control, 1 admission, 2 durability; security (3) and the directory (4) hold none.
Log 97 (DESIGN CHOICE). -/
def inBlock (b : Nat) (w : Work) : Bool :=
  w.place == .flight 0xFFFF &&
    match b with
    | 0 => w.hdr.opcode != 0x38
    | 1 => w.hdr.opcode == 0x38
    | 2 => decide (w.hdr.opcode ∈ [0x28, 0x29])
    | _ => false

/-- BLOCK_FAULT (R460): the standby engine takes over; a block that has already failed over leaves the device FAILED. -/
def execBlockFault (block : Nat) (s : State) : Host.Outcome State Fault Refusal :=
  act s <| whenRunning fun s =>
    if 5 ≤ block then s
    else if block ∈ s.flt.failedOver then deviceFailed (raiseClass s 0xA)
    else openDomain { s with flt := { s.flt with failedOver := insNat block s.flt.failedOver } } 0xA block (inBlock block)

/-- MANAGEMENT_CORE_FAULT (R460): Kelgor restarts on the cores that remain; without one the device is FAILED. Log 146 (DEDUCED). -/
def execManagementCoreFault (core : Nat) (s : State) : Host.Outcome State Fault Refusal :=
  act s <| whenRunning fun s =>
    if 4 ≤ core ∨ core ∈ s.flt.coresOut then s
    else
      let s := raiseClass { s with flt := { s.flt with coresOut := insNat core s.flt.coresOut } } 0xA
      let s := setLast s 0xA (locate 7 0 core 0 0) 0
      if 4 ≤ s.flt.coresOut.length then deviceFailed s else event s 0x0A04 0xA 0xFFFF 0 (locate 7 0 core 0 0) [core]

/-! ### Links and ports (R338, R457) -/

/-- Offsets of the operand fields of a descriptor that hold addresses, by opcode. -/
def addressFields (w : Work) : List Nat :=
  if w.hdr.opcode ∈ [0x01, 0x10, 0x12, 0x13, 0x1A] then [8]
  else if w.hdr.opcode = 0x06 then (if opr w 8 1 = 1 then [24] else [])
  else if w.hdr.opcode ∈ [0x11, 0x23] then [8, 16, 24]
  else if w.hdr.opcode ∈ [0x18, 0x19] then [8, 16]
  else if w.hdr.opcode ∈ [0x21, 0x22] then [0, 8]
  else if w.hdr.opcode = 0x20 then [0]
  else if w.hdr.opcode = 0x30 then (if opr w 24 1 ≤ 1 then [8] else [])
  else if w.hdr.opcode = 0x38 then (if opr w 1 1 = 0 then [16] else [])
  else []

/-- A work has an operand that is reached through a port. -/
def throughPort (s : State) (p : Nat) (w : Work) : Bool :=
  (addressFields w).any fun o =>
    match addrOf (opr w o 8) with
    | .fabric a => (amapEntry s a 1).any fun i => regGet s .cxlAmapPort i == p
    | _ => false

/-- Enabled ledgers in the memory of a port's home host. -/
def portLedgers (s : State) (p : Nat) : List Nat :=
  ((s.regs.cells.filterMap fun c => if c.1.1 = .ldgStatusState ∧ c.2 ≠ 0 then some c.1.2 else none).filter fun l =>
    regGet s .ldgCfgLoc l == 0 && regGet s .ldgCfgPort l == p).dedup

/-- Hosts behind a port. -/
def portHosts (s : State) (p : Nat) : List Nat :=
  (List.range 32).filter fun h => regGet s .cxlHostMapValid h == 1 && regGet s .cxlHostMapPort h == p

/-- T3 ranges granted behind a port. -/
def portRanges (s : State) (p : Nat) : List Nat :=
  (List.range 64).filter fun r =>
    (regGet s .stoT3StatusState r == 1 || regGet s .stoT3StatusState r == 2) && regGet s .stoT3CtrlPort r == p

/-- A host behind a failed port is suspended (R305, R457). Log 101 (DEDUCED). -/
def suspendLogged (s : State) (h : Nat) : State := event (suspendHost s h) 0x0403 6 0xFFFF 0 (locate 9 0 0 0 h) [h]

/-- A port fails (R457): its ledgers are HALTED and their descriptors discarded, with those that have operands behind it; its hosts are
suspended, its T3 ranges lost. -/
def portFails (s : State) (p : Nat) : State :=
  if !portUp s p then s
  else
    let ls := portLedgers s p
    let s := openDomain (regSet s .cxlPortStatusLink p 4) 6 p (throughPort s p)
    let s := ls.foldl (fun s l => haltLedger s l 3) s
    let s := failAll s (fun w => decide (w.ledger ∈ ls)) stDiscarded
    let s := (portRanges s p).foldl loseRange s
    retryAccesses ((portHosts s p).foldl suspendLogged s)

/-- LINK_LEAVES_L0 (R457): the recovery timer starts. -/
def execLinkLeavesL0 (p : PortId) (s : State) : Host.Outcome State Fault Refusal :=
  act s <| whenRunning fun s => if regGet s .cxlPortStatusLink (portNo p) = 2 then regSet s .cxlPortStatusLink (portNo p) 3 else s

/-- LINK_RECOVERY_TIMEOUT (R457). -/
def execLinkRecoveryTimeout (p : PortId) (s : State) : Host.Outcome State Fault Refusal :=
  act s <| whenRunning fun s => if regGet s .cxlPortStatusLink (portNo p) = 3 then portFails s (portNo p) else s

/-- IDE_INTEGRITY_FAILURE (R309, R457). -/
def execIdeIntegrityFailure (p : PortId) (s : State) : Host.Outcome State Fault Refusal := act s <| whenRunning fun s => portFails s (portNo p)

/-- VIRAL_RECEIVED (R299, R457). -/
def execViralReceived (p : PortId) (s : State) : Host.Outcome State Fault Refusal := act s <| whenRunning fun s => portFails s (portNo p)

/-- SURPRISE_REMOVAL (R299, R457). -/
def execSurpriseRemoval (p : PortId) (s : State) : Host.Outcome State Fault Refusal := act s <| whenRunning fun s => portFails s (portNo p)

/-- CACHE_RESPONSE_TIMEOUT (R457). -/
def execCacheResponseTimeout (p : PortId) (s : State) : Host.Outcome State Fault Refusal := act s <| whenRunning fun s => portFails s (portNo p)

/-- PORT_REFERENCE_CLOCK_LOSS (R469). -/
def execPortReferenceClockLoss (p : PortId) (s : State) : Host.Outcome State Fault Refusal := act s <| whenRunning fun s => portFails s (portNo p)

/-- PERST of a port is asserted. -/
def perst (s : State) (p : PortId) : Bool :=
  match p with
  | .a => s.power.perstA
  | .b => s.power.perstB

/-- LINK_RETURN (R457): the link is in L0 with a width and a rate that the device supports; its ledgers stay HALTED and its hosts
suspended. A link trains only with PERST deasserted, once the root PLLs are locked (R510). -/
def execLinkReturn (p : PortId) (width rate : Nat) (s : State) : Host.Outcome State Fault Refusal :=
  act s fun s =>
    if powered s && !perst s p && s.power.state != .failed && decide (width ∈ [2, 4, 8]) && decide (1 ≤ rate) && decide (rate ≤ 4) then
      regSet (regSet (regSet s .cxlPortStatusLink (portNo p) 2) .cxlPortStatusWidth (portNo p) width) .cxlPortStatusRate (portNo p) rate
    else s

end Sys2Proof.Machine
end

