-- ==== Sys2Proof/Machine/Clocks.lean ====
section
/-! DEFINITION. Clocks, margins and temperature (ch. 17, R546): stretch, stopping, the harrow's walks, neighbour limits, holds, refresh and
scrub, the ageing record, and throttling. -/

namespace Sys2Proof.Machine

open Sys2Proof

/-- A bed whose arithmetic clock runs: it exists, is in service and is not stopped. -/
def bedRuns (s : State) (b : Nat) : Bool := (bedRec s b).any fun x => !x.stopped && !bedOut s b

/-! ### Stretch and stop (R470, R472) -/

/-- DROOP_TRIP (R470): the stretch rises by a sixteenth; a demand above 4 is beyond the supply limit (R478). -/
def execDroopTrip (bed : Nat) (s : State) : Host.Outcome State Fault Refusal :=
  act s <| whenRunning fun s =>
    if !bedRuns s bed then s
    else if (bedRec s bed).any fun b => decide (4 ≤ b.floor + b.droop) then holdBed s bed
    else setBed s bed fun b => { b with droop := b.droop + 1 }

/-- STRETCH_RELEASE (R470): no detector has tripped for 1 µs. -/
def execStretchRelease (bed : Nat) (s : State) : Host.Outcome State Fault Refusal :=
  act s <| whenRunning fun s => setBed s bed fun b => { b with droop := b.droop - 1 }

/-- Nothing of a bed's leaves is queued, in flight, suspended or current as a resident context, and none is being switched (R472). -/
def bedIdle (s : State) (bed : Nat) : Bool :=
  ((leaves s).filter fun l => l.bed == bed).all fun l =>
    (waitingFor s l.id).isEmpty && (flightAt s (holder s l.id)).isEmpty &&
      !(isResident s l.id && (currentOf s (holder s l.id)).isSome) && !(s.units.switching.any fun e => e.1 == holder s l.id)

/-- BED_STOP (R472): a bed that is idle stops its arithmetic clock. -/
def execBedStop (bed : Nat) (s : State) : Host.Outcome State Fault Refusal :=
  act s <| whenRunning fun s =>
    if reg s .clkStopCfgEnable = 1 ∧ bedRuns s bed ∧ bedIdle s bed then
      regAdd (updBed s bed fun b => { b with stopped := true, stoppedAt := s.time }) .clkBedStopsCount bed 1 64
    else s

/-! ### The harrow (R477 to R485) -/

/-- Two beds are adjacent in the grid of four columns (R21, R477). -/
def adjacent (x y : Nat) : Bool := x == y + 4 || y == x + 4 || (x / 4 == y / 4 && (x == y + 1 || y == x + 1))

/-- The bed's rail may rise by a step: not beyond 0.85 V, nor more than 90 mV above a neighbour's, the device core's 0.75 V among
them (R483). -/
def railUp (s : State) (b : Bed) : Bool :=
  decide (b.rail + 10 ≤ 850) && decide (b.rail + 10 ≤ 750 + 90) &&
    s.beds.all fun n => !adjacent b.no n.no || decide (b.rail + 10 ≤ n.rail + 90)

/-- The bed's floor may rise by a step. -/
def floorUp (s : State) (b : Bed) : Bool := decide (b.floor < reg s .clkHrwCfgFloorMax)

/-- The pan with the least slack, its slack, and the least slack of the others. -/
def worstPan (l : List Nat) : Option (Nat × Nat × Nat) :=
  match leastBy (fun i => l.getD i 0) (List.range l.length) with
  | none => none
  | some p => some (p, l.getD p 0, ((List.range l.length).filter fun i => i != p).foldl (fun m i => min m (l.getD i 0)) (2 ^ 16))

/-- A walk finds too little slack: a pan is spared, or the rail or the floor rises, or the bed is held (R483). -/
def tighten (s : State) (b : Bed) (p slack next : Nat) : State :=
  let s :=
    if slack + 30 ≤ next ∧ (freeSpare s b.no).isSome then
      (if (leafOfPan s b.no p).isSome then panFails s b.no p 0x0201
       else mapOut s b.no p [])
    else if railUp s b then updBed s b.no fun b => { b with rail := b.rail + 10 }
    else if floorUp s b then setBed s b.no fun b => { b with floor := b.floor + 1 }
    else holdBed s b.no
  if (bedRec s b.no).any fun c => railUp s c || floorUp s c then s else margin s b.no [slack]

/-- A walk has found ample slack for 24 h: the floor or the rail falls (R483). -/
def relax (s : State) (b : Bed) : State :=
  if 0 < b.floor then setBed s b.no fun b => { b with floor := b.floor - 1 }
  else if b.factoryRail < b.rail then updBed s b.no fun b => { b with rail := b.rail - 10 }
  else s

/-- HARROW_WALK (R481, R483): the slack of a running bed's pans is measured, and its plan changes by at most one step. -/
def execHarrowWalk (bed : Nat) (walk : WalkArg) (s : State) : Host.Outcome State Fault Refusal :=
  act s <| whenRunning fun s =>
    if !bedRuns s bed then s
    else
      match bedRec s bed, worstPan (walk.slack.take 16) with
      | some b, some (p, slack, next) =>
        let s := updBed s bed fun b => { b with slackMin := if b.slackMin = 0 then slack else min b.slackMin slack }
        if slack < reg s .clkHrwCfgSlackLow then tighten s b p slack next
        else if reg s .clkHrwCfgSlackHigh < slack ∧ walk.high24 then relax s b
        else s
      | _, _ => s

/-- The regions are neighbours (R477): adjacent beds, or a bed and the device core, which any number beyond the beds names. -/
def neighbours (s : State) (x y : Nat) : Bool :=
  let n := bedCount s.model
  if x < n ∧ y < n then adjacent x y else decide (x < n) != decide (y < n)

/-- How far a bed's measured rail departs from its plan. -/
def departure (s : State) (x rail : Nat) : Nat := ((bedRec s x).map fun b => max b.rail rail - min b.rail rail).getD 0

/-- The bed that offends against a limit between two regions (R479). -/
def offender (s : State) (x y px py : Nat) : Nat :=
  let n := bedCount s.model
  if n ≤ x then y else if n ≤ y then x
  else if px = py then max x y else if py < px then x else y

/-- A bed that is not out already is held. -/
def holdOffender (s : State) (b : Nat) : State := if bedOut s b then s else holdBed s b

/-- Record the highest temperature of a bed. -/
def noteTemp (s : State) (x t : Nat) : State := updBed s x fun b => { b with tempMax := max b.tempMax t }

/-- NEIGHBOUR_LIMIT (R478, R479): rails in mV and temperatures in °C of two neighbours. At a limit MARGIN is raised; beyond it the
offending bed is held. -/
def execNeighbourLimit (x y railX railY tempX tempY : Nat) (s : State) : Host.Outcome State Fault Refusal :=
  act s <| whenRunning fun s =>
    if !neighbours s x y then s
    else
      let s := noteTemp (noteTemp s x tempX) y tempY
      let dr := max railX railY - min railX railY
      let dt := max tempX tempY - min tempX tempY
      let byRail := offender s x y (departure s x railX) (departure s y railY)
      let byTemp := offender s x y tempX tempY
      if 110 < dr ∨ 28 < dt then
        let s := if 110 < dr then holdOffender s byRail else s
        if 28 < dt then holdOffender s byTemp else s
      else if 100 ≤ dr then margin s byRail [dr, dt]
      else if 25 ≤ dt then margin s byTemp [dr, dt]
      else s

/-- A bed held for the fourth time within 24 h stays held until the next start (R480). -/
def heldForGood (b : Bed) : Bool :=
  match b.holds with
  | [] => false
  | t :: _ => decide (4 ≤ recentHolds t b)

/-- HOLD_RELEASE (R480): the bed's differences to its neighbours have stayed within the guards, and it has cooled below 95 °C (R546);
a MARGIN event records it, and work held for dispatch goes on. -/
def execHoldRelease (bed : Nat) (s : State) : Host.Outcome State Fault Refusal :=
  act s <| whenRunning fun s =>
    if (bedRec s bed).any (fun b => (b.held || b.hot) && !heldForGood b) && !((8, bed) ∈ s.flt.recovering) then
      redispatch (margin (setBed s bed fun b => { b with held := false, hot := false, droop := 0 }) bed [0]) []
    else s

/-- RETENTION_PROBE (R484): a failed probe doubles the refresh rate, and at 4x halves the scrub interval; 30 days of passing probes
halve the rate. -/
def execRetentionProbe (bed : Nat) (vault : Bool) (unit : Nat) (failed month : Bool) (s : State) :
    Host.Outcome State Fault Refusal :=
  act s <| whenRunning fun s =>
    match bedRec s bed with
    | none => s
    | some b =>
      let l := if vault then b.t1Refresh else b.t2Refresh
      let put := fun s r => updBed s bed fun b => if vault then { b with t1Refresh := setAt 0 l unit r } else { b with t2Refresh := setAt 0 l unit r }
      match l[unit]? with
      | none => s
      | some r =>
        if failed then
          (if r < 2 then put s (r + 1) else margin (updBed s bed fun b => { b with scrub := max 1 (b.scrub / 2) }) bed [unit])
        else if month then put s (r - 1)
        else s

/-- PATROL_SCRUB (R485): copies of tiles that fail their checksum in T1 or T2 of a bed, as handle, number and tier; `halve` where one vault
or channel had more than one in a day, `month` after 30 days without. -/
def execPatrolScrub (bed : Nat) (bad : List (Nat × Nat × Nat)) (halve month : Bool) (s : State) : Host.Outcome State Fault Refusal :=
  act s <| whenRunning fun s =>
    let onBed := fun (tier : Nat) (c : TileCopy) => c.tier == tier && c.place / (if tier = 1 then 16 else 4) == bed
    let s := bad.foldl (fun s e =>
      match (tileOf s e.1 e.2.1).bind fun t => t.copies.find? fun c => onBed e.2.2 c && (e.2.2 == 1 || e.2.2 == 2) with
      | some c => copyFailed s e.1 e.2.1 c.tier c.place
      | none => s) s
    updBed s bed fun b =>
      if halve then { b with scrub := max 1 (b.scrub / 2) }
      else if month then { b with scrub := min (reg s .clkHrwScrubHours) (2 * b.scrub) }
      else b

/-- RING_OSCILLATOR_MEASURE (R481): the shift of a running bed from its factory baseline, in ppm as 16 bits. -/
def execRingOscillatorMeasure (bed shift : Nat) (s : State) : Host.Outcome State Fault Refusal :=
  act s <| whenRunning fun s => if bedRuns s bed then updBed s bed fun b => { b with roShift := shift % 2 ^ 16 } else s

/-- What the record that the latest start found says of a bed's life, in seconds, and what has come since (R486). -/
def lifeSeconds (old : List Nat) (k now : Nat) : Nat := (old.getD k 0 + now) % 2 ^ 32

/-- The ageing record as it would be written now (R486). -/
def ageRecord (s : State) : AgeRecord :=
  { hours := s.nv.powerHours, starts := s.nv.starts, losses := s.nv.losses, retention := s.nv.retention, flashUsed := reg s .durWearUsed
    beds := s.beds, holds := s.beds.map fun b => min 255 (recentHolds s.time b)
    stretch := s.beds.map fun b => lifeSeconds s.nv.lifeStretch b.no (readField s .clkBedStretchTime b.no / 1000000)
    heldFor := s.beds.map fun b =>
      lifeSeconds s.nv.lifeHeld b.no ((b.heldTime + (if isHeld b then s.time - b.heldSince else 0)) / 1000000000) }

/-- The 32-byte entry of bed `k` in an ageing record (R486). -/
def ageEntry (r : AgeRecord) (k : Nat) (b : Bed) : List Byte :=
  leBytes 2 b.roShift ++ leBytes 2 b.slackMin ++ leBytes 2 b.rail ++ [byte b.floor, byte (r.holds.getD k 0), byte b.tempMax, byte b.scrub] ++
    zeros 2 ++ leBytes 4 (r.stretch.getD k 0) ++ leBytes 4 (r.heldFor.getD k 0) ++ leBytes 4 (packCodes b.t1Refresh) ++
    [byte (packCodes b.t2Refresh)] ++ zeros 7

/-- The bytes of an ageing record, its DIGEST as given (R486). -/
def ageWith (r : AgeRecord) (digest : List Byte) : List Byte :=
  leBytes 4 0x47414250 ++ leBytes 2 1 ++ leBytes 2 r.beds.length ++ leBytes 8 r.hours ++ leBytes 4 r.starts ++ leBytes 4 r.losses ++
    leBytes 4 r.retention ++ leBytes 2 r.flashUsed ++ zeros 2 ++ digest ++
    ((List.range r.beds.length).flatMap fun k => ((r.beds[k]?).map (ageEntry r k)).getD [])

/-- An ageing record as it lies in the flash system area. -/
def ageBytes (r : AgeRecord) : List Byte := ageWith r (shake 32 (ageWith r (zeros 32)))

/-- Write the ageing record. -/
def writeAgeing (s : State) : State := { s with nv := { s.nv with ageing := some (ageRecord s) } }

/-- AGEING_RECORD_WRITE (R487): the record is written every hour; the figures of the last hour start again. -/
def execAgeingRecordWrite (s : State) : Host.Outcome State Fault Refusal :=
  act s <| whenRunning fun s =>
    let s := writeAgeing { s with nv := { s.nv with powerHours := s.nv.powerHours + 1 } }
    { s with
      beds := s.beds.map fun b => { b with slackMin := 0, tempMax := 0 } }

/-! ### Temperature (R546) -/

/-- Throttle the device core's next bed: the hottest one, which only the sensors know. Log 102 (DESIGN CHOICE). -/
def throttleForCore (s : State) : State :=
  let l := (s.beds.filter fun b => !b.throttled && !b.coreThrottled).map (·.no)
  if l.isEmpty then s
  else setBed (takeFree s) (l.getD (Config.number s.free % l.length) 0) fun b => { b with coreThrottled := true }

/-- THERMAL_THROTTLE (R546): a bed at 100 °C, or the device core at 105 °C, which throttles beds one after another. -/
def execThermalThrottle (bed : Option Nat) (s : State) : Host.Outcome State Fault Refusal :=
  act s <| whenRunning fun s =>
    match bed with
    | none => event (throttleForCore s) 0x0A06 0 0xFFFF 0 0 []
    | some b =>
      if b < bedCount s.model then
        event (setBed s b fun x => { x with throttled := true }) 0x0A06 0 0xFFFF 0 (locate 6 b 0 0 0) []
      else s

/-- THROTTLE_RELEASE (R546): a bed, or the device core, has cooled below the throttle point. -/
def execThrottleRelease (bed : Option Nat) (s : State) : Host.Outcome State Fault Refusal :=
  act s <| whenRunning fun s =>
    match bed with
    | none => (List.range (bedCount s.model)).foldl (fun s b => setBed s b fun x => { x with coreThrottled := false }) s
    | some b => setBed s b fun x => { x with throttled := false }

/-- THERMAL_HOLD (R546): a bed at 105 °C is held. -/
def execThermalHold (bed : Nat) (s : State) : Host.Outcome State Fault Refusal :=
  act s <| whenRunning fun s =>
    if bedCount s.model ≤ bed then s
    else
      let s := holdOffender s bed
      event (setBed s bed fun b => { b with hot := true }) 0x0A07 8 0xFFFF 0 (locate 6 bed 0 0 0) []

end Sys2Proof.Machine
end

