-- ==== Sys2Proof/Machine/Maps.lean ====
section
/-! DEFINITION. A subject rebuilt from the tile maps that reach this device from another one, or from a checkpoint step (R348,
R435, R436): its record, text, log, draft record, layer maps and tiles. -/

namespace Sys2Proof.Machine

open Sys2Proof

/-- The image of a tile among those that came with a map. -/
def imageIn (m : MapArg) (h n : Nat) : Option (List Byte) :=
  m.heads.find? fun b => decide (64 < b.length) && field b 0 8 == h && field b 8 3 == n

/-- The payload of such an image, empty where there is none. -/
def payloadIn (m : MapArg) (h n : Nat) : List Byte := ((imageIn m h n).map (·.drop 64)).getD []

/-- The region-table entry of a buffer region (R358). Log 73 (DEDUCED). -/
def regionIn (m : MapArg) (h : Nat) : Option (List Byte) := m.heads.find? fun b => b.length == 64 && field b 0 8 == h

/-- The draft record of a session, if its tile came with the map (R216). -/
def draftFrom (m : MapArg) (h : Nat) : Option Draft :=
  (m.heads.find? fun b => decide (64 < b.length) && field b 0 8 == h && field b 20 1 == 9 && field b 21 1 == 0).map fun img =>
    let b := img.drop 64
    let base := field b 28 4
    let node := fun i => let o := 64 + 16 * i
      { token := field b o 4, parent := field b (o + 4) 1, depth := field b (o + 5) 1, prob := field b (o + 8) 4 : Node }
    { modelId := field b 0 8, slot := field b 8 1, nodeMax := field b 9 1, depthMax := field b 10 1, width := field b 11 1,
      window := field b 12 2, accAvg := field b 14 2,
      branch := (List.range 8).flatMap fun i => [field b (16 + i) 1 % 16, field b (16 + i) 1 / 16]
      step := field b 24 4, base := if base = 0xFFFFFFFF then none else some base, kvEnd := field b 32 4, emptyRun := field b 36 1,
      configured := bit (field b 37 1) 1, paused := bit (field b 37 1) 0, probe := field b 38 2,
      tree := (List.range (min 64 (field b 40 1))).map node, shape := (0, 0), kvNodes := [] }

/-- The token log from its tiles (R78); an entry whose tile did not come reads 0. -/
def logFrom (m : MapArg) (h count : Nat) : List Nat :=
  (List.range (ceilDiv count 4096)).flatMap fun k =>
    unpackNats 4 (min 4096 (count - 4096 * k)) (payloadIn m h (0x1000 + k)) 0

/-- The tile numbers of a kind in a layer, with the first item of each. -/
def leavesOf (m : MapArg) (h kind layer : Nat) : List LeafArg :=
  m.leaves.filter fun l => l.owner == h && l.kind == kind && l.layer == layer && l.version != 0

/-- A sequence of a layer from its leaves: an SX2 code tile stands at two places (R71). -/
def sequenceFrom (ls : List LeafArg) (base per : Nat) : List Nat :=
  ls.foldl (fun q l =>
    let i := (l.first - base) / max 1 per
    let q := setAt 0xFFFFFFFF q i l.number
    if l.format = 2 then setAt 0xFFFFFFFF q (i + 1) l.number else q) []

/-- The pages of a layer; one attached to a region that is not here is ABSENT (assumption 35). -/
def pagesFrom (s : State) (m : MapArg) (h layer : Nat) : List Page :=
  (m.pages.filter fun p => p.owner == h && p.layer == layer).foldl (fun l p =>
    let away := p.region != 0 && !(s.subjects.any fun x => x.handle == p.region && x.kind == .shared)
    let g : Page := { state := if away && p.state != 0 then 3 else p.state, valid := if away then 0 else p.valid
                      region := if p.region = 0 || away then none else some p.region }
    setAt { state := 0, valid := 0, region := none } l p.page g) []

/-- The tile map of a layer. -/
def layerFrom (s : State) (m : MapArg) (x : Subject) (layer : Nat) : LayerMap :=
  let pages := pagesFrom s m x.handle layer
  let attached := (pages.takeWhile fun g => g.region.isSome).length
  let codes := leavesOf m x.handle 5 layer
  let first := match (codes.map fun l => l.first / max 1 x.kvHeads) with
    | [] => attached
    | f :: fs => fs.foldl min f
  let base := first * x.kvHeads
  { pages := pages, first := first, code := sequenceFrom codes base (codePer x)
    scale := sequenceFrom (leavesOf m x.handle 6 layer) base (scalePer x)
    summary := sequenceFrom (leavesOf m x.handle 7 layer) base (summaryPer x)
    patch := sequenceFrom (leavesOf m x.handle 8 layer) 0 1 }

/-- The block hashes of a prefix region (R359). -/
def hashesFrom (m : MapArg) (h n : Nat) : List (List Byte) :=
  (List.range n).map fun i => slice (payloadIn m h (1 + i / 1024)) (16 * (i % 1024)) 16

/-- A subject from its record and its maps, PARKED if it is a session. Log 35 (DESIGN CHOICE). -/
def subjectFrom (s : State) (m : MapArg) (h index : Nat) : Option Subject :=
  match regionIn m h with
  | some b =>
    some { Subject.blank index h (bits (field b 8 2) 11 0) .buffer with
      windows := field b 10 2, firstWindow := field b 12 2, durable := bit (field b 14 1) 0, version := field b 16 8
      own := ownFrom (slice b 24 32), vfloor := field b 56 8 }
  | none =>
    match imageIn m h 0 with
    | none => none
    | some img =>
      let r := img.drop 64
      let n := field r 108 4
      let kind := if n = 0 then SubjKind.session else .shared
      let x := recordFrom (Subject.blank index h 0 kind) r
      let x := { x with state := if n = 0 then 2 else 1, version := if n = 0 then 0 else 1, log := logFrom m h (field r 24 4)
                        hashes := hashesFrom m h n, draft := draftFrom m h }
      let image := ((List.range 240).map fun i => payloadIn m h (0x10 + i)).flatten
      let x := { x with text := textFrom (payloadIn m h 1) (payloadIn m h 2) (payloadIn m h 3) image }
      some { x with maps := (List.range x.layers).map (layerFrom s m x) }

/-- The tile of a leaf, lodged at its holder, the device `from_` where the map names none. -/
def tileFrom (slot from_ : Nat) (l : LeafArg) : Tile :=
  { blankTile l.owner l.number slot with
    version := l.version, floor := max l.version l.floor, recFloor := max l.version l.floor, kind := l.kind, format := l.format
    layer := l.layer, count := l.count, first := l.first, durable := l.durable, lowered := l.lowered
    lodged := if l.version = 0 then none else some (if l.holder = 0 then from_ else l.holder) }

/-- The tiles of a subject, lodged at a device. -/
def tilesFrom (m : MapArg) (x : Subject) (from_ : Nat) : List Tile :=
  (m.leaves.filter fun l => l.owner == x.handle).map (tileFrom x.keySlot from_)

end Sys2Proof.Machine
end

