-- ==== Sys2Proof/Machine/Ownership.lean ====
section
/-! DEFINITION. Ownership between devices (ch. 12): offers, claims and grants, lodged tiles, the audit, and the epochs of the
composition map. -/

namespace Sys2Proof.Machine

open Sys2Proof

/-! ### Peer messages (R342, R343) -/

/-- Act on a peer message of a type: one from a PBR ID that the map does not hold is ignored with an event, one whose CHECK fails is
counted. Log 72 (DEDUCED). -/
def receivePeer (pbr : Nat) (msg : List Byte) (type : Nat) (f : State → Nat → List Byte → State) (s : State) : State :=
  match peerOfPbr s pbr with
  | none => event s 0x0501 0 0xFFFF 0 (locate 11 0 0 0 pbr) [pbr]
  | some i =>
    let m := slice msg 0 64
    let org := regGet s .cxlPeerMapOrigin i
    if !peerCheck m then countReg s .fltPeerBadCount 0 1
    else if field m 0 1 ≠ type then s
    else f (tracePeer s 0x07 org 0 type (field m 32 8)) org m

/-- EPOCH, HANDLE and ARG of a message. -/
def msgEpoch (m : List Byte) : Nat := field m 4 4
def msgHandle (m : List Byte) : Nat := field m 8 8
def msgArg (m : List Byte) : Nat := field m 16 8

/-- The VERSION that a TILE_REQ, a RELEASE or the REFUSE of a TILE_REQ names. -/
def msgVersion (m : List Byte) : Nat := msgEpoch m + field m 40 4 * 2 ^ 32

/-! ### The buddy's acknowledgment of ownership records (R341, R442) -/

/-- A named buddy is unreachable. -/
def buddyAway (s : State) : Bool := buddy s != 0 && reg s .durBuddyState != 1

/-- Send the OWN record of a change that a work requests; its number, `none` where no buddy is named. -/
def sendOwn (s : State) (h : Nat) (o : OwnRec) : State × Option Nat :=
  if buddy s = 0 then (s, none) else (sendStream s 0x02 0 0 h 0 (ownBytes o), some s.dur.streamSeq)

/-- A stream record is not acknowledged yet. -/
def unackedSeq (s : State) (q : Nat) : Bool := s.dur.unacked.any fun r => r.1 == q

/-! ### HANDOVER_OFFER (R345, R346) -/

/-- Where the master of a T1 tile goes at an offer: T2, else the next lower tier that its class allows and that has room (R104). -/
def offerTo (s : State) (t : Tile) : Option (Nat × List Nat) :=
  match spillTo s t with
  | some r => some r
  | none =>
    if t.durable then (if durableWritable s then some (4, [t4Place s t]) else none)
    else
      match spillRange s with
      | some r => some (3, [r])
      | none => if sharedRoom s then some (4, [t4Place s t]) else none

/-- Write T1 masters down one after another; whether every one found room. -/
def writeDown : List (Nat × Nat) → State → State × Bool
  | [], s => (s, true)
  | k :: ks, s =>
    match tileOf s k.1 k.2 with
    | none => writeDown ks s
    | some t =>
      match offerTo s t with
      | none => (s, false)
      | some (tier, places) => writeDown ks (spillPlain s t tier places)

/-- The T1 masters of a subject. -/
def t1Masters (s : State) (h : Nat) : List (Nat × Nat) :=
  sortKey (·.2) (((tilesOf s h).filter fun t => masterTier t == 1).map fun t => (t.handle, t.number))

/-- The record tiles that change with an ownership record: HEAD and the map; a buffer region's record is a table entry. -/
def ownTiles (x : Subject) : List Tile := if x.kind = .buffer then [] else headTiles x

/-- End an offer: the record is OFFERED, the tree that was outstanding ends (R225). -/
def offerEnd (s : State) (w : Work) (x : Subject) (o : OwnRec) : State :=
  let d := parkDraft s x
  conclude s w stDone (leBytes 4 o.epoch) (d.1 ++ ownTiles x) (d.2 ++ [.own x.handle o 0x11])

/-- The record of an offer to a target. -/
def offeredTo (s : State) (x : Subject) (target : Nat) : OwnRec := { x.own with state := 1, target := target, granted := false, since := s.time }

/-- A PUBLISH of the region is in progress beside the offer: in flight, or without its completion yet (R345). -/
def publishing (s : State) (w : Work) (h : Nat) : Bool :=
  s.work.any fun y => y.id != w.id && isOp 0x06 y && subjectOf y == h && (inFlight y || y.place == .ended)

/-- The checks of HANDOVER_OFFER (R345, R346). -/
def offerChks (s : State) (w : Work) (x : Subject) : List Chk :=
  let target := opr w 8 3
  [chk (x.state != 5) stPoisoned, chk (x.own.state == 0) stConflict, chk (decide (x.own.epoch < 0xFFFFFFFF)) stNoSpace,
   chk (reservedClear w [(0, 11)] && (peerEntry s target).isSome && target != origin s) stBad,
   chk (if x.kind = .session then x.state == 2 else !publishing s w x.handle) stConflict, chk (!buddyAway s) stConflict]

/-- HANDOVER_OFFER: the T1 masters go down, the OWN record is acknowledged, then the record is OFFERED. -/
def runOffer (s : State) (w : Work) : State :=
  withSubject s w fun x =>
    let target := opr w 8 3
    checked s w (offerChks s w x) fun s =>
      match w.tally with
      | [q] => if unackedSeq s q then s else offerEnd s w x (offeredTo s x target)
      | _ =>
        let names := t1Masters s x.handle
        let r := releaseLines s names
        if !r.2 then r.1
        else
          match writeDown names r.1 with
          | (s, false) => fail s w.id stNoSpace
          | (s, true) =>
            match sendOwn s x.handle (offeredTo s x target) with
            | (s, none) => offerEnd s w x (offeredTo s x target)
            | (s, some q) => updWork s w.id fun y => { y with tally := [q] }

/-- HANDOVER_OFFER (R346). -/
def execHandoverOffer (work : Nat) (s : State) : Host.Outcome State Fault Refusal :=
  act s <| runWork work (isOp 0x04) (durably runOffer)

/-! ### HANDOVER_ACCEPT, GRANT and REFUSE (R347, R348) -/

/-- An open claim. -/
def claimOf (s : State) (h : Nat) : Option Claim := s.own.claims.find? fun c => c.handle == h

/-- Close a claim. -/
def closeClaim (s : State) (h : Nat) : State := { s with own := { s.own with claims := s.own.claims.filter fun c => c.handle != h } }

/-- The fields of HANDOVER_ACCEPT. -/
def acceptFields (s : State) (w : Work) : Bool :=
  reservedClear w [(0, 11), (12, 12)] && (peerEntry s (opr w 8 3)).isSome && opr w 8 3 != origin s && opr w 12 4 != 0 &&
    opr w 16 8 % 2 ^ 30 == 0 && (opr w 16 8 == 0 || windowFree s (opr w 16 8 / 2 ^ 30))

/-- Finish an ACCEPT whose record is made: the claim closes. -/
def acceptEnd (s : State) (w : Work) : State :=
  let made := w.effects.filterMap fun e =>
    match e with
    | .openSubject x => some x
    | _ => none
  match made with
  | [] => s
  | x :: _ => done (closeClaim s x.handle) w.id stDone (leBytes 4 x.own.epoch ++ leBytes 3 x.index)

/-- The checks of HANDOVER_ACCEPT (R347). -/
def acceptRunChks (s : State) (w : Work) : List Chk :=
  let h := opr w 0 8
  [chk (acceptFields s w) stBad, chk ((subjAny s h).isNone && (claimOf s h).isNone && !buddyAway s) stConflict,
   chk ((freeIndex s).isSome && durableRoom s 3) stNoSpace]

/-- The claim that HANDOVER_ACCEPT opens (R348). -/
def openedClaim (w : Work) : Claim :=
  { handle := opr w 0 8, offerer := opr w 8 3, epoch := opr w 12 4, work := w.id, window := opr w 16 8, keySlot := w.hdr.keySlot }

/-- HANDOVER_ACCEPT: opens a claim and sends CLAIM; once granted, it ends when the buddy has the new record. -/
def runAccept (s : State) (w : Work) : State :=
  let h := opr w 0 8
  match w.tally with
  | [1] => s
  | [2, q] => if buddyAway s then fail (closeClaim s h) w.id stConflict else if unackedSeq s q then s else acceptEnd s w
  | _ =>
    checked s w (acceptRunChks s w) fun s =>
      let c := openedClaim w
      let s := { s with own := { s.own with claims := s.own.claims ++ [c] } }
      sendPeer (updWork s w.id fun y => { y with tally := [1] }) c.offerer 0x01 c.epoch h w.hdr.keySlot 0 0

/-- HANDOVER_ACCEPT (R348). -/
def execHandoverAccept (work : Nat) (s : State) : Host.Outcome State Fault Refusal :=
  act s <| runWork work (isOp 0x05) runAccept

/-- The windows that a claim binds for a region of `n` windows. -/
def claimWindows (c : Claim) (n : Nat) : List Nat := (List.range n).map (c.window / 2 ^ 30 + ·)

/-- A subject as its new owner takes it: OWNED by this device at e + 1, homed by the most free T1 (R117). -/
def takenOver (s : State) (x : Subject) (c : Claim) : Subject :=
  { x with
    own := { epoch := c.epoch + 1, owner := origin s, state := 0, target := 0, granted := false, since := s.time }
    homeBed := (chooseBed s x.keySlot (homeBeds s)).getD 0, firstWindow := c.window / 2 ^ 30 }

/-- Take over a granted subject: everything is entered as the ACCEPT's effects, and made when its completion is written.
Log 180 (DESIGN CHOICE). -/
def takeGrant (s : State) (c : Claim) (w : Work) (map : MapArg) (i : Nat) : State :=
  match subjectFrom s map c.handle i with
  | none => fail (closeClaim s c.handle) w.id stDiscarded
  | some x0 =>
    let x := takenOver s x0 c
    let ws := if x.kind = .buffer then claimWindows c x.windows else []
    if !(ws.all (windowFree s)) then fail (closeClaim s c.handle) w.id stBad
    else
      let s := placeEntry s (handleEntry x true)
      let s := if x.kind = .shared then insertBlocks (if x.isPublic then placeEntry s (publicEntry x true) else s) x true else s
      let effects := .openSubject x :: ((tilesFrom map x c.offerer).map fun t => .tile t) ++
        ((List.range ws.length).map fun k => .bind (ws.getD k 0) (.region x.handle k)) ++ [.own x.handle x.own 0x13]
      let s := updWork s w.id fun y => { y with effects := effects }
      match sendOwn s x.handle x.own with
      | (s, none) => acceptEnd s { w with effects := effects }
      | (s, some q) => updWork s w.id fun y => { y with tally := [2, q] }

/-- GRANT (R348): for an open claim the receiver takes ownership at e + 1; otherwise it is ignored (R350). -/
def execGrant (pbr : Nat) (msg : List Byte) (map : MapArg) (s : State) : Host.Outcome State Fault Refusal :=
  act s <| whenRunning <| receivePeer pbr msg 0x02 fun s org m =>
    match (claimOf s (msgHandle m)).bind fun c => if c.offerer = org ∧ c.epoch = msgEpoch m then some c else none with
    | none => s
    | some c =>
      match workOf s c.work, freeIndex s with
      | some w, some i => if w.tally = [1] then takeGrant s c w map i else s
      | some w, none => fail (closeClaim s c.handle) w.id stNoSpace
      | none, _ => closeClaim s c.handle

/-- REFUSE (R348, R352): the ACCEPT completes with the status that it carries; a TILE_REQ's tile fails in every copy. -/
def execRefuse (pbr : Nat) (msg : List Byte) (s : State) : Host.Outcome State Fault Refusal :=
  act s <| whenRunning <| receivePeer pbr msg 0x03 fun s org m =>
    let st := msgArg m % 256
    if st = stPoisoned then
      let n := bits (msgArg m) 55 32
      match s.own.requests.find? fun r => r.handle == msgHandle m && r.number == n && r.origin == org && r.version == msgVersion m with
      | none => s
      | some r =>
        let rest := s.own.requests.filter (· ≠ r)
        tileLost { s with own := { s.own with requests := rest } } r.handle n
    else
      match (claimOf s (msgHandle m)).bind fun c => if c.offerer = org then some c else none with
      | none => s
      | some c =>
        let open' := (workOf s c.work).any fun w => w.tally == [1]
        if open' && decide (st ∈ [stNotOwner, stConflict, stKeyRevoked]) then fail (closeClaim s c.handle) c.work st else s

/-- CLAIM_WINDOW_EXPIRY (R348): no answer in time, so the claim closes and the ACCEPT completes DISCARDED. Log 10 (DESIGN CHOICE). -/
def execClaimWindowExpiry (handle : Nat) (s : State) : Host.Outcome State Fault Refusal :=
  act s <| whenRunning fun s =>
    match claimOf s handle with
    | none => s
    | some c => fail (closeClaim s handle) c.work stDiscarded

/-! ### CLAIM (R349, R351) -/

/-- A tile as it stays lodged here: out of T1, with the payload that its subject rendered. -/
def lodgedTile (s : State) (t : Tile) : Tile :=
  let t := if masterTier t = 1 then
      match offerTo s t with
      | some (tier, places) => if places.isEmpty then t else withCopies t tier places
      | none => withCopies t 4 [t4Place s t]
    else t
  { dropTier t 1 with payload := if t.kind ≤ 4 ∨ isDraftRecord t then cellsOf (payloadOf s t) else t.payload }

/-- Pages of other sessions that were attached to a region which leaves this device are ABSENT (assumption 35). -/
def unattach (s : State) (x : Subject) : State :=
  if x.kind ≠ .shared then s
  else
    let page := fun g : Page => if g.region = some x.handle ∧ g.state ≠ 0 then { g with state := 3, valid := 0, region := none } else g
    { s with subjects := s.subjects.map fun y => { y with maps := y.maps.map fun l => { l with pages := l.pages.map page } } }

/-- Grant a subject away: lines and windows are released, it leaves the directory and the table, its tiles stay lodged, and its
record is a trace. Log 68 (DEDUCED). Log 186 (DEDUCED). -/
def grantAway (s : State) (x : Subject) (target : Nat) : State :=
  let tiles := (tilesOf s x.handle).map (lodgedTile s)
  let s := snoopLines s ((tilesOf s x.handle).flatMap fun t => heldLines s t.handle t.number)
  let s := unattach (detach (leavePlanner s x.handle) x.handle) x
  let o : OwnRec := { x.own with state := 1, target := target, granted := true, since := s.time }
  let s := { s with
    subjects := s.subjects.filter fun y => y.handle != x.handle
    tiles := s.tiles.filter fun t => t.handle != x.handle
    own := { s.own with
      lodged := s.own.lodged ++ tiles
      traces := { handle := x.handle, own := o, since := s.time, subject := x } :: s.own.traces.filter fun t => t.handle != x.handle } }
  let s := (sendOwn s x.handle o).1
  reap s.subjects.length s

/-- Decline a CLAIM. -/
def declineClaim (s : State) (org : Nat) (m : List Byte) (status : Nat) : State :=
  sendPeer s org 0x03 (msgEpoch m) (msgHandle m) status 0 0

/-- Send GRANT, with its notice. -/
def sendGrant (s : State) (org : Nat) (m : List Byte) (x : Subject) : State :=
  let s := sendPeer s org 0x02 (msgEpoch m) x.handle (if x.kind = .buffer then x.windows else 0) 0 0
  sendNotice s 0x12 (msgEpoch m) x.handle 0

/-- The trace of a handle. -/
def traceOf (s : State) (h : Nat) : Option Trace := s.own.traces.find? fun t => t.handle == h

/-- Decide a claim (R349): the key slot first, then the record. Log 69 (DEDUCED). -/
def decideClaim (s : State) (org : Nat) (m : List Byte) : State :=
  let h := msgHandle m
  let e := msgEpoch m
  let held := subjOf s h
  let tr := traceOf s h
  match held.orElse fun _ => tr.map (·.subject) with
  | none => declineClaim s org m stNotOwner
  | some x =>
    let o : OwnRec := match held, tr with
      | some y, _ => y.own
      | none, some t => t.own
      | none, none => x.own
    if !slotActive s x.keySlot then declineClaim s org m stKeyRevoked
    else if msgArg m ≠ x.keySlot then declineClaim s org m stNotOwner
    else if buddyAway s then declineClaim s org m stConflict
    else if o.state ≠ 1 ∨ o.target ≠ org ∨ h ∈ s.own.expired then declineClaim s org m stNotOwner
    else if o.epoch ≠ e then declineClaim s org m stConflict
    else if held.isSome then sendGrant (grantAway s x org) org m x
    else sendGrant s org m x

/-- CLAIM (R349): the offerer grants or refuses it. -/
def execClaim (pbr : Nat) (msg : List Byte) (s : State) : Host.Outcome State Fault Refusal :=
  act s <| whenRunning <| receivePeer pbr msg 0x01 decideClaim

/-! ### Reclaims (R350, R357) -/

/-- The durable write of a reclaimed record finds room. -/
def ownRoom (s : State) (x : Subject) : Bool := durableWritable s && (ownTiles x).all fun t => (placeNew s t).isSome

/-- The record of a subject that this device reclaims at e + 1. -/
def reclaimed (s : State) (o : OwnRec) : OwnRec :=
  { epoch := o.epoch + 1, owner := origin s, state := 0, target := 0, granted := false, since := s.time }

/-- A reclaim that is not made: it is tried again at every audit. -/
def reclaimFailed (s : State) (h slot : Nat) : State := event s 0x0502 0 slot h 0 []

/-- Reclaim a subject whose offer has timed out (R350); an attempt that finds no room is logged and made again at every audit (R357). -/
def reclaimOffer (s : State) (x : Subject) : State :=
  if ownRoom s x then
    let s := setOwn s x.handle (reclaimed s x.own) 0x14
    touchMap { s with own := { s.own with expired := s.own.expired.filter (· ≠ x.handle) } } x.handle
  else reclaimFailed { s with own := { s.own with expired := insNat x.handle s.own.expired } } x.handle x.keySlot

/-- OFFER_TIMEOUT (R350). -/
def execOfferTimeout (handle : Nat) (s : State) : Host.Outcome State Fault Refusal :=
  act s <| whenRunning fun s =>
    match subjOf s handle with
    | none => s
    | some x => if x.own.state = 1 ∧ !x.own.granted then reclaimOffer s x else s

/-- Bring a traced subject back under its lowest free index, with its tiles and, where they are free, its windows. -/
def restoreTrace (s : State) (t : Trace) (i : Nat) : State :=
  let o := reclaimed s t.own
  let x := { t.subject with index := i, own := o, state := if t.subject.kind = .session then 2 else 1 }
  let mine := s.own.lodged.filter fun y => y.handle == t.handle
  let s := { s with
    subjects := s.subjects ++ [x]
    tiles := s.tiles ++ mine
    own := { s.own with
      lodged := s.own.lodged.filter fun y => y.handle != t.handle, traces := s.own.traces.filter fun y => y.handle != t.handle } }
  let s := placeEntry s (handleEntry x false)
  let s := if x.kind = .shared then insertBlocks (if x.isPublic then placeEntry s (publicEntry x false) else s) x false else s
  let ws := if x.kind = .buffer then (List.range x.windows).map (x.firstWindow + ·) else []
  let binds := (List.range ws.length).map fun k => (ws.getD k 0, Binding.region x.handle k)
  let s := if ws.all (windowFree s) then { s with windows := binds ++ s.windows } else s
  touchMap (sendNotice (sendOwn s x.handle o).1 0x14 o.epoch x.handle 0) x.handle

/-- Reclaim an ORPHAN (R355, R357). -/
def reclaimTrace (s : State) (t : Trace) : State :=
  match freeIndex s with
  | some i => if ownRoom s t.subject then restoreTrace s t i else reclaimFailed s t.handle t.subject.keySlot
  | none => reclaimFailed s t.handle t.subject.keySlot

/-! ### The audit (R355, R356) -/

/-- A trace is eligible: its grant is older than the claim window plus 100 µs. -/
def auditable (s : State) (t : Trace) : Bool :=
  t.own.state == 1 && decide (t.since + reg s .sysHoCfgClaim * 1000 + 100000 < s.time)

/-- Ask the target of a trace. -/
def askTarget (s : State) (t : Trace) : State :=
  let s := { s with own := { s.own with queries := insNat t.handle s.own.queries } }
  sendPeer s t.own.target 0x04 t.own.epoch t.handle 0 0 0

/-- OWNERSHIP_AUDIT (R355): QUERY for every eligible trace; reclaims that failed are tried again. -/
def execOwnershipAudit (s : State) : Host.Outcome State Fault Refusal :=
  act s <| whenRunning fun s =>
    let retry := s.own.expired
    let s := retry.foldl (fun s h =>
      match subjOf s h with
      | none => { s with own := { s.own with expired := s.own.expired.filter (· ≠ h) } }
      | some x => reclaimOffer s x) s
    let s := (s.own.traces.filter fun t => t.own.state == 2).foldl reclaimTrace s
    (s.own.traces.filter (auditable s)).foldl askTarget s

/-- What this device answers to QUERY(h, e): 1 HELD, 2 WAIT, 0 NO (R356). -/
def answerTo (s : State) (h e : Nat) : Nat :=
  if (subjAny s h).any (fun x => decide (e + 1 ≤ x.own.epoch)) || (traceOf s h).any (fun t => decide (e + 1 ≤ t.own.epoch)) then 1
  else if (claimOf s h).any (fun c => c.epoch == e) then 2
  else 0

/-- QUERY (R356). -/
def execQuery (pbr : Nat) (msg : List Byte) (s : State) : Host.Outcome State Fault Refusal :=
  act s <| whenRunning <| receivePeer pbr msg 0x04 fun s org m =>
    sendPeer s org 0x05 (msgEpoch m) (msgHandle m) (answerTo s (msgHandle m) (msgEpoch m)) 0 0

/-- Delete a trace; its lodged tiles stay until they are released, but those that other holders keep are no longer named. -/
def dropTrace (s : State) (h : Nat) : State :=
  { s with own := { s.own with
      traces := s.own.traces.filter fun t => t.handle != h
      lodged := s.own.lodged.filter fun t => t.handle != h || (t.lodged.isNone && t.version != 0) } }

/-- A trace that nobody took: it is ORPHAN, and reclaimed. -/
def orphan (s : State) (t : Trace) : State :=
  let o := { t.own with state := 2, since := s.time }
  let u := { t with own := o }
  let s := { s with own := { s.own with traces := updIf (fun y => y.handle == t.handle) (fun _ => u) s.own.traces } }
  reclaimTrace (sendNotice (sendOwn s t.handle o).1 0x15 o.epoch t.handle 0) u

/-- ANSWER (R355). -/
def execAnswer (pbr : Nat) (msg : List Byte) (s : State) : Host.Outcome State Fault Refusal :=
  act s <| whenRunning <| receivePeer pbr msg 0x05 fun s org m =>
    let h := msgHandle m
    match traceOf s h with
    | none => s
    | some t =>
      if h ∈ s.own.queries ∧ t.own.target = org ∧ t.own.epoch = msgEpoch m ∧ t.own.state = 1 then
        let s := { s with own := { s.own with queries := s.own.queries.filter (· ≠ h) } }
        match msgArg m % 256 with
        | 0 => orphan s t
        | 1 => dropTrace s h
        | _ => s
      else s

/-- AUDIT_QUERY_TIMEOUT (R355): no answer; the trace is kept. -/
def execAuditQueryTimeout (handle : Nat) (s : State) : Host.Outcome State Fault Refusal :=
  act s <| whenRunning fun s =>
    if handle ∈ s.own.queries then
      let slot := ((traceOf s handle).map fun t => t.subject.keySlot).getD 0xFFFF
      event { s with own := { s.own with queries := s.own.queries.filter (· ≠ handle) } } 0x0502 0 slot handle 0 []
    else s

/-! ### Lodged tiles (R351 to R354, R444) -/

/-- A tile lodged here for another owner. -/
def lodgedHere (s : State) (h n v : Nat) : Option Tile :=
  s.own.lodged.find? fun t => t.handle == h && t.number == n && t.version == v && t.lodged.isNone

/-- The stored image of a tile that this device fosters for an origin whose take-over it has served (R444). -/
def fosteredImage (s : State) (h n v : Nat) : Option (List Byte) :=
  ((s.dur.fosters.filter (·.served)).flatMap fun f => f.steps.flatMap fun st => st.images).find? fun b =>
    b.length == tileBytes && field b 0 8 == h && field b 8 3 == n && field b 12 8 == v

/-- Decline a TILE_REQ: no valid copy at the version asked for (R352). -/
def declineTile (s : State) (org : Nat) (m : List Byte) : State :=
  sendPeer s org 0x03 (msgEpoch m) (msgHandle m) (stPoisoned + msgArg m % 2 ^ 24 * 2 ^ 32) 0 (field m 40 4)

/-- TILE_REQ (R352): the holder writes the stored tile to the reply offset, or refuses. -/
def execTileReq (pbr : Nat) (msg : List Byte) (good : Bool) (s : State) : Host.Outcome State Fault Refusal :=
  act s <| whenRunning <| receivePeer pbr msg 0x06 fun s org m =>
    let h := msgHandle m
    let n := msgArg m % 2 ^ 24
    match lodgedHere s h n (msgVersion m) with
    | some t =>
      if masterTier t = 0 then declineTile s org m
      else if good then emit s (.aperture org (field m 24 8) (storedOf s t))
      else
        let lost := { t with copies := [] }
        declineTile { s with own := { s.own with lodged := updIf (· == t) (fun _ => lost) s.own.lodged } } org m
    | none =>
      match fosteredImage s h n (msgVersion m) with
      | some b => if good then emit s (.aperture org (field m 24 8) b) else declineTile s org m
      | none => declineTile s org m

/-- Adopt a lodged tile, into the tier that PLACE asks for if it does: this device's copy is the master, and the holder is told (R119,
R352). An SX2 tile brought into T2 or T1 is expanded (R106). -/
def adopt (s : State) (t : Tile) (payload : List Byte) (tier : Nat) (range : Option Nat) : State :=
  let u := { t with lodged := none, key := keyOf s t.keySlot, verified := true, lastUse := tick s
                    payload := if t.kind ≤ 4 ∨ isDraftRecord t then t.payload else cellsOf payload }
  match adoptPlace s u tier range with
  | none => s
  | some (k, places) =>
    if t.kind = 5 ∧ t.format = 2 ∧ k ≤ 2 then expandPair s u else putTile (releaseLodged s t) (withCopies u k places)

/-- A tile asked for by a DUMP or for a capture arrives: its payload is at hand there, and the tile stays lodged
(R499). A captured tile so shown counts as having a copy. -/
def showCopy (s : State) (t : Tile) (payload : List Byte) : State :=
  let same := fun x : Tile => x.handle == t.handle && x.number == t.number && x.version == t.version
  let cells := cellsOf payload
  let s := updTile s t.handle t.number fun x => if x.kind ≤ 4 ∨ isDraftRecord x then x else { x with payload := cells }
  { s with
    obs := { s.obs with captures := s.obs.captures.map fun c =>
      { c with tiles := updIf same (fun x => { x with lodged := none, payload := cells, copies := [{ tier := 4, place := 0, version := x.version }] }) c.tiles } }
    work := updIf (fun w => w.hdr.opcode == 0x30 && inFlight w && subjectOf w == t.handle)
      (fun w => { w with tally := insNat t.number w.tally }) s.work }

/-- TILE_REPLY (R352): a lodged tile arrives, is verified and adopted; one that fails its checksum fails in every copy. Log 70 (DEDUCED). -/
def execTileReply (off : Nat) (image : List Byte) (s : State) : Host.Outcome State Fault Refusal :=
  act s <| whenRunning fun s =>
    match s.own.requests.find? (fun r => r.reply == off) with
    | none => s
    | some r =>
      let s := { s with own := { s.own with requests := s.own.requests.filter (· ≠ r) } }
      match tileOf s r.handle r.number with
      | none => s
      | some t =>
        if t.version ≠ r.version ∨ t.lodged.isNone then s
        else
          let b := openStored s t (slice image 0 tileBytes)
          if !(slotActive s t.keySlot && imagePasses t b) then tileLost s t.handle t.number
          else
            let s := showCopy s t (b.drop 64)
            if r.keep then s else adopt s t (b.drop 64) r.tier (placeRange s r.range)

/-- TILE_REQ_TIMEOUT (R354): no reply; asked once more, then the tile counts as failing in every copy. -/
def execTileReqTimeout (handle number : Nat) (s : State) : Host.Outcome State Fault Refusal :=
  act s <| whenRunning fun s =>
    match s.own.requests.find? (fun r => r.handle == handle && r.number == number) with
    | none => s
    | some r =>
      if r.repeated then tileLost { s with own := { s.own with requests := s.own.requests.filter (· ≠ r) } } handle number
      else
        let again := { r with repeated := true }
        sendPeer { s with own := { s.own with requests := updIf (· == r) (fun _ => again) s.own.requests } }
          r.origin 0x06 (r.version % 2 ^ 32) handle number r.reply (r.version / 2 ^ 32)

/-- RELEASE (R353): the holder frees the tile, whichever peer sends it. -/
def execRelease (pbr : Nat) (msg : List Byte) (s : State) : Host.Outcome State Fault Refusal :=
  act s <| whenRunning <| receivePeer pbr msg 0x07 fun s _ m =>
    let gone := fun t : Tile => t.handle == msgHandle m && t.number == msgArg m % 2 ^ 24 && t.version == msgVersion m && t.lodged.isNone
    { s with own := { s.own with lodged := s.own.lodged.filter fun t => !gone t } }

/-! ### Composition map epochs (R364) -/

/-- MAP_EPOCH_WRITE (R364): a greater value is the new epoch; the superseded one stays honoured for GRACE, four in all. -/
def execMapEpochWrite (_path : Path) (value : Nat) (s : State) : Host.Outcome State Fault Refusal :=
  act s <| whenRunning fun s =>
      let old := reg s .sysMapEpochCurrent
      let v := value % 2 ^ 32
      if v ≤ old then s
      else
        let grace := if reg s .sysMapCfgGrace = 0 then [] else ((old, s.time) :: s.own.epochs).take 3
        setReg { s with own := { s.own with epochs := grace } } .sysMapEpochCurrent v

/-- EPOCH_GRACE_END (R364). -/
def execEpochGraceEnd (epoch : Nat) (s : State) : Host.Outcome State Fault Refusal :=
  act s <| whenRunning fun s => { s with own := { s.own with epochs := s.own.epochs.filter fun e => e.1 ≠ epoch } }

end Sys2Proof.Machine
end

