-- ==== Sys2Proof/Machine/Security.lean ====
section
/-! DEFINITION. Security (ch. 14, R504, R505, R541): key slots with install and removal, device sets, the lifecycle, owner claim and debug
tokens, measurements and SPDM, the TAP and the addresses of the management bus. -/

namespace Sys2Proof.Machine

open Sys2Proof

/-! ### Random values and the state of debug reach -/

/-- A fresh `SEC_NONCE` (R396). -/
def freshNonce (s : State) : State := setReg (takeFree s) .secNonceNonce (leNat (slice (Config.bytes s.free) 0 32))

/-- A fresh `SEC_DEBUG_NONCE` (R505). -/
def freshDebugNonce (s : State) : State := setReg (takeFree s) .secDebugNonceNonce (leNat (slice (Config.bytes s.free) 0 32))

/-- Where debug reach has closed, halted cores and pans are released (R505). -/
def debugCheck (s : State) : State := if debugReach s then s else { s with sec := { s.sec with haltedCores := [], haltedPans := [] } }

/-- The result of an action of the SEC block in `SEC_STATUS.ERROR`. -/
def secError (s : State) (e : Nat) : State := setReg s .secStatusError e

/-- The code of the first check that fails, 0 if all pass. -/
def firstError (l : List (Bool × Nat)) : Nat := ((l.find? fun c => !c.1).map (·.2)).getD 0

/-! ### Installs (R395 to R397) -/

/-- The lifecycle is PRODUCTION. -/
def inProduction (s : State) : Bool := reg s .secLifecycleState == 1

/-- ENCAP_ID names the present encapsulation key. -/
def encapPresent (s : State) (id : List Byte) : Bool := s.power.kelgor.any fun k => id == slice (Config.encapId k.svn) 0 16

/-- What an envelope and its sealed payload hold. -/
def keyData (env payload : List Byte) : KeyData := { tenant := field env 8 8, key := slice payload 0 64, policy := field payload 64 4 }

/-- Check 0x08: the slot takes the install. -/
def slotTakes (s : State) (k : Nat) (d : KeyData) : Bool :=
  match slotRec s k with
  | none => true
  | some x => (x.state == 3 && x.held.isNone) || (x.state == 1 && x.data.tenant == d.tenant && x.data.key == d.key)

/-- Check 0x09: no other slot that is not EMPTY holds the tenant. -/
def tenantFree (s : State) (k tenant : Nat) : Bool :=
  s.sec.slots.all fun x => x.slot == k || (x.data.tenant != tenant && x.held.all fun h => h.tenant != tenant)

/-- The checks of R396 on an envelope that was fetched, or not, and unsealed, or not. -/
def installError (s : State) (env payload : Option (List Byte)) : Nat :=
  match env with
  | none => 0x01
  | some e =>
    let k := field e 6 2
    let p := payload.getD []
    firstError [(e.length == 1264, 0x01), (field e 0 4 == 0x454B4250, 0x02),
      (field e 4 2 == 1 && decide (k < 4096) && field e 8 8 != 0, 0x03), (inProduction s, 0x04), (encapPresent s (slice e 48 16), 0x05),
      (field e 16 32 == reg s .secNonceNonce, 0x06), (payload.isSome, 0x07),
      (decide (field p 64 4 < 2) && slice p 68 28 == zeros 28, 0x03), (slotTakes s k (keyData e p), 0x08),
      (tenantFree s k (field e 8 8), 0x09)]

/-- A key becomes ACTIVE in an EMPTY slot: its policy, shapers and meter take their defaults (R397). -/
def activateSlot (s : State) (k : Nat) (d : KeyData) : State :=
  let s := regSet s .stoQpolKeyThr k (reg s .stoQdefKeyThr)
  let s := regSet s .stoQpolValThr k (reg s .stoQdefValThr)
  let s := regSet s .stoQpolOutlierMax k (reg s .stoQdefOutlierMax)
  let s := regSet s .stoQpolOutlierRatio k (reg s .stoQdefOutlierRatio)
  let rate := reg s .admShpDefRate
  let burst := reg s .admShpDefBurst
  let s := [0, 1].foldl (fun s d => regSet (regSet s .admShpRateRate (shaperNo d k) rate) .admShpBurstBurst (shaperNo d k) burst) s
  let new := [0, 1].map fun d => ({ no := shaperNo d k, rate := rate, burst := burst, level := 1024 * burst } : Shaper)
  let s := regSet (regSet s .admMtrCirCir k (reg s .admMtrDefCir)) .admMtrPirPir k (reg s .admMtrDefPir)
  let s := regSet (regSet s .admMtrCbsCbs k (reg s .admMtrDefCbs)) .admMtrPbsPbs k (reg s .admMtrDefPbs)
  let s := regSet s .admMtrCtrlEnable k (reg s .admMtrDefEnable)
  let m : Meter := { slot := k, enable := reg s .admMtrDefEnable == 1, cir := reg s .admMtrDefCir, pir := reg s .admMtrDefPir
                     cbs := reg s .admMtrDefCbs, pbs := reg s .admMtrDefPbs, c := reg s .admMtrDefCbs * 1000000000
                     p := reg s .admMtrDefPbs * 1000000000, last := s.time }
  { s with
    adm := { s.adm with
      shapers := new ++ s.adm.shapers.filter fun x => x.no % 4096 != k
      meters := m :: s.adm.meters.filter fun x => x.slot != k }
    sec := { s.sec with slots := insertKey (·.slot) { slot := k, state := 1, data := d, held := none } (s.sec.slots.filter fun x => x.slot != k) } }

/-- Change the record of a slot. -/
def updSlot (s : State) (k : Nat) (f : KeySlot → KeySlot) : State :=
  { s with sec := { s.sec with slots := updIf (fun x => x.slot == k) f s.sec.slots } }

/-- The effect of an install that passes its checks (R397). -/
def applyInstall (s : State) (k : Nat) (d : KeyData) : State :=
  match slotState s k with
  | 0 => activateSlot s k d
  | 1 => updSlot s k fun x => { x with data := { x.data with policy := d.policy } }
  | _ => updSlot s k fun x => { x with held := some d }

/-- An install attempt: its error, its effect, and a fresh nonce (R396). Log 11 (DESIGN CHOICE). -/
def tryInstall (s : State) (env payload : Option (List Byte)) : State :=
  let e := installError s env payload
  let s := if e = 0 then applyInstall s (field (env.getD []) 6 2) (keyData (env.getD []) (payload.getD [])) else s
  debugCheck (freshNonce (secError s e))

/-- INSTALL (R396): a write of `SEC_SLOT_CTRL.INSTALL`. -/
def execInstall (path : Path) (env : Fetch) (payload : Option (List Byte)) (s : State) : Host.Outcome State Fault Refusal :=
  act s <| whenRunning <| whenUnsealed fun s =>
    let s := match entryOf s path .secSlotCtrlInstall 0 with
      | some k => regSet s .secSlotCtrlInstall k 1
      | none => s
    let len := reg s .secEnvLenLen
    sourced s (reg s .secEnvAddrAddr) len env fun s b => tryInstall s (if len = 1264 then b else none) payload

/-! ### Removal (R408, R409) -/

/-- A tile lies under a key slot. Log 111 (DEDUCED). -/
def underSlot (s : State) (k h n : Nat) : Bool := (tileOf s h n).any fun t => t.keySlot == k

/-- Works of a slot end KEY_REVOKED; a descriptor at its final step finishes it (R413). -/
def abortSlot (s : State) (k : Nat) : State :=
  (s.work.filter fun w => w.hdr.keySlot == k && !(inFlight w && w.final)).foldl
    (fun s w => fail (dropSteps s w.id) w.id stKeyRevoked) s

/-- Steps 1 to 4 of a removal: the slot drains, its work aborts, transfers of its tiles stop, its key is overwritten, and it is ZEROED.
Log 108 (DEDUCED). -/
def revokeKey (s : State) (k : Nat) : State :=
  if slotState s k ≠ 1 then s
  else
    let s := updSlot s k fun x => { x with state := 2 }
    let s := abortSlot s k
    let s := { s with
      dur := { s.dur with writing := s.dur.writing.filter fun e => !underSlot s k e.1 e.2.1 }
      moving := { s.moving with
        items := s.moving.items.filter fun e => !underSlot s k e.2.1 e.2.2
        promoting := s.moving.promoting.filter fun e => !underSlot s k e.1 e.2 }
      obs := { s.obs with arms := s.obs.arms.filter fun a => a.slot != k } }
    let s := ((s.subjects.filter fun x => x.keySlot == k).map (·.handle)).foldl leavePlanner (retryAccesses s)
    let s := updSlot s k fun x => { x with state := 3, data := { x.data with key := zeros 64 } }
    event s 0x0602 0 k 0 0 []

/-- REVOKE (R408): a write of `SEC_SLOT_CTRL.REVOKE` for the selected slot. -/
def execRevoke (path : Path) (s : State) : Host.Outcome State Fault Refusal :=
  act s <| whenRunning <| whenUnsealed fun s =>
    match entryOf s path .secSlotCtrlRevoke 0 with
    | none => s
    | some k => revokeKey (regSet s .secSlotCtrlRevoke k 1) k

/-- Free the sessions and regions of a slot (R408 step 5). -/
def freeSlot (s : State) (k : Nat) : State :=
  let s := (s.subjects.filter fun x => x.keySlot == k).foldl (fun s x => forget (unattach s x) x.handle) s
  { s with own := { s.own with
      lodged := s.own.lodged.filter fun t => t.keySlot != k, claims := s.own.claims.filter fun c => c.keySlot != k } }

/-- SLOT_EMPTIED (R408 step 5): a ZEROED slot is EMPTY, and a held install takes effect. -/
def execSlotEmptied (slot : Nat) (s : State) : Host.Outcome State Fault Refusal :=
  act s <| whenRunning fun s =>
    match slotRec s slot with
    | none => s
    | some x =>
      if x.state ≠ 3 then s
      else
        let s := freeSlot s slot
        let s := { s with sec := { s.sec with slots := s.sec.slots.filter fun y => y.slot != slot } }
        match x.held with
        | none => s
        | some d => debugCheck (activateSlot s slot d)

/-! ### Device sets (R401, R402) -/

/-- The checks of a set envelope (R401). -/
def joinError (s : State) (env payload : Option (List Byte)) : Nat :=
  match env with
  | none => 0x01
  | some e =>
    let p := payload.getD []
    firstError [(e.length == 1264, 0x01), (field e 0 4 == 0x45534250, 0x02), (field e 4 2 == 1 && field e 6 2 == 0 && field e 8 8 != 0, 0x03),
      (inProduction s, 0x04), (encapPresent s (slice e 48 16), 0x05), (field e 16 32 == reg s .secNonceNonce, 0x06), (payload.isSome, 0x07),
      (slice p 32 64 == zeros 64, 0x03), (decide (s.nv.sets.length < 16), 0x08), ((aget s.nv.sets (field e 8 8)).isNone, 0x09)]

/-- A join attempt. -/
def tryJoin (s : State) (env payload : Option (List Byte)) : State :=
  let e := joinError s env payload
  let s := if e = 0 then { s with nv := { s.nv with sets := aset s.nv.sets (field (env.getD []) 8 8) (slice (payload.getD []) 0 32) } } else s
  freshNonce (secError s e)

/-- JOIN (R401): a write of `SEC_SET_CTRL.JOIN`. -/
def execJoin (_path : Path) (env : Fetch) (payload : Option (List Byte)) (s : State) : Host.Outcome State Fault Refusal :=
  act s <| whenRunning <| whenUnsealed fun s =>
    let s := setReg s .secSetCtrlJoin 1
    let len := reg s .secSetLenLen
    sourced s (reg s .secSetAddrAddr) len env fun s b => tryJoin s (if len = 1264 then b else none) payload

/-- Leave a set: its key is gone, and its models are unloaded (R402). -/
def leaveOne (s : State) (id : Nat) : State :=
  if (aget s.nv.sets id).isNone then s
  else
    let s := { s with nv := { s.nv with sets := adel s.nv.sets id } }
    (s.models.filter fun m => m.setId == id && m.state == 2).foldl
      (fun s m => event (startUnload s m.slot) 0x0206 0 0xFFFF 0 0 [m.slot, m.modelId]) s

/-- LEAVE (R402): a non-zero SET_ID written to `SEC_SET_CTRL.LEAVE`. -/
def execLeave (_path : Path) (setId : Nat) (s : State) : Host.Outcome State Fault Refusal :=
  act s <| whenRunning <| whenUnsealed fun s =>
    let s := setReg s .secSetCtrlLeave (setId % 2 ^ 64)
    if setId % 2 ^ 64 = 0 then s else leaveOne s (setId % 2 ^ 64)

/-! ### Lifecycle, owner claim, debug tokens (R389, R393, R505) -/

/-- Every trace of tenant state, and the flash system area, are erased (R389). -/
def cryptoErase (s : State) : State :=
  let s := (s.subjects.map (·.handle)).foldl forget s
  let d := (State.resetOf s.model).dur
  let n := Nv.reset
  { s with
    tiles := [], windows := [], dur := { d with streamSeq := s.dur.streamSeq }
    own := { s.own with claims := [], traces := [], queries := [], requests := [], lodged := [], expired := [] }
    nv := { s.nv with
      signers := [], sets := [], serial := n.serial, leaseEnd := n.leaseEnd, sealed := none, ageing := none, badPans := [], noStep := false
      probed := n.probed, retention := n.retention, lifeStretch := n.lifeStretch, lifeHeld := n.lifeHeld
      starts := n.starts, losses := n.losses, powerHours := n.powerHours } }

/-- RETURN (R389): a return token that verifies enters RETURN; every slot is revoked. -/
def execRetire (_path : Path) (token : Fetch) (sigOk : Bool) (s : State) : Host.Outcome State Fault Refusal :=
  act s <| whenRunning <| whenUnsealed fun s =>
    let s := setReg s .secLcCtrlReturn 1
    sourced s (reg s .secTokenAddrAddr) (reg s .secTokenLenLen) token fun s b =>
      if b.isNone then secError s 0x01
      else if sigOk ∧ reg s .secLifecycleState ≠ 2 then
        let s := (s.sec.slots.map (·.slot)).foldl revokeKey s
        debugCheck (secError (cryptoErase (setReg s .secLifecycleState 2)) 0)
      else secError s 0x10

/-- OWNER_CLAIM (R393): while the signer list is empty, in PRODUCTION, a claim installs one public key. Log 109 (DEDUCED). -/
def execOwnerClaim (_path : Path) (key : Fetch) (s : State) : Host.Outcome State Fault Refusal :=
  act s <| whenRunning <| whenUnsealed fun s =>
    let s := setReg s .secClaimClaim 1
    sourced s (reg s .secTokenAddrAddr) (reg s .secTokenLenLen) key fun s b =>
      match b with
      | none => secError s 0x01
      | some b =>
        if s.nv.signers.isEmpty ∧ inProduction s ∧ b.length = 1952 then secError { s with nv := { s.nv with signers := [(0, b)] } } 0
        else secError s 0x10

/-- A debug token passes (R505). -/
def tokenPasses (s : State) (b : List Byte) : Bool :=
  b.length == 3373 && field b 0 4 == 0x54444250 && field b 4 2 == 1 && (aget s.nv.signers (field b 6 1)).isSome && field b 7 1 == 0 &&
    slice b 8 16 == slice Config.deviceId 0 16 && field b 24 32 == reg s .secDebugNonceNonce && decide (field b 56 4 < 8) && field b 60 4 == 0

/-- DEBUG_PRESENT (R505): a token that passes holds until the next start or `SEC_DEBUG.CLOSE`; the nonce is fresh after every
presentation. -/
def execDebugPresent (_path : Path) (token : Fetch) (sigOk : Bool) (s : State) : Host.Outcome State Fault Refusal :=
  act s <| whenRunning <| whenUnsealed fun s =>
    let s := setReg s .secDebugPresent 1
    sourced s (reg s .secTokenAddrAddr) (reg s .secTokenLenLen) token fun s b =>
      freshDebugNonce <|
        match b with
        | none => secError s 0x01
        | some b =>
          if inProduction s && sigOk && tokenPasses s b then secError { s with sec := { s.sec with token := some (field b 56 4) } } 0
          else secError s 0x10

/-- DEBUG_CLOSE (R505): the token ends; the field is never locked. -/
def execDebugClose (_path : Path) (s : State) : Host.Outcome State Fault Refusal :=
  act s <| whenRunning fun s => debugCheck { s with sec := { s.sec with token := none } }

/-! ### Measurements (R405) and slot evidence (R398, R406) -/

/-- The trust lists (R393), as measurement 0x0C covers them. -/
def trustLists (s : State) : List Byte := (s.nv.signers ++ s.nv.bsSigners ++ s.nv.operators).flatMap (·.2)

/-- The key check of a slot (R398). -/
def keyCheck (d : KeyData) : List Byte := shake 16 (ascii "PB-KCV" ++ leBytes 8 d.tenant ++ d.key)

/-- The entry of a partition in the layout of R520. -/
def partEntry (s : State) (p : Nat) : List Byte :=
  leBytes 4 (regGet s .ctxPartCtrlValid p) ++ leBytes 4 (regGet s .ctxPartWaysMask p) ++ leBytes 4 (regGet s .ctxPartBanksMask p) ++
    leBytes 8 (regGet s .ctxPartChanMask p) ++ zeros 12

/-- The active NV image, if a slot is in use. -/
def activeImage (s : State) : Option (List Byte) :=
  match s.nv.active with
  | 1 => s.nv.imgA
  | 2 => s.nv.imgB
  | _ => none

/-- What a measurement covers, by its index. Log 113 (DESIGN CHOICE). -/
def measured (s : State) (i : Nat) : List Byte :=
  match i with
  | 0x01 => Config.bootRom
  | 0x02 => (s.power.kelgor.map fun k => k.image ++ leBytes 4 k.svn).getD []
  | 0x03 => ((activeImage s).map fun b => slice b 128 (field b 28 4)).getD [] ++ [byte s.nv.active]
  | 0x06 => [byte (reg s .sysIdModel), byte (reg s .secLifecycleState), byte (reg s .sysLockSeal), byte (b2n s.power.compat)] ++
      leBytes 4 (reg s .panBsSvnMinValue) ++ [byte (b2n (debugReach s))]
  | 0x07 => (List.range 16).flatMap (partEntry s)
  | 0x08 => s.sec.slots.flatMap fun k => leBytes 2 k.slot ++ [byte k.state, byte (slotPart s k.slot)] ++ leBytes 4 k.data.policy ++
      leBytes 8 k.data.tenant ++ keyCheck k.data
  | 0x09 => (sortKey (fun x : Nat => x) (s.nv.sets.map (·.1))).flatMap (leBytes 8)
  | 0x0A => (sortKey (·.slot) (s.models.filter fun m => m.state == 2)).flatMap fun m =>
      leBytes 8 m.modelId ++ leBytes 8 m.setId ++ leBytes 2 m.keySlot ++ m.tableDigest
  | 0x0B => (sortKey (·.id) s.vocs).flatMap fun v => leBytes 4 v.id ++ v.digest
  | 0x0C => s.sec.trust
  | _ => []

/-- The value of a measurement, 64 bytes. -/
def measure (s : State) (i : Nat) : List Byte :=
  match i with
  | 0x04 => configMeasure s.units.active
  | 0x05 => s.sec.history
  | _ => shake 64 (measured s i)

/-- The values of several measurements. -/
def measures (s : State) (l : List Nat) : List Byte := l.flatMap (measure s)

/-- The indices of all measurements. -/
def allMeasures : List Nat := (List.range 12).map (· + 1)

/-- What the alias key of this start is derived from, beside the unique secret (R390). -/
def aliasSeed (s : State) : List Byte := measures s [0x01, 0x02, 0x03]

/-- The certificate chain of slot 0 (R404). -/
def certChain (s : State) : List Byte := Config.certificates (aliasSeed s)

/-- The alias key's signature over bytes (R392). -/
def aliasSign (s : State) (b : List Byte) : List Byte := Config.signature (aliasSeed s) b

/-- Slot evidence without its signature (R406). -/
def evidenceBody (s : State) (k : Nat) (nonce : List Byte) : List Byte :=
  leBytes 4 0x56454250 ++ leBytes 2 1 ++ leBytes 2 k ++ [byte (slotState s k), byte (slotPart s k), 0, 0] ++ leBytes 4 (slotPolicy s k) ++
    leBytes 8 (((slotRec s k).map (·.data.tenant)).getD 0) ++ ((slotRec s k).map fun x => keyCheck x.data).getD (zeros 16) ++
    slice nonce 0 32 ++ leBytes 8 s.time ++ shake 64 (measures s allMeasures)

/-! ### SPDM (R404, R407) -/

/-- SPDM error codes. Log 107 (PRESUMED). -/
abbrev spdmInvalid : Nat := 0x01
abbrev spdmBusy : Nat := 0x03
abbrev spdmUnexpected : Nat := 0x04
abbrev spdmDecrypt : Nat := 0x06
abbrev spdmLimit : Nat := 0x0A
abbrev spdmVersion : Nat := 0x41

/-- The responder answers: the device is ready, in whatever state (R512, R542). Log 112 (DEDUCED). -/
def spdmServes (s : State) : Bool := running s || s.power.state == .quiesced || inFailed s

/-- The state of a transport. -/
def spdmChan (s : State) (ch : Path) : Option SpdmChan := s.sec.spdm.find? fun c => c.ch == ch

/-- Put the state of a transport. -/
def putChan (s : State) (c : SpdmChan) : State :=
  { s with sec := { s.sec with spdm := c :: s.sec.spdm.filter fun x => x.ch != c.ch } }

/-- Run a request: Busy before ready (R512); nothing answers without power. -/
def spdmRequest (f : State → State) (s : State) : State :=
  if spdmServes s then f s else if powered s then emit s (.refuse spdmBusy) else s

/-- Run a request that needs the algorithms negotiated. -/
def spdmAfter (ch : Path) (f : SpdmChan → State → State) (s : State) : State :=
  spdmRequest (fun s =>
    match spdmChan s ch with
    | none => emit s (.refuse spdmUnexpected)
    | some c => if c.algs then f c s else emit s (.refuse spdmUnexpected)) s

/-- GET_VERSION (R404): versions 1.2 to 1.4; what was negotiated before is gone. It is answered before ready as well (R512). -/
def execGetVersion (ch : Path) (s : State) : Host.Outcome State Fault Refusal :=
  act s fun s =>
    if powered s then
      emit (putChan s { ch := ch, version := 0, caps := false, algs := false, sessions := [] }) (.response [0x12, 0x13, 0x14])
    else s

/-- GET_CAPABILITIES (R404): CERT, CHAL, MEAS with signature, KEY_EX, ENCRYPT and MAC. -/
def execGetCapabilities (ch : Path) (version : Nat) (s : State) : Host.Outcome State Fault Refusal :=
  act s <| spdmRequest fun s =>
    match spdmChan s ch with
    | none => emit s (.refuse spdmUnexpected)
    | some c =>
      if version ∈ [0x12, 0x13, 0x14] then
        emit (putChan s { c with version := version, caps := true }) (.response (leBytes 4 0x2D6))
      else emit s (.refuse spdmVersion)

/-- NEGOTIATE_ALGORITHMS (R404): the one choice of each. -/
def execNegotiateAlgorithms (ch : Path) (mldsa mlkem aesgcm : Bool) (s : State) : Host.Outcome State Fault Refusal :=
  act s <| spdmRequest fun s =>
    match spdmChan s ch with
    | none => emit s (.refuse spdmUnexpected)
    | some c =>
      if !c.caps then emit s (.refuse spdmUnexpected)
      else if mldsa && mlkem && aesgcm then emit (putChan s { c with algs := true }) (.response [1, 1, 1])
      else emit s (.refuse spdmInvalid)

/-- GET_DIGESTS (R404). -/
def execGetDigests (ch : Path) (s : State) : Host.Outcome State Fault Refusal :=
  act s <| spdmAfter ch fun _ s => emit s (.response (Config.sha3 (certChain s)))

/-- GET_CERTIFICATE (R404): a portion of the chain of slot 0. -/
def execGetCertificate (ch : Path) (slot off len : Nat) (s : State) : Host.Outcome State Fault Refusal :=
  act s <| spdmAfter ch fun _ s =>
    if slot = 0 then emit s (.response (((certChain s).drop off).take len)) else emit s (.refuse spdmInvalid)

/-- An answer with the device's nonce, signed by the alias key. -/
def signedAnswer (s : State) (nonce body : List Byte) : State :=
  let b := body ++ slice (Config.bytes s.free) 0 32
  emit (takeFree s) (.response (b ++ aliasSign s (slice nonce 0 32 ++ b)))

/-- CHALLENGE (R404): the digest of the chain and the hash of all measurements, signed. -/
def execChallenge (ch : Path) (slot : Nat) (nonce : List Byte) (s : State) : Host.Outcome State Fault Refusal :=
  act s <| spdmAfter ch fun _ s =>
    if slot = 0 then signedAnswer s nonce (Config.sha3 (certChain s) ++ Config.sha3 (measures s allMeasures))
    else emit s (.refuse spdmInvalid)

/-- GET_MEASUREMENTS (R405): index 0 asks for their number, 0xFF for all. -/
def execGetMeasurements (ch : Path) (index : Nat) (signed : Bool) (nonce : List Byte) (s : State) :
    Host.Outcome State Fault Refusal :=
  act s <| spdmAfter ch fun _ s =>
    let body := if index = 0 then some [12] else if index = 0xFF then some (measures s allMeasures)
      else if index ≤ 12 then some (measure s index) else none
    match body with
    | none => emit s (.refuse spdmInvalid)
    | some b => if signed then signedAnswer s nonce b else emit s (.response b)

/-- KEY_EXCHANGE (R404): a session's handshake opens; a transport carries up to four. -/
def execKeyExchange (ch : Path) (session : Nat) (s : State) : Host.Outcome State Fault Refusal :=
  act s <| spdmAfter ch fun c s =>
    if c.sessions.any fun x => x.id == session then emit s (.refuse spdmInvalid)
    else if 4 ≤ c.sessions.length then emit s (.refuse spdmLimit)
    else signedAnswer (putChan s { c with sessions := c.sessions ++ [{ id := session, secured := false, operator := none }] }) [] []

/-- FINISH (R404): the handshake completes, with the operator entry that the requester proved. -/
def execFinish (ch : Path) (session : Nat) (good : Bool) (operator : Option Nat) (s : State) : Host.Outcome State Fault Refusal :=
  act s <| spdmAfter ch fun c s =>
    if !(c.sessions.any fun x => x.id == session && !x.secured) then emit s (.refuse spdmUnexpected)
    else if good then
      let op := operator.filter fun n => (aget s.nv.operators n).isSome
      emit (putChan s { c with sessions := updIf (fun x => x.id == session) (fun x => { x with secured := true, operator := op }) c.sessions })
        (.response [])
    else emit (putChan s { c with sessions := c.sessions.filter fun x => x.id != session }) (.refuse spdmDecrypt)

/-- END_SESSION (R404). -/
def execEndSession (ch : Path) (session : Nat) (s : State) : Host.Outcome State Fault Refusal :=
  act s <| spdmAfter ch fun c s =>
    if c.sessions.any fun x => x.id == session && x.secured then
      emit (putChan s { c with sessions := c.sessions.filter fun x => x.id != session }) (.response [])
    else emit s (.refuse spdmUnexpected)

/-- GET_SLOT_EVIDENCE (R406, R407): answered to any requester. -/
def execGetSlotEvidence (ch : Path) (slot : Nat) (nonce : List Byte) (s : State) : Host.Outcome State Fault Refusal :=
  act s <| spdmAfter ch fun _ s =>
    if slot < 4096 then
      let b := evidenceBody s slot nonce
      emit s (.response (b ++ aliasSign s b))
    else emit s (.refuse spdmInvalid)

/-- A management request is accepted only in a secured session of an operator requester (R407). -/
def asOperator (ch : Path) (session : Nat) (f : State → State) (s : State) : State :=
  spdmAfter ch (fun c s =>
    if c.sessions.any fun x => x.id == session && x.secured && x.operator.isSome then
      (if running s then f s else emit s (.refuse spdmBusy))
    else event (emit s (.refuse spdmUnexpected)) 0x0604 0 0xFFFF 0 0 []) s

/-- The answer to a management request carries `SEC_STATUS.ERROR`. -/
def answerError (s : State) : State := emit s (.response [byte (reg s .secStatusError)])

/-- INSTALL_KEY (R407). -/
def execInstallKey (ch : Path) (session : Nat) (env : List Byte) (payload : Option (List Byte)) (s : State) :
    Host.Outcome State Fault Refusal :=
  act s <| asOperator ch session fun s => answerError (tryInstall s (some env) payload)

/-- REVOKE_SLOT (R407). -/
def execRevokeSlot (ch : Path) (session slot : Nat) (s : State) : Host.Outcome State Fault Refusal :=
  act s <| asOperator ch session fun s => answerError (revokeKey s slot)

/-- JOIN_SET (R401). -/
def execJoinSet (ch : Path) (session : Nat) (env : List Byte) (payload : Option (List Byte)) (s : State) :
    Host.Outcome State Fault Refusal :=
  act s <| asOperator ch session fun s => answerError (tryJoin s (some env) payload)

/-- LEAVE_SET (R402). -/
def execLeaveSet (ch : Path) (session setId : Nat) (s : State) : Host.Outcome State Fault Refusal :=
  act s <| asOperator ch session fun s => answerError (leaveOne s setId)

/-! ### The TAP (R504, R540) -/

/-- The TAP answers: out of reset, with the module's I/O rail up, and not before link training in a start (R540, R542). -/
def tapServes (s : State) : Bool :=
  !s.power.tapReset && ((powered s && !(s.power.state == .starting && decide (reg s .sysBootStage < 3))) || s.power.state == .thermalOff)

/-- Set the TAP's instruction: 0 in reset, 1 BYPASS, 2 SAMPLE/PRELOAD, 3 EXTEST, 4 IDCODE. Log 110 (DESIGN CHOICE). -/
def tapSet (s : State) (n : Nat) : State := { s with power := { s.power with tap := n } }

/-- TAP_RESET (R540): the TAP stays in reset unless the host drives JTAG_TRST_N high. -/
def execTapReset (driven : Bool) (s : State) : Host.Outcome State Fault Refusal :=
  act s fun s => { s with power := { s.power with tapReset := !driven, tap := 0 } }

/-- BYPASS (R504): one register bit, captured 0, between TDI and TDO. -/
def execBypass (bitIn : Bool) (s : State) : Host.Outcome State Fault Refusal :=
  act s fun s => if tapServes s then emit (tapSet s 1) (.tdo [false, bitIn]) else s

/-- Bits sampled from the pins: the layout of the boundary register is open. -/
def sampled (s : State) (n : Nat) : List Bool := (List.range n).map fun i => bit (Config.number s.free) i

/-- SAMPLE/PRELOAD (R504): the pins are sampled, and the cells are loaded. -/
def execSamplePreload (cells : List Bool) (s : State) : Host.Outcome State Fault Refusal :=
  act s fun s =>
    if tapServes s then
      emit (takeFree (tapSet { s with power := { s.power with scan := cells } } 2)) (.tdo (sampled s cells.length))
    else s

/-- EXTEST (R504): only while both PERST signals are asserted; at any other time it acts as BYPASS. -/
def execExtest (cells : List Bool) (s : State) : Host.Outcome State Fault Refusal :=
  act s fun s =>
    if !tapServes s then s
    else if s.power.perstA && s.power.perstB then
      emit (takeFree (tapSet { s with power := { s.power with scan := cells } } 3)) (.tdo (sampled s cells.length))
    else emit (tapSet s 1) (.tdo (false :: cells.dropLast))

/-- IDCODE (R504): 32 bits, the lowest first. -/
def execIdcode (s : State) : Host.Outcome State Fault Refusal :=
  act s fun s => if tapServes s then emit (tapSet s 4) (.tdo ((List.range 32).map (bit Config.idcode))) else s

/-- What JTAG reaches beyond the mandatory instructions: 0 cores, 1 pans, 2 memory reads, 3 memory writes (R504). -/
def jtagReach (s : State) (k : Nat) : Bool :=
  match reg s .secLifecycleState with
  | 0 => debugReach s
  | 1 => debugReach s && decide (k < 3) && bit (s.sec.token.getD 0) k
  | _ => k == 2

/-- SRAM and memory reads of RETURN: every memory (R504). -/
def sramReach (s : State) : Bool := jtagReach s 1 || reg s .secLifecycleState == 2

/-- Set whether a pan or a core is halted. -/
def haltIn {α : Type} [DecidableEq α] (l : List α) (x : α) (halt : Bool) : List α :=
  let rest := l.filter fun y => y ≠ x
  if halt then x :: rest else rest

/-- A byte of a copy of a tile as it lies in a tier: plaintext in T1, encrypted in T2 and flash. -/
def copyByte (s : State) (tier h n off : Nat) : Nat :=
  match tileOf s h n with
  | none => 0
  | some t => if hasCopy t tier then ((if tier = 1 then imageOf s t else storedOf s t).getD off 0).toNat else 0

/-- JTAG_DEBUG_ACCESS (R504): beyond its reach an access does nothing, and a read returns 0 (R505). The memory of a management core holds
no state of the spec: what a read of it returns is open. Log 92 (DESIGN CHOICE). -/
def jtagAccess (req : JtagReq) (s : State) : State :=
  let bedOk := fun bed pos => decide (bed < bedCount s.model) && decide (pos < 16)
  let cores := fun c halt => { s with sec := { s.sec with haltedCores := haltIn s.sec.haltedCores c halt } }
  let pans := fun bed pos halt => { s with sec := { s.sec with haltedPans := haltIn s.sec.haltedPans (bed, pos) halt } }
  match req with
  | .haltCore c => if jtagReach s 0 && decide (c < 4) then cores c true else s
  | .resumeCore c => if jtagReach s 0 && decide (c < 4) then cores c false else s
  | .stepCore _ => s
  | .coreMemRead _ => if jtagReach s 0 || reg s .secLifecycleState == 2 then emit (takeFree s) (.value (Config.number s.free % 256)) else emit s (.value 0)
  | .coreMemWrite _ _ => s
  | .haltPan bed pos => if jtagReach s 1 && bedOk bed pos then pans bed pos true else s
  | .resumePan bed pos => if jtagReach s 1 && bedOk bed pos then pans bed pos false else s
  | .stepPan _ _ => s
  | .sramRead bed pos addr =>
    if sramReach s && bedOk bed pos && decide (addr < sramBytes) then
      match sramByte s bed pos addr with
      | some v => emit s (.value v)
      | none => emit (takeFree s) (.value (Config.number s.free % 256))
    else emit s (.value 0)
  | .sramWrite bed pos addr v =>
    if jtagReach s 1 && bedOk bed pos && decide (addr < sramBytes) then { s with units := { s.units with sram := aset s.units.sram (bed, pos, addr) (v % 256) } } else s
  | .memRead tier h n off => if jtagReach s 2 then emit s (.value (copyByte s tier h n off)) else emit s (.value 0)
  | .memWrite tier h n off v =>
    match tileOf s h n with
    | none => s
    | some t =>
      if jtagReach s 3 && hasCopy t tier && copyByte s tier h n off != v % 256 then
        updTile s h n fun t => { t with copies := t.copies.filter fun c => c.tier != tier }
      else s

/-- JTAG_DEBUG_ACCESS (R504). -/
def execJtagDebugAccess (req : JtagReq) (s : State) : Host.Outcome State Fault Refusal :=
  act s fun s => if tapServes s && s.power.state != .thermalOff then jtagAccess req s else s

/-! ### Addresses of the management bus (R541) -/

/-- The module answers on the bus: from step 3 of a start on, not from the bank (R541, R542). -/
def busServes (s : State) : Bool := (powered s && decide (3 ≤ reg s .sysBootStage)) || s.power.state == .thermalOff || reg s .sysBootError == 1

/-- The first transaction of a start fixes the mode of the bus. -/
def busMode (s : State) (m : BusMode) : State := if s.power.bus = .undecided then { s with power := { s.power with bus := m } } else s

/-- ENTDAA (R541): a dynamic address is assigned. -/
def execEntdaa (addr : Nat) (s : State) : Host.Outcome State Fault Refusal :=
  act s fun s =>
    let s1 := busMode s .i3c
    if busServes s && s1.power.bus == .i3c && s1.power.dynAddr.isNone then { s1 with power := { s1.power with dynAddr := some (addr % 128) } } else s

/-- SETDASA (R541): a dynamic address by the static address 0x50 + MB_ADDR. -/
def execSetdasa (static addr : Nat) (s : State) : Host.Outcome State Fault Refusal :=
  act s fun s =>
    let s1 := busMode s .i3c
    if busServes s && s1.power.bus == .i3c && static == 0x50 + s.power.mbAddr then
      { s1 with power := { s1.power with dynAddr := some (addr % 128) } }
    else s

end Sys2Proof.Machine
end

