-- ==== Sys2Proof/Machine/Cxl.lean ====
section
/-! DEFINITION. The CXL commands (ch. 11, R363, R464, R475): the mailbox with its event logs, dynamic capacity through the mailbox and the
FM API, TSP, IDE key management, CDAT and the HDM decoder. -/

namespace Sys2Proof.Machine

open Sys2Proof

/-! ### The mailbox (R299, R512) -/

/-- Return codes of the mailbox. -/
abbrev mbInvalid : Nat := 0x02
abbrev mbBusy : Nat := 0x06
abbrev mbHandle : Nat := 0x0E
abbrev mbResources : Nat := 0x1D
abbrev mbExtents : Nat := 0x1E

/-- Run a mailbox or FM API command: Busy before ready (R512); in FAILED the ports are off and the bus serves on (R542).
Log 118 (PRESUMED). -/
def mailbox (ch : Path) (f : State → State) (s : State) : State :=
  if running s || s.power.state == .quiesced || (inFailed s && ch == .mb) then f s
  else if s.power.state = .starting then emit s (.refuse mbBusy) else s

/-- The path of a port. -/
def portPath (p : PortId) : Path :=
  match p with
  | .a => .a
  | .b => .b

/-- IDENTIFY (R299). -/
def execIdentify (p : PortId) (s : State) : Host.Outcome State Fault Refusal :=
  act s <| mailbox (portPath p) fun s =>
    emit s (.response (slice Config.revision 0 16 ++ zeros 32 ++ (List.replicate 4 (leBytes 2 (logCapacity % 65536))).flatten))

/-! ### Event logs (R463, R464) -/

/-- The identifier of a record: Biholt's, or that of the record that CXL defines. -/
def recordId (reason : Nat) : List Byte :=
  let be := fun n : Nat => (leBytes 16 n).reverse
  match reason with
  | 0x10001 => be 0xfbcd0a77c260417f85a9088b1621eba6
  | 0x10002 => be 0x601dcbb39c064eabb8af4e9bfb5c9624
  | 0x10003 => be 0xfe927475dd594339a58679bab113b774
  | 0x10004 => be 0xca95afa7f18340188c2f95268e101a2a
  | _ => be 0xa9b3c1d20e444f6b8c215d7e90a1b2c3

/-- The data of a Biholt record (R463); ARG as the reason's words of 8 bytes, which BUDDY_DOWN carries in DETAIL (R439). -/
def biholtData (e : Event) : List Byte :=
  let words := slice (packNats 8 e.arg) 0 24
  leBytes 2 e.reason ++ [byte e.cls, byte e.severity] ++ leBytes 2 e.count ++ leBytes 2 e.keySlot ++ leBytes 8 e.handle ++
    leBytes 8 e.location ++ (if e.reason = 0x0703 then zeros 24 ++ words else words ++ zeros 24) ++ leBytes 8 e.seq

/-- An event record of 128 bytes under a record handle (R463): its time is offset by Set Timestamp. -/
def eventRecord (s : State) (handle : Nat) (e : Event) : List Byte :=
  recordId e.reason ++ [byte 128] ++ leBytes 3 e.severity ++ leBytes 2 handle ++ zeros 2 ++
    leBytes 8 ((e.time + reg s .clkTimeOffsetOffset) % 2 ^ 64) ++ zeros 16 ++
    (if e.reason < 0x10000 then biholtData e else slice (Config.cxlRecord e.reason e.location e.arg) 0 80)

/-- The handle of the record at a place of a log: records are counted from the start. -/
def recordHandle (s : State) (log i : Nat) : Nat := (s.flt.cleared.getD log 0 + i) % 65535 + 1

/-- ALERT_N is asserted while a Failure or Fatal record is unread (R464, R540), and in FAILED (R542). -/
def alertCheck (s : State) : State :=
  let unread := [2, 3].any fun k => decide (s.flt.read.getD k 0 < (logOf s.flt k).length)
  if unread || s.power.state == .failed then s else { s with power := { s.power with alert := .released } }

/-- GET_EVENT_RECORDS (R464): the records of a log, with what overflowed. -/
def execGetEventRecords (ch : Path) (log : Nat) (s : State) : Host.Outcome State Fault Refusal :=
  act s <| mailbox ch fun s =>
    if 4 ≤ log then emit s (.refuse mbInvalid)
    else
      let l := logOf s.flt log
      let t := s.flt.overflowAt.getD log (0, 0)
      let off := reg s .clkTimeOffsetOffset
      let head := leBytes 2 (min 65535 (s.flt.overflow.getD log 0)) ++ leBytes 8 ((t.1 + off) % 2 ^ 64) ++ leBytes 8 ((t.2 + off) % 2 ^ 64) ++
        leBytes 2 l.length
      let recs := ((List.range l.length).map fun i => ((l[i]?).map (eventRecord s (recordHandle s log i))).getD []).flatten
      alertCheck (emit { s with flt := { s.flt with read := setAt 0 s.flt.read log l.length } } (.response (head ++ recs)))

/-- Clear the `n` oldest records of a log, and what overflowed. -/
def clearLog (s : State) (log n : Nat) : State :=
  let f := setLog s.flt log ((logOf s.flt log).drop n)
  alertCheck { s with flt := { f with
    overflow := setAt 0 f.overflow log 0, overflowAt := setAt (0, 0) f.overflowAt log (0, 0)
    cleared := setAt 0 f.cleared log (f.cleared.getD log 0 + n), read := setAt 0 f.read log (f.read.getD log 0 - n) } }

/-- CLEAR_EVENT_RECORDS (R464): the oldest records, by their handles; no handle clears the whole log. -/
def execClearEventRecords (ch : Path) (log : Nat) (handles : List Nat) (s : State) : Host.Outcome State Fault Refusal :=
  act s <| mailbox ch fun s =>
    let l := logOf s.flt log
    if 4 ≤ log then emit s (.refuse mbInvalid)
    else if handles.isEmpty then emit (clearLog s log l.length) (.response [])
    else if handles.length ≤ l.length ∧ handles = (List.range handles.length).map (recordHandle s log) then
      emit (clearLog s log handles.length) (.response [])
    else emit s (.refuse mbHandle)

/-- GET_EVENT_INTERRUPT_POLICY (R299). -/
def execGetEventInterruptPolicy (p : PortId) (s : State) : Host.Outcome State Fault Refusal :=
  act s <| mailbox (portPath p) fun s => emit s (.response (s.cxl.policy.map byte))

/-- SET_EVENT_INTERRUPT_POLICY (R299): a setting for each of the four logs. -/
def execSetEventInterruptPolicy (p : PortId) (settings : List Nat) (s : State) : Host.Outcome State Fault Refusal :=
  act s <| mailbox (portPath p) fun s =>
    if settings.length = 4 ∧ settings.all (fun x => decide (x < 256)) then
      emit { s with cxl := { s.cxl with policy := settings } } (.response [])
    else emit s (.refuse mbInvalid)

/-- SET_TIMESTAMP (R475): `CLK_TIME_OFFSET` is T − C. -/
def execSetTimestamp (p : PortId) (value : Nat) (s : State) : Host.Outcome State Fault Refusal :=
  act s <| mailbox (portPath p) fun s =>
    emit (setReg s .clkTimeOffsetOffset ((value % 2 ^ 64 + (2 ^ 64 - s.time % 2 ^ 64)) % 2 ^ 64)) (.response [])

/-! ### Dynamic capacity (R306, R363) -/

/-- Limits of R299: extents of a host, and in all. -/
def hostExtents : Nat := 1024
def allExtents : Nat := 8192

/-- An extent lies in the DC region. -/
def extentExists (s : State) (x : ExtentArg) : Bool := decide (1 ≤ x.count) && decide (x.first + x.count ≤ reg s .stoRangeWindows)

/-- Two runs of windows meet. -/
def runsMeet (a an b bn : Nat) : Bool := decide (a < b + bn) && decide (b < a + an)

/-- A run of windows lies within an extent of the same tag. -/
def within (e : Extent) (x : ExtentArg) : Bool := decide (e.first ≤ x.first) && decide (x.first + x.count ≤ e.first + e.count) && e.tag == x.tag

/-- The windows of an offer are the host's in no other extent, and extents of other hosts that share one carry the same tag. -/
def extentFits (s : State) (h : Nat) (x : ExtentArg) : Bool :=
  s.cxl.extents.all fun e => !runsMeet e.first e.count x.first x.count || (e.host != h && e.tag == x.tag && x.tag != 0)

/-- The limits of R299 hold for a list of extents. -/
def extentLimits (h : Nat) (l : List Extent) : Bool :=
  decide ((l.filter fun e => e.host == h).length ≤ hostExtents) && decide (l.length ≤ allExtents)

/-- No two runs of a list meet. -/
def apart : List ExtentArg → Bool
  | [] => true
  | x :: t => (t.all fun y => !runsMeet x.first x.count y.first y.count) && apart t

/-- An extent of a host in a phase. -/
def extentOf (h phase : Nat) (x : ExtentArg) : Extent := { host := h, first := x.first, count := x.count, tag := x.tag, phase := phase }

/-- Replace the extents. -/
def setExtents (s : State) (l : List Extent) : State := { s with cxl := { s.cxl with extents := l } }

/-- Record an extent change (R463). -/
def extentEvent (s : State) (h : Nat) (x : ExtentArg) : State := eventAt s 0 0x10004 0 0xFFFF 0 (locate 9 0 0 0 h) [x.first, x.count, x.tag]

/-- Change the extents of a host, unless its configuration is locked (R311). -/
def unlockedHost (h : Nat) (f : State → State) (s : State) : State :=
  if tspLocked s h then emit (regAdd (setReg s .cxlErrConfigLocked 1) .cxlErrLockedCnt 0 1 32) (.refuse mbInvalid) else f s

/-- FM_DYNAMIC_CAPACITY_ADD (R306): windows are offered to a host of the host map. -/
def execFmDynamicCapacityAdd (host : Nat) (ext : ExtentArg) (s : State) : Host.Outcome State Fault Refusal :=
  act s <| mailbox .mb <| unlockedHost host fun s =>
    let l := s.cxl.extents ++ [extentOf host 0 ext]
    if !(decide (host < 32) && regGet s .cxlHostMapValid host == 1 && extentExists s ext && extentFits s host ext) then emit s (.refuse mbInvalid)
    else if !extentLimits host l then emit s (.refuse mbResources)
    else emit (extentEvent (setExtents s l) host ext) (.response [])

/-- The offers of a host, the oldest first. -/
def offersOf (s : State) (h : Nat) : List Extent := s.cxl.extents.filter fun e => e.host == h && e.phase == 0

/-- ADD_DYNAMIC_CAPACITY_RESPONSE (R306): the host takes what it accepts of its offers; an empty list declines the oldest offer.
Log 114 (DEDUCED). -/
def execAddDynamicCapacityResponse (host : Nat) (accepted : List ExtentArg) (s : State) : Host.Outcome State Fault Refusal :=
  act s <| mailbox .a <| unlockedHost host fun s =>
    let offers := offersOf s host
    let answered := if accepted.isEmpty then offers.take 1 else offers.filter fun e => accepted.any (within e)
    let l := (s.cxl.extents.filter fun e => !(e ∈ answered)) ++ accepted.map (extentOf host 1)
    if answered.isEmpty || !apart accepted || !(accepted.all fun x => decide (1 ≤ x.count) && offers.any fun e => within e x) then
      emit s (.refuse mbExtents)
    else if !extentLimits host l then emit s (.refuse mbResources)
    else emit (setExtents s l) (.response [])

/-- What stays of an extent around a run that is given back. -/
def splitAround (e : Extent) (x : ExtentArg) : List Extent :=
  (if e.first < x.first then [{ e with count := x.first - e.first }] else []) ++
    (if x.first + x.count < e.first + e.count then
      [{ e with first := x.first + x.count, count := e.first + e.count - (x.first + x.count) }]
     else [])

/-- A host gives back windows (R363 steps 1 to 3): new requests to them are refused, and those in flight are waited for. An offer not yet
answered is withdrawn at once. -/
def giveBack (h : Nat) (x : ExtentArg) (s : State) : State :=
  match s.cxl.extents.find? fun e => e.host == h && decide (e.phase ≤ 1) && decide (1 ≤ x.count) && within e x with
  | none => emit s (.refuse mbExtents)
  | some e =>
    let rest := (s.cxl.extents.filter fun y => y ≠ e) ++ splitAround e x
    if e.phase = 0 then emit (setExtents s rest) (.response [])
    else if !extentLimits h (rest ++ [extentOf h 2 x]) then emit s (.refuse mbResources)
    else endReleases (emit (setExtents s (rest ++ [extentOf h 2 x])) (.response []))

/-- RELEASE_DYNAMIC_CAPACITY (R363). -/
def execReleaseDynamicCapacity (host : Nat) (ext : ExtentArg) (s : State) : Host.Outcome State Fault Refusal :=
  act s <| mailbox .a <| unlockedHost host <| giveBack host ext

/-- FM_DYNAMIC_CAPACITY_RELEASE (R306, R363). Log 115 (DEDUCED). -/
def execFmDynamicCapacityRelease (host : Nat) (ext : ExtentArg) (s : State) : Host.Outcome State Fault Refusal :=
  act s <| mailbox .mb <| unlockedHost host <| giveBack host ext

/-- EXTENT_RELEASE_TIMEOUT (R363 step 4): requests still incomplete are refused, each with an event, and the release completes. -/
def execExtentReleaseTimeout (host : Nat) (ext : ExtentArg) (s : State) : Host.Outcome State Fault Refusal :=
  act s <| whenRunning fun s =>
    match s.cxl.extents.find? fun e => e == extentOf host 2 ext with
    | none => s
    | some e =>
      let late := extentWaits s e
      let s := { s with cxl := { s.cxl with waiting := s.cxl.waiting.filter fun a => !(a ∈ late) } }
      let s := late.foldl (fun s a => refuseEvent s a 0x0404 0xFFFF 0 [host, a.off / 2 ^ 30]) s
      retryAccesses (endRelease s e)

/-- GET_DYNAMIC_CAPACITY_CONFIGURATION (R299): one region, the State Range, of blocks of 1 GiB; extents supported and still free. -/
def execGetDynamicCapacityConfiguration (p : PortId) (s : State) : Host.Outcome State Fault Refusal :=
  act s <| mailbox (portPath p) fun s =>
    emit s (.response ([byte 1] ++ leBytes 8 0 ++ leBytes 8 (reg s .stoRangeWindows * 2 ^ 30) ++ leBytes 8 (2 ^ 30) ++
      leBytes 4 allExtents ++ leBytes 4 (allExtents - s.cxl.extents.length)))

/-- GET_DYNAMIC_CAPACITY_EXTENT_LIST (R299): the extents that a host holds, from one of them on. -/
def execGetDynamicCapacityExtentList (p : PortId) (host count start : Nat) (s : State) : Host.Outcome State Fault Refusal :=
  act s <| mailbox (portPath p) fun s =>
    let l := sortKey (·.first) (s.cxl.extents.filter fun e => e.host == host && decide (1 ≤ e.phase))
    if l.length < start then emit s (.refuse mbInvalid)
    else
      let part := (l.drop start).take count
      emit s (.response (leBytes 4 part.length ++ leBytes 4 l.length ++ part.flatMap fun e =>
        leBytes 8 (e.first * 2 ^ 30) ++ leBytes 8 (e.count * 2 ^ 30) ++ leBytes 16 e.tag))

/-! ### HDM decoders, TSP, IDE, CDAT (R299, R303, R309, R311) -/

/-- HDM_DECODER_COMMIT (R303): the base from which a host's requests are offset. -/
def execHdmDecoderCommit (host base : Nat) (s : State) : Host.Outcome State Fault Refusal :=
  act s fun s =>
    if powered s && decide (host < 32) && regGet s .cxlHostMapValid host == 1 then { s with cxl := { s.cxl with hdm := aset s.cxl.hdm host base } }
    else s

/-- DOE serves: from ready on (R512). -/
def doeServes (f : State → State) (s : State) : State :=
  if running s || s.power.state == .quiesced then f s else if s.power.state = .starting then emit s (.refuse spdmBusy) else s

/-- The measurements that a TSP report holds (R405). -/
def tspMeasures : List Nat := [0x01, 0x02, 0x03, 0x04, 0x05, 0x06, 0x07, 0x0C]

/-- TSP_REQUEST (R311): version 1.0, capabilities (configuration lock and TE state), the report, the lock, and the TE state of windows of the
host's extents. -/
def execTspRequest (host : Nat) (req : TspReq) (s : State) : Host.Outcome State Fault Refusal :=
  act s <| doeServes fun s =>
    if !(decide (host < 32) && regGet s .cxlHostMapValid host == 1) then emit s (.refuse spdmInvalid)
    else
      match req with
      | .version => emit s (.response [0x10])
      | .capabilities => emit s (.response [0x03])
      | .report => emit s (.response ([byte (regGet s .cxlHostStatusTspLocked host)] ++ measures s tspMeasures))
      | .lock => emit (regSet s .cxlHostStatusTspLocked host 1) (.response [])
      | .unlock => emit (regSet s .cxlHostStatusTspLocked host 0) (.response [])
      | .setTe w te =>
        if !extentCovers s host w then emit s (.refuse spdmInvalid)
        else
          let rest := s.cxl.te.filter fun e => e ≠ (host, w)
          emit { s with cxl := { s.cxl with te := if te then (host, w) :: rest else rest } } (.response [])

/-- Streams of a port that may be established: CXL.cachemem (64), the link stream (65), and 63 selective ones (R299).
Log 116 (DESIGN CHOICE). -/
def ideRoom (s : State) (p stream : Nat) : Bool :=
  stream == 64 || stream == 65 ||
    (decide (stream < 64) && decide (((s.cxl.ide.filter fun e => e.1 == p && decide (e.2 < 64)).filter fun e => e.2 != stream).length < 63))

/-- IDE_KM (R309): in a secured SPDM session of the port's DOE; a stream is established once its delivered keys are activated. -/
def execIdeKm (p : PortId) (session : Nat) (req : IdeReq) (s : State) : Host.Outcome State Fault Refusal :=
  act s <| doeServes fun s =>
    let k := portNo p
    if !((spdmChan s (portPath p)).any fun c => c.sessions.any fun x => x.id == session && x.secured) then emit s (.refuse spdmUnexpected)
    else
      match req with
      | .query => emit s (.response ((s.cxl.ide.filter fun e => e.1 == k).map fun e => byte e.2))
      | .keyProg stream =>
        if ideRoom s k stream then
          emit { s with cxl := { s.cxl with ideKeys := (k, stream) :: s.cxl.ideKeys.filter fun e => e ≠ (k, stream) } } (.response [])
        else emit s (.refuse spdmInvalid)
      | .go stream =>
        if (k, stream) ∈ s.cxl.ideKeys then
          emit { s with cxl := { s.cxl with
            ideKeys := s.cxl.ideKeys.filter fun e => e ≠ (k, stream)
            ide := (k, stream) :: s.cxl.ide.filter fun e => e ≠ (k, stream) } } (.response [])
        else emit s (.refuse spdmInvalid)
      | .stop stream =>
        emit { s with cxl := { s.cxl with
          ide := s.cxl.ide.filter fun e => e ≠ (k, stream), ideKeys := s.cxl.ideKeys.filter fun e => e ≠ (k, stream) } } (.response [])

/-- CDAT_READ (R299): an entry of the table. Log 117 (DESIGN CHOICE). -/
def execCdatRead (_p : PortId) (entry : Nat) (s : State) : Host.Outcome State Fault Refusal :=
  act s <| doeServes fun s =>
    match Config.cdat[entry]? with
    | none => emit s (.refuse spdmInvalid)
    | some b => emit s (.response b)

end Sys2Proof.Machine
end

