-- ==== Sys2Proof/Machine/Drafts.lean ====
section
/-! DEFINITION. Draft trees (ch. 8): passes over the weights, DRAFT and VERIFY_COMMIT. -/

namespace Sys2Proof.Machine

/-! ### Passes over the weights (R213, R214) -/

/-- Layers whose whole shards a RESIDENT drafter unit pins: from layer 0 upward, as many as its ways hold on every bed (R213). -/
def pinnedLayers (s : State) (m : ModelSlot) : Nat :=
  if !isResident s m.unit then 0
  else
    let ways := fun bed => ((((leaves s).filter fun l => rootOf s l.id == m.unit && l.bed == bed)).map fun l =>
      l.ways * 65536 * ((pansOf s).filter fun p => p.unit == l.id).length).sum
    let taken := fun n i => ((m.weights.filter fun b => b.shard == i && decide (b.layer < n)).map (·.bytes.length)).sum
    let fits := fun n => (List.range m.shards).all fun i => decide (taken n i ≤ ways ((bedsOf s m.unit).getD i 0))
    ((List.range m.layers).takeWhile fun n => fits (n + 1)).length

/-- The blocks that a pass of the unit's current context reads, in layer order: every shard of every layer once, but for those that are
pinned (R213). A pan holds two layers of them at a time. -/
def passBlocks (s : State) (m : ModelSlot) (k c : Nat) : List WeightBlock :=
  let n := if (k, c, m.slot) ∈ s.units.pinned then pinnedLayers s m else 0
  (List.range m.layers).flatMap fun l => if l < n then [] else m.weights.filter fun b => b.layer == l

/-- A slot becomes FAILED with BAD_IMAGE: the T2 copy of a weight block fails, and every DRAFT in flight on it is DISCARDED (R214). -/
def slotFails (s : State) (k : Nat) : State :=
  let ws := s.work.filter fun w => inFlight w && draftSlot s w == some k
  regSet (emptySlot (ws.foldl (fun s w => fail (dropSteps s w.id) w.id stDiscarded) s) k) .panMdlStatusError k 0x05

/-- WEIGHT_BLOCK_REWRITE (R214): of the blocks that fail their checksum, given by layer, shard, number and whether the T2 copy is good, those
that a pass reads; `none` where the slot fails. A block that is written again holds what it held. -/
def readWeights (s : State) (w : Work) (m : ModelSlot) (bad : List (Nat × Nat × Nat × Bool)) : Option State :=
  let k := ((leavesAt w).head?.map (holder s)).getD m.unit
  let c := contextOf s w
  let hit := bad.filter fun e => (passBlocks s m k c).any fun b => b.layer == e.1 && b.shard == e.2.1 && b.no == e.2.2.1
  if hit.any fun e => !e.2.2.2 then none
  else if pinnedLayers s m = 0 then some s
  else some { s with units := { s.units with pinned := ((k, c, m.slot) :: s.units.pinned).dedup } }

/-! ### DRAFT (R219 to R225) -/

/-- The sixteen BRANCH fields of CONFIGURE (R219). -/
def branchOf (w : Work) : List Nat := (List.range 16).map fun i => bits (opr w 24 8) (4 * i + 3) (4 * i)

/-- The fields of CONFIGURE (R219). -/
def configureFields (w : Work) : Bool :=
  let d := opr w 19 1
  let win := opr w 22 2
  opr w 8 8 == 0 && decide (opr w 17 1 ≤ 7) && decide (1 ≤ opr w 18 1) && decide (opr w 18 1 ≤ 64) && decide (1 ≤ d) &&
    decide (d ≤ 16) && decide (1 ≤ opr w 20 1) && decide (opr w 20 1 ≤ 64) && decide (32 ≤ win) && decide (win ≤ 4096) &&
    win % 32 == 0 && reservedClear w [(0, 21), (22, 10)] &&
    (List.range 16).all fun i =>
      let b := (branchOf w).getD i 0
      if i < d then decide (1 ≤ b) && decide (b ≤ 8) else b == 0

/-- A READY slot whose model a tenant may use (R209). -/
def usableModel (s : State) (k tenant : Nat) : Option ModelSlot :=
  (modelOf s k).bind fun m => if m.state = 2 ∧ (m.keySlot = 0xFFFF ∨ m.keySlot = tenant) then some m else none

/-- The checks that DRAFT and VERIFY_COMMIT share (R215, R227). -/
def draftChks (x : Subject) : List Chk := sessionChks x false true ++ [chk (hasOption x 2) stBad]

/-- End a draft work that changes the draft record, staging its tile. -/
def endDraft (s : State) (w : Work) (x : Subject) (status : Nat) (d : Draft) (result : List Byte) (tiles : List Tile)
    (effects : List Effect) (a : Addr) (out : List Byte) (nums : List Nat) : State :=
  let n := (recordNumber s x.handle).getD (nums.getD 0 0)
  concludeOut s w status result (draftRecord x n :: tiles ++ headTiles x) (.draft x.handle (some d) :: effects) a out

/-- The checks of DRAFT CONFIGURE (R220). -/
def configureChks (s : State) (w : Work) (x : Subject) : List Chk :=
  draftChks x ++ [chk (configureFields w) stBad, chk ((usableModel s (opr w 17 1) w.hdr.keySlot).any fun m => m.vocab == x.vocab) stBad]

/-- The draft record that CONFIGURE writes, and whether the model is another one (R220). -/
def configuredDraft (w : Work) (x : Subject) (id : Nat) : Draft × Bool :=
  let old := x.draft.getD Draft.empty
  let other := x.draft.any fun d => d.modelId != id
  let d := if other then resetKv old else noTree old
  ({ d with modelId := id, slot := opr w 17 1, nodeMax := opr w 18 1, depthMax := opr w 19 1, width := opr w 20 1,
            window := opr w 22 2, accAvg := 256, branch := branchOf w, emptyRun := 0, configured := true,
            paused := false, probe := 0 }, other)

/-- DRAFT with MODE CONFIGURE. -/
def runConfigure (s : State) (w : Work) : State :=
  withSubject s w fun x =>
    let m := usableModel s (opr w 17 1) w.hdr.keySlot
    checked s w (configureChks s w x) fun s =>
      let d := configuredDraft w x ((m.map (·.modelId)).getD 0)
      let gone := if d.2 then draftTiles s x.handle else treeTiles s x.handle
      match takeNumbers s x.handle 1 with
      | none => fail s w.id stNoSpace
      | some nums => endDraft s w x stDone d.1 [] [] (dropAll gone) .none [] nums

/-- DRAFT CONFIGURE (R220). -/
def execDraftConfigure (work : Nat) (s : State) : Host.Outcome State Fault Refusal :=
  act s <| runWork work (isMode 0x12 16 1) (durably runConfigure)

/-- The checks of DRAFT RESET (R220). -/
def resetChks (w : Work) (x : Subject) : List Chk := draftChks x ++ [chk (opr w 8 8 == 0 && reservedClear w [(0, 17)]) stBad]

/-- DRAFT with MODE RESET: it keeps the configuration and the statistics. -/
def runReset (s : State) (w : Work) : State :=
  withSubject s w fun x =>
    checked s w (resetChks w x) fun s =>
      match x.draft with
      | none => done s w.id stDone []
      | some d => endDraft s w x stDone (resetKv d) [] [] (dropAll (draftTiles s x.handle)) .none [] []

/-- DRAFT RESET (R220). -/
def execDraftReset (work : Nat) (s : State) : Host.Outcome State Fault Refusal :=
  act s <| runWork work (isMode 0x12 16 2) (durably runReset)

/-- A node that may get children: its number, the tokens on its path, the product of its probabilities. -/
structure Front where
  no : Nat
  path : List Nat
  prod : Nat
deriving DecidableEq, Repr

/-- A candidate (R222): parent, token, path, product of probabilities, probability. -/
structure Cand where
  parent : Nat
  token : Nat
  path : List Nat
  prod : Nat
  prob : Nat
deriving DecidableEq, Repr

/-- What a tree is built from: vocabulary, text state, free value, log up to base. -/
structure Drafter where
  voc : Voc
  text : TextState
  free : Nat
  log : List Nat
deriving DecidableEq, Repr

/-- The tokens allowed after a path (R222). -/
def allowedAfter (g : Drafter) (path : List Nat) : List Nat :=
  if !g.text.active then List.range (vocSize g.voc)
  else if g.text.dead then []
  else
    match afterPath g.voc g.text path with
    | none => []
    | some c => gMask g.voc g.text.image c

/-- The drafter's probability of a token, at most 1. Log 31 (DESIGN CHOICE). -/
def probOf (g : Drafter) (path : List Nat) (t : Nat) : Nat := Config.probability g.free g.log path t % 0x3F800001

/-- The candidates under one node: the tokens of highest probability, by rising token (R222). -/
def candsOf (g : Drafter) (b : Nat) (f : Front) : List Cand :=
  let ps := (allowedAfter g f.path).map fun t => (t, probOf g f.path t)
  let top := (sortKey (fun e => 0x3F800000 - e.2) ps).take b
  (sortKey (·.1) top).map fun e =>
    { parent := f.no, token := e.1, path := f.path ++ [e.1], prod := f.prod * (fpVal e.2).toNat, prob := e.2 }

/-- Candidates by falling score; equal scores keep their order: lower parent, then lower token (R222). -/
def byScore (l : List Cand) : List Cand :=
  let m := l.foldl (fun m c => max m c.prod) 0
  sortKey (fun c => m - c.prod) l

/-- A tree as it grows: nodes, nodes whose KV a pass has computed, whether some allowed set was empty. -/
structure Growth where
  nodes : List Node
  kv : List Nat
  limited : Bool
deriving DecidableEq, Repr

/-- Build a tree (R222), with the depth left as fuel. -/
def growTree (g : Drafter) (d : Draft) (n : Nat) : Nat → Nat → List Front → Growth → Growth
  | 0, _, _, t => t
  | k + 1, depth, front, t =>
    if n ≤ t.nodes.length ∨ front.isEmpty then t
    else
      let kv := if depth = 0 then t.kv else t.kv ++ front.map (·.no)
      let limited := t.limited || front.any fun f => (allowedAfter g f.path).isEmpty
      let cand := front.flatMap (candsOf g (d.branch.getD depth 0))
      let new := (byScore cand).take (min (n - t.nodes.length) d.width)
      let base := t.nodes.length
      let front := (List.range new.length).map fun i =>
        let c := new.getD i { parent := 0, token := 0, path := [], prod := 0, prob := 0 }
        { no := base + i, path := c.path, prod := c.prod }
      growTree g d n k (depth + 1) front
        { nodes := t.nodes ++ new.map (fun c => { token := c.token, parent := c.parent, depth := depth + 1, prob := c.prob })
          kv := kv, limited := limited }

/-- The node budget of an acceptance average (R230). -/
def nodeBudget (a : Nat) : Nat :=
  if a < 64 then 2 else if a < 192 then 4 else if a < 384 then 8 else if a < 640 then 16 else if a < 1024 then 32 else 64

/-- The ancestors of a node with itself, as a mask row (R224). -/
def maskRow (tree : List Node) : Nat → Nat → Nat
  | 0, _ => 0
  | k + 1, i =>
    match tree[i]? with
    | none => 0
    | some n => 2 ^ i + (if n.parent = 0xFF then 0 else maskRow tree k n.parent)

/-- The deepest depth of a tree. -/
def treeDepth (tree : List Node) : Nat := tree.foldl (fun m n => max m n.depth) 0

/-- The draft buffer (R223, R224). -/
def draftBuffer (tree : List Node) (base step : Nat) : List Byte :=
  leBytes 2 tree.length ++ [byte (treeDepth tree), 0] ++ leBytes 4 base ++ leBytes 4 step ++ zeros 52 ++
    slice (tree.flatMap nodeBytes) 0 1024 ++
    slice ((List.range tree.length).flatMap fun i => leBytes 8 (maskRow tree tree.length i)) 0 512

/-- The fields of MODE DRAFT. -/
def draftFields (w : Work) : Bool :=
  opr w 16 1 == 0 && opr w 8 8 != 0 && opr w 8 8 % 64 == 0 && reservedClear w [(0, 16)]

/-- Catch up, build the tree and write it (R222 to R225, R232). -/
def draftEnd (s : State) (w : Work) (x : Subject) (v : Voc) (m : ModelSlot) (d0 : Draft) : State :=
  let resetting := d0.modelId != m.modelId
  let d := if resetting then { resetKv d0 with modelId := m.modelId } else d0
  let base := w.tokens
  let size := itemBytes m
  let lo := max (max d.kvEnd (base - d.window)) 4
  let head := decide (d.kvEnd < 4)
  let runs := (if head then [(0, min 4 base)] else []) ++ runsOf (itemsPer size) lo base
  let caught := (if head then min 4 base else 0) + (base - lo)
  let probe := if d.paused then (d.probe + 1) % 64 else d.probe
  let n := if d.paused then (if probe = 0 then 1 else 0) else min d.nodeMax (nodeBudget d.accAvg)
  let g : Drafter := { voc := v, text := x.text, free := s.free, log := x.log.take base }
  let t := growTree g d n d.depthMax 0 [{ no := 0xFF, path := [], prod := 1 }] { nodes := [], kv := [], limited := false }
  let kv := t.kv.length
  let treeRuns := (runsOf (itemsPer size) 0 kv).map fun r => (0x80000000 + r.1, 0x80000000 + r.2)
  let old := if resetting then draftTiles s x.handle else treeTiles s x.handle ++ staleItems s x.handle base d.window
  let step := (d.step + 1) % 2 ^ 32
  let d' := { d with step := step, base := some base, tree := t.nodes, kvNodes := t.kv, kvEnd := base,
                     shape := (m.layers, size), probe := probe }
  let flags := b2n d.paused + 2 * b2n (d.paused && n == 1) + 4 * b2n t.limited + 8 * b2n resetting
  let result := leBytes 4 step ++ [byte t.nodes.length, byte (treeDepth t.nodes), byte flags, 0] ++ leBytes 4 caught ++
    leBytes 2 d.accAvg
  let rs := itemRuns s x m.layers size (runs ++ treeRuns) resetting (freeItem (s.free + 1) size)
  let new := b2n (recordNumber s x.handle).isNone
  match takeNumbers s x.handle (new + numbersFor rs) with
  | none => fail s w.id stNoSpace
  | some nums =>
    let tiles := itemTiles x size rs (nums.drop new)
    let kept := tiles.map (·.number)
    endDraft (takeFree (takeFree s)) w x stDone d' result tiles (dropAll (old.filter fun t => !(t.number ∈ kept))) (addrOf (opr w 8 8))
      (draftBuffer t.nodes base step) nums

/-- The slot serves a DRAFT: READY, or UNLOADING with the descriptor in flight at the unload (R212). -/
def servesDraft (s : State) (w : Work) (k : Nat) : Option ModelSlot :=
  (modelOf s k).bind fun m => if m.state = 2 ∨ (m.state = 3 ∧ w.tally = [1]) then some m else none

/-- The model that serves a DRAFT of a session. -/
def draftModel (s : State) (w : Work) (x : Subject) : Option ModelSlot := x.draft.bind fun d => servesDraft s w d.slot

/-- The checks of DRAFT (R219, R221). -/
def draftRunChks (s : State) (w : Work) (x : Subject) : List Chk :=
  let m := draftModel s w x
  draftChks x ++
    [chk (draftFields w) stBad, chk (x.draft.any (·.configured)) stBad, chkEv m.isSome stBad 0x0203,
     chk (m.any fun m => m.vocab == x.vocab && (m.keySlot == 0xFFFF || m.keySlot == w.hdr.keySlot)) stBad,
     chkEv (vocById s x.vocab).isSome stBad 0x0801] ++ nearChks s w (addrOf (opr w 8 8)) 1600 true

/-- A DRAFT runs a pass: there is something to catch up on, or a tree to build (R222, R232). -/
def needsPass (w : Work) (d : Draft) (m : ModelSlot) : Bool :=
  d.modelId != m.modelId || d.kvEnd != w.tokens || !d.paused || (d.probe + 1) % 64 == 0

/-- DRAFT with MODE DRAFT. -/
def runDraft (bad : List (Nat × Nat × Nat × Bool)) (s : State) (w : Work) : State :=
  withSubject s w fun x =>
    let m := draftModel s w x
    checked s w (draftRunChks s w x) fun s =>
      match x.draft, m, vocById s x.vocab with
      | some d, some m, some v =>
        match (if needsPass w d m then readWeights s w m bad else some s) with
        | none => slotFails s m.slot
        | some s => draftEnd s w x v m d
      | _, _, _ => s

/-- DRAFT (R222, R225), with the weight blocks that fail their checksum when a pass reads them: layer, shard, number, and whether the T2 copy
is good (R214). -/
def execDraft (run : DraftRun) (s : State) : Host.Outcome State Fault Refusal :=
  act s <| runWork run.work (isFirstMode 0x12 16 3) (durably (runDraft run.bad))

/-! ### VERIFY_COMMIT (R226 to R233) -/

/-- The acceptance average after a verdict of length `l` (R230): the division truncates towards zero. -/
def nextAverage (a l : Nat) : Nat := if a ≤ 256 * l then a + (256 * l - a) / 8 else a - (a - 256 * l) / 8

/-- The statistics of a draft record after a verdict (R230 to R233). -/
def judged (d : Draft) (l : Nat) : Draft :=
  if d.tree.isEmpty then d
  else if d.paused then
    (if 1 ≤ l then { d with paused := false, emptyRun := 0, accAvg := 64 } else d)
  else
    let run := if 1 ≤ l then 0 else min 8 (d.emptyRun + 1)
    { d with accAvg := nextAverage d.accAvg l, emptyRun := run, paused := run == 8,
             probe := if run = 8 then 0 else d.probe }

/-- The nodes on the accepted path, from the root (R228). -/
def pathNodes (tree : List Node) : Nat → Nat → List Nat
  | 0, _ => []
  | k + 1, i =>
    match tree[i]? with
    | none => []
    | some n => (if n.parent = 0xFF then [] else pathNodes tree k n.parent) ++ [i]

/-- Commit a verdict that has passed its checks. -/
def commitEnd (s : State) (w : Work) (x : Subject) (v : Voc) (d : Draft) : State :=
  let accept := opr w 24 1
  let path := if accept = 0xFF then [] else pathNodes d.tree d.tree.length accept
  let toks := (path.filterMap fun i => (d.tree[i]?).map (·.token)).map (fun t => (1, t)) ++ [(3, opr w 20 4)]
  let n := x.log.length
  let r := appendSampled v x.text n x.text.includeStop false false toks
  let kept := (path.take r.entries.length).takeWhile fun i => decide (i ∈ d.kvNodes)
  let j := judged d path.length
  let joined := d.kvEnd == n && d.shape.2 != 0
  let d' := { noTree j with kvEnd := if joined then n + kept.length else d.kvEnd }
  let size := d.shape.2
  let runs := if joined then runsOf (itemsPer size) n (n + kept.length) else []
  let out := if opr w 8 8 = 0 then [] else r.out
  let result := leBytes 4 (n + r.entries.length) ++ [byte r.entries.length, 0] ++ leBytes 2 d'.accAvg ++
    textOutcome s.free r out.length
  let rs := itemRuns s x d.shape.1 size runs false fun l p => treeItem s x.handle size l (kept.getD (p - n) 0)
  let new := b2n (recordNumber s x.handle).isNone
  match takeNumbers s x.handle (new + numbersFor rs) with
  | none => fail s w.id stNoSpace
  | some nums =>
    let s := takeFree s
    let tiles := itemTiles x size rs (nums.drop new)
    let gone := treeTiles s x.handle ++ staleItems s x.handle (n + r.entries.length) d.window
    endDraft s w x (if r.stop.isSome then stTruncated else stDone) d' result (tiles ++ logTiles x n (n + r.entries.length) ++ textTiles x x.text r.text)
      (dropAll (gone.filter fun t => !(t.number ∈ tiles.map (·.number))) ++
        [.append x.handle r.entries, .text x.handle r.text, .kvTokens x.handle path.length])
      (addrOf (opr w 8 8)) out nums

/-- The checks of VERIFY_COMMIT (R227). -/
def commitChks (s : State) (w : Work) (x : Subject) : List Chk :=
  let v := vocById s x.vocab
  let d := x.draft.getD Draft.empty
  let accept := opr w 24 1
  let l := if accept = 0xFF then 0 else ((d.tree[accept]?).map (·.depth)).getD 0
  sessionChks x false true ++
    [chk (reservedClear w [(0, 25)] && hasOption x 2) stBad, chkEv v.isSome stBad 0x0801,
     chk (v.any fun v => decide (opr w 20 4 < vocSize v)) stBad,
     chk (d.base == some x.log.length && d.step == opr w 16 4) stConflict,
     chk (accept == 0xFF || decide (accept < d.tree.length)) stBad, chk (logRoom x (l + 1)) stNoSpace,
     reachOpt s w (opr w 8 8) (384 * (d.depthMax + 1) + 256) true]

/-- VERIFY_COMMIT. -/
def runCommit (s : State) (w : Work) : State :=
  withSubject s w fun x =>
    checked s w (commitChks s w x) fun s =>
      match vocById s x.vocab with
      | none => s
      | some v => commitEnd s w x v (x.draft.getD Draft.empty)

/-- VERIFY_COMMIT (R228). -/
def execVerifyCommit (work : Nat) (s : State) : Host.Outcome State Fault Refusal :=
  act s <| runWork work (isOp 0x13) (durably runCommit)

end Sys2Proof.Machine
end

