-- ==== Sys2Proof/Machine/Durability.lean ====
section
/-! DEFINITION. Durability (ch. 15): flash wear and scrub, checkpoints with their manifests, the buddy's stream and its copies, RESTORE, and
the store that has no consistent step. -/

namespace Sys2Proof.Machine

open Sys2Proof

/-! ### Flash (R417, R418, R485) -/

/-- `DUR_FLASH.STATE` by spare blocks and wear (R417). -/
def flashCode (spare used : Nat) : Nat :=
  if spare = 0 then 3
  else if 100 * spare < Config.rawBlocks then 2
  else if 90 ≤ used ∨ 50 * spare < Config.rawBlocks then 1
  else 0

/-- The flash state changes: leaving NORMAL is a warning trigger, READ_ONLY an event (R417, R430). -/
def flashState (s : State) (code : Nat) : State :=
  let old := reg s .durFlashState
  if code ≤ old then s
  else
    let s := setReg s .durFlashState code
    let s := if code = 3 then event s 0x030D 5 0xFFFF 0 0 [] else s
    if old = 0 then warn s 5 else s

/-- FLASH_BLOCK_RETIRE (R417): a block is retired; the spare blocks left, and the wear. -/
def execFlashBlockRetire (spareLeft used : Nat) (s : State) : Host.Outcome State Fault Refusal :=
  act s <| whenRunning fun s =>
    let s := setReg (setReg s .durWearSpare (spareLeft % 2 ^ 32)) .durWearUsed (min 255 used)
    flashState { s with dur := { s.dur with retired := s.dur.retired + 1 } } (flashCode spareLeft used)

/-- Dies in service. -/
def diesIn (s : State) : List Nat := (List.range (dieCount s.model)).filter fun d => !(d ∈ s.flt.diesOut)

/-- A page is written again elsewhere: version and digest stay, the place is open (R418). -/
def rewritePage (s : State) (t : Tile) : State :=
  let l := diesIn s
  let d := l.getD (Config.number s.free % l.length) 0
  updHeld (takeFree s) t.handle t.number fun t => { t with copies := updIf (fun c => c.tier == 4) (fun c => { c with place := d }) t.copies }

/-- FLASH_SCRUB (R418): a written page is read; one that LDPC cannot correct is a failed copy, one with more corrected bits than the harrow's
threshold is written again. Log 128 (DESIGN CHOICE). -/
def execFlashScrub (handle number corrected : Nat) (good : Bool) (s : State) : Host.Outcome State Fault Refusal :=
  act s <| whenRunning fun s =>
    match (keptTiles s).find? fun t => t.handle == handle && t.number == number && hasCopy t 4 with
    | none => s
    | some t =>
      let s := { s with dur := { s.dur with unscrubbed := s.dur.unscrubbed.filter fun k => k != (handle, number) } }
      if !good then copyFailed s handle number 4 (((t.copies.find? fun c => c.tier == 4).map (·.place)).getD 0)
      else if Config.number s.free < corrected ∧ reg s .durFlashState ≠ 3 then rewritePage (takeFree s) t
      else takeFree s

/-! ### The manifest and its digests (R426, R427, R429) -/

/-- Shards of the model. -/
def shardCount (m : Model) : Nat := bedCount m + 1

/-- A leaf entry of a tile tree: the stored digest is over the stored bytes (R416, R427). -/
def leafEntry (s : State) (t : Tile) : List Byte :=
  let b := storedOf s t
  leBytes 8 t.handle ++ leBytes 4 t.number ++ zeros 4 ++ leBytes 8 t.version ++ leBytes 8 (Config.location b) ++ shake 32 b

/-- The tiles of a shard, by owner and number. -/
def shardTiles (s : State) (l : List Tile) (k : Nat) : List Tile :=
  sortKey (fun t => t.handle * 2 ^ 24 + t.number) (l.filter fun t => homeOf s t.handle + 1 == k)

/-- The leaves of a shard of a step. -/
def shardLeaves (s : State) (l : List Tile) (step k : Nat) : List (List Byte) :=
  if k = 0 then Config.tableLeaves step else (shardTiles s l k).map (leafEntry s)

/-- The 16 KiB of a tree page: its header, then its entries (R427). -/
def pageBytes (p : TreePage) : List Byte :=
  slice (slice (leBytes 4 0x50544250 ++ Config.pageHead p.level p.entries.length p.shard p.step) 0 64 ++ p.entries.flatten) 0 payloadBytes

/-- The first OWNER and NUMBER of a page. -/
def pageFirst (p : TreePage) : List Byte := slice ((p.entries.head?).getD []) (if p.level = 0 then 0 else 40) 12

/-- The interior entry that names a page: its location, its digest, its first name (R427). -/
def interiorEntry (p : TreePage) : List Byte :=
  leBytes 8 (Config.location (pageBytes p)) ++ shake 32 (pageBytes p) ++ pageFirst p ++ zeros 12

/-- The pages of one level, 255 entries to a page: one that did not change stays the page that an earlier step wrote (R428).
Log 120 (DESIGN CHOICE). -/
def levelPages (old : List TreePage) (step shard level : Nat) (es : List (List Byte)) : List TreePage :=
  (List.range (max 1 ((es.length + 254) / 255))).map fun i =>
    let c := (es.drop (255 * i)).take 255
    (old.find? fun p => p.shard == shard && p.level == level && p.entries == c).getD { shard := shard, level := level, step := step, entries := c }

/-- The pages of a tree from a level up, its root last, with the number of levels as fuel. -/
def treeFrom : Nat → List TreePage → Nat → Nat → Nat → List (List Byte) → List TreePage
  | 0, _, _, _, _, _ => []
  | n + 1, old, step, shard, level, es =>
    let ps := levelPages old step shard level es
    if ps.length = 1 then ps else ps ++ treeFrom n old step shard (level + 1) (ps.map interiorEntry)

/-- The pages of all trees of a step (R427). -/
def treePages (s : State) (old : List TreePage) (l : List Tile) (step : Nat) : List TreePage :=
  (List.range (shardCount s.model)).flatMap fun k => treeFrom 8 old step k 0 (shardLeaves s l step k)

/-- The root page of a shard. -/
def rootPage (ps : List TreePage) (k : Nat) : List Byte := (((ps.filter fun p => p.shard == k).getLast?).map pageBytes).getD []

/-- The manifest's entry of a shard: number, tiles, bytes, root and digest. -/
def shardEntry (s : State) (c : CkptStep) (k : Nat) : List Byte :=
  let leaves := shardLeaves s c.tiles c.step k
  let root := rootPage c.pages k
  let step := c.step
  let digest := shake 64 (ascii "PB-SHD" ++ leBytes 3 (origin s) ++ leBytes 8 step ++ leBytes 2 k ++ shake 32 root)
  leBytes 2 k ++ zeros 2 ++ leBytes 4 leaves.length ++ leBytes 8 (tileBytes * leaves.length) ++ leBytes 8 (Config.location root) ++
    digest ++ zeros 8

/-- Key slots that tiles lie under, as a map of 4,096 bits. -/
def slotMap (l : List Tile) : Nat := ((l.map (·.keySlot)).dedup.map fun k => 2 ^ k).sum

/-- The manifest of a step (R429). -/
def manifestBytes (s : State) (c : CkptStep) : List Byte :=
  let b := leBytes 4 0x4D434250 ++ leBytes 2 1 ++ leBytes 2 (shardCount s.model) ++ leBytes 3 (origin s) ++ [byte (reg s .sysIdModel)] ++
    leBytes 4 c.gen ++ leBytes 8 c.step ++ leBytes 8 c.time ++ leBytes 8 c.lease ++ leBytes 4 c.subjects.length ++ zeros 84 ++
    leBytes 512 (slotMap c.tiles) ++ (List.range (shardCount s.model)).flatMap (shardEntry s c)
  b ++ Config.signature [] b

/-- STEP, TILES in all and ORIGIN of a manifest. -/
def manifestStep (m : List Byte) : Nat := field m 16 8
def manifestTiles (m : List Byte) : Nat := ((List.range (field m 6 2)).map fun k => field m (640 + 96 * k + 4) 4).sum
def manifestOrigin (m : List Byte) : Nat := field m 8 3

/-- A manifest's fields are those of the layout. -/
def isManifest (m : List Byte) : Bool := field m 0 4 == 0x4D434250 && field m 4 2 == 1

/-! ### Checkpoints (R428, R430, R431) -/

/-- A checkpoint is asked for. -/
def askCheckpoint (s : State) : State := { s with dur := { s.dur with due := max 1 s.dur.due } }

/-- CHECKPOINT_INTERVAL (R430). -/
def execCheckpointInterval (s : State) : Host.Outcome State Fault Refusal :=
  act s <| whenRunning fun s => if reg s .durCkptCfgInterval = 0 then s else askCheckpoint s

/-- WARNING_TRIGGER (R430). -/
def execWarningTrigger (trigger : Nat) (s : State) : Host.Outcome State Fault Refusal :=
  act s <| whenRunning fun s => if trigger < 7 then warn s trigger else s

/-- CHECKPOINT asks for a step and waits for it. -/
def runCheckpoint (s : State) (w : Work) : State :=
  match w.tally with
  | [] => checked s w [chk (anySlot s w && reservedClear w [(0, 1)] && decide (opr w 0 1 < 2)) stBad] fun s =>
      askCheckpoint (updWork s w.id fun w => { w with tally := [0] })
  | _ => s

/-- CHECKPOINT (R431). -/
def execCheckpoint (work : Nat) (s : State) : Host.Outcome State Fault Refusal := act s <| runWork work (isOp 0x28) runCheckpoint

/-- A CHECKPOINT in flight waits for a step. -/
def waitsForStep (w : Work) : Bool := isOp 0x28 w && inFlight w && w.tally == [0]

/-- Descriptors that can change no durable tile and no ownership record: sluices, MARK, CHECKPOINT. Log 129 (DEDUCED). -/
def changesNothing (w : Work) : Bool := decide (w.hdr.opcode ∈ [0x07, 0x28, 0x31])

/-- The cut falls after every durable-changing descriptor accepted before a CHECKPOINT has completed (R431). -/
def cutCovers (s : State) (w : Work) : Bool := s.work.all fun x => decide (w.id ≤ x.id) || changesNothing x

/-- The result of CHECKPOINT: step, tiles, tiles newly shipped. -/
def stepResult (l : List Nat) : List Byte := leBytes 8 (l.getD 0 0) ++ leBytes 4 (l.getD 1 0) ++ leBytes 4 (l.getD 2 0)

/-- The number of the next step. -/
def nextStep (s : State) : Nat :=
  max (max ((s.dur.slotA.map (·.step)).getD 0) ((s.dur.slotB.map (·.step)).getD 0)) (reg s .durCkptStatStep) + 1

/-- Durable versions named by the map that T4 lacks and that can be written there. -/
def toStore (s : State) : List Tile := s.tiles.filter fun t => durableDirty t && slotActive s t.keySlot

/-- Durable tiles that lie at holders and can be adopted (R428 step 2). -/
def toAdopt (s : State) : List Tile := s.tiles.filter fun t => t.durable && t.version != 0 && t.lodged.isSome && slotActive s t.keySlot

/-- The pages of the trees that the slots hold. -/
def slotPages (s : State) : List TreePage := ((s.dur.slotA.map (·.pages)).getD []) ++ ((s.dur.slotB.map (·.pages)).getD [])

/-- The step of a cut: what its trees and tables name (R426, R427). -/
def takeStep (s : State) : CkptStep :=
  let tiles := s.tiles.filter fun t => t.durable && t.version != 0 && hasCopy t 4
  { step := nextStep s, gen := reg s .durGenGen, time := s.time, lease := s.nv.leaseEnd, subjects := s.subjects
    tiles := tiles, windows := s.windows, traces := s.own.traces, manifest := blankTile 0 0 0
    pages := treePages s (slotPages s) tiles (nextStep s) }

/-- The MANIFEST tile of a step: durable, in the system area of T4. The spec gives it no owner and no number: owner 0, number 0 in slot A and 1
in slot B, with STEP as its version. Log 170 (DESIGN CHOICE). -/
def manifestTile (s : State) (c : CkptStep) : Tile :=
  { blankTile 0 ((c.step + 1) % 2) 0 with
    kind := 11, durable := true, version := c.step, floor := c.step, recFloor := c.step
    copies := [{ tier := 4, place := Config.number s.free % dieCount s.model, version := c.step }], payload := cellsOf (manifestBytes s c) }

/-- The step that the buddy has acknowledged, while a slot holds it. -/
def shippedSlot (s : State) : Option CkptStep := [s.dur.slotA, s.dur.slotB].findSome? fun c => c.filter fun c => c.step == s.dur.shipped

/-- Tile versions of a step that the buddy does not hold (R443). -/
def unshipped (s : State) (c : CkptStep) : List Tile :=
  let old := ((shippedSlot s).map (·.tiles)).getD []
  c.tiles.filter fun t => !(old.any fun o => o.handle == t.handle && o.number == t.number && o.version == t.version)

/-- Where a step goes in the buddy's stream window (R438). Log 122 (DESIGN CHOICE). -/
def streamWindow : Nat := 0x80000

/-- Tree pages of a step that the buddy does not hold (R443). -/
def unshippedPages (s : State) (c : CkptStep) : List TreePage :=
  c.pages.filter fun p => !(p ∈ ((shippedSlot s).map (·.pages)).getD [])

/-- Ship a step to a reachable buddy: its new tiles and tree pages, then its manifest; it takes a SEQ of the stream (R443). -/
def shipStep (s : State) (c : CkptStep) : State :=
  if reg s .durBuddyState ≠ 1 then s
  else
    let s := (unshipped s c).foldl (fun s t => emit s (.aperture (buddy s) streamWindow (storedOf s t))) s
    let s := (unshippedPages s c).foldl (fun s p => emit s (.aperture (buddy s) streamWindow (pageBytes p))) s
    let s := emit s (.aperture (buddy s) streamWindow (manifestBytes s c))
    { s with dur := { s.dur with ships := s.dur.ships ++ [(s.dur.streamSeq, c.step)], streamSeq := s.dur.streamSeq + 1 } }

/-- A CHECKPOINT that a step satisfies: it ends, or waits for the buddy (R431). -/
def satisfy (n sent : Nat) (c : CkptStep) (s : State) (w : Work) : State :=
  let r := [n, c.tiles.length, sent]
  if bit (opr w 0 1) 0 || buddy s == 0 then done s w.id stDone (stepResult r)
  else if reg s .durBuddyState ≠ 1 then done s w.id stTruncated (stepResult r)
  else updWork s w.id fun w => { w with tally := r }

/-- Write a step into its slot (R428 step 5). -/
def putStep (s : State) (c : CkptStep) : State :=
  let c := { c with manifest := manifestTile s c }
  let s := setReg (takeFree s) .durCkptStatStep c.step
  if c.step % 2 = 1 then { s with dur := { s.dur with slotA := some c } } else { s with dur := { s.dur with slotB := some c } }

/-- The checkpoint from its cut on: write-back, trees, manifest, shipping (R428). Log 119 (DESIGN CHOICE). -/
def runStep (s : State) : State :=
  let ws := s.work.filter fun w => waitsForStep w && cutCovers s w
  let s := (toStore s).foldl (fun s t => updTile s t.handle t.number (inFlash s)) s
  let c := takeStep s
  let sent := if reg s .durBuddyState = 1 then (unshipped s c).length else 0
  let s := shipStep (putStep s c) c
  let s := ws.foldl (satisfy c.step sent c) s
  let started := s.time + 1
  let s := { s with dur := { s.dur with
    writing := s.dur.writing.filter fun e => !(c.tiles.any fun t => t.handle == e.1 && t.number == e.2.1)
    freed := (0, 0), lastStart := started, lastWarn := if s.dur.due = 2 then started else s.dur.lastWarn, due := 0 } }
  if s.work.any waitsForStep then askCheckpoint s else s

/-- The flash store takes the step: it is not READ_ONLY, and the reserve and the shared space hold what is written back. -/
def stepFits (s : State) : Bool :=
  reg s .durFlashState != 3 &&
    decide (t4Used s true + t4Used s false + tileBytes * (toStore s).length ≤ t4Reserve s + t4Shared s)

/-- CHECKPOINT_START (R428, R431): a checkpoint that is due. Durable lodged tiles are adopted first: while one is away it asks for it and
starts again when it is run again. -/
def execCheckpointStart (s : State) : Host.Outcome State Fault Refusal :=
  act s <| whenRunning fun s =>
    if s.dur.due = 0 then s
    else if !stepFits s then
      let s := failAll s waitsForStep stNoSpace
      { s with dur := { s.dur with due := 0, lastStart := s.time + 1 } }
    else if (toAdopt s).isEmpty then runStep s
    else (toAdopt s).foldl requestTile s

/-! ### The buddy (R438 to R443) -/

/-- Receive a stream record of a type from a peer. -/
def receiveStream (pbr : Nat) (rec : List Byte) (type : Nat) (f : State → Nat → List Byte → State) (s : State) : State :=
  match peerOfPbr s pbr with
  | none => event s 0x0501 0 0xFFFF 0 (locate 11 0 0 0 pbr) [pbr]
  | some i =>
    let r := slice rec 0 128
    let org := regGet s .cxlPeerMapOrigin i
    if !streamCheck r then countReg s .fltPeerBadCount 0 1
    else if field r 0 1 ≠ type then s
    else f (tracePeer s 0x07 org 1 type (field r 24 8)) org r

/-- Works that wait for the buddy end when it is away: hand-overs CONFLICT, CHECKPOINT DONE_TRUNCATED (R431, R442). -/
def endWaits (s : State) : State :=
  (s.work.filter inFlight).foldl (fun s w =>
    match w.hdr.opcode, w.tally with
    | 0x04, [_] => fail s w.id stConflict
    | 0x05, [2, _] => fail (closeClaim s (opr w 0 8)) w.id stConflict
    | 0x28, [_, _, _] => done s w.id stTruncated (stepResult w.tally)
    | _, _ => s) s

/-- The buddy is unreachable (2), or has refused (3): one event for an outage, with the reason of a refusal as DETAIL (R439, R442). -/
def buddyLost (s : State) (code : Nat) : State :=
  if buddy s = 0 then s
  else
    let was := reg s .durBuddyState
    let s := setReg s .durBuddyState code
    endWaits (if was = 1 then event s 0x0703 0 0xFFFF 0 (locate 11 0 0 0 (buddy s)) [code / 3] else s)

/-- BUDDY_TIMEOUT (R442): a record or a step has waited for its ACK for too long. Log 123 (DEDUCED). -/
def execBuddyTimeout (s : State) : Host.Outcome State Fault Refusal :=
  act s <| whenRunning fun s =>
    if reg s .durBuddyState = 1 ∧ (!s.dur.unacked.isEmpty ∨ !s.dur.ships.isEmpty) then buddyLost s 2 else s

/-- Send every unacknowledged record again, unchanged. -/
def resend (s : State) : State :=
  s.dur.unacked.foldl (fun s r => tracePeer (emit s (.stream (buddy s) r.2)) 0x06 (buddy s) 1 (field r.2 0 1) r.1) s

/-- BUDDY_RETRY (R439): the device tries a buddy that is away again. -/
def execBuddyRetry (s : State) : Host.Outcome State Fault Refusal :=
  act s <| whenRunning fun s => if buddy s ≠ 0 ∧ 2 ≤ reg s .durBuddyState then resend s else s

/-- The lease end that an acknowledged LEASE record carries (R441). -/
def leaseOf (l : List (Nat × List Byte)) : Nat := (l.filter fun r => field r.2 0 1 == 3).foldl (fun m r => max m (field r.2 40 8)) 0

/-- Works that waited for an acknowledgment go on (R341, R431, R442). -/
def goOn (s : State) (q : Nat) : State :=
  (s.work.filter inFlight).foldl (fun s w =>
    match w.hdr.opcode, w.tally with
    | 0x04, [k] => if k ≤ q then runOffer s w else s
    | 0x05, [2, k] => if k ≤ q then acceptEnd s w else s
    | 0x28, [n, _, _] => if n ≤ s.dur.shipped then done s w.id stDone (stepResult w.tally) else s
    | _, _ => s) s

/-- STREAM_ACK (R440 to R443): records and steps up to SEQ are the buddy's; it is reachable, and what waits is sent. -/
def execStreamAck (pbr : Nat) (rec : List Byte) (s : State) : Host.Outcome State Fault Refusal :=
  act s <| whenRunning <| receiveStream pbr rec 0x04 fun s org r =>
    if org ≠ buddy s ∨ buddy s = 0 then s
    else
      let q := field r 24 8
      let got := s.dur.unacked.filter fun e => decide (e.1 ≤ q)
      let steps := (s.dur.ships.filter fun e => decide (e.1 ≤ q)).map (·.2)
      let away := reg s .durBuddyState != 1
      let s := { s with
        nv := { s.nv with leaseEnd := max s.nv.leaseEnd (leaseOf got) }
        dur := { s.dur with
          acked := max s.dur.acked q, unacked := s.dur.unacked.filter fun e => decide (q < e.1)
          ships := s.dur.ships.filter fun e => decide (q < e.1), shipped := steps.foldl max s.dur.shipped
          gaps := if steps.isEmpty then s.dur.gaps else [] } }
      let s := setReg s .durBuddyState 1
      goOn (if away then resend s else s) q

/-- LOG_RECORD_FLUSH (R441): the oldest unsent entry goes out with those of its subject. -/
def execLogRecordFlush (s : State) : Host.Outcome State Fault Refusal :=
  act s <| whenRunning fun s =>
    match s.dur.logBuf with
    | [] => s
    | e :: _ => sendLog s e.1

/-- Works that wait for a buddy's acknowledgment turn to the new buddy, or need none. -/
def turnWaits (s : State) : State :=
  (s.work.filter inFlight).foldl (fun s w =>
    match w.hdr.opcode, w.tally with
    | 0x04, [_] => updWork s w.id fun w => { w with tally := [] }
    | 0x05, [2, _] =>
      match w.effects.findSome? fun e => match e with
          | .openSubject x => some x
          | _ => none with
      | none => s
      | some x =>
        match sendOwn s x.handle x.own with
        | (s, none) => acceptEnd s w
        | (s, some q) => updWork s w.id fun w => { w with tally := [2, q] }
    | 0x28, [_, _, _] => done s w.id (if buddy s = 0 then stDone else stTruncated) (stepResult w.tally)
    | _, _ => s) s

/-- A buddy is named (R438): what waited for the old one is dropped, and the new one starts from a whole step (R443, R445). -/
def nameBuddy (s : State) (o : Nat) : State :=
  let s := setReg (setReg s .durBuddyOrigin o) .durBuddyState (if o = 0 then 0 else 1)
  let s := { s with dur := { s.dur with
    unacked := [], ships := [], shipped := 0, gaps := [], logBuf := if o = 0 then [] else s.dur.logBuf } }
  warn (turnWaits s) 6

/-- BUDDY_ORIGIN_WRITE (R438, R445). -/
def execBuddyOriginWrite (_path : Path) (origin : Nat) (s : State) : Host.Outcome State Fault Refusal :=
  act s <| whenRunning fun s => nameBuddy s (origin % 2 ^ 24)

/-! ### Fostering (R438 to R440, R443, R444) -/

/-- The copy of a fostered origin. -/
def fosterOf (s : State) (o : Nat) : Option Foster := s.dur.fosters.find? fun f => f.origin == o

/-- Put a fostered origin. -/
def putFoster (s : State) (f : Foster) : State :=
  { s with dur := { s.dur with fosters := s.dur.fosters.filter (fun x => x.origin != f.origin) ++ [f] } }

/-- REFUSE on the stream (R439, R444). -/
def refuseStream (s : State) (dest o reason : Nat) : State :=
  emit s (.stream dest (streamBytes 0x06 0 0 o 0 0 (reg s .durGenGen) s.dur.streamSeq [byte reason]))

/-- ACK: the highest SEQ received in order. -/
def sendAck (s : State) (dest : Nat) (f : Foster) : State :=
  match f.next with
  | some n =>
    if n = 0 then s
    else tracePeer (emit s (.stream dest (streamBytes 0x04 0 0 f.origin 0 0 (reg s .durGenGen) (n - 1) []))) 0x06 dest 1 0x04 (n - 1)
  | none => s

/-- NOT_FOSTERED, at most once in 10 ms for an origin, with its event (R439). -/
def refuseFoster (s : State) (dest o : Nat) : State :=
  if s.dur.lastRefusal.any fun e => e.1 == o && decide (s.time < e.2 + 10000000) then s
  else
    let s := { s with dur := { s.dur with lastRefusal := aset s.dur.lastRefusal o s.time } }
    event (refuseStream s dest o 1) 0x0703 0 0xFFFF 0 (locate 11 0 0 0 o) []

/-- The SEQs that a fostered origin's records and steps carry. -/
def seqsOf (f : Foster) : List Nat := f.records.map (fun r => field r 24 8) ++ f.steps.map (·.seq)

/-- The SEQ that follows the highest received in order, with the number of SEQs as fuel. -/
def advance : Nat → Nat → List Nat → Nat
  | 0, n, _ => n
  | k + 1, n, l => if n ∈ l then advance k (n + 1) l else n

/-- A fostered origin has received a SEQ. -/
def heardSeq (f : Foster) (q now : Nat) : Foster :=
  let n := f.next.getD q
  { f with next := some (advance (seqsOf f).length n (seqsOf f)), heard := now }

/-- Store what an origin sends: fostered ones, or a new one while there are fewer than four (R439); from the PBR ID whose take-over was
served nothing is taken (R444). -/
def fosterFor (s : State) (pbr dest o : Nat) (f : State → Foster → State) : State :=
  match fosterOf s o with
  | some x => if x.served && x.pbr == pbr then s else f s x
  | none =>
    if s.dur.fosters.length < 4 then
      f s { origin := o, steps := [], records := [], heard := s.time, served := false, pbr := pbr, next := none }
    else refuseFoster s dest o

/-- A stream record of an origin is stored and acknowledged. -/
def storeRecord (pbr : Nat) (s : State) (org : Nat) (r : List Byte) : State :=
  fosterFor s pbr org (field r 4 3) fun s x =>
    let q := field r 24 8
    let known := q ∈ seqsOf x ∨ x.next.any (fun n => decide (q < n))
    let y := heardSeq { x with records := if known then x.records else x.records ++ [r], pbr := pbr } q s.time
    sendAck (putFoster s y) org y

/-- STREAM_LOG (R440). -/
def execStreamLog (pbr : Nat) (rec : List Byte) (s : State) : Host.Outcome State Fault Refusal :=
  act s <| whenRunning <| receiveStream pbr rec 0x01 fun s org r => storeRecord pbr s org r

/-- STREAM_OWN (R440). -/
def execStreamOwn (pbr : Nat) (rec : List Byte) (s : State) : Host.Outcome State Fault Refusal :=
  act s <| whenRunning <| receiveStream pbr rec 0x02 fun s org r => storeRecord pbr s org r

/-- STREAM_LEASE (R441). -/
def execStreamLease (pbr : Nat) (rec : List Byte) (s : State) : Host.Outcome State Fault Refusal :=
  act s <| whenRunning <| receiveStream pbr rec 0x03 fun s org r => storeRecord pbr s org r

/-- What a fosterer is sent beside manifests: a stored tile, or a tree page of 16 KiB (R438, R443). -/
def isPage (b : List Byte) : Bool := b.length == payloadBytes

/-- The name of a stored tile: handle and number; a tree page goes by its own content. -/
def imageName (b : List Byte) : (Nat × Nat) × List Byte := if isPage b then ((0, 0), b) else ((field b 0 8, field b 8 3), [])

/-- Stored images with new ones in place of those of the same name. Log 124 (DEDUCED). -/
def mergeImages (old new : List (List Byte)) : List (List Byte) :=
  old.filter (fun b => !(new.any fun x => imageName x == imageName b)) ++ new

/-- A shipped step joins what is held: the two newest steps stay, and records from before the older one go (R443). -/
def addStep (f : Foster) (c : FosterStep) : Foster :=
  match f.steps with
  | [] => { f with steps := [c] }
  | p :: _ => { f with steps := [c, p], records := f.records.filter fun r => decide (p.seq < field r 24 8) }

/-- SHIPPED_STEP (R443): stored, and acknowledged once everything that the step names is held. -/
def execShippedStep (pbr origin seq : Nat) (manifest : List Byte) (tiles : List (List Byte)) (s : State) :
    Host.Outcome State Fault Refusal :=
  act s <| whenRunning fun s =>
    match peerOfPbr s pbr with
    | none => event s 0x0501 0 0xFFFF 0 (locate 11 0 0 0 pbr) [pbr]
    | some i =>
      let org := regGet s .cxlPeerMapOrigin i
      if !isManifest manifest then s
      else
        fosterFor s pbr org origin fun s f =>
          let images := mergeImages (((f.steps.head?).map (·.images)).getD []) tiles
          let c : FosterStep := { step := manifestStep manifest, seq := seq, manifest := manifest, images := images }
          let newer := f.steps.all fun p => decide (p.step < c.step)
          let whole := decide (manifestTiles manifest ≤ (images.filter fun b => !isPage b).length)
          if newer && whole then
            let g := heardSeq (addStep { f with pbr := pbr } c) seq s.time
            sendAck (putFoster s g) org g
          else putFoster s { f with heard := s.time, pbr := pbr }

/-- FOSTER_RELEASE (R439). -/
def execFosterRelease (_path : Path) (origin : Nat) (s : State) : Host.Outcome State Fault Refusal :=
  act s <| whenRunning fun s => { s with dur := { s.dur with fosters := s.dur.fosters.filter fun f => f.origin != origin % 2 ^ 24 } }

/-- An object that FETCH names (R440): slot A holds the odd step, B the even one. -/
def fetchedObject (s : State) (f : Foster) (object loc : Nat) : Option (List Byte) :=
  match object with
  | 0 => (f.steps.find? fun c => c.step % 2 == 1).map (·.manifest)
  | 1 => (f.steps.find? fun c => c.step % 2 == 0).map (·.manifest)
  | 3 => some f.records.flatten
  | 4 => some (slice (Config.bytes s.free) 0 (Config.bytes s.free).length)
  | _ => (f.steps.flatMap (·.images)).find? fun b => isPage b == (object == 2) && Config.location b == loc

/-- STREAM_FETCH (R444): served once the origin has been silent, with the object written to the requester's stream window.
Log 125 (DEDUCED). -/
def execStreamFetch (pbr : Nat) (rec : List Byte) (s : State) : Host.Outcome State Fault Refusal :=
  act s <| whenRunning <| receiveStream pbr rec 0x05 fun s org r =>
    let o := field r 4 3
    match fosterOf s o with
    | none => refuseStream s org o 1
    | some f =>
      if s.time < f.heard + 1000000 * reg s .durBuddyCfgSilence then refuseStream s org o 2
      else
        let s := putFoster s { f with served := f.served || f.pbr != pbr }
        match fetchedObject s f (field r 40 1) (field r 48 8) with
        | none => s
        | some b => emit (takeFree s) (.aperture org (field r 56 8) b)

/-! ### RESTORE (R432 to R437) -/

/-- The buddy that a RESTORE reads from. -/
def restoreBuddy (s : State) (w : Work) : Nat := if opr w 16 3 = 0 then buddy s else opr w 16 3

/-- Reply offsets of the objects that a RESTORE fetches: manifests of both slots, certificate, log tail. -/
def fetchReplies : List (Nat × Nat) := [(0, 0x80000), (1, 0x88000), (4, 0x90000), (3, 0xA0000)]

/-- Ask a buddy for the objects of an origin's copy. -/
def sendFetches (s : State) (w : Work) (b o : Nat) : State :=
  let s := fetchReplies.foldl (fun s f =>
    let body := [byte f.1] ++ zeros 15 ++ leBytes 8 f.2
    emit s (.stream b (streamBytes 0x05 0 0 o 0 0 (reg s .durGenGen) s.dur.streamSeq body))) s
  let s := { s with dur := { s.dur with
    fetches := s.dur.fetches ++ fetchReplies.map (fun f => (w.id, f.1, f.2))
    fetched := s.dur.fetched.filter fun e => !(fetchReplies.any fun f => f.2 == e.1) } }
  updWork s w.id fun w => { w with tally := [1] }

/-- FETCH_REPLY (R440): an object that was asked for arrives in the stream window. -/
def execFetchReply (off : Nat) (body : List Byte) (s : State) : Host.Outcome State Fault Refusal :=
  act s <| whenRunning fun s =>
    if s.dur.fetches.any fun f => f.2.2 == off then
      { s with dur := { s.dur with
          fetches := s.dur.fetches.filter fun f => f.2.2 != off, fetched := aset s.dur.fetched off body } }
    else s

/-- A RESTORE's fetches and what they brought are forgotten. -/
def endFetches (s : State) (id : Nat) : State :=
  { s with dur := { s.dur with fetches := s.dur.fetches.filter fun f => f.1 != id, fetched := [] } }

/-- STREAM_REFUSE (R439, R444): ORIGIN_ALIVE ends the RESTORE that asked with CONFLICT; NOT_FOSTERED ends it without a step, and makes the
device's own buddy unreachable. -/
def execStreamRefuse (pbr : Nat) (rec : List Byte) (s : State) : Host.Outcome State Fault Refusal :=
  act s <| whenRunning <| receiveStream pbr rec 0x06 fun s org r =>
    let asking := s.work.find? fun w => isOp 0x29 w && inFlight w && w.tally == [1] && restoreBuddy s w == org &&
      s.dur.fetches.any fun f => f.1 == w.id
    match field r 40 1, asking with
    | 2, some w => fail (endFetches s w.id) w.id stConflict
    | 1, some w => fail (endFetches s w.id) w.id stNoStep
    | 1, none => if org = buddy s then buddyLost s 3 else s
    | _, _ => s

/-- The newest candidate, or the one of the step asked for (R432). -/
def pickStep (l : List CkptStep) (want : Nat) : Option CkptStep := bestBy (·.step) (l.filter fun c => want == 0 || c.step == want)

/-- The slots whose manifest and trees verify. -/
def goodSlots (s : State) (okA okB : Bool) : List CkptStep :=
  (if okA then s.dur.slotA.toList else []) ++ (if okB then s.dur.slotB.toList else [])

/-- The manifest chosen among those fetched for an origin (R432). -/
def pickManifest (s : State) (okA okB : Bool) (o want : Nat) : Option (List Byte) :=
  let at' := fun off => (aget s.dur.fetched off).toList
  bestBy manifestStep (((if okA then at' 0x80000 else []) ++ (if okB then at' 0x88000 else [])).filter fun m =>
    isManifest m && manifestOrigin m == o && field m 11 1 == reg s .sysIdModel && (want == 0 || manifestStep m == want))

/-- Attached pages of regions that are not here are ABSENT. -/
def withoutRegions (s : State) (x : Subject) : Subject :=
  let here := fun g : Page => g.region.all fun r => s.subjects.any fun y => y.handle == r
  let page := fun g : Page => if here g ∨ g.state = 0 then g else { g with state := 3, valid := 0, region := none }
  { x with maps := x.maps.map fun l => { l with pages := l.pages.map page } }

/-- A subject as a restore brings it back: PARKED if it is a session, with its drafter state gone (R436, R81). -/
def broughtBack (x : Subject) : Subject := withoutKv { x with state := if x.kind = .session then 2 else 1, draft := none, closed := false }

/-- Entries of a LOG record (R440): decrypted under the slot's key. -/
def logEntries (s : State) (r : List Byte) : List Nat :=
  let key := keyOf s (bits (field r 2 2) 11 0)
  let tweak := shake 16 (ascii "PB-LOG" ++ slice r 4 3 ++ slice r 20 4 ++ slice r 8 8 ++ slice r 16 4)
  unpackNats 4 (min 22 (field r 1 1)) (Config.xtsInv key tweak (slice r 40 88)) 0

/-- Append one replayed entry as APPEND_TOKENS would (R253, R255, R437). -/
def replayEntry (v : Voc) (x : Subject) (e : Nat) : Subject :=
  let src := bits e 31 30
  let tok := bits e 17 0
  if src = 0 ∨ src = 2 then { x with log := x.log ++ [e], text := endTurn x.text (x.log.length + 1) }
  else
    let r := appendSampled v x.text x.log.length x.text.includeStop false false [(src, tok)]
    { x with log := x.log ++ [e], text := r.text }

/-- Replay a log tail on a session, up to its first gap (R437). Log 127 (DEDUCED). -/
def replay (s : State) (records : List (List Byte)) (x : Subject) : Subject :=
  match vocById s x.vocab with
  | none => x
  | some v =>
    (records.filter fun r => field r 0 1 == 1 && field r 8 8 == x.handle).foldl (fun x r =>
      let first := field r 16 4
      let es := logEntries s r
      if first ≤ x.log.length then (es.drop (x.log.length - first)).foldl (replayEntry v) x else x) x

/-- The tiles that a replayed tail changes, as new versions. -/
def replayTiles (old new : Subject) : List Tile :=
  if old.log.length = new.log.length then []
  else logTiles new old.log.length new.log.length ++ textTiles new old.text new.text ++ headTiles new

/-- End a RESTORE SESSION with the subject and its tiles, whose version base rises by 2^32 before the first write (R63). -/
def restoreEnd (s : State) (w : Work) (x y : Subject) (tiles : List Tile) (records : List (List Byte)) (step : Nat) : State :=
  let rise := max (x.vfloor + x.raise) (y.vfloor + y.raise) - y.vfloor + 2 ^ 32
  let y := withoutRegions s { y with index := x.index, own := x.own, homeBed := x.homeBed, raise := rise }
  let z := if opr w 9 1 % 2 = 1 ∧ y.kind = .session then replay s records y else y
  let writes := replayTiles y z
  if !durableRoom s writes.length && !writes.isEmpty then fail (endFetches s w.id) w.id stNoSpace
  else conclude (endFetches s w.id) w stDone (leBytes 8 step) [] [.restore z tiles writes]

/-- A durable tile of a local step: it lies in T4 alone. -/
def stepTile (s : State) (t : Tile) : Tile := { t with lastUse := tick s, copies := t.copies.filter fun c => c.tier == 4 }

/-- The check of RESTORE SESSION (R435). -/
def restoreChks (s : State) (w : Work) : List Chk :=
  [chk (anySlot s w && decide (opr w 8 1 = 0) && reservedClear w [(0, 10), (12, 3), (16, 3), (24, 8)] && decide (opr w 9 1 < 4) &&
     opr w 12 3 == 0) stBad]

/-- RESTORE SESSION: a local step first, then the buddy's copy of this device (R435). -/
def runRestoreSession (okA okB buddyA buddyB : Bool) (map : MapArg) (records : List (List Byte)) (s : State) (w : Work) : State :=
  let h := opr w 0 8
  let f := opr w 9 1
  checked s w (restoreChks s w) fun s =>
      match heldFor s w.hdr.keySlot h with
      | none => fail s w.id stNotOwner
      | some x =>
        if x.state ≠ 5 then fail s w.id stConflict
        else
          let here := (pickStep (goodSlots s okA okB) (opr w 24 8)).bind fun c => (c.subjects.find? fun y => y.handle == h).map fun y => (c, y)
          let b := restoreBuddy s w
          let away := f / 2 % 2 == 0 && b != 0 && (peerEntry s b).isSome
          if away && (here.isNone || f % 2 == 1) && w.tally == [] then sendFetches s w b (origin s)
          else if s.dur.fetches.any fun e => e.1 == w.id then s
          else
            match here with
            | some (c, y) =>
              restoreEnd s w x (broughtBack y) ((c.tiles.filter fun t => t.handle == h).map (stepTile s)) records c.step
            | none =>
              match (if away then pickManifest s buddyA buddyB (origin s) (opr w 24 8) else none), subjectFrom s map h x.index with
              | some m, some y => restoreEnd s w x (broughtBack y) (tilesFrom map y b) records (manifestStep m)
              | _, _ => fail (endFetches s w.id) w.id stNoStep

/-- RESTORE_SESSION (R435). -/
def execRestoreSession (work : Nat) (okA okB buddyA buddyB : Bool) (map : MapArg) (records : List (List Byte)) (s : State) :
    Host.Outcome State Fault Refusal :=
  act s <| runWork work (isFirstMode 0x29 8 2) (durably (runRestoreSession okA okB buddyA buddyB map records))

/-- The newest OWN record of a subject in the log tail (R436). -/
def streamedOwn (records : List (List Byte)) (h : Nat) : Option OwnRec :=
  ((records.filter fun r => field r 0 1 == 2 && field r 8 8 == h).getLast?).map fun r => ownFrom (slice r 40 32)

/-- Handles of the subjects that a step's maps bring. -/
def mapHandles (map : MapArg) : List Nat :=
  ((map.heads.filter fun b => b.length == 64 || field b 8 3 == 0).map fun b => field b 0 8).dedup

/-- A trace that a take-over brings back: its tiles stay where they lie. -/
def restoredTrace (s : State) (b : Nat) (map : MapArg) (x : Subject) (o : OwnRec) : State :=
  { s with own := { s.own with
      traces := s.own.traces ++ [{ handle := x.handle, own := o, since := s.time, subject := x }]
      lodged := s.own.lodged ++ tilesFrom map x b } }

/-- Tiles that a take-over adopts at once: HEAD, TEXT_STATE and the last TOKEN_LOG tile (R436 step 4). -/
def adoptedFirst (x : Subject) (t : Tile) : Bool :=
  t.kind == 1 || t.kind == 2 || (t.kind == 4 && t.number == 0x1000 + (x.log.length - 1) / 4096)

/-- Restore a subject of a step, by the newest record of its ownership (R436). -/
def restoreOne (b : Nat) (map : MapArg) (table : List TableArg) (records : List (List Byte)) (rep : Bool) (s : State) (h : Nat) : State :=
  let e := table.find? fun e => e.handle == h
  match subjectFrom s map h ((e.map (·.index)).getD ((freeIndex s).getD 0)) with
  | none => s
  | some x =>
    let x := { broughtBack x with homeBed := (e.map (·.homeBed)).getD 0, raise := x.raise + 2 ^ 32 }
    let o := (streamedOwn records h).getD x.own
    if o.state = 2 ∨ (o.state = 1 ∧ o.granted) then restoredTrace s b map x o
    else
      let own := if o.state = 1 then reclaimed s o else o
      let x := { x with own := own }
      let z := if rep then replay s records x else x
      let s := { s with subjects := s.subjects ++ [z], tiles := s.tiles ++ tilesFrom map x b }
      let s := ((tilesOf s h).filter fun t => t.version != 0 && adoptedFirst x t).foldl (fun s t => adopt s t [] 0 none) s
      let s := (replayTiles x z).foldl commitNow s
      if o.state = 1 then touchMap (sendNotice (sendOwn s h own).1 0x14 own.epoch h 0) h else s

/-- A subject that was accepted or opened after the step: DAMAGED, with its ownership record alone; or a trace (R436). -/
def restoreLate (s : State) (h : Nat) (o : OwnRec) : State :=
  let x := { Subject.blank ((freeIndex s).getD 0) h 0 .session with own := o, state := 5 }
  if o.state = 0 then { s with subjects := s.subjects ++ [x] }
  else if o.granted ∨ o.state = 2 then restoredTrace s 0 { heads := [], leaves := [], pages := [] } x o
  else
    let own := reclaimed s o
    sendNotice (sendOwn { s with subjects := s.subjects ++ [{ x with own := own }] } h own).1 0x14 own.epoch h 0

/-- Bind the windows of restored regions, and the views of the step's window table. -/
def restoreWindows (s : State) (views : List ViewArg) : State :=
  let regions := s.subjects.flatMap fun x =>
    if x.kind = .buffer then (List.range x.windows).map fun k => (x.firstWindow + k, Binding.region x.handle k) else []
  let shown := (views.filter fun v => s.subjects.any fun x => x.handle == v.handle).map fun v => (v.window, Binding.view v.handle v.base)
  { s with windows := regions ++ shown }

/-- Rebuild the state of the lost device (R436, R437). Log 126 (DEDUCED). -/
def takeOver (s : State) (w : Work) (b : Nat) (m : List Byte) (map : MapArg) (table : List TableArg) (views : List ViewArg)
    (records : List (List Byte)) : State :=
  let lease := (records.filter fun r => field r 0 1 == 3).foldl (fun n r => max n (field r 40 8)) (field m 32 8)
  let s := setReg s .durGenGen ((field m 12 4 + 1) % 2 ^ 32)
  let s := setReg { s with nv := { s.nv with serial := lease, leaseEnd := lease, noStep := false } } .durCkptStatStep (manifestStep m)
  let hs := mapHandles map
  let rep := opr w 9 1 % 2 == 1
  let s := (hs.filter fun h => (regionIn map h).isSome || !((imageIn map h 0).all fun i => field i 172 4 == 0)).foldl (restoreOne b map table records rep) s
  let s := (hs.filter fun h => !(s.subjects.any fun x => x.handle == h) && !(s.own.traces.any fun t => t.handle == h)).foldl
    (restoreOne b map table records rep) s
  let late := ((records.filter fun r => field r 0 1 == 2).map fun r => field r 8 8).dedup.filter fun h => !(h ∈ hs)
  let s := late.foldl (fun s h => match streamedOwn records h with
    | none => s
    | some o => restoreLate s h o) s
  let damaged := (s.subjects.filter fun x => x.state == 5).length
  let s := dirBuild (restoreWindows s views)
  let s := { s with subjects := s.subjects.map (withoutRegions s) }
  warn (done (endFetches s w.id) w.id stDone (leBytes 8 (manifestStep m) ++ leBytes 4 s.subjects.length ++ leBytes 4 damaged)) 6

/-- The first key slot of a manifest's SLOT_MAP that is not ACTIVE. -/
def missingSlot (s : State) (m : List Byte) : Option Nat :=
  let n := field m 128 512
  (List.range 4096).find? fun k => bit n k && !slotActive s k

/-- The checks of RESTORE TAKEOVER (R436). -/
def takeoverChks (s : State) (w : Work) : List Chk :=
  let lost := opr w 12 3
  [chk (anySlot s w && reservedClear w [(0, 10), (12, 3), (16, 3), (24, 8)] && opr w 0 8 == 0 && decide (opr w 9 1 < 2)) stBad,
   chk s.subjects.isEmpty stConflict, chk (lost == origin s && lost != 0) stBad]

/-- RESTORE TAKEOVER: the buddy's manifests are fetched, then the chosen step is rebuilt (R436). -/
def runRestoreTakeover (okA okB : Bool) (map : MapArg) (table : List TableArg) (views : List ViewArg) (records : List (List Byte))
    (s : State) (w : Work) : State :=
  let lost := opr w 12 3
  let b := restoreBuddy s w
  checked s w (takeoverChks s w) fun s =>
      if b = 0 ∨ (peerEntry s b).isNone then fail s w.id stNoStep
      else if w.tally = [] then sendFetches s w b lost
      else if s.dur.fetches.any fun e => e.1 == w.id then s
      else
        match pickManifest s okA okB lost (opr w 24 8) with
        | none => fail (endFetches s w.id) w.id stNoStep
        | some m =>
          match missingSlot s m with
          | some k => fail (event (endFetches s w.id) 0x0704 0 k 0 0 [k]) w.id stBad
          | none => takeOver s w b m map table views records

/-- RESTORE_TAKEOVER (R436). -/
def execRestoreTakeover (work : Nat) (okA okB : Bool) (map : MapArg) (table : List TableArg) (views : List ViewArg)
    (records : List (List Byte)) (s : State) : Host.Outcome State Fault Refusal :=
  act s <| runWork work (isMode 0x29 8 1) (durably (runRestoreTakeover okA okB map table views records))

/-! ### A store without a consistent step (R425, R516) -/

/-- DISCARD (R516): the store is given up, and the device opens sessions again. -/
def execDiscard (_path : Path) (s : State) : Host.Outcome State Fault Refusal :=
  act s <| whenRunning fun s =>
    if s.nv.noStep then
      { s with nv := { s.nv with noStep := false }, dur := { s.dur with slotA := none, slotB := none } }
    else s

end Sys2Proof.Machine
end

