-- ==== Sys2Proof/Machine/NearMem.lean ====
section
/-! DEFINITION. Near-memory operations (R333 to R337): FILL, COPY, COMPARE and REDUCE, and REDUCE on a scorer unit (R23). -/

namespace Sys2Proof.Machine

/-! ### Operands -/

/-- The largest LENGTH in bytes, and the largest COUNT of elements (R335, R336). -/
def lengthMax : Nat := 2 ^ 40
def countMax : Nat := 2 ^ 38

/-- Two operands given in the same form overlap (R333). -/
def overlaps (a : Addr) (la : Nat) (b : Addr) (lb : Nat) : Bool :=
  match a, b with
  | .state x, .state y => spansMeet x la y lb
  | .fabric x, .fabric y => spansMeet x la y lb
  | _, _ => false

/-- A fabric operand stays clear of T3 ranges that hold encrypted tiles (R334). -/
def clearOfT3 (s : State) (a : Addr) (len : Nat) : Bool :=
  match a with
  | .fabric f => !inT3 s f len
  | _ => true

/-- The checks of the operands, with their lengths and whether they are written: the opcode's own before the reach (R302, R310, R334). -/
def operandChks (s : State) (w : Work) (l : List (Addr × Nat × Bool)) : List Chk :=
  chk (l.all fun o => clearOfT3 s o.1 o.2.1) stBad :: l.map fun o => reachChk s w o.1 o.2.1 o.2.2

/-- Lodged tiles that an operand reads, but for one that must be resident. -/
def lodgedRead (s : State) (resident : Bool) (a : Addr) (len : Nat) : List Tile := if resident then [] else operandLodged s a len

/-- Frames of a destination that are written in part. -/
def partFrames (off len : Nat) : List Nat :=
  (spanFrames off len).filter fun f => decide (f < off) || decide (off + len < f + 16384)

/-- Run `f` once the destination can take a write: frames that are written in part have a valid copy, here. Log 71 (DEDUCED). -/
def withDest (s : State) (w : Work) (a : Addr) (len : Nat) (f : State → State) : State :=
  match a with
  | .state off =>
    let shown := (partFrames off len).map (shownAt s)
    if lostIn shown ≠ 0 then failChk s w { ok := false, status := stPoisoned, reason := lostIn shown }
    else
      fetched s w (shown.filterMap fun x => match x with
        | .lodged t => some t
        | _ => none) f
  | _ => f s

/-- RESIDENT_ONLY is set in the flags byte at an offset. -/
def residentOnly (w : Work) (off : Nat) : Bool := bit (opr w off 1) 0

/-! ### FILL, COPY and COMPARE (R335) -/

/-- The bytes of a pattern repeated over a length. -/
def patternBytes (p : List Byte) (n : Nat) : List Byte := (List.range n).map fun i => p.getD (i % 8) 0

/-- The checks of FILL (R333, R335). -/
def fillChks (s : State) (w : Work) : List Chk :=
  let n := opr w 8 8
  chk (reservedClear w [(0, 25)] && bits (opr w 24 1) 7 1 == 0 && decide (1 ≤ n) && decide (n ≤ lengthMax)) stBad ::
    operandChks s w [(addrOf (opr w 0 8), n, true)]

/-- FILL. -/
def runFill (s : State) (w : Work) : State :=
  let a := addrOf (opr w 0 8)
  let n := opr w 8 8
  checked s w (fillChks s w) fun s =>
    withDest s w a n fun s => shaped s w 0 (portBytes a n) fun s =>
      concludeOut s w stDone [] [] [] a (patternBytes (slice w.ops 16 8) n)

/-- FILL (R335). -/
def execFill (work : Nat) (s : State) : Host.Outcome State Fault Refusal := act s <| runWork work (isOp 0x20) runFill

/-- The checks of COPY (R333, R335). -/
def copyChks (s : State) (w : Work) : List Chk :=
  let a := addrOf (opr w 0 8)
  let d := addrOf (opr w 8 8)
  let n := opr w 16 8
  chk (reservedClear w [(0, 25)] && bits (opr w 24 1) 7 1 == 0 && decide (1 ≤ n) && decide (n ≤ lengthMax) && !overlaps a n d n) stBad ::
    operandChks s w [(a, n, false), (d, n, true)]

/-- COPY. -/
def runCopy (src : Fetch) (s : State) (w : Work) : State :=
  let a := addrOf (opr w 0 8)
  let d := addrOf (opr w 8 8)
  let n := opr w 16 8
  checked s w (copyChks s w) fun s =>
    withDest s w d n fun s => fetched s w (lodgedRead s (residentOnly w 24) a n) fun s => shaped s w (moveBytes s a n) (portBytes d n) fun s =>
      withOperand s w a n (residentOnly w 24) src fun s b => concludeOut s w stDone [] [] [] d b

/-- COPY (R335). -/
def execCopy (work : Nat) (src : Fetch) (s : State) : Host.Outcome State Fault Refusal := act s <| runWork work (isOp 0x21) (runCopy src)

/-- The offset of the first byte at which two strings of one length differ, or all ones. -/
def firstDiff (a b : List Byte) : Nat :=
  ((List.range a.length).find? fun i => a.getD i 0 != b.getD i 0).getD 0xFFFFFFFFFFFFFFFF

/-- The checks of COMPARE (R333, R335). -/
def compareChks (s : State) (w : Work) : List Chk :=
  let n := opr w 16 8
  chk (reservedClear w [(0, 25)] && bits (opr w 24 1) 7 1 == 0 && decide (1 ≤ n) && decide (n ≤ lengthMax)) stBad ::
    operandChks s w [(addrOf (opr w 0 8), n, false), (addrOf (opr w 8 8), n, false)]

/-- COMPARE. -/
def runCompare (fa fb : Fetch) (s : State) (w : Work) : State :=
  let a := addrOf (opr w 0 8)
  let b := addrOf (opr w 8 8)
  let n := opr w 16 8
  checked s w (compareChks s w) fun s =>
    let res := residentOnly w 24
    fetched s w (lodgedRead s res a n ++ lodgedRead s res b n) fun s => shaped s w (moveBytes s a n + moveBytes s b n) 0 fun s =>
      withOperand s w a n (residentOnly w 24) fa fun s x => withOperand s w b n (residentOnly w 24) fb fun s y =>
        finish s w.id stDone (leBytes 8 (firstDiff x y)) []

/-- COMPARE (R335). -/
def execCompare (work : Nat) (a b : Fetch) (s : State) : Host.Outcome State Fault Refusal :=
  act s <| runWork work (isOp 0x22) (runCompare a b)

/-! ### REDUCE (R336, R337) -/

/-- FP32 patterns of the elements of an operand: BF16 ones are widened exactly. -/
def elements32 (w : Work) (n : Nat) (b : List Byte) : List Nat :=
  if elemBytes w = 2 then (unpackNats 2 n b 0).map (65536 * ·) else unpackNats 4 n b 0

/-- A computed FP32 pattern as the destination's element: BF16 by rounding to nearest even, with saturation (R154). -/
def storeElem (w : Work) (v : Nat) : List Byte := if elemBytes w = 2 then leBytes 2 (bfRound v) else leBytes 4 v

/-- A FP32 pattern for an exact value; an exact 0 is negative only where every term of the sum is negative zero. -/
def roundSum (v : Int) (sh : Nat) (negZero : Bool) : Nat := if v = 0 ∧ negZero then 2 ^ 31 else fpRound v sh

/-- A + B (R337). -/
def addElem (a b : Nat) : Nat := roundSum (fpVal a + fpVal b) 0 (bit a 31 && bit b 31)

/-- A + ALPHA × B with the product formed exactly (R173). -/
def scaleAdd (alpha a b : Nat) : Nat :=
  roundSum (fpVal a * 2 ^ 149 + fpVal alpha * fpVal b) 149 (bit a 31 && (bit alpha 31 != bit b 31))

/-- The larger and the smaller of two elements; of equal ones the first. Log 76 (DEDUCED). -/
def maxElem (a b : Nat) : Nat := if fpVal a < fpVal b then b else a
def minElem (a b : Nat) : Nat := if fpVal b < fpVal a then b else a

/-- An elementwise function of two operands. -/
def reduceElem (func alpha a b : Nat) : Nat :=
  match func with
  | 0x00 => addElem a b
  | 0x01 => maxElem a b
  | 0x02 => minElem a b
  | _ => scaleAdd alpha a b

/-- Every partial sum in any order is a FP32 value, so the sum does not depend on the order: all terms are multiples of 2^k and
their magnitudes add up to less than 2^(k + 24), in units of 2^-149 / 2^sh. Log 77 (DESIGN CHOICE). -/
def orderFree (vs : List Int) (sh : Nat) : Bool :=
  let total := (vs.map (·.natAbs)).sum
  let k := max sh (bitLen total - 24)
  decide (total ≤ (fpVal fpMax).natAbs * 2 ^ sh) && vs.all fun v => v % (2 ^ k : Int) == 0

/-- A free FP32 number that is finite. -/
def freeFp (n : Nat) : Nat := let v := Config.number n % 2 ^ 32; if fpFinite v then v else 0

/-- A sum as FP32: its rounding where no order can change it, else the free value of this run (R175, R337). -/
def sumOf (free : Nat) (vs : List Int) (sh : Nat) (single : Bool) (negZero : Bool) : Nat :=
  if single || orderFree vs sh then roundSum vs.sum sh negZero else freeFp free

/-- Sum, or sum of squares. -/
def reduceSum (free func : Nat) (xs : List Nat) : Nat :=
  if func = 0x10 then sumOf free (xs.map fpVal) 0 (decide (xs.length ≤ 2)) false
  else sumOf free (xs.map fun x => fpVal x * fpVal x) 149 (decide (xs.length ≤ 1)) false

/-- Largest or smallest element with its lowest index. -/
def extremum (func : Nat) (xs : List Nat) : Nat × Nat :=
  let better := fun a b : Nat => if func = 0x11 then decide (fpVal b < fpVal a) else decide (fpVal a < fpVal b)
  (List.range xs.length).foldl (fun r i => if better (xs.getD i 0) r.1 then (xs.getD i 0, i) else r) (xs.headD 0, 0)

/-- The functions of R336: two operands with a destination; one operand with a result. -/
def elementwise (func : Nat) : Bool := func ∈ [0x00, 0x01, 0x02, 0x03, 0x20]
def reduction (func : Nat) : Bool := func ∈ [0x10, 0x11, 0x12, 0x13]

/-- The fields of REDUCE (R336). -/
def reduceFields (w : Work) : Bool :=
  let f := opr w 0 1
  let a := addrOf (opr w 8 8)
  let b := addrOf (opr w 16 8)
  let d := addrOf (opr w 24 8)
  let len := opr w 32 8 * elemBytes w
  (elementwise f || reduction f) && (if f = 0x20 then opr w 1 1 == 0 else opr w 1 1 == 0x10 || opr w 1 1 == 0x11) &&
    bits (opr w 2 1) 7 1 == 0 && reservedClear w [(0, 3), (4, 36)] &&
    (if f = 0x03 then fpFinite (opr w 4 4) else opr w 4 4 == 0) && (opr w 16 8 != 0) == elementwise f &&
    (opr w 24 8 != 0) == elementwise f && decide (1 ≤ opr w 32 8) && decide (opr w 32 8 ≤ countMax) &&
    (!elementwise f || ((!overlaps a len d len || opr w 8 8 == opr w 24 8) && (!overlaps b len d len || opr w 16 8 == opr w 24 8)))

/-- An input is non-finite: BAD_DESCRIPTOR with an event (R337). -/
def nonFinite (s : State) (w : Work) (i : Nat) : State := fail (workEvent s w 0x0105 [i]) w.id stBad

/-- Compute an elementwise function, or XOR. -/
def reduceTwo (s : State) (w : Work) (x y : List Byte) : State :=
  let n := opr w 32 8
  let d := addrOf (opr w 24 8)
  if opr w 0 1 = 0x20 then concludeOut s w stDone [] [] [] d ((List.range n).map fun i => x.getD i 0 ^^^ y.getD i 0)
  else
    let xs := elements32 w n x
    let ys := elements32 w n y
    match (List.range n).find? fun i => !fpFinite (xs.getD i 0) || !fpFinite (ys.getD i 0) with
    | some i => nonFinite s w i
    | none =>
      concludeOut s w stDone [] [] [] d
        ((List.range n).flatMap fun i => storeElem w (reduceElem (opr w 0 1) (opr w 4 4) (xs.getD i 0) (ys.getD i 0)))

/-- Compute a reduction to the result. -/
def reduceOne (s : State) (w : Work) (x : List Byte) : State :=
  let n := opr w 32 8
  let xs := elements32 w n x
  match (List.range n).find? fun i => !fpFinite (xs.getD i 0) with
  | some i => nonFinite s w i
  | none =>
    let f := opr w 0 1
    if f = 0x11 ∨ f = 0x12 then
      let r := extremum f xs
      finish s w.id stDone (leBytes 4 r.1 ++ zeros 4 ++ leBytes 8 r.2) []
    else finish (takeFree s) w.id stDone (leBytes 4 (reduceSum s.free f xs)) []

/-- Bytes of each operand of REDUCE (R336). -/
def reduceLen (w : Work) : Nat := opr w 32 8 * elemBytes w

/-- The checks of REDUCE (R333, R336). -/
def reduceChks (s : State) (w : Work) : List Chk :=
  let len := reduceLen w
  chk (reduceFields w) stBad :: operandChks s w ((addrOf (opr w 8 8), len, false) ::
    (if elementwise (opr w 0 1) then [(addrOf (opr w 16 8), len, false), (addrOf (opr w 24 8), len, true)] else []))

/-- REDUCE with a function of the device. -/
def runReduce (fa fb : Fetch) (s : State) (w : Work) : State :=
  let f := opr w 0 1
  let a := addrOf (opr w 8 8)
  let b := addrOf (opr w 16 8)
  let d := addrOf (opr w 24 8)
  let len := reduceLen w
  let two := elementwise f
  let res := residentOnly w 2
  checked s w (reduceChks s w) fun s =>
    if two then
      withDest s w d len fun s => fetched s w (lodgedRead s res a len ++ lodgedRead s res b len) fun s =>
        shaped s w (moveBytes s a len + moveBytes s b len) (portBytes d len) fun s =>
          withOperand s w a len res fa fun s x => withOperand s w b len res fb fun s y => reduceTwo s w x y
    else
      fetched s w (lodgedRead s res a len) fun s => shaped s w (moveBytes s a len) 0 fun s =>
        withOperand s w a len res fa fun s x => reduceOne s w x

/-- REDUCE (R336). -/
def execReduce (work : Nat) (a b : Fetch) (s : State) : Host.Outcome State Fault Refusal :=
  act s <| runWork work (fun w => isOp 0x23 w && decide (opr w 0 1 < 0x80)) (runReduce a b)

/-- REDUCE_SCORER (R23): the bound scorer unit's microcode ends with the status and the result that it comes to. -/
def execReduceScorer (work status : Nat) (result : List Byte) (s : State) : Host.Outcome State Fault Refusal :=
  act s <| runWork work (fun w => isOp 0x23 w && decide (0x80 ≤ opr w 0 1)) fun s w =>
    if status ≤ 0x0F then finish s w.id status result [] else s

end Sys2Proof.Machine
end

