-- ==== Sys2Proof/Machine/NvImage.lean ====
section
/-! DEFINITION. The NV image (ch. 19): its layout and checks, how a start applies its fields, trust lists and partitions, and its update. -/

namespace Sys2Proof.Machine

open Sys2Proof

/-! ### The entries of an image (R520) -/

/-- An entry of the FIELDS section: register and mask widened to the register's own bits, the selector to write, the value. -/
structure FieldEntry where
  off : Nat
  selReg : Nat
  sel : Nat
  value : Nat
  mask : Nat
deriving DecidableEq, Repr

/-- A FIELDS entry of 24 bytes: the half of the word that REG names gives the place of MASK and VALUE. -/
def fieldEntry (e : List Byte) : FieldEntry :=
  let o := field e 0 4
  let sh := 2 ^ (64 * wordOf (o / 8 * 8) + (if o % 8 = 4 then 32 else 0))
  { off := o / 8 * 8, selReg := field e 4 4, sel := field e 8 4, value := field e 12 4 * sh, mask := field e 16 4 * sh }

/-- The FIELDS entries of an image, in order. -/
def fieldEntries (b : List Byte) : List FieldEntry := (entriesOf b 1 24).map fieldEntry

/-- The bits of the register that a field occupies, `up` bits higher for the second port. -/
def fieldMask (f : Fld) (up : Nat) : Nat := (2 ^ ((fldSpec f).hi + 1) - 2 ^ (fldSpec f).lo) * 2 ^ up

/-- The fields of the register that an entry's mask touches, with the array element and the place of the port. -/
def entryFields (e : FieldEntry) : List (Fld × Nat × Nat) :=
  (fieldsAt e.off).flatMap fun x => (elements x.1 x.2.2).filterMap fun y =>
    if (e.mask &&& fieldMask x.1 y.2) = 0 then none else some (x.1, y.1, y.2)

/-- The value that an entry gives a field: the bits of MASK from VALUE, the others as they are. -/
def maskedValue (e : FieldEntry) (f : Fld) (up old : Nat) : Nat :=
  let lo := (fldSpec f).lo + up
  let m := (e.mask &&& fieldMask f up) / 2 ^ lo
  (old - (old &&& m)) + (e.value / 2 ^ lo &&& m)

/-- SEL is written to the selector that SEL_REG names. -/
def selectEntry (s : State) (e : FieldEntry) : State :=
  if (fieldsAt e.selReg).all fun x => (fldSpec x.1).sel == .perPath then writeWord s .mb e.selReg 4 e.sel else s

/-- Fields, entries and new values that an entry of an image sets. -/
def entryHits (s : State) (e : FieldEntry) : List (Fld × Nat × Nat) :=
  (entryFields e).filterMap fun x => (entryOf s .mb x.1 x.2.1).map fun i => (x.1, i, maskedValue e x.1 x.2.2 (regGet s x.1 i))

/-- The field's own range, with that of the durable-dirty bound, which depends on the model (R420). -/
def ownRange (m : Model) (f : Fld) (v : Nat) : Bool :=
  inRange f v && (f != .durDdCfgBound || m == .full || decide (v ≤ 3072))

/-- Set the fields of an entry without further conditions. -/
def forceEntry (s : State) (e : FieldEntry) : State :=
  let s := selectEntry s e
  (entryHits s e).foldl (fun s h => regSet s h.1 h.2.1 h.2.2) s

/-- MASK covers only image-loadable bits, and every field gets a value of its own range (R520). -/
def entryWell (s : State) (e : FieldEntry) : Bool :=
  let s := selectEntry s e
  ((entryFields e).all fun x => (fldSpec x.1).il) &&
    e.mask == (((entryFields e).map fun x => e.mask &&& fieldMask x.1 x.2.2)).sum &&
    (entryHits s e).all fun h => ownRange s.model h.1 h.2.2

/-- Check 0x09 of R522, entry by entry on the factory defaults. -/
def fieldsWell : State → List FieldEntry → Bool
  | _, [] => true
  | s, e :: t => entryWell s e && fieldsWell (forceEntry s e) t

/-- Entries of each trust list (R393). -/
def listSize : Nat → Nat
  | 0 => 4
  | 1 => 16
  | 2 => 8
  | _ => 0

/-- A TRUST entry keeps its layout. -/
def trustWell (e : List Byte) : Bool :=
  decide (field e 1 1 < listSize (field e 0 1)) && field e 2 2 == 0 && field e 1956 92 == 0

/-- A PARTITIONS entry keeps its layout. -/
def partWell (e : List Byte) : Bool := decide (field e 0 1 ≤ 1) && field e 1 3 == 0 && field e 6 2 == 0 && field e 20 12 == 0

/-! ### Checks (R519, R521, R522) -/

/-- Sections do not overlap. -/
def sectionsApart : List Section → Bool
  | [] => true
  | x :: t => (t.all fun y => x.len == 0 || y.len == 0 || decide (x.off + x.len ≤ y.off) || decide (y.off + y.len ≤ x.off)) && sectionsApart t

/-- The section table and the layout of every section (R519, R520). -/
def nvTableWell (b : List Byte) : Bool :=
  let xs := sectionsOf b
  let size := fun t : Nat => if t = 1 then 24 else if t = 2 then 2048 else 512
  decide (xs.length ≤ 3) &&
    (xs.all fun x => x.clean && x.off % 64 == 0 && decide (128 + 16 * xs.length ≤ x.off) && decide (x.off + x.len ≤ 128 + field b 28 4) &&
      (if 1 ≤ x.type ∧ x.type ≤ 3 then x.len % size x.type == 0 else bit x.flags 0)) &&
    sectionsApart xs && decide (((xs.map (·.type)).filter fun t => decide (t ≤ 3)).Nodup) &&
    ((sectionsIn b 3).all fun c => c.length == 512) &&
    ((entriesOf b 1 24).all fun e => field e 0 4 % 4 == 0 && field e 20 4 == 0) &&
    (entriesOf b 2 2048).all trustWell && (entriesOf b 3 32).all partWell

/-- The error of the first of checks 0x01 to 0x09 that an image fails, 0 for none. -/
def nvError (s : State) (img : Option (List Byte)) (sigOk : Bool) : Nat :=
  match img with
  | none => 0x01
  | some b =>
    if b.length < 3501 ∨ 1048576 < b.length then 0x01
    else if field b 0 4 ≠ 0x564E4250 then 0x02
    else if field b 4 2 ≠ 1 ∨ field b 7 1 ≠ 0 ∨ field b 21 3 ≠ 0 ∨ field b 26 2 ≠ 0 ∨ field b 28 4 % 64 ≠ 0 ∨
        field b 28 4 + 3437 ≠ b.length ∨ field b 96 32 ≠ 0 ∨ !nvTableWell b then 0x03
    else if field b 6 1 ≠ reg s .sysIdModel then 0x04
    else if (aget s.nv.signers (field b 20 1)).isNone then 0x05
    else if !sigOk then 0x06
    else if slice b 32 64 ≠ shake 64 (slice b 128 (field b 28 4)) then 0x07
    else if field b 16 4 < reg s .sysNvSvnMinValue then 0x08
    else if !fieldsWell (State.resetOf s.model) (fieldEntries b) then 0x09
    else 0

/-- SEQUENCE of an image. -/
def nvSequence (b : List Byte) : Nat := field b 8 8

/-- The image of a slot if it is a candidate: it reads back, its signature verifies, and it passes the checks (R521). -/
def candidate (s : State) (img : Option (List Byte)) (ok : Bool) : Option (List Byte) :=
  if ok && nvError s img true == 0 then img else none

/-- The slot that a start uses and its image: PREFER where it names a candidate, else the higher SEQUENCE, slot A when they are equal. -/
def chooseImage (s : State) (okA okB : Bool) : Option (Nat × List Byte) :=
  match candidate s s.nv.imgA okA, candidate s s.nv.imgB okB with
  | none, none => none
  | some a, none => some (1, a)
  | none, some b => some (2, b)
  | some a, some b =>
    if reg s .sysNvCtrlPrefer = 2 then some (2, b)
    else if reg s .sysNvCtrlPrefer = 1 then some (1, a)
    else if nvSequence a < nvSequence b then some (2, b) else some (1, a)

/-! ### What a start takes from the image (R520) -/

/-- Apply an entry of FIELDS: a value that a runtime write would ignore because of another field leaves the field as it was, and an event
names the entry. No session-table entry is in use yet. -/
def applyEntry (s : State) (e : Nat × FieldEntry) : State :=
  let s := selectEntry s e.2
  let hits := entryHits s e.2
  let t := hits.foldl (fun s h => regSet s h.1 h.2.1 h.2.2) s
  let empty := { s with subjects := [] }
  if (hits.all fun h => writable empty h.1 h.2.1 h.2.2) && consistent t (e.2.off - 8 * wordOf e.2.off) then t
  else event s 0x0205 0 0xFFFF 0 0 [e.1]

/-- The selectors that the entries used return to their reset value. -/
def clearSelectors (s : State) : State :=
  { s with regs := { s.regs with cells := s.regs.cells.filter fun c => (fldSpec c.1.1).sel != .perPath } }

/-- The keys of a trust list that an image holds, by entry. -/
def trustList (b : List Byte) (list : Nat) : List (Nat × List Byte) :=
  sortKey (·.1) (((entriesOf b 2 2048).filter fun e => field e 0 1 == list).map fun e => (field e 1 1, slice e 4 1952))

/-- The partition set of an image; partition 0 is always valid (R370). -/
def setPartitions (s : State) (b : List Byte) : State :=
  let es := entriesOf b 3 32
  (List.range es.length).foldl (fun s p =>
    let e := es.getD p []
    let s := regSet s .ctxPartCtrlValid p (if p = 0 then 1 else field e 0 1)
    let s := regSet (regSet s .ctxPartWaysMask p (field e 4 2)) .ctxPartBanksMask p (field e 8 4)
    regSet s .ctxPartChanMask p (field e 12 8 % (match s.model with
      | .full => 2 ^ 64
      | .reduced => 2 ^ 32))) s

/-- The valid partitions. -/
def validParts (s : State) : List Nat := (List.range 16).filter fun p => regGet s .ctxPartCtrlValid p == 1

/-- The masks of two partitions have no bit in common. -/
def partsApart (s : State) (p q : Nat) : Bool :=
  ([.ctxPartWaysMask, .ctxPartBanksMask, .ctxPartChanMask] : List Fld).all fun f => (regGet s f p &&& regGet s f q) == 0

/-- Logical packages of which a partition holds a channel that remains (R370, R462). -/
def partPackages (s : State) (p : Nat) : Nat :=
  ((List.range (bedCount s.model)).filter fun k => !(k ∈ s.flt.packagesOut) && !(chansOf s p k).isEmpty).length

/-- Every valid partition passes the checks of R370. -/
def partsWell (s : State) : Bool :=
  let ps := validParts s
  ps.all fun p => (ps.all fun q => p == q || partsApart s p q) && regGet s .ctxPartWaysMask p != 0 && !(partBanks s p).isEmpty &&
    decide (2 ≤ partPackages s p)

/-- Validate the partitions: where a check fails the factory set is used; contexts that name invalid partitions then read 0 (R370). -/
def validateParts (s : State) : State :=
  let parts : List Fld := [.ctxPartCtrlValid, .ctxPartWaysMask, .ctxPartBanksMask, .ctxPartChanMask]
  let s := if partsWell s then s
    else note { s with regs := { s.regs with cells := s.regs.cells.filter fun c => !(c.1.1 ∈ parts) } } 0x0605
  { s with regs := { s.regs with cells := s.regs.cells.map fun c =>
      if c.1.1 = .ctxCfgPart ∧ regGet s .ctxPartCtrlValid c.2 ≠ 1 then (c.1, 0) else c } }

/-- The values in force at this start (R509). -/
def snapshotFields (s : State) : State := { s with regs := { s.regs with applied := s.regs.cells } }

/-- Step 3 of a start with the image chosen: its fields, its trust lists, its partitions. -/
def useImage (s : State) (slot : Nat) (b : List Byte) : State :=
  let es := fieldEntries b
  let s := (List.range es.length).foldl (fun s i =>
    match es[i]? with
    | none => s
    | some e => applyEntry s (i, e)) s
  let s := clearSelectors s
  let s := { s with nv := { s.nv with active := slot, signers := trustList b 0, bsSigners := trustList b 1, operators := trustList b 2 } }
  snapshotFields (validateParts (setPartitions (snapshotFields s) b))

/-- Step 3 of a start without a candidate: factory defaults, with the kept signer list (R521). -/
def useDefaults (s : State) : State :=
  snapshotFields (validateParts (snapshotFields (event { s with nv := { s.nv with active := 0, bsSigners := [], operators := [] } } 0x0205 0 0xFFFF 0 0 [])))

/-- Select and apply the NV image (R510 step 3, R521). -/
def loadImage (s : State) (okA okB : Bool) : State :=
  match chooseImage s okA okB with
  | some (slot, b) => useImage s slot b
  | none => useDefaults s

/-! ### Update (R522) -/

/-- The error of an update, 0 for none. -/
def updateError (s : State) (img : Option (List Byte)) (sigOk norOk : Bool) : Nat :=
  let e := nvError s img sigOk
  if e ≠ 0 then e
  else if ((activeImage s).any fun a => decide (nvSequence (img.getD []) ≤ nvSequence a)) then 0x0A
  else if !norOk then 0x0C
  else 0

/-- The slot that is not active takes the image. Log 136 (DEDUCED). -/
def writeSlot (s : State) (b : List Byte) : State :=
  if s.nv.active = 1 then { s with nv := { s.nv with imgB := some b } } else { s with nv := { s.nv with imgA := some b } }

/-- NV_WRITE (R522): the new image takes effect at the next start. -/
def execNvWrite (_path : Path) (img : Fetch) (sigOk norOk : Bool) (s : State) : Host.Outcome State Fault Refusal :=
  act s fun s =>
    if running s || (s.power.state == .starting && decide (3 < reg s .sysBootStage)) then
      sourced s (reg s .sysNvAddrAddr) (reg s .sysNvLenLen) img fun s b =>
        let e := updateError s b sigOk norOk
        setReg (if e = 0 then writeSlot s (b.getD []) else s) .sysNvStatusError e
    else s

end Sys2Proof.Machine
end

