-- ==== Sys2Proof/Machine/Observe.lean ====
section
/-! DEFINITION. Observation (ch. 18): MARK, DUMP with its arms and captures, the trace budget and the event counters. -/

namespace Sys2Proof.Machine

open Sys2Proof

/-! ### Selections (R498) -/

/-- What a DUMP or an arm selects: KIND, NUMBER_FIRST, LAYER_FIRST, LAYER_COUNT, PAGE_FIRST, PAGE_COUNT. -/
def selectionOf (w : Work) : List Nat := [opr w 25 1, opr w 28 4, opr w 32 2, opr w 34 2, opr w 36 4, opr w 40 4]

/-- A tile lies within the layer and page bounds of a selection; the bounds count for the KV kinds only. -/
def withinBounds (x : Subject) (sel : List Nat) (t : Tile) : Bool :=
  let l := sel.getD 2 0
  let p := sel.getD 4 0
  !(decide (5 ≤ t.kind) && decide (t.kind ≤ 8)) ||
    (decide (l ≤ t.layer) && (sel.getD 3 0 == 0 || decide (t.layer < l + sel.getD 3 0)) &&
      ((p == 0 && sel.getD 5 0 == 0) || (dependentPages x t).any fun g => decide (p ≤ g) && (sel.getD 5 0 == 0 || decide (g < p + sel.getD 5 0))))

/-- The selected tiles of a subject, in ascending tile number. -/
def dumpSet (s : State) (x : Subject) (sel : List Nat) : List Tile :=
  sortKey (·.number) ((tilesOf s x.handle).filter fun t =>
    t.version != 0 && (sel.getD 0 0 == 0 || t.kind == sel.getD 0 0) && decide (sel.getD 1 0 ≤ t.number) && withinBounds x sel t)

/-- The operand fields of a DUMP are well formed (R498). -/
def dumpFields (w : Work) : Bool :=
  let m := opr w 24 1
  reservedClear w [(0, 8), (8, 8), (16, 8), (24, 4), (28, 4), (32, 4), (36, 4), (40, 4), (48, 8), (56, 4)] && decide (m ≤ 3) &&
    decide (opr w 28 4 < 2 ^ 24) && bits (opr w 26 1) 7 1 == 0 &&
    match m with
    | 0 => opr w 8 8 % 64 == 0 && decide (16448 ≤ opr w 16 8) && opr w 27 1 == 0
    | 1 => opr w 0 8 == 0 && opr w 8 8 % 64 == 0 && decide (64 ≤ opr w 16 8) && opr w 27 1 == 0
    | _ => opr w 8 8 == 0 && decide (opr w 27 1 < 64)

/-- DUMP's result: tiles or records written, ABSENT tiles or LOST records, NEXT. -/
def dumpResult (n other next : Nat) : List Byte := leBytes 4 n ++ leBytes 4 (min other (2 ^ 32 - 1)) ++ leBytes 4 (min next (2 ^ 32 - 1))

/-! ### DUMP (R499, R500) -/

/-- A tile has a copy to dump: one in a tier, or one that its holder's reply has shown. -/
def dumpable (w : Work) (t : Tile) : Bool := masterTier t != 0 || (t.lodged.isSome && decide (t.number ∈ w.tally))

/-- The entry of a tile: its image, or, without a valid copy, only its name and version. -/
def dumpEntry (s : State) (w : Work) (t : Tile) : List Byte :=
  if dumpable w t then imageOf s t else slice (leBytes 8 t.handle ++ leBytes 4 t.number ++ leBytes 8 t.version) 0 tileBytes

/-- DUMP TILES writes the entries that fit (R499). Log 105 (DEDUCED). -/
def writeTiles (s : State) (w : Work) (ts : List Tile) : State :=
  let n := opr w 16 8 / tileBytes
  let now := ts.take n
  let next := ((ts.drop n).head?.map (·.number)).getD 0xFFFFFFFF
  let s := now.foldl (fun s t => if t.lodged.isSome then s else demand s t.handle t.number) s
  concludeOut s w (if ts.length ≤ n then stDone else stTruncated)
    (dumpResult now.length (now.filter fun t => !dumpable w t).length next) [] [] (addrOf (opr w 8 8))
    (now.flatMap (dumpEntry s w))

/-- The checks of DUMP TILES (R498, R499). -/
def dumpTilesChks (s : State) (w : Work) : List Chk :=
  [chk (dumpFields w) stBad, reachChk s w (addrOf (opr w 8 8)) (opr w 16 8) true]

/-- The meaning of DUMP TILES. -/
def runDumpTiles (s : State) (w : Work) : State :=
  let len := opr w 16 8
  let a := addrOf (opr w 8 8)
  withSubject s w fun x =>
    checked s w (dumpTilesChks s w) fun s =>
      let ts := dumpSet s x (selectionOf w)
      let ahead := (ts.take (len / tileBytes)).filter fun t => t.lodged.isSome && !dumpable w t
      if bit (opr w 26 1) 0 && ts.any (fun t => t.lodged.isSome || masterTier t == 4) then fail s w.id stNotResident
      else if !ahead.isEmpty then ahead.foldl (askShaped true 0 0xFF w) s
      else
        shaped s w (farBytes (ts.take (len / tileBytes))) (portBytes a (min len (ts.length * tileBytes))) fun s => writeTiles s w ts

/-- DUMP_TILES (R499): MODE 0, or a mode that DUMP does not have. -/
def execDumpTiles (work : Nat) (s : State) : Host.Outcome State Fault Refusal :=
  act s <| runWork work (isFirstMode 0x30 24 4) runDumpTiles

/-- The whole records, oldest first, that fit in a number of bytes. -/
def recordsFit : Nat → List TraceRec → List TraceRec
  | _, [] => []
  | n, r :: t => if r.body.length ≤ n then r :: recordsFit (n - r.body.length) t else []

/-- The checks of DUMP TRACE (R500). -/
def dumpTraceChks (s : State) (w : Work) : List Chk :=
  [chk (dumpFields w) stBad, chk (anySlot s w) stBad, reachChk s w (addrOf (opr w 8 8)) (opr w 16 8) true]

/-- The meaning of DUMP TRACE: the records leave the ring when the completion is written (R500). -/
def runDumpTrace (s : State) (w : Work) : State :=
  let a := addrOf (opr w 8 8)
  checked s w (dumpTraceChks s w) fun s =>
    let rs := recordsFit (opr w 16 8) s.obs.ring
    let b := rs.flatMap (·.body)
    let lost := reg s .obsTbufStatLost
    shaped s w 0 (portBytes a b.length) fun s =>
      concludeOut s w stDone (dumpResult rs.length (lost - s.obs.lostSeen) (s.obs.ring.length - rs.length)) []
        [.traceTaken ((rs.getLast?.map fun r => r.seq + 1).getD 0) lost] a b

/-- DUMP_TRACE (R500). -/
def execDumpTrace (work : Nat) (s : State) : Host.Outcome State Fault Refusal := act s <| runWork work (isMode 0x30 24 1) runDumpTrace

/-- The arm of a number. -/
def armOf (s : State) (id : Nat) : Option Arm := s.obs.arms.find? fun a => a.no == id

/-- The checks of DUMP ARM (R501). -/
def armChks (s : State) (w : Work) : List Chk :=
  [chk (dumpFields w) stBad, chkEv (bit w.policy 0) stBad 0x0603,
   chk ((armOf s (opr w 27 1)).all fun a => a.slot == w.hdr.keySlot) stConflict]

/-- The meaning of DUMP ARM (R501): the consent read at acceptance, and the arm's holder. -/
def runArm (s : State) (w : Work) : State :=
  withSubject s w fun _ =>
    checked s w (armChks s w) fun s =>
      conclude s w stDone (dumpResult 0 0 0) []
        [.arm (opr w 27 1) (some (w.hdr.keySlot, subjectOf w, opr w 48 8, opr w 56 4, selectionOf w))]

/-- DUMP_ARM (R501). -/
def execDumpArm (work : Nat) (s : State) : Host.Outcome State Fault Refusal := act s <| runWork work (isMode 0x30 24 2) runArm

/-- The checks of DUMP DISARM (R501). -/
def disarmChks (s : State) (w : Work) : List Chk :=
  [chk (dumpFields w) stBad, chk ((armOf s (opr w 27 1)).any fun a => a.slot == w.hdr.keySlot) stNotOwner]

/-- The meaning of DUMP DISARM (R501). -/
def runDisarm (s : State) (w : Work) : State :=
  withSubject s w fun _ =>
    checked s w (disarmChks s w) fun s =>
      conclude s w stDone (dumpResult 0 0 0) [] [.arm (opr w 27 1) none]

/-- DUMP_DISARM (R501). -/
def execDumpDisarm (work : Nat) (s : State) : Host.Outcome State Fault Refusal := act s <| runWork work (isMode 0x30 24 3) runDisarm

/-! ### MARK and its captures (R497, R502) -/

/-- A tile as a firing keeps it: the payload is that of the version referenced now. -/
def frozen (s : State) (t : Tile) : Tile := if t.lodged.isSome then t else { t with payload := cellsOf (payloadOf s t) }

/-- Fire an arm for a MARK: its captures are queued, and it ends after its last firing. -/
def fire (s : State) (name : Nat) (a : Arm) : State :=
  match subjAny s a.handle with
  | none => s
  | some x =>
    let c : Capture := { arm := a.no, handle := a.handle, slot := a.slot, name := name, fired := s.time,
                         tiles := (dumpSet s x a.sel).map (frozen s) }
    let arms := s.obs.arms.filterMap fun y => if y.no = a.no then (if a.left = 1 then none else some { y with left := y.left - 1 }) else some y
    { s with obs := { s.obs with arms := arms, captures := s.obs.captures ++ [c] } }

/-- MARK's work: the record, and the arms that it fires. -/
def markEnd (s : State) (w : Work) : State :=
  let name := opr w 8 8
  let as_ := if bit (opr w 24 1) 0 then s.obs.arms.filter fun a => a.handle == subjectOf w && subjectOf w != 0 && a.name == name else []
  let s := trace s 0x04 0 w.hdr.keySlot 0xFF (subjectOf w) true (leBytes 8 name ++ leBytes 8 (opr w 16 8) ++ [byte as_.length]) []
  conclude (as_.foldl (fun s a => fire s name a) s) w stDone [byte as_.length] [] []

/-- The fields of MARK (R497). -/
def markFields (w : Work) : Bool := reservedClear w [(0, 8), (8, 8), (16, 8), (24, 1)] && bits (opr w 24 1) 7 1 == 0

/-- The meaning of MARK. -/
def runMark (s : State) (w : Work) : State :=
  let go := fun s => checked s w [chk (markFields w) stBad] fun s => markEnd s w
  if subjectOf w = 0 then go s else withSubject s w fun x => checked s w [chk (x.state != 5) stPoisoned] go

/-- MARK (R497). -/
def execMark (work : Nat) (s : State) : Host.Outcome State Fault Refusal := act s <| runWork work (isOp 0x31) runMark

/-- Write a DUMP record (R493), which draws on the budget. -/
def dumpRecord (s : State) (c : Capture) (flags : Nat) (t : Tile) (payload : List Byte) : State :=
  let n := 64 + roundUp payload.length 64
  if ringSize s / 64 * 63 < ringUsed s.obs + n then traceLost s 1
  else
    let s := flushLoss s
    putTrace { s with obs := { s.obs with level := s.obs.level - n } } 0x09 flags c.slot 0xFF c.handle false
      ([byte c.arm, byte t.kind, 0, 0] ++ leBytes 4 t.number ++ leBytes 8 t.version ++ leBytes 8 c.name) payload

/-- The image of a tile that a firing kept: a tile without a valid copy shows only its name and version. -/
def frozenImage (t : Tile) (valid : Bool) : List Byte :=
  if valid then
    let h := headerBytes t
    let p := cellRead t.payload 0 payloadBytes
    h ++ leBytes 8 (crc64 (h ++ p)) ++ p
  else slice (leBytes 8 t.handle ++ leBytes 4 t.number ++ leBytes 8 t.version) 0 tileBytes

/-- Replace the first capture. -/
def withCapture (s : State) (c : Option Capture) : State :=
  { s with obs := { s.obs with captures := c.toList ++ s.obs.captures.tail } }

/-- Capture the next tile of the first firing: without consent one REDACTED record stands for the rest (R502); a lodged tile is asked
for. -/
def captureNext (s : State) (c : Capture) : State :=
  match c.tiles with
  | [] => withCapture s none
  | t :: rest =>
    let left := if rest.isEmpty then none else some { c with tiles := rest }
    if !consents s c.slot then
      event (withCapture (dumpRecord s c 2 t []) none) 0x0603 0 c.slot c.handle 0 []
    else if t.lodged.isSome ∧ (tileOf s t.handle t.number).any (fun y => y.version == t.version && y.lodged.isSome) then askTile true 0 0xFF s t
    else withCapture (dumpRecord s c 1 t (frozenImage t (t.lodged.isNone && !t.copies.isEmpty))) left

/-- DUMP_CAPTURE (R502): while the level is above 0. -/
def execDumpCapture (s : State) : Host.Outcome State Fault Refusal :=
  act s <| whenRunning fun s =>
    match s.obs.captures with
    | [] => s
    | c :: _ => if s.obs.level ≤ 0 ∧ !c.tiles.isEmpty then s else captureNext s c

/-- CAPTURE_TIMEOUT (R502): a tile has not been captured within 100 ms; the firing ends with a TRUNCATED record. -/
def execCaptureTimeout (arm : Nat) (s : State) : Host.Outcome State Fault Refusal :=
  act s <| whenRunning fun s =>
    match s.obs.captures.find? fun c => c.arm == arm with
    | none => s
    | some c =>
      let s := { s with obs := { s.obs with captures := s.obs.captures.erase c } }
      match c.tiles with
      | [] => s
      | t :: _ => dumpRecord s c 4 t []

/-- OBS_BUDGET_REFILL (R496): `MBPS` times 100 µs, up to the refill of 1 ms. -/
def execObsBudgetRefill (s : State) : Host.Outcome State Fault Refusal :=
  act s <| whenRunning fun s =>
    let m := reg s .obsBwCfgMbps
    { s with obs := { s.obs with rate := m, level := min (s.obs.level + 100 * m) (1000 * m) } }

/-! ### Counters (R490) -/

/-- SNAP (R490): all counters are copied. -/
def execSnap (_path : Path) (s : State) : Host.Outcome State Fault Refusal :=
  act s <| whenRunning fun s => (List.range 64).foldl (fun s k => regSet s .obsCntSnapCount k (regGet s .obsCntCount k)) s

/-- COUNTER_CLEAR (R490): the counter that the path selects. -/
def execCounterClear (path : Path) (s : State) : Host.Outcome State Fault Refusal :=
  act s <| whenRunning fun s =>
    match entryOf s path .obsCntCount 0 with
    | none => s
    | some k => regSet s .obsCntCount k 0

/-- COUNTER_SAMPLE (R490): the counters in use are written as one COUNTER record. Log 104 (DEDUCED). -/
def execCounterSample (s : State) : Host.Outcome State Fault Refusal :=
  act s <| whenRunning fun s =>
    if reg s .obsSampCfgPeriod = 0 then s
    else
      let ks := (List.range 64).filter fun k => regGet s .obsCntCfgSource k != 0
      trace s 0x08 (if ks.isEmpty then 0 else 1) 0xFFFF 0xFF 0 false [byte ks.length]
        (ks.flatMap fun k => leBytes 8 k ++ leBytes 8 (regGet s .obsCntCount k))

end Sys2Proof.Machine
end

