-- ==== Sys2Proof/Machine/Power.lean ====
section
/-! DEFINITION. Power and resets (ch. 19, ch. 20): the start sequence, the stop with its seal, the quiesced stop, port and device warm
resets, the power states and the pins. -/

namespace Sys2Proof.Machine

open Sys2Proof

/-! ### Losing power (R423, R531, R532) -/

/-- What lies in flash of a tile: its copies in T4, and a floor that covers every version assigned before (R63). Log 133 (DEDUCED).
Log 138 (DESIGN CHOICE). -/
def flashPart (t : Tile) : Tile := { t with floor := t.recFloor, copies := t.copies.filter fun c => c.tier == 4, wrote := true }

/-- PWRFAIL_N in a state that the device enters with an input of `vin` mV (R531). -/
def pwrfailIn (st : PowerState) (vin : Nat) : Line :=
  match st with
  | .failed => .asserted
  | .thermalOff => if 44000 ≤ vin then .asserted else .floats
  | _ => .floats

/-- The converters stop: the flash store, the SPI NOR and the fuses keep what they hold, everything else is as at a start from
power-off. -/
def cutPower (s : State) (st : PowerState) (vin : Nat) : State :=
  let z := State.resetOf s.model
  { z with
    regs := { z.regs with cells := s.regs.cells.filter fun c => (fldSpec c.1.1).kept }
    power := { z.power with
      state := st, vinMv := vin, pwrfail := pwrfailIn st vin, alert := if st = .off then .floats else .asserted
      perstA := s.power.perstA, perstB := s.power.perstB, inserted := s.power.inserted, mbAddr := s.power.mbAddr
      tapReset := s.power.tapReset }
    nv := s.nv
    units := { z.units with active := s.units.active, previous := s.units.previous }
    subjects := s.subjects, tiles := s.tiles.map flashPart, windows := s.windows
    own := { z.own with
      traces := s.own.traces
      lodged := (s.own.lodged.map flashPart).filter fun t => !t.copies.isEmpty }
    dur := { z.dur with
      slotA := s.dur.slotA, slotB := s.dur.slotB, streamSeq := s.dur.streamSeq, acked := s.dur.acked, shipped := s.dur.shipped
      fosters := s.dur.fosters, retired := s.dur.retired }
    flt := { z.flt with
      channelsOut := s.flt.channelsOut, packagesOut := s.flt.packagesOut, migrating := s.flt.migrating, vaultsOut := s.flt.vaultsOut
      diesOut := s.flt.diesOut, rebuilding := s.flt.rebuilding, bedsOut := s.flt.bedsOut }
    time := s.time, free := s.free, out := s.out, pending := s.pending }

/-- Every durable-dirty tile reaches T4 from its master (R423 step 4, R518 step 3). -/
def flushDurable (s : State) : State :=
  (s.tiles ++ s.own.lodged).foldl (fun s t => if durableDirty t then updHeld s t.handle t.number (inFlash s) else s) s

/-- The power-loss sequence: accesses that wait are refused, work in flight is discarded without completions, durable-dirty tiles are
flushed, and the seal is written while the bank holds and the flash store takes it (R423, R424). -/
def sealAndStop (s : State) (bankHolds : Bool) (st : PowerState) (vin : Nat) : State :=
  let s := s.cxl.waiting.foldl refuseAccess s
  let good := bankHolds && reg s .durFlashState != 3
  let s := if good then flushDurable s else s
  cutPower { s with nv := { s.nv with
    sealed := if good then some false else none, probed := s.nv.probed || good, losses := s.nv.losses + 1 } } st vin

/-- The input leaves its range (R529, R532). -/
def inputFails (s : State) (vin : Nat) (bankHolds : Bool) : State :=
  match s.power.state with
  | .running => sealAndStop s bankHolds .off vin
  | .starting => cutPower s .off vin
  | .quiesced => cutPower s .off vin
  | .failed => cutPower s .failed vin
  | .thermalOff => { s with power := { s.power with vinMv := vin, pwrfail := pwrfailIn .thermalOff vin } }
  | _ => { s with power := { s.power with vinMv := vin } }

/-- POWER_LOSS (R423): the input falls below 44 V. Log 130 (DESIGN CHOICE). -/
def execPowerLoss (vinMv : Nat) (bankHolds : Bool) (s : State) : Host.Outcome State Fault Refusal :=
  act s fun s => if vinMv < 44000 then inputFails s vinMv bankHolds else s

/-- OVER_VOLTAGE (R529): the input rises above 61 V, and the input switch opens. -/
def execOverVoltage (vinMv : Nat) (bankHolds : Bool) (s : State) : Host.Outcome State Fault Refusal :=
  act s fun s => if 61000 < vinMv then inputFails s vinMv bankHolds else s

/-- INPUT_BELOW_20V (R529): one second below 20 V clears THERMAL_OFF and FAILED; no converter runs on such an input. -/
def execInputBelow20v (s : State) : Host.Outcome State Fault Refusal :=
  act s fun s =>
    let vin := Config.number s.free % 20000
    match s.power.state with
    | .thermalOff => cutPower (takeFree s) .off vin
    | .failed => cutPower (takeFree s) .off vin
    | .off => { takeFree s with power := { s.power with vinMv := vin } }
    | _ => s

/-- THERMAL_CRITICAL (R546): from RUNNING the power-loss sequence runs and ends in THERMAL_OFF while the input still holds 44 V (R549);
in other states the converters stop at once (R532). Log 131 (DEDUCED). -/
def execThermalCritical (vinMv : Nat) (bankHolds : Bool) (s : State) : Host.Outcome State Fault Refusal :=
  act s fun s =>
    if powered s then
      let s := event s 0x0A08 0 0xFFFF 0 0 []
      if running s then sealAndStop s bankHolds (if 44000 ≤ vinMv then .thermalOff else .off) vinMv else cutPower s .thermalOff vinMv
    else s

/-- INSERTION (R543): the contacts mate; on a live bus the input rises under the inrush limit, and the start follows by itself. -/
def execInsertion (live : Bool) (s : State) : Host.Outcome State Fault Refusal :=
  act s fun s =>
    if s.power.inserted then s
    else
      let t := takeFree s
      { t with power := { t.power with inserted := true, vinMv := if live then 44000 + Config.number s.free % 17001 else 0 } }

/-! ### The start: steps 1 to 3 (R510, R513, R521) -/

/-- The Kelgor image that a start runs: the valid slot with the higher SVN, slot A when they are equal (R513). -/
def chooseKelgor (s : State) (x : StartInput) : Option FwImage :=
  match (if x.fwA then s.nv.fwA else none), (if x.fwB then s.nv.fwB else none) with
  | none, b => b
  | some a, none => some a
  | some a, some b => if a.svn < b.svn then some b else some a

/-- Step 1: the converters run, PWRFAIL_N is released; the input lies above 50 V. -/
def powerUp (s : State) (x : StartInput) : State :=
  let t := takeFree s
  { t with
    time := 0
    power := { t.power with
      state := .starting, vinMv := 50001 + Config.number s.free % 11000, bankMv := x.bankMv, pwrfail := .released, alert := .floats
      mbAddr := x.mbAddr % 8 } }

/-- Step 2: both root PLLs lock. -/
def lockPlls (s : State) : State := setReg (setReg s .clkPllStatusLockA 1) .clkPllStatusLockB 1

/-- The kind of a start (R507): normal from a clean seal, else after power loss. -/
def startKind (s : State) (x : StartInput) : Nat := if s.nv.sealed = some true ∧ x.sealOk then 0 else 1

/-- The random draws of a start: dir_salt and the two nonces (R390, R396, R505). -/
def drawSecrets (s : State) : State :=
  let t := takeFree s
  freshDebugNonce (freshNonce { t with
    dir := { t.dir with salt := slice (Config.bytes s.free) 0 32 }, sec := { t.sec with saveKey := slice (Config.bytes s.free) 32 64 } })

/-- Links train from the end of step 2 on where PERST is deasserted (R510). -/
def trainLinks (s : State) : State :=
  ([.a, .b] : List PortId).foldl (fun s p => if perst s p then s else regSet s .cxlPortStatusLink (portNo p) 1) s

/-- Steps 3 to 8 as far as registers show them before the device is ready. Log 134 (DEDUCED). -/
def prepare (s : State) (x : StartInput) : State :=
  let s := trainLinks s
  let s := drawSecrets (loadImage { s with power := { s.power with compat := x.compat } } x.nvA x.nvB)
  let s := { s with sec := { s.sec with trust := trustLists s } }
  let s := setReg (setReg s .sysStatusStartKind (startKind s x)) .sysBootStage 9
  { s with power := { s.power with alert := .floats, waitBank := some x } }

/-! ### The start: self-test and the store (R54, R425, R432, R510 steps 4 to 6) -/

/-- Pans that fail the self-test are mapped out; one that serves no position is only marked (R54). -/
def testPans (s : State) (bad : List (Nat × Nat)) : State :=
  (bad.filter fun b => decide (b.1 < bedCount s.model) && !(b ∈ s.nv.badPans)).foldl (fun s b =>
    match (List.range 16).find? fun p => regGet s .panMapPhys (b.1 * 16 + p) == b.2 && regGet s .panMapLost (b.1 * 16 + p) == 0 with
    | some p => mapOut s b.1 p []
    | none => { s with nv := { s.nv with badPans := (s.nv.badPans ++ [b]).dedup } }) s

/-- A package whose migration power-off interrupted is mapped to its spare (R461). -/
def mapPackages (s : State) : State :=
  let n := s.flt.migrating.length
  regAdd { s with flt := { s.flt with
    migrating := [], channelsOut := s.flt.channelsOut.filter fun c => !(c / 4 ∈ s.flt.migrating) } } .fltRepairT2Packages 0 n 4

/-- The newest consistent step of the slots (R432). -/
def consistentStep (s : State) (x : StartInput) : Option CkptStep :=
  bestBy (·.step) ((if x.slotA then s.dur.slotA.toList else []) ++ (if x.slotB then s.dur.slotB.toList else []))

/-- `DUR_RESTORE_STATUS` and `DUR_RESTORE_STEP`. -/
def restoreStatus (s : State) (source result step : Nat) : State :=
  setReg (setReg (setReg s .durRestoreStatusSource source) .durRestoreStatusResult result) .durRestoreStepStep step

/-- A subject of a step: before it is written again its versions rise above every version assigned after the step (R63); its reconstructible
pages are ABSENT and its drafts gone (R81). Log 139 (DEDUCED). -/
def rolledBack (s : State) (x : Subject) : Subject :=
  let now := ((s.subjects.find? fun y => y.handle == x.handle).map fun y => y.vfloor + y.raise).getD 0
  { withoutKv x with raise := max (x.vfloor + x.raise) now - x.vfloor + 2 ^ 32, draft := none }

/-- Roll back to a checkpoint step: `DUR_GEN` increases (R425). Handle serials go on, since none is used again (R55). -/
def rollBack (s : State) (c : CkptStep) : State :=
  let t := restoreStatus (regAdd s .durGenGen 0 1 32) 2 0 c.step
  let t := { t with
    subjects := c.subjects.map (rolledBack s), tiles := c.tiles.map flashPart, windows := c.windows
    own := { t.own with traces := c.traces }
    nv := { t.nv with noStep := false } }
  note t 0x0702

/-- No consistent step: no session or region, until software discards the store or takes its own state over (R425, R516). -/
def noneRestored (s : State) : State :=
  restoreStatus { s with subjects := [], tiles := [], windows := [], own := { s.own with traces := [] }, nv := { s.nv with noStep := true } }
    3 0x0A 0

/-- What durable state a start finds (R425). -/
def mountStore (s : State) (x : StartInput) : State :=
  match (if x.sealOk then s.nv.sealed else none) with
  | some clean => if s.nv.noStep then noneRestored s else restoreStatus s (if clean then 0 else 1) 0 0
  | none =>
    match consistentStep s x with
    | some c => rollBack s c
    | none => noneRestored s

/-- A tile whose copy in T4 fails its checksum follows R80. -/
def failsCheck (s : State) (n : Nat × Nat) : State :=
  match (tileOf s n.1 n.2).bind fun t => t.copies.find? fun c => c.tier == 4 && c.version == t.version with
  | none => s
  | some c => copyFailed s n.1 n.2 4 c.place

/-- A reconstructible tile that T4 does not hold reads ABSENT (R81). -/
def absentTile (s : State) (t : Tile) : State :=
  if t.version = 0 ∨ t.durable ∨ t.lodged.isSome ∨ hasCopy t 4 then s
  else if t.kind = 9 then draftLost s t else pagesAbsent s t

/-- A subject at ready: sessions that were ACTIVE or REVIVING are PARKED, and an offer times out again (R514). -/
def standsAtReady (now : Nat) (x : Subject) : Subject :=
  { x with
    state := if x.kind = .session ∧ (x.state = 1 ∨ x.state = 3) then 2 else x.state
    own := if x.own.state = 1 then { x.own with since := now } else x.own }

/-- The subjects and traces of the store at ready; CLOSING subjects have been closed (R514). -/
def readySubjects (s : State) : State :=
  let s := s.tiles.foldl absentTile s
  let s := (s.subjects.filter fun x => x.state == 4).foldl closeSubject s
  { s with
    subjects := s.subjects.map (standsAtReady s.time)
    own := { s.own with traces := s.own.traces.map fun t => { t with since := s.time } } }

/-! ### The start: configuration, harrow, bank (R51, R422, R487, R510 steps 7 to 9) -/

/-- The configuration of a start (R51). Log 135 (DEDUCED). -/
def startConfig (s : State) (x : StartInput) : State :=
  let good := fun (ok : Bool) (c : Option UnitConfig) => c.filter fun c => ok && decide (reg s .panBsSvnMinValue ≤ configSvn c)
  let u := match good x.cfgOk s.units.active, good x.prevOk s.units.previous with
    | some a, _ => (some a, s.units.previous)
    | none, p => (p, none)
  { s with units := { s.units with active := u.1, previous := u.2 } }

/-- A bed under the plan of an ageing record: nothing but the plan outlives power-off. -/
def plannedBed (b : Bed) : Bed :=
  { b with droop := 0, throttled := false, coreThrottled := false, stopped := false, stoppedAt := 0, holds := [], held := false, hot := false
           slackMin := 0, aboveSince := 0, tempMax := 0, heldSince := 0, heldTime := 0 }

/-- The plan of every bed where no copy of the record is good: factory rail, floor 1, refresh at 2x, patrol at 12 h (R487). -/
def cautiousBed (b : Bed) : Bed :=
  { b with rail := b.factoryRail, floor := 1, t1Refresh := List.replicate 16 1, t2Refresh := List.replicate 4 1, scrub := 12 }

/-- The retention probes are read (R419): the stress that they tell is kept for the ageing record; one above the harrow's limit has every
written block scrubbed before any other background write. -/
def readProbes (s : State) (x : StartInput) : State :=
  let stress := if s.nv.probed then x.stress else 0
  let s := { s with nv := { s.nv with retention := stress } }
  if Config.retentionLimit < stress then
    { s with dur := { s.dur with unscrubbed := ((keptTiles s).filter fun t => hasCopy t 4).map fun t => (t.handle, t.number) } }
  else s

/-- Apply the margin plan, and write the record once more (R487). Log 140 (DEDUCED). -/
def startPlan (s : State) (x : StartInput) : State :=
  let s := match (if x.ageOk then s.nv.ageing else none) with
    | some r => { s with beds := r.beds.map plannedBed, nv := { s.nv with lifeStretch := r.stretch, lifeHeld := r.heldFor } }
    | none => warn (event { s with beds := s.beds.map cautiousBed } 0x0A01 8 0xFFFF 0 0 []) 1
  writeAgeing s

/-- The bank is calibrated (R422). -/
def calibrate (s : State) (energy : Nat) : State :=
  let e := min energy 65535
  let limit := energyLimit s.model e
  let s := setReg (setReg s .durHoldupEnergy e) .durHoldupFailed (b2n (decide (limit < 2 ^ 28)))
  if limit < reg s .durDdCfgBound * 2 ^ 20 then warn (note s 0x0701) 4 else s

/-! ### Ready (R510 steps 10 and 11, R517) -/

/-- ALERT_N as the unread records have it (R540). -/
def alertNow (s : State) : State := alertCheck { s with power := { s.power with alert := .asserted } }

/-- Step 11: the START record, READY, SEAL where AUTO asks for it, and vector 0; the seal is consumed. -/
def becomeReady (s : State) : State :=
  let n := s.nv.starts + 1
  let s := { s with
    power := { s.power with state := .running, waitBank := none }
    nv := { s.nv with starts := n, sealed := none } }
  let s := trace s 0x01 0 0xFFFF 0xFF 0 true (leBytes 4 n ++ leBytes 3 (origin s) ++ [byte (reg s .sysIdModel)]) []
  let s := if reg s .sysLockAuto = 1 then setReg s .sysLockSeal 1 else s
  let s := setReg (setReg s .sysStatusReady 1) .sysBootStage 0xF
  let s := setReg s .durBuddyState (if buddy s = 0 then 0 else 1)
  raiseVector (alertNow s) 0

/-- Steps 4 to 11, once the bank holds at least 55 V (R424). -/
def finishStart (s : State) (x : StartInput) : State :=
  let s := mapPackages (testPans s x.badPans)
  let s := readProbes (readySubjects (x.badTiles.foldl failsCheck (mountStore s x))) x
  becomeReady (dirBuild (calibrate (startPlan (startConfig s x) x) x.energy))

/-- A start goes on when the bank is charged (R424). -/
def bankCheck (s : State) : State :=
  match s.power.waitBank with
  | none => s
  | some x => if 55000 ≤ s.power.bankMv then finishStart s x else s

/-- POWER_ON_START (R510): from OFF, or at the first step of a start; without a valid Kelgor image it stops at step 2 (R513). -/
def execPowerOnStart (x : StartInput) (s : State) : Host.Outcome State Fault Refusal :=
  act s fun s =>
    if s.power.inserted &&
        (s.power.state == .off || (s.power.state == .starting && reg s .sysBootStage == 1 && s.power.waitBank.isNone)) then
      let s := lockPlls (powerUp s x)
      match chooseKelgor s x with
      | none => setReg (setReg s .sysBootStage 2) .sysBootError 1
      | some k => bankCheck (prepare { s with power := { s.power with kelgor := some k } } x)
    else s

/-- HOLDUP_CHARGED (R424): the bank has reached its charge, and is calibrated again. -/
def execHoldupCharged (energy bankMv : Nat) (s : State) : Host.Outcome State Fault Refusal :=
  act s fun s =>
    if s.power.state = .starting then
      bankCheck { s with power := { s.power with
        bankMv := bankMv, waitBank := s.power.waitBank.map fun x => { x with energy := energy, bankMv := bankMv } } }
    else s

/-- FIRMWARE_WRITE (R513): in NO_FIRMWARE a signed Kelgor image is written, into slot A, where its region holds it. Log 137 (DEDUCED). -/
def execFirmwareWrite (svn : Nat) (img : List Byte) (sigOk : Bool) (s : State) : Host.Outcome State Fault Refusal :=
  act s fun s =>
    if s.power.state = .starting ∧ reg s .sysBootError = 1 ∧ sigOk ∧ img.length ≤ 8388608 then
      { s with nv := { s.nv with fwA := some { svn := svn % 2 ^ 32, image := img } } }
    else s

/-! ### Pins (R539, R542) -/

/-- The module applies the terminations of a port: it is powered in a state that serves the port, whose PERST is deasserted. -/
def portTerminated (s : State) (p : PortId) : Bool :=
  s.power.inserted && !perst s p && decide (s.power.state ∈ [.starting, .running, .quiesced])

/-- A port's reference-clock input is terminated on the module; else it presents at least 10 kΩ to ground (R539). -/
def refclkTerminated (s : State) (p : PortId) : Bool := portTerminated s p

/-- The receive pairs of a port are terminated, so that the host detects them (R542). -/
def rxTerminated (s : State) (p : PortId) : Bool := portTerminated s p

/-- The transmit pairs of a port (R542): electrical idle before link training, then driven by the link's state; else off. -/
def txPairs (s : State) (p : PortId) : TxPairs :=
  if !s.power.inserted then .apart
  else if !portTerminated s p then (if s.power.state = .starting ∧ !perst s p then .idle else .off)
  else if regGet s .cxlPortStatusLink (portNo p) = 0 then .idle
  else .driven

/-- PRSNT_N reads low at the host: it is strapped to ground on the module (R542). -/
def presentLow (s : State) : Bool := s.power.inserted

/-- JTAG_TDO is driven per TAP (R540, R542); elsewhere it has high impedance. -/
def tdoDriven (s : State) : Bool := tapServes s

/-! ### Warm resets (R508, R509) -/

/-- Set the level of a PERST input. -/
def setPerst (s : State) (p : PortId) (asserted : Bool) : State :=
  match p with
  | .a => { s with power := { s.power with perstA := asserted } }
  | .b => { s with power := { s.power with perstB := asserted } }

/-- The functions of a port return to their reset state: HDM decoder, MSI-X table, SPDM sessions, IDE streams (R508). -/
def resetFunctions (s : State) (p : PortId) : State :=
  let home := fun h => regGet s .cxlHostMapPort h == portNo p
  { s with
    cxl := { s.cxl with
      hdm := s.cxl.hdm.filter fun e => !home e.1, ide := s.cxl.ide.filter fun e => e.1 != portNo p
      ideKeys := s.cxl.ideKeys.filter fun e => e.1 != portNo p }
    ledg := { s.ledg with
      msix := s.ledg.msix.filter fun e => e.1.1 != portNo p, pendingVec := s.ledg.pendingVec.filter fun e => e.1 != portNo p }
    sec := { s.sec with spdm := s.sec.spdm.filter fun c => c.ch != portPath p } }

/-- PORT_WARM_RESET (R508): PERST of a port is asserted while the other port is not in reset; a device that is starting goes on, one that
is not powered, or that has failed, ignores it. -/
def execPortWarmReset (p : PortId) (s : State) : Host.Outcome State Fault Refusal :=
  act s fun s =>
    if s.power.perstA || s.power.perstB then s
    else
      let t := setPerst s p true
      if running s || s.power.state == .quiesced then resetFunctions (portFails t (portNo p)) p else t

/-- PERST_DEASSERT (R508): the link of the port trains. -/
def execPerstDeassert (p : PortId) (s : State) : Host.Outcome State Fault Refusal :=
  act s fun s =>
    if !perst s p then s
    else
      let t := setPerst s p false
      if powered s && !inFailed s && decide (3 ≤ reg s .sysBootStage) then regSet t .cxlPortStatusLink (portNo p) 1 else t

/-- Fields that hardware changes and that a device warm reset leaves alone: they report what R509 keeps, or what no reset touches. -/
def warmReports : List Fld :=
  [.sysStatusReady, .sysBootStage, .sysBootError, .sysLockSeal, .sysMapEpochCurrent, .clkPllStatusSwitches, .clkPllStatusLockA,
   .clkPllStatusLockB, .clkPllStatusActive, .panMdlStatusError, .txtVocStatusError, .secNonceNonce, .secDebugNonceNonce, .durHoldupEnergy,
   .durHoldupFailed, .durBuddyState, .fltStatusFailed]

/-- RW and RWL fields that a device warm reset keeps: hosts, address and peer maps, the origin, T3 ranges (R509). -/
def warmMaps : List Fld :=
  [.sysOriginId, .cxlHostMapValid, .cxlHostMapPairValid, .cxlHostMapPair, .cxlHostMapHome, .cxlHostMapPort, .cxlHostMapPbrId,
   .cxlAmapValid, .cxlAmapStream, .cxlAmapAnySlot, .cxlAmapKind, .cxlAmapPort, .cxlAmapSize, .cxlAmapSlot, .cxlAmapBase,
   .cxlPeerMapAperture, .cxlPeerMapValid, .cxlPeerMapStream, .cxlPeerMapPort, .cxlPeerMapPbrId, .cxlPeerMapOrigin,
   .stoT3BaseBase, .stoT3SizeSize, .stoT3CtrlPort, .stoT3CtrlCompute, .stoT3CtrlValid, .stoT3StatusState]

/-- A field keeps its value through a device warm reset. -/
def warmKept (f : Fld) : Bool :=
  (fldSpec f).kept || decide (f ∈ warmReports) || decide (f ∈ warmMaps) ||
    match (fldSpec f).acc with
    | .ro => true
    | .rws => true
    | .ros => true
    | _ => false

/-- The fields after a device warm reset: kept ones as they are, other RW and RWL fields as at the latest start (R509).
Log 141 (DEDUCED). -/
def warmFields (s : State) : State :=
  { s with regs := {
      cells := (s.regs.cells.filter fun c => warmKept c.1.1) ++ s.regs.applied.filter fun c => !warmKept c.1.1
      applied := s.regs.applied, latch := [], staged := [], sample := [] } }

/-- Work queued, held or in flight is discarded without completions; a SESSION_CLOSE in progress runs to its end (R509). -/
def dropAllWork (s : State) : State :=
  let closing := (s.subjects.filter fun x => x.state == 4).map (·.handle)
  let ws := s.work.filter fun w => w.hdr.opcode != 0x09
  let s := ws.foldl abandon { s with work := s.work.map fun w => { w with place := .ended } }
  let s := { s with work := [] }
  (s.subjects.filter fun x => decide (x.handle ∈ closing)).foldl closeSubject s

/-- The effects of a device warm reset (R509): the device serves again, and a clean seal is withdrawn (R518). -/
def warmReset (s : State) : State :=
  let s := s.cxl.waiting.foldl refuseAccess { s with cxl := { s.cxl with waiting := [] } }
  let s := dropAllWork s
  let z := State.resetOf s.model
  let o := buddy s
  let s := warmFields (resetFunctions (resetFunctions s .a) .b)
  let s := { s with
    power := { s.power with state := .running, quiescing := false, warmPending := false }
    nv := { s.nv with sealed := none }
    ledg := z.ledg
    cxl := { s.cxl with te := [], policy := z.cxl.policy, snoop := [], biPending := [] }
    units := { s.units with steps := [], slots := [], switching := [], saved := [], expired := [] }
    moving := { s.moving with items := [] }
    own := { s.own with claims := [] }
    adm := { s.adm with planners := [], enrolled := 0, dispatched := [] }
    obs := { s.obs with arms := [] } }
  let s := setReg s .sysStatusStartKind 2
  drainCheck (if buddy s = o then s else nameBuddy s (buddy s))

/-- DEVICE_WARM_RESET (R509): both PERST inputs are asserted. A quiesce in progress runs to its seal first (R527); a start goes on. -/
def execDeviceWarmReset (s : State) : Host.Outcome State Fault Refusal :=
  act s fun s =>
    if s.power.perstA && s.power.perstB then s
    else
      let s := setPerst (setPerst s .a true) .b true
      if running s && s.power.quiescing then { s with power := { s.power with warmPending := true } }
      else if running s || s.power.state == .quiesced then warmReset s
      else s

/-! ### A quiesced stop (R518) -/

/-- The ledgers in a state, of those whose registers have been written. -/
def ledgersIn (s : State) (st : Nat) : List Nat :=
  (s.regs.cells.filterMap fun c => if c.1.1 = .ldgStatusState ∧ c.2 = st then some c.1.2 else none)

/-- No work is left: DRAINING ledgers are DISABLED (R318), and the store is written back and sealed CLEAN (R518 steps 3 to 5), but for one that
takes no writes (R417); a device warm reset that met the quiesce follows. Log 190 (DEDUCED). -/
def quiesceEnd (s : State) : State :=
  let s := (ledgersIn s 2).foldl disableLedger s
  let good := reg s .durFlashState != 3
  let s := if good then flushDurable s else s
  let s := setReg { s with
    nv := { s.nv with sealed := if good then some true else none, probed := s.nv.probed || good }, dur := { s.dur with writing := [] }
    power := { s.power with state := .quiesced, quiescing := false } } .sysStatusQuiesced 1
  if s.power.warmPending then warmReset s else s

/-- A quiesce whose work has all completed goes on to its seal. -/
def quiesceCheck (s : State) : State := if s.power.quiescing ∧ s.work.isEmpty then quiesceEnd s else s

/-- QUIESCE (R518): a write of `SYS_CTRL.QUIESCE`; every ACTIVE ledger becomes DRAINING. -/
def execQuiesce (_path : Path) (s : State) : Host.Outcome State Fault Refusal :=
  act s <| whenRunning fun s =>
    if s.power.quiescing then s
    else
      let s := (ledgersIn s 1).foldl drainLedger s
      quiesceCheck { s with power := { s.power with quiescing := true } }

/-- QUIESCE_TIMEOUT (R518): the work that remains completes DISCARDED. -/
def execQuiesceTimeout (s : State) : Host.Outcome State Fault Refusal :=
  act s <| whenRunning fun s =>
    if s.power.quiescing then
      let s := (s.work.filter unfinished).foldl (fun s w => fail (dropSteps s w.id) w.id stDiscarded) s
      quiesceCheck (drainCheck s)
    else s

/-- COMPLETION_WRITE (R325): the completion of a work that has ended is written, and its effects become referenced; in FAILED
those of the discarded work (R453). -/
def execCompletionWrite (work : Nat) (s : State) : Host.Outcome State Fault Refusal :=
  act s fun s =>
    if running s || inFailed s then
      match workOf s work with
      | none => s
      | some w => if w.place = .ended then quiesceCheck (drainCheck (writeCompletion s w)) else s
    else s

end Sys2Proof.Machine
end

