-- ==== Sys2Proof/Machine/Publish.lean ====
section
/-! DEFINITION. Publishing (R122 to R124, R358 to R362): buffer regions, their versions, and regions of shared leading pages. -/

namespace Sys2Proof.Machine

open Sys2Proof

/-! ### CREATE (R360, R361) -/

/-- The windows that a CREATE names. -/
def createWindows (w : Work) : List Nat := (List.range (opr w 10 2)).map (opr w 16 8 / 2 ^ 30 + ·)

/-- The fields of CREATE, and its windows: UNBOUND, contiguous, within the State Range. -/
def createFields (s : State) (w : Work) : Bool :=
  reservedClear w [(0, 12), (16, 8)] && bits (opr w 9 1) 7 1 == 0 && decide (opr w 8 1 = 0) && decide (1 ≤ opr w 10 2) &&
    decide (opr w 10 2 ≤ 256) && opr w 16 8 % 2 ^ 30 == 0 && (createWindows w).all (windowFree s)

/-- Room for the durable tiles of a region of a class. -/
def regionRoom (s : State) (durable : Bool) (windows : Nat) : Bool := !durable || durableRoom s (65536 * windows)

/-- The buffer region that CREATE makes: OWNED at epoch 1, VERSION 0, homed with its anchor. -/
def createdRegion (s : State) (w : Work) (handle index bed : Nat) : Subject :=
  { Subject.blank index handle w.hdr.keySlot .buffer with
    homeBed := bed, own := ownedHere s 1, windows := opr w 10 2, firstWindow := opr w 16 8 / 2 ^ 30, durable := bit (opr w 9 1) 0 }

/-- The checks of PUBLISH CREATE (R354, R355). -/
def createChks (s : State) (w : Work) (a : Subject) : List Chk :=
  [chk (a.state != 5) stPoisoned, chk (createFields s w) stBad,
   chk ((freeIndex s).isSome && !s.nv.noStep && regionRoom s (bit (opr w 9 1) 0) (opr w 10 2)) stNoSpace]

/-- The effects of CREATE: the region, and its windows. -/
def createEffects (w : Work) (x : Subject) : List Effect :=
  let ws := createWindows w
  .openSubject x :: (List.range ws.length).map fun j => Effect.bind (ws.getD j 0) (.region x.handle j)

/-- PUBLISH with MODE CREATE, or a MODE that the opcode does not have. -/
def runCreate (s : State) (w : Work) : State :=
  withSubject s w fun a =>
    checked s w (createChks s w a) fun s =>
      match issueHandle s, freeIndex s with
      | .wait s, _ => s
      | .ok s h, some i =>
        let x := createdRegion s w h i a.homeBed
        if bucketBusy s h then s
        else finish (placeEntry s (handleEntry x true)) w.id stDone (createdResult x) (createEffects w x)
      | _, _ => fail s w.id stNoSpace

/-- PUBLISH CREATE (R361). -/
def execPublishCreate (work : Nat) (s : State) : Host.Outcome State Fault Refusal :=
  act s <| runWork work (isFirstMode 0x06 8 3) runCreate

/-! ### VERSION (R362) -/

/-- The tile numbers of a region that a span touches. -/
def spanNumbers (off len : Nat) : List Nat := (spanFrames off len).map (· / 16384)

/-- A tile of a region as a span of bytes changes it. -/
def regionTile (s : State) (x : Subject) (off : Nat) (b : List Byte) (n : Nat) : Tile :=
  let old := ((tileOf s x.handle n).map (·.payload)).getD []
  let p := partIn (n * 16384) off b
  { blankTile x.handle n x.keySlot with kind := 10, durable := x.durable, payload := cellWrite old p.1 p.2 }

/-- The tiles of a region that a span covers only in part. -/
def partTiles (s : State) (x : Subject) (off len : Nat) : List Tile := (partFrames off len).filterMap fun f => tileOf s x.handle (f / 16384)

/-- Write the content as new tile versions, once its source has been read; VERSION becomes BASE_VERSION + 1 at completion. -/
def versionEnd (s : State) (w : Work) (x : Subject) (b : List Byte) : State :=
  let off := opr w 32 8
  let part := partTiles s x off b.length
  if part.any (fun t => t.version != 0 && t.lodged.isNone && masterTier t == 0) then failChk s w (chkEv false stPoisoned 0x0102)
  else
    let lodged := part.filter fun t => t.lodged.isSome
    if !lodged.isEmpty then lodged.foldl requestTile s
    else
      conclude s w stDone (leBytes 8 (x.version + 1)) ((spanNumbers off b.length).map (regionTile s x off b))
        [.version x.handle (x.version + 1)]

/-- The fields of VERSION. -/
def versionFields (x : Subject) (w : Work) : Bool :=
  x.kind == .buffer && reservedClear w [(0, 9), (12, 28)] && decide (64 ≤ opr w 12 4) && decide (opr w 12 4 ≤ 16777216) &&
    opr w 12 4 % 64 == 0 && opr w 32 8 % 64 == 0 && decide (opr w 32 8 + opr w 12 4 ≤ x.windows * 2 ^ 30)

/-- The checks of PUBLISH VERSION (R356). -/
def versionChks (w : Work) (x : Subject) : List Chk :=
  [chk (x.state != 5) stPoisoned, chk (!isOffered x) stConflict, chk (versionFields x w) stBad]

/-- PUBLISH with MODE VERSION: BASE_VERSION is compared before the reach of the source (R302). -/
def runVersion (src : Fetch) (s : State) (w : Work) : State :=
  withSubject s w fun x =>
    let a := addrOf (opr w 24 8)
    let n := opr w 12 4
    checked s w (versionChks w x) fun s =>
      if opr w 16 8 ≠ x.version then finish s w.id stConflict (leBytes 8 x.version) []
      else checked s w [reachChk s w a n false] fun s => withOperand s w a n false src fun s b => versionEnd s w x b

/-- PUBLISH VERSION (R362). -/
def execPublishVersion (work : Nat) (src : Fetch) (s : State) : Host.Outcome State Fault Refusal :=
  act s <| runWork work (isMode 0x06 8 1) (durably (runVersion src))

/-! ### Shared leading pages (R122 to R124, R358, R359) -/

/-- The first page that some layer does not reference from a region. -/
def firstOwn (x : Subject) (b : Nat) : Nat :=
  ((List.range b).find? fun p => (List.range x.layers).any fun l => (pageOf (mapOf x l) p).region.isNone).getD b

/-- Pages 0 to B − 1 are FILED in every layer. -/
def filedTo (x : Subject) (b : Nat) : Bool :=
  (List.range x.layers).all fun l => decide (b ≤ (mapOf x l).pages.length) &&
    (List.range b).all fun p => (pageOf (mapOf x l) p).state == 2

/-- The region as it is made: the pages from `f` on, with nothing in them yet. Log 81 (DEDUCED). -/
def sharedRegion (s : State) (w : Work) (x : Subject) (f handle index : Nat) : Subject :=
  let b := opr w 12 4
  let parent := if f = 0 then 0 else ((pageOf (mapOf x 0) (f - 1)).region).getD 0
  { Subject.blank index handle w.hdr.keySlot .shared with
    homeBed := x.homeBed, own := ownedHere s 1, layers := x.layers, kvHeads := x.kvHeads, ratio := x.ratio, dim := x.dim
    options := 1, vocab := x.vocab, log := List.replicate (32 * f) 0 ++ (x.log.take (32 * b)).drop (32 * f)
    maps := List.replicate x.layers { LayerMap.empty with first := f }, version := 1, parent := parent, firstPage := f
    count := b - f, modelTag := opr w 16 8, isPublic := bit (opr w 9 1) 0
    hashes := (hashChain (opr w 16 8) x b).drop f }

/-- Copy one page of one layer of a session into a region, on a state that is only computed with: the numbers in use, and the names of
the tiles written. -/
def sharePage (x r : Subject) (page : Nat) (a : State × List Nat × List (Nat × Nat)) (layer : Nat) :
    State × List Nat × List (Nat × Nat) :=
  match subjAny a.1 r.handle with
  | none => a
  | some y =>
    let home := pageHome a.1 x layer page
    let hps := (List.range x.kvHeads).map fun h => headPage a.1 home.1 home.2 page h
    let o := writePage a.1 y layer page 32 (pageLowered a.1 home.1 home.2 page) hps a.2.1
    (scratchLayer a.1 o, o.used, a.2.2 ++ o.tiles.map fun t => (t.handle, t.number))

/-- Copy the pages of a session from the first that it owns. -/
def sharePages (s : State) (x r : Subject) (n : Nat) : State × List Nat × List (Nat × Nat) :=
  (List.range n).foldl (fun a k => (List.range x.layers).foldl (sharePage x r (r.firstPage + k)) a)
    ({ s with subjects := s.subjects ++ [r] }, [], [])

/-- The tiles of the block-hash list (R359). -/
def hashTiles (r : Subject) : List Tile :=
  (List.range (ceilDiv r.hashes.length 1024)).map fun k =>
    let part := (r.hashes.drop (1024 * k)).take 1024
    { recordTile r (1 + k) 10 part.length (r.firstPage + 1024 * k) with payload := cellsOf part.flatten }

/-- Lodged tiles that the copy must read, asked of their holders. -/
def shareLodged (s : State) (x : Subject) (f b : Nat) : List Tile :=
  ((List.range x.layers).flatMap fun l => (List.range (b - f)).flatMap fun k =>
    let home := pageHome s x l (f + k)
    (tilesOf s home.1.handle).filter fun t => t.lodged.isSome && decide (5 ≤ t.kind) && decide (t.kind ≤ 8) && t.layer == l).dedup

/-- The public handle entry of a region finds no room (R138). -/
def publicRefused (s : State) (r : Subject) : Bool :=
  r.isPublic && (match dirInsert (placeEntry s (handleEntry r true)) (publicEntry r true) with
    | .full => true
    | _ => false)

/-- Publish the copied pages, unless a bucket is being rebuilt (R148): tiles, record, token log, block-hash list, directory entries. -/
def shareEnd (s : State) (w : Work) (x r : Subject) : State :=
  let c := sharePages s x r r.count
  match subjAny c.1 r.handle with
  | none => s
  | some y =>
    let tiles := headTiles y ++ hashTiles y ++ logTiles y (32 * y.firstPage) y.log.length ++
      c.2.2.dedup.filterMap fun e => tileOf c.1 e.1 e.2
    if c.2.1.any (fun n => decide (0xFFFFFF < n)) || !durableRoom s tiles.length then fail s w.id stNoSpace
    else if regionBusy s y then s
    else if publicRefused s y then
      fail (regAdd (event s 0x0307 0 y.keySlot y.handle 0 []) .dirOccRefused 0 1 32) w.id stNoSpace
    else
      match createSubject s w.id y tiles with
      | none => fail s w.id stNoSpace
      | some s =>
        let s := if y.isPublic then placeEntry s (publicEntry y true) else s
        done (insertBlocks s y true) w.id stDone (createdResult y)

/-- The checks of PUBLISH PREFIX (R122, R354). Log 80 (DEDUCED). -/
def shareChks (s : State) (w : Work) (x : Subject) : List Chk :=
  let b := opr w 12 4
  let f := firstOwn x b
  [chk (isSession x) stNotOwner, chk (x.state != 5) stPoisoned,
   chk (reservedClear w [(0, 10), (12, 12)] && bits (opr w 9 1) 7 1 == 0 && filedTo x b && decide (f < b) &&
     decide (b - f ≤ 261120)) stBad,
   chk ((freeIndex s).isSome && !s.nv.noStep) stNoSpace]

/-- Pages to copy that hold a malformed group, by layer (R156). -/
def shareBad (s : State) (x : Subject) (f b : Nat) : List (Nat × List Nat) :=
  ((List.range x.layers).map fun l => (l, ((List.range (b - f)).map (f + ·)).filter fun p => pageMalformed s x l p)).filter fun e =>
    !e.2.isEmpty

/-- PUBLISH with MODE PREFIX. A page that a malformed group makes ABSENT is no longer FILED (R156). -/
def runShare (s : State) (w : Work) : State :=
  withSubject s w fun x =>
    let b := opr w 12 4
    let f := firstOwn x b
    checked s w (shareChks s w x) fun s =>
      let lodged := shareLodged s x f b
      if !lodged.isEmpty then lodged.foldl requestTile s
      else if !(shareBad s x f b).isEmpty then
        fail ((shareBad s x f b).foldl (fun s e => dropMalformed s ((subjAny s x.handle).getD x) e.1 e.2) s) w.id stBad
      else
        match issueHandle s, freeIndex s with
        | .wait s, _ => s
        | .ok s h, some i => shareEnd s w x (sharedRegion s w x f h i)
        | _, _ => fail s w.id stNoSpace

/-- PUBLISH of shared leading pages (R124). -/
def execPublishPrefix (work : Nat) (s : State) : Host.Outcome State Fault Refusal :=
  act s <| runWork work (isMode 0x06 8 2) (durably runShare)

end Sys2Proof.Machine
end

