-- ==== Sys2Proof/Machine/Registers.lean ====
section
/-! DEFINITION. Register access (ch. 21): reads with their latches, writes, SEAL, and access by messages on the management bus. -/

namespace Sys2Proof.Machine

open Sys2Proof

/-- The offset of `ADM_QSAMP`. -/
abbrev qsampOff : Nat := 0x800090

/-- A register answers: the device is powered, and before ready only the SYS block is there (R512). -/
def answers (s : State) (off : Nat) : Bool := powered s && (s.power.state != .starting || decide (off < 0x100000))

/-- A read of `ADM_QSAMP.DEPTH` latches DELAY and SEQ of the same sample; a read of the half that holds DELAY alone returns what the
latest read of DEPTH on the path latched (R295). -/
def readQsamp (s : State) (p : Path) (off width : Nat) : State × Nat :=
  let k := pathNo p
  if width = 4 ∧ off % 8 = 4 then
    match s.regs.sample.find? fun e => e.1 == k with
    | some e => (s, e.2.2)
    | none => (s, regValue s p qsampOff)
  else
    let v := regValue s p qsampOff
    ({ s with regs := { s.regs with sample := (k, regGet s .admQselQueue k, v) :: s.regs.sample.filter fun e => e.1 != k } }, v)

/-- A read of 4 or 8 bytes on a path (R551, R552): its value, the latches it sets. Log 142 (DEDUCED). -/
def readBar (s : State) (p : Path) (off width : Nat) : State × Nat :=
  let r := if off / 8 * 8 = qsampOff then readQsamp s p off width else readWord s p off
  (r.1, accessPart off width r.2)

/-- Where BAR2 begins among the offsets that a port's commands carry: right after the 64 MiB of BAR0 (R297). Log 182 (PRESUMED). -/
abbrev bar2 : Nat := 0x4000000

/-- An access is 4 or 8 bytes wide and aligned to its width (R551). -/
def accessOk (off width : Nat) : Bool := (width == 4 || width == 8) && off % width == 0 && decide (off + width ≤ bar2)

/-- The port of a path. -/
def portOfPath (p : Path) : Option Nat :=
  match p with
  | .a => some 0
  | .b => some 1
  | .mb => none

/-- The pending bits 64k to 64k + 63 of a port. -/
def pendingBits (s : State) (p k : Nat) : Nat :=
  ((List.range 64).map fun i => if (p, 64 * k + i) ∈ s.ledg.pendingVec then 2 ^ i else 0).sum

/-- The 8 bytes of BAR2 at an offset: the table's 2,048 entries of 16 bytes from 0 on, the pending bits from 0x8000 on. Log 182 (PRESUMED). -/
def bar2Word (s : State) (p off : Nat) : Nat :=
  if off < 0x8000 then
    let e := vectorEntry s p (off / 16)
    if off % 16 < 8 then e.1 else e.2.1 + e.2.2 * 2 ^ 32
  else if off < 0x8100 then pendingBits s p ((off - 0x8000) / 8)
  else 0

/-- A vector of a port is set down anew; one that is pending and no longer masked is sent. -/
def setVector (s : State) (p n : Nat) (e : Nat × Nat × Nat) : State :=
  let s := { s with ledg := { s.ledg with msix := aset s.ledg.msix (p, n) e } }
  if (p, n) ∈ s.ledg.pendingVec ∧ !vectorMasked s p n then
    emit { s with ledg := { s.ledg with pendingVec := s.ledg.pendingVec.filter (· != (p, n)) } } (.vector p n)
  else s

/-- Write 4 or 8 bytes of BAR2; the pending bits are read only. -/
def writeBar2 (s : State) (p off width value : Nat) : State :=
  if off < 0x8000 then
    let n := off / 16
    let old := bar2Word s p (off / 8 * 8)
    let k := 8 * (off % 8)
    let v := old - bits old k (8 * width) * 2 ^ k + value % 2 ^ (8 * width) * 2 ^ k
    let e := vectorEntry s p n
    setVector s p n (if off % 16 < 8 then (v, e.2) else (e.1, v % 2 ^ 32, v / 2 ^ 32))
  else s

/-- Read a register, where one answers; a block that does not answer before ready returns a value that no rule gives. -/
def readAccess (s : State) (p : Path) (off width : Nat) (out : Nat → Out) : State :=
  if !powered s then s
  else if answers s off then
    let r := readBar s p off width
    emit r.1 (out r.2)
  else emit (takeFree s) (out (Config.number s.free % 2 ^ (8 * width)))

/-- Write a register, where one answers (R512). -/
def writeAccess (s : State) (p : Path) (off width value : Nat) : State :=
  if answers s off then writeWord s p off width (value % 2 ^ (8 * width)) else s

/-- SEAL (R555): `SYS_LOCK.SEAL` is set; it stays until the next start from power-off (R9). -/
def execSeal (_path : Path) (s : State) : Host.Outcome State Fault Refusal :=
  act s fun s => if powered s then setReg s .sysLockSeal 1 else s

/-- A port's access to BAR2: its port number and the offset in BAR2; the ports' functions answer once links train (R510). -/
def bar2Access (s : State) (path : Path) (off width : Nat) : Option (Nat × Nat) :=
  match portOfPath path with
  | none => none
  | some p =>
    if powered s ∧ s.power.state ≠ .starting ∧ bar2 ≤ off ∧ off + width ≤ bar2 + 0x10000 ∧ (width = 4 ∨ width = 8) ∧ off % width = 0 then
      some (p, off - bar2)
    else none

/-- REGISTER_WRITE (R8), and a write of the MSI-X table of a port (R297). -/
def execRegisterWrite (path : Path) (off width value : Nat) (s : State) : Host.Outcome State Fault Refusal :=
  act s fun s =>
    if accessOk off width then writeAccess s path off width value
    else
      match bar2Access s path off width with
      | some (p, o) => writeBar2 s p o width value
      | none => s

/-- WIDE_REGISTER_READ (R552), and a read of a port's MSI-X table and pending bits (R297). -/
def execWideRegisterRead (path : Path) (off : Nat) (s : State) : Host.Outcome State Fault Refusal :=
  act s fun s =>
    if accessOk off 8 then readAccess s path off 8 .value
    else
      match bar2Access s path off 8 with
      | some (p, o) => emit s (.value (bar2Word s p o))
      | none => s

/-- QSAMP_READ (R295): a read of `ADM_QSAMP.DEPTH` for the selected queue. -/
def execQsampRead (path : Path) (s : State) : Host.Outcome State Fault Refusal := act s fun s => readAccess s path qsampOff 8 .value

/-- BAR0_MCTP_MESSAGE (R553): the management bus carries the offset, the width and the data; a read returns its data in the answer. -/
def execBar0MctpMessage (write : Bool) (off width value : Nat) (s : State) : Host.Outcome State Fault Refusal :=
  act s fun s =>
    if busServes s && accessOk off width then
      if write then writeAccess s .mb off width value
      else readAccess s .mb off width fun n => .response (leBytes width n)
    else s

end Sys2Proof.Machine
end

