-- ==== Sys2Proof/Machine/Dispatch.lean ====
section
/-! DEFINITION. The effect of a command: one arm for each constructor, one direct call of its meaning. -/

namespace Sys2Proof.Machine

open Sys2Proof

/-- The effect of a command on everything but the queue. -/
def exec (i : Instr) (s : State) : Host.Outcome State Fault Refusal :=
  match i with
  | .powerOnStart x => Sys2Proof.Machine.execPowerOnStart x s
  | .holdupCharged energy bankMv => Sys2Proof.Machine.execHoldupCharged energy bankMv s
  | .powerLoss vinMv bankHolds => Sys2Proof.Machine.execPowerLoss vinMv bankHolds s
  | .overVoltage vinMv bankHolds => Sys2Proof.Machine.execOverVoltage vinMv bankHolds s
  | .inputBelow20v => Sys2Proof.Machine.execInputBelow20v s
  | .insertion live => Sys2Proof.Machine.execInsertion live s
  | .portWarmReset p => Sys2Proof.Machine.execPortWarmReset p s
  | .perstDeassert p => Sys2Proof.Machine.execPerstDeassert p s
  | .deviceWarmReset => Sys2Proof.Machine.execDeviceWarmReset s
  | .quiesce path => Sys2Proof.Machine.execQuiesce path s
  | .quiesceTimeout => Sys2Proof.Machine.execQuiesceTimeout s
  | .nvWrite path img sigOk norOk => Sys2Proof.Machine.execNvWrite path img sigOk norOk s
  | .firmwareWrite svn img sigOk => Sys2Proof.Machine.execFirmwareWrite svn img sigOk s
  | .seal path => Sys2Proof.Machine.execSeal path s
  | .registerWrite path off width value => Sys2Proof.Machine.execRegisterWrite path off width value s
  | .wideRegisterRead path off => Sys2Proof.Machine.execWideRegisterRead path off s
  | .qsampRead path => Sys2Proof.Machine.execQsampRead path s
  | .bar0MctpMessage write off width value => Sys2Proof.Machine.execBar0MctpMessage write off width value s
  | .bitstreamLoad path img sigOk => Sys2Proof.Machine.execBitstreamLoad path img sigOk s
  | .activate path badPans => Sys2Proof.Machine.execActivate path badPans s
  | .bitstreamDrainTimeout badPans => Sys2Proof.Machine.execBitstreamDrainTimeout badPans s
  | .rollback path badPans => Sys2Proof.Machine.execRollback path badPans s
  | .panFault bed pos => Sys2Proof.Machine.execPanFault bed pos s
  | .stepOverrun bed pos => Sys2Proof.Machine.execStepOverrun bed pos s
  | .tileStepBegin bed pos work step => Sys2Proof.Machine.execTileStepBegin bed pos work step s
  | .tileArrival dest handle number image => Sys2Proof.Machine.execTileArrival dest handle number image s
  | .stepEnd bed pos outs => Sys2Proof.Machine.execStepEnd bed pos outs s
  | .contextSwitchDone leaf => Sys2Proof.Machine.execContextSwitchDone leaf s
  | .contextSliceExpiry leaf => Sys2Proof.Machine.execContextSliceExpiry leaf s
  | .residentSliceExpiry unit => Sys2Proof.Machine.execResidentSliceExpiry unit s
  | .descriptorWindowRead leaf work => Sys2Proof.Machine.execDescriptorWindowRead leaf work s
  | .tileRequest bed pos handle number slot => Sys2Proof.Machine.execTileRequest bed pos handle number slot s
  | .panMessage bed pos toBed toPos bulk body => Sys2Proof.Machine.execPanMessage bed pos toBed toPos bulk body s
  | .dispatchHeldRelease utype => Sys2Proof.Machine.execDispatchHeldRelease utype s
  | .ledgerTailUpdate ledger line descs => Sys2Proof.Machine.execLedgerTailUpdate ledger line descs s
  | .consumedLineUpdate ledger line => Sys2Proof.Machine.execConsumedLineUpdate ledger line s
  | .readyLinePoll addr line => Sys2Proof.Machine.execReadyLinePoll addr line s
  | .ledgerEnable path line => Sys2Proof.Machine.execLedgerEnable path line s
  | .ledgerDisable path => Sys2Proof.Machine.execLedgerDisable path s
  | .ledgerDrainEnd ledger => Sys2Proof.Machine.execLedgerDrainEnd ledger s
  | .completionWrite work => Sys2Proof.Machine.execCompletionWrite work s
  | .cqFullTimeout ledger => Sys2Proof.Machine.execCqFullTimeout ledger s
  | .interruptCoalTimeout group => Sys2Proof.Machine.execInterruptCoalTimeout group s
  | .unknownOpcode ledger desc => Sys2Proof.Machine.execUnknownOpcode ledger desc s
  | .park work src => Sys2Proof.Machine.execPark work src s
  | .reviveWorking run => Sys2Proof.Machine.execReviveWorking run s
  | .reviveFull run => Sys2Proof.Machine.execReviveFull run s
  | .reviveHint work => Sys2Proof.Machine.execReviveHint work s
  | .movePlace run => Sys2Proof.Machine.execMovePlace run s
  | .moveView work => Sys2Proof.Machine.execMoveView work s
  | .moveUnview work => Sys2Proof.Machine.execMoveUnview work s
  | .moveAttach work => Sys2Proof.Machine.execMoveAttach work s
  | .dirRebuild bucket => Sys2Proof.Machine.execDirRebuild bucket s
  | .dirRebuildDone bucket => Sys2Proof.Machine.execDirRebuildDone bucket s
  | .sessionOpen work => Sys2Proof.Machine.execSessionOpen work s
  | .sessionClose work => Sys2Proof.Machine.execSessionClose work s
  | .hostLoad pbr addr te => Sys2Proof.Machine.execHostLoad pbr addr te s
  | .hostStore pbr addr te body => Sys2Proof.Machine.execHostStore pbr addr te body s
  | .peerUioAccess pbr off len write => Sys2Proof.Machine.execPeerUioAccess pbr off len write s
  | .tilePromotionDone handle number good => Sys2Proof.Machine.execTilePromotionDone handle number good s
  | .biResponse host line => Sys2Proof.Machine.execBiResponse host line s
  | .biTimeout host => Sys2Proof.Machine.execBiTimeout host s
  | .hostResume path => Sys2Proof.Machine.execHostResume path s
  | .writebackStart => Sys2Proof.Machine.execWritebackStart s
  | .writebackTileDone handle number => Sys2Proof.Machine.execWritebackTileDone handle number s
  | .spillStart tier scope => Sys2Proof.Machine.execSpillStart tier scope s
  | .spillTileDone handle number => Sys2Proof.Machine.execSpillTileDone handle number s
  | .prefetchItem source handle tile => Sys2Proof.Machine.execPrefetchItem source handle tile s
  | .t3Grant path => Sys2Proof.Machine.execT3Grant path s
  | .t3Withdraw path => Sys2Proof.Machine.execT3Withdraw path s
  | .t3Drain path => Sys2Proof.Machine.execT3Drain path s
  | .t3Compute path => Sys2Proof.Machine.execT3Compute path s
  | .t3RangeLost range => Sys2Proof.Machine.execT3RangeLost range s
  | .kvIngestFile work src => Sys2Proof.Machine.execKvIngestFile work src s
  | .kvIngestComplete work src => Sys2Proof.Machine.execKvIngestComplete work src s
  | .kvIngestRegister work => Sys2Proof.Machine.execKvIngestRegister work s
  | .kvIngestClear work => Sys2Proof.Machine.execKvIngestClear work s
  | .farAttn run queries => Sys2Proof.Machine.execFarAttn run queries s
  | .readyWordUpdate addr word => Sys2Proof.Machine.execReadyWordUpdate addr word s
  | .modelLoad path img table digestsOk => Sys2Proof.Machine.execModelLoad path img table digestsOk s
  | .modelUnload path => Sys2Proof.Machine.execModelUnload path s
  | .modelUnloadDone slot => Sys2Proof.Machine.execModelUnloadDone slot s
  | .draft run => Sys2Proof.Machine.execDraft run s
  | .draftConfigure work => Sys2Proof.Machine.execDraftConfigure work s
  | .draftReset work => Sys2Proof.Machine.execDraftReset work s
  | .verifyCommit work => Sys2Proof.Machine.execVerifyCommit work s
  | .vocabularyLoad path img => Sys2Proof.Machine.execVocabularyLoad path img s
  | .vocabularyUnload path => Sys2Proof.Machine.execVocabularyUnload path s
  | .tokenize work src => Sys2Proof.Machine.execTokenize work src s
  | .appendTokens work src => Sys2Proof.Machine.execAppendTokens work src s
  | .setStops work src => Sys2Proof.Machine.execSetStops work src s
  | .setSampler work src => Sys2Proof.Machine.execSetSampler work src s
  | .maskStep work => Sys2Proof.Machine.execMaskStep work s
  | .maskTree work => Sys2Proof.Machine.execMaskTree work s
  | .maskConfigure work src => Sys2Proof.Machine.execMaskConfigure work src s
  | .maskClear work => Sys2Proof.Machine.execMaskClear work s
  | .plan work => Sys2Proof.Machine.execPlan work s
  | .enroll work => Sys2Proof.Machine.execEnroll work s
  | .withdraw work => Sys2Proof.Machine.execWithdraw work s
  | .stepPlanConfigure work => Sys2Proof.Machine.execStepPlanConfigure work s
  | .plannerParkDone handle src => Sys2Proof.Machine.execPlannerParkDone handle src s
  | .plannerReviveDone handle => Sys2Proof.Machine.execPlannerReviveDone handle s
  | .deadlineExpiry work => Sys2Proof.Machine.execDeadlineExpiry work s
  | .shaperRefill => Sys2Proof.Machine.execShaperRefill s
  | .meterCommit path => Sys2Proof.Machine.execMeterCommit path s
  | .clrMax path => Sys2Proof.Machine.execClrMax path s
  | .fill work => Sys2Proof.Machine.execFill work s
  | .copy work src => Sys2Proof.Machine.execCopy work src s
  | .compare work a b => Sys2Proof.Machine.execCompare work a b s
  | .reduce work a b => Sys2Proof.Machine.execReduce work a b s
  | .reduceScorer work status result => Sys2Proof.Machine.execReduceScorer work status result s
  | .sluiceSession work => Sys2Proof.Machine.execSluiceSession work s
  | .sluicePublish work => Sys2Proof.Machine.execSluicePublish work s
  | .sluiceGlobal work => Sys2Proof.Machine.execSluiceGlobal work s
  | .handoverOffer work => Sys2Proof.Machine.execHandoverOffer work s
  | .handoverAccept work => Sys2Proof.Machine.execHandoverAccept work s
  | .claim pbr msg => Sys2Proof.Machine.execClaim pbr msg s
  | .grant pbr msg map => Sys2Proof.Machine.execGrant pbr msg map s
  | .refuse pbr msg => Sys2Proof.Machine.execRefuse pbr msg s
  | .claimWindowExpiry handle => Sys2Proof.Machine.execClaimWindowExpiry handle s
  | .offerTimeout handle => Sys2Proof.Machine.execOfferTimeout handle s
  | .ownershipAudit => Sys2Proof.Machine.execOwnershipAudit s
  | .query pbr msg => Sys2Proof.Machine.execQuery pbr msg s
  | .answer pbr msg => Sys2Proof.Machine.execAnswer pbr msg s
  | .auditQueryTimeout handle => Sys2Proof.Machine.execAuditQueryTimeout handle s
  | .tileReq pbr msg good => Sys2Proof.Machine.execTileReq pbr msg good s
  | .tileReply off image => Sys2Proof.Machine.execTileReply off image s
  | .tileReqTimeout handle number => Sys2Proof.Machine.execTileReqTimeout handle number s
  | .release pbr msg => Sys2Proof.Machine.execRelease pbr msg s
  | .publishCreate work => Sys2Proof.Machine.execPublishCreate work s
  | .publishVersion work src => Sys2Proof.Machine.execPublishVersion work src s
  | .publishPrefix work => Sys2Proof.Machine.execPublishPrefix work s
  | .mapEpochWrite path value => Sys2Proof.Machine.execMapEpochWrite path value s
  | .epochGraceEnd epoch => Sys2Proof.Machine.execEpochGraceEnd epoch s
  | .addDynamicCapacityResponse host accepted => Sys2Proof.Machine.execAddDynamicCapacityResponse host accepted s
  | .releaseDynamicCapacity host ext => Sys2Proof.Machine.execReleaseDynamicCapacity host ext s
  | .extentReleaseTimeout host ext => Sys2Proof.Machine.execExtentReleaseTimeout host ext s
  | .fmDynamicCapacityAdd host ext => Sys2Proof.Machine.execFmDynamicCapacityAdd host ext s
  | .fmDynamicCapacityRelease host ext => Sys2Proof.Machine.execFmDynamicCapacityRelease host ext s
  | .getDynamicCapacityConfiguration p => Sys2Proof.Machine.execGetDynamicCapacityConfiguration p s
  | .getDynamicCapacityExtentList p host count start => Sys2Proof.Machine.execGetDynamicCapacityExtentList p host count start s
  | .identify p => Sys2Proof.Machine.execIdentify p s
  | .getEventRecords ch log => Sys2Proof.Machine.execGetEventRecords ch log s
  | .clearEventRecords ch log handles => Sys2Proof.Machine.execClearEventRecords ch log handles s
  | .getEventInterruptPolicy p => Sys2Proof.Machine.execGetEventInterruptPolicy p s
  | .setEventInterruptPolicy p settings => Sys2Proof.Machine.execSetEventInterruptPolicy p settings s
  | .setTimestamp p value => Sys2Proof.Machine.execSetTimestamp p value s
  | .tspRequest host req => Sys2Proof.Machine.execTspRequest host req s
  | .ideKm p session req => Sys2Proof.Machine.execIdeKm p session req s
  | .cdatRead p entry => Sys2Proof.Machine.execCdatRead p entry s
  | .linkLeavesL0 p => Sys2Proof.Machine.execLinkLeavesL0 p s
  | .linkRecoveryTimeout p => Sys2Proof.Machine.execLinkRecoveryTimeout p s
  | .ideIntegrityFailure p => Sys2Proof.Machine.execIdeIntegrityFailure p s
  | .viralReceived p => Sys2Proof.Machine.execViralReceived p s
  | .surpriseRemoval p => Sys2Proof.Machine.execSurpriseRemoval p s
  | .cacheResponseTimeout p => Sys2Proof.Machine.execCacheResponseTimeout p s
  | .linkReturn p width rate => Sys2Proof.Machine.execLinkReturn p width rate s
  | .install path env payload => Sys2Proof.Machine.execInstall path env payload s
  | .installKey ch session env payload => Sys2Proof.Machine.execInstallKey ch session env payload s
  | .revoke path => Sys2Proof.Machine.execRevoke path s
  | .revokeSlot ch session slot => Sys2Proof.Machine.execRevokeSlot ch session slot s
  | .slotEmptied slot => Sys2Proof.Machine.execSlotEmptied slot s
  | .join path env payload => Sys2Proof.Machine.execJoin path env payload s
  | .joinSet ch session env payload => Sys2Proof.Machine.execJoinSet ch session env payload s
  | .leave path setId => Sys2Proof.Machine.execLeave path setId s
  | .leaveSet ch session setId => Sys2Proof.Machine.execLeaveSet ch session setId s
  | .getSlotEvidence ch slot nonce => Sys2Proof.Machine.execGetSlotEvidence ch slot nonce s
  | .getVersion ch => Sys2Proof.Machine.execGetVersion ch s
  | .getCapabilities ch version => Sys2Proof.Machine.execGetCapabilities ch version s
  | .negotiateAlgorithms ch mldsa mlkem aesgcm => Sys2Proof.Machine.execNegotiateAlgorithms ch mldsa mlkem aesgcm s
  | .getDigests ch => Sys2Proof.Machine.execGetDigests ch s
  | .getCertificate ch slot off len => Sys2Proof.Machine.execGetCertificate ch slot off len s
  | .challenge ch slot nonce => Sys2Proof.Machine.execChallenge ch slot nonce s
  | .getMeasurements ch index signed nonce => Sys2Proof.Machine.execGetMeasurements ch index signed nonce s
  | .keyExchange ch session => Sys2Proof.Machine.execKeyExchange ch session s
  | .finish ch session good operator => Sys2Proof.Machine.execFinish ch session good operator s
  | .endSession ch session => Sys2Proof.Machine.execEndSession ch session s
  | .retire path token sigOk => Sys2Proof.Machine.execRetire path token sigOk s
  | .ownerClaim path key => Sys2Proof.Machine.execOwnerClaim path key s
  | .debugPresent path token sigOk => Sys2Proof.Machine.execDebugPresent path token sigOk s
  | .debugClose path => Sys2Proof.Machine.execDebugClose path s
  | .bypass bitIn => Sys2Proof.Machine.execBypass bitIn s
  | .samplePreload cells => Sys2Proof.Machine.execSamplePreload cells s
  | .extest cells => Sys2Proof.Machine.execExtest cells s
  | .idcode => Sys2Proof.Machine.execIdcode s
  | .jtagDebugAccess req => Sys2Proof.Machine.execJtagDebugAccess req s
  | .entdaa addr => Sys2Proof.Machine.execEntdaa addr s
  | .setdasa static addr => Sys2Proof.Machine.execSetdasa static addr s
  | .checkpoint work => Sys2Proof.Machine.execCheckpoint work s
  | .checkpointInterval => Sys2Proof.Machine.execCheckpointInterval s
  | .warningTrigger trigger => Sys2Proof.Machine.execWarningTrigger trigger s
  | .checkpointStart => Sys2Proof.Machine.execCheckpointStart s
  | .restoreSession work okA okB buddyA buddyB map records => Sys2Proof.Machine.execRestoreSession work okA okB buddyA buddyB map records s
  | .restoreTakeover work okA okB map table views records => Sys2Proof.Machine.execRestoreTakeover work okA okB map table views records s
  | .streamLog pbr rec => Sys2Proof.Machine.execStreamLog pbr rec s
  | .streamOwn pbr rec => Sys2Proof.Machine.execStreamOwn pbr rec s
  | .streamLease pbr rec => Sys2Proof.Machine.execStreamLease pbr rec s
  | .streamAck pbr rec => Sys2Proof.Machine.execStreamAck pbr rec s
  | .streamFetch pbr rec => Sys2Proof.Machine.execStreamFetch pbr rec s
  | .streamRefuse pbr rec => Sys2Proof.Machine.execStreamRefuse pbr rec s
  | .fetchReply off body => Sys2Proof.Machine.execFetchReply off body s
  | .logRecordFlush => Sys2Proof.Machine.execLogRecordFlush s
  | .buddyTimeout => Sys2Proof.Machine.execBuddyTimeout s
  | .buddyRetry => Sys2Proof.Machine.execBuddyRetry s
  | .buddyOriginWrite path origin => Sys2Proof.Machine.execBuddyOriginWrite path origin s
  | .fosterRelease path origin => Sys2Proof.Machine.execFosterRelease path origin s
  | .discard path => Sys2Proof.Machine.execDiscard path s
  | .flashScrub handle number corrected good => Sys2Proof.Machine.execFlashScrub handle number corrected good s
  | .flashBlockRetire spareLeft used => Sys2Proof.Machine.execFlashBlockRetire spareLeft used s
  | .dramChannelFault vault bed unit => Sys2Proof.Machine.execDramChannelFault vault bed unit s
  | .packageMigrationDone package => Sys2Proof.Machine.execPackageMigrationDone package s
  | .flashDieFault die => Sys2Proof.Machine.execFlashDieFault die s
  | .dieRebuildDone die => Sys2Proof.Machine.execDieRebuildDone die s
  | .pllLossOfLock crossing => Sys2Proof.Machine.execPllLossOfLock crossing s
  | .bedFault bed clock => Sys2Proof.Machine.execBedFault bed clock s
  | .blockFault block => Sys2Proof.Machine.execBlockFault block s
  | .managementCoreFault core => Sys2Proof.Machine.execManagementCoreFault core s
  | .faultRecoveryDone cls place interruptNs => Sys2Proof.Machine.execFaultRecoveryDone cls place interruptNs s
  | .droopTrip bed => Sys2Proof.Machine.execDroopTrip bed s
  | .stretchRelease bed => Sys2Proof.Machine.execStretchRelease bed s
  | .bedStop bed => Sys2Proof.Machine.execBedStop bed s
  | .harrowWalk bed walk => Sys2Proof.Machine.execHarrowWalk bed walk s
  | .neighbourLimit x y railX railY tempX tempY => Sys2Proof.Machine.execNeighbourLimit x y railX railY tempX tempY s
  | .holdRelease bed => Sys2Proof.Machine.execHoldRelease bed s
  | .retentionProbe bed vault unit failed month => Sys2Proof.Machine.execRetentionProbe bed vault unit failed month s
  | .patrolScrub bed bad halve month => Sys2Proof.Machine.execPatrolScrub bed bad halve month s
  | .ringOscillatorMeasure bed shift => Sys2Proof.Machine.execRingOscillatorMeasure bed shift s
  | .ageingRecordWrite => Sys2Proof.Machine.execAgeingRecordWrite s
  | .thermalThrottle bed => Sys2Proof.Machine.execThermalThrottle bed s
  | .thermalHold bed => Sys2Proof.Machine.execThermalHold bed s
  | .thermalCritical vinMv bankHolds => Sys2Proof.Machine.execThermalCritical vinMv bankHolds s
  | .mark work => Sys2Proof.Machine.execMark work s
  | .dumpTiles work => Sys2Proof.Machine.execDumpTiles work s
  | .dumpTrace work => Sys2Proof.Machine.execDumpTrace work s
  | .dumpArm work => Sys2Proof.Machine.execDumpArm work s
  | .dumpDisarm work => Sys2Proof.Machine.execDumpDisarm work s
  | .dumpCapture => Sys2Proof.Machine.execDumpCapture s
  | .captureTimeout arm => Sys2Proof.Machine.execCaptureTimeout arm s
  | .obsBudgetRefill => Sys2Proof.Machine.execObsBudgetRefill s
  | .snap path => Sys2Proof.Machine.execSnap path s
  | .counterClear path => Sys2Proof.Machine.execCounterClear path s
  | .counterSample => Sys2Proof.Machine.execCounterSample s
  | .shippedStep pbr origin seq manifest tiles => Sys2Proof.Machine.execShippedStep pbr origin seq manifest tiles s
  | .portReferenceClockLoss p => Sys2Proof.Machine.execPortReferenceClockLoss p s
  | .standbyPllLossOfLock => Sys2Proof.Machine.execStandbyPllLossOfLock s
  | .faultControllerFailure => Sys2Proof.Machine.execFaultControllerFailure s
  | .throttleRelease bed => Sys2Proof.Machine.execThrottleRelease bed s
  | .tapReset driven => Sys2Proof.Machine.execTapReset driven s
  | .hdmDecoderCommit host base => Sys2Proof.Machine.execHdmDecoderCommit host base s

end Sys2Proof.Machine
end

