-- ==== Sys2Proof/Safety.lean ====
section
/-! DEFINITION. What counts as safe, in the words the claims use: the forms that every step keeps. -/

namespace Sys2Proof.Safety

open Sys2Proof.Machine

/-- No register field holds more bits than it has, now or in the values in force since the latest start (R509, R550). -/
def fieldsFit (r : Regs) : Prop := ∀ c, c ∈ r.cells ∨ c ∈ r.applied → c.2 < 2 ^ fldBits c.1.1

/-- The list holds every bed of the model once, in order (R3). -/
def bedsListed (m : Model) (l : List Bed) : Prop := l.map (fun b => b.no) = List.range (bedCount m)

/-- The plan kept without power, where there is one, is of the model's beds (R487). -/
def planListed (m : Model) (n : Nv) : Prop := ∀ r, n.ageing = some r → bedsListed m r.beds

/-- The payload of every tile is in canonical form. -/
def payloadsWf (l : List Tile) : Prop := ∀ t ∈ l, cellsWf t.payload = true

/-- The tiles that an effect brings are in canonical form. -/
def effectWf : Effect → Prop
  | .tile t => cellsWf t.payload = true
  | .restore _ l k => payloadsWf l ∧ payloadsWf k
  | _ => True

/-- The tiles that a list of effects brings are in canonical form. -/
def effectsWf (l : List Effect) : Prop := ∀ e ∈ l, effectWf e

/-- The tiles that accepted work has written, and that its completion will make referenced. -/
def worksWf (l : List Work) : Prop := ∀ w ∈ l, effectsWf w.effects

/-- The tiles of a checkpoint slot, its manifest's tile among them. -/
def slotWf (c : Option CkptStep) : Prop := ∀ k, c = some k → payloadsWf k.tiles ∧ cellsWf k.manifest.payload = true

/-- The tiles of the checkpoint slots. -/
def stepsWf (d : Dur) : Prop := slotWf d.slotA ∧ slotWf d.slotB

/-- The tiles that captures keep. -/
def capturesWf (o : Obs) : Prop := ∀ c ∈ o.captures, payloadsWf c.tiles

/-- The form that every step keeps: fields within their widths, the model's beds in order, and every payload, wherever a tile is
held, in canonical form. -/
structure Formed (s : State) : Prop where
  regs : fieldsFit s.regs
  beds : bedsListed s.model s.beds
  plan : planListed s.model s.nv
  tiles : payloadsWf s.tiles
  lodged : payloadsWf s.own.lodged
  work : worksWf s.work
  steps : stepsWf s.dur
  captures : capturesWf s.obs

/-- The state on which a command acts: what the previous command sent out is gone. -/
def fresh (s : State) : State := { s with out := [] }

/-- The work can be run from where it stands: it is in flight, or stands in a control queue (R26, R295). -/
def startable (w : Work) : Bool :=
  match w.place with
  | .flight _ => true
  | .queued q => decide (0x1000 ≤ q)
  | _ => false

/-- Work `w`, of number `id`, can run now: the device serves, the work is not pre-empted and no share of it is unread, and no
planner's park that started earlier precedes it. -/
def canRun (s : State) (id : Nat) (w : Work) : Bool :=
  running s && workOf s id == some w && !paused w && !behindPark s w && startable w

/-- The state in which the effect of a work starts: a work that stood in a control queue is in flight. -/
def begun (s : State) (w : Work) : State := startWork (fresh s) w

/-- A destination can take an operand at once: no tile that its frames show is lost, or lodged with another device (R339, R573). -/
def destReady (s : State) (a : Addr) (len : Nat) : Bool :=
  match a with
  | .state off =>
    (partFrames off len).all fun off =>
      match shownAt s off with
      | .lost _ | .lodged _ => false
      | _ => true
  | _ => true

/-- Every check of a table passes. -/
def passes (l : List Chk) : Bool := (firstFail l).isNone

/-- The work has ended with a status. -/
def ends (t : State) (id status : Nat) : Bool := (workOf t id).any fun v => v.place == .ended && v.status == some status

/-- There is room for the tiles and for the operand that a work writes when it ends (R86, R417, R422). -/
def fits (s : State) (w : Work) (tiles : List Tile) (a : Addr) (out : List Byte) : Bool :=
  durableRoom s (newDurable s tiles) && ((stageAll s w.id tiles).bind fun s => writeAddr s w.id a out).isSome

/-- A ledger just made ACTIVE, with HEAD 0 and no tail or consumed count seen (R318). -/
def activated (s : State) (l : Nat) : State :=
  regSet (regSet (regSet (regSet (regSet s .ldgStatusState l 1) .ldgStatusError l 0) .ldgHeadCount l 0) .ldgHeadSeen l 0) .ldgCtrlEnable l 1

/-- The line that a store of a host brings, and whether it is poisoned (R299). -/
def lineOf : Fetch → List Byte × Bool
  | .data b => (slice b 0 64, false)
  | .poison => (zeros 64, true)

/-- The shapers have been charged for what a MOVE brings in and sends out (R119, R291). -/
def moveCharged (s : State) (w : Work) (x : Subject) : State :=
  let tier := opr w 9 1
  let ts := (placeNames s x w).filterMap fun e => tileOf s e.1 e.2
  let far := ts.filter fun t => decide (3 ≤ masterTier t) && masterTier t != tier
  let near := ts.filter fun t => decide (masterTier t < tier)
  shaperTake (shaperTake s 0 w.hdr.keySlot (far.length * tileBytes)) 1 w.hdr.keySlot (if 3 ≤ tier then near.length * tileBytes else 0)

/-- A peer message of a type that this device takes: its sender is mapped and its CHECK matches (R342, R343). What follows is the state in
which it acts, the sender's origin and the message. -/
def peerIn (s : State) (pbr : Nat) (msg : List Byte) (type : Nat) : Option (State × Nat × List Byte) :=
  match peerOfPbr s pbr with
  | none => none
  | some i =>
    let m := slice msg 0 64
    let org := regGet s .cxlPeerMapOrigin i
    if peerCheck m && field m 0 1 == type then some (tracePeer s 0x07 org 0 type (field m 32 8), org, m) else none

/-- A stream record of a type that this device takes (R440). -/
def streamIn (s : State) (pbr : Nat) (rec : List Byte) (type : Nat) : Option (State × Nat × List Byte) :=
  match peerOfPbr s pbr with
  | none => none
  | some i =>
    let r := slice rec 0 128
    let org := regGet s .cxlPeerMapOrigin i
    if streamCheck r && field r 0 1 == type then some (tracePeer s 0x07 org 1 type (field r 24 8), org, r) else none

/-- A step answers a next state. -/
def answers (s : State) : Prop := ∃ t, step s = .next t

end Sys2Proof.Safety
end

