-- ==== Sys2Proof/Certificates/Slice0/Obligations.lean ====
section
/-! DEFINITION. The statements about the block: what its commands do, where each completes, and what every step keeps. -/

open Sys2Proof Sys2Proof.Machine Sys2Proof.Safety

/-- The state after reset has the form that every step keeps (R3, R509, R550). -/
def Obligations.ResetHasTheForm : Prop :=
  Formed State.reset

/-- Every step that answers a next state keeps the form: register widths, the beds of the model, canonical payloads (R3, R62, R71, R428, R487, R501, R550). -/
def Obligations.EveryStepKeepsTheForm : Prop :=
  ∀ s t, Formed s → step s = .next t → Formed t

/-- A step takes the command at the front of the queue and runs it on the state with the queue's rest (00_scope.md). -/
def Obligations.StepRunsTheFrontCommand : Prop :=
  ∀ (c : Instr) (s : State) (q : List Instr), step { s with pending := c :: q } = exec c { s with pending := q }

/-- On an empty queue a step lets 10 ns pass while the device has power, and changes nothing else (assumption 8) (R474). -/
def Obligations.EmptyQueueLetsTimePass : Prop :=
  ∀ s, s.pending = [] →
    step s = .next (if powered s then { s with time := (s.time + 10) % 2 ^ 64, out := [] } else { s with out := [] })

/-- Every command answers a next state, and changes neither the queue nor which model the device is (R3, R10). -/
def Obligations.EveryCommandAnswers : Prop :=
  ∀ (c : Instr) (s : State), Formed s → ∃ t, exec c s = .next t ∧ t.pending = s.pending ∧ t.model = s.model

/-- What is written to a tile's payload is read back, every other byte is as before, and the form is kept (R62, R71). -/
def Obligations.PayloadWritesAreRead : Prop :=
  ∀ (c : List Host.Cell) (a : Nat) (b : List Byte), cellsWf c →
    cellsWf (cellWrite c a b) ∧ cellRead (cellWrite c a b) a b.length = b ∧
      ∀ k, k < a ∨ a + b.length ≤ k → cellGet (cellWrite c a b) k = cellGet c k

/-- Two canonical payloads that read alike at every offset are equal (R62, R71). -/
def Obligations.PayloadFormIsCanonical : Prop :=
  ∀ c d : List Host.Cell, cellsWf c → cellsWf d → (∀ k, cellGet c k = cellGet d k) → c = d

/-- Setting an entry of a field stores as many bits as the field has, and every other field and entry is as before (R6, R550). -/
def Obligations.RegisterWritesSetOneField : Prop :=
  ∀ (s : State) (f g : Fld) (i j v : Nat),
    regGet (regSet s f i v) f i = v % 2 ^ fldBits f ∧
      ((g, j) ≠ (f, i) → regGet (regSet s f i v) g j = regGet s g j) ∧
      regSet s f i v = { s with regs := { s.regs with cells := (regSet s f i v).regs.cells } }

/-- A register write, by a port or by a message, changes registers only, and no entry of another path's selectors (R8, R551, R552, R553, R555). -/
def Obligations.RegisterCommandsTouchRegistersOnly : Prop :=
  ∀ (s t : State) (p : Path) (off width value : Nat),
    exec (.registerWrite p off width value) s = .next t ∨ (p = .mb ∧ exec (.bar0MctpMessage true off width value) s = .next t) →
      t = { fresh s with regs := t.regs } ∧
        ∀ (q : Path) (f : Fld), q ≠ p → (fldSpec f).sel = .perPath → regGet t f (pathNo q) = regGet s f (pathNo q)

/-- While SEAL is 1 no register write on any path changes an RWL field, and SEAL stays 1 (R8, R9, R555). -/
def Obligations.SealedFieldsStay : Prop :=
  ∀ (s t : State) (p : Path) (off width value : Nat) (f : Fld) (i : Nat), isSealed s → (fldSpec f).acc = .rwl →
    exec (.registerWrite p off width value) s = .next t ∨ exec (.bar0MctpMessage true off width value) s = .next t →
      regGet t f i = regGet s f i ∧ isSealed t

/-- A wide register is latched by a read of word 0 and takes its staged words when the highest word is written (R552). -/
def Obligations.WideRegistersLatchAndStage : Prop :=
  ∀ (s : State) (p : Path) (off value : Nat), accessOk off 8 → answers s off → 2 ≤ wordsAt (off - 8 * wordOf off) →
    (∀ l, l = (pathNo p, off, regValue s p off) :: s.regs.latch.filter (fun e => !(e.1 == pathNo p && e.2.1 == off)) → wordOf off = 0 →
      exec (.wideRegisterRead p off) s =
        .next (emit { fresh s with regs := { s.regs with latch := l } } (.value (regValue s p off % 2 ^ 64)))) ∧
    (∀ e, 0 < wordOf off → s.regs.latch.find? (fun e => e.1 == pathNo p && e.2.1 == off - 8 * wordOf off) = some e →
      exec (.wideRegisterRead p off) s =
        .next (emit (fresh s) (.value (bits e.2.2 (64 * wordOf off + 63) (64 * wordOf off))))) ∧
    (∀ (l : List (Nat × Nat × Nat)) (u : State),
      l = (pathNo p, off, value % 2 ^ 64) :: s.regs.staged.filter (fun e => !(e.1 == pathNo p && e.2.1 == off)) →
      u = { fresh s with regs := { s.regs with staged := l } } →
      (wordOf off + 1 < wordsAt (off - 8 * wordOf off) → exec (.registerWrite p off 8 value) s = .next u) ∧
      (wordOf off + 1 = wordsAt (off - 8 * wordOf off) → ∀ b n : Nat, b = off - 8 * wordOf off → n = wordsAt b →
        ∀ (v : State) (r : List (Nat × Nat × Nat)), v = writeFields u p b (64 * n - 1) 0 (stagedValue u p b n) →
          r = v.regs.staged.filter (fun e => !(e.1 == pathNo p && decide (b ≤ e.2.1) && decide (e.2.1 < b + 8 * n))) →
          exec (.registerWrite p off 8 value) s = .next { v with regs := { v.regs with staged := r } }))

/-- The ownership record's 32 bytes hold its fields at the places of R340, and opens and publications create it at EPOCH 1 (R340). -/
def Obligations.OwnershipRecordLayout : Prop :=
  ∀ (s : State) (w : Work) (x : Subject) (o : OwnRec) (h i b f : Nat),
    (o.epoch < 2 ^ 32 → o.owner < 2 ^ 24 → o.state < 256 → o.target < 2 ^ 24 → o.since < 2 ^ 64 →
      (ownBytes o).length = 32 ∧ field (ownBytes o) 0 4 = o.epoch ∧ field (ownBytes o) 4 3 = o.owner ∧ field (ownBytes o) 7 1 = o.state ∧
        field (ownBytes o) 8 3 = o.target ∧ field (ownBytes o) 11 1 = b2n o.granted ∧ field (ownBytes o) 12 4 = 0 ∧
        field (ownBytes o) 16 8 = o.since ∧ field (ownBytes o) 24 8 = 0) ∧
    (∀ r : OwnRec, r = (openedSession s w h i b).own ∨ r = (createdRegion s w h i b).own ∨ r = (sharedRegion s w x f h i).own →
      r.epoch = 1 ∧ r.state = 0 ∧ r.owner = reg s .sysOriginId ∧ r.target = 0 ∧ r.granted = false ∧ r.since = s.time)

/-- A completion's 32 bytes hold its fields at the places of R323, with PHASE from the writes before it (R323). -/
def Obligations.CompletionLayout : Prop :=
  ∀ (s : State) (w : Work) (cq status : Nat) (result b : List Byte), compatLedger s cq = false →
    w.hdr.tag < 2 ^ 64 → w.ledger < 4096 → w.slot < 65536 → status < 256 → b = completionBytes s w cq status result →
      b.length = 32 ∧ field b 0 8 = w.hdr.tag ∧ field b 8 1 = status ∧
        field b 9 1 = (if w.hdr.opcode ∈ opcodes then w.hdr.opcode else 0) ∧
        field b 10 1 = (if regGet s .ldgHeadCount cq / 2 ^ regGet s .ldgCfgSizeLog2 cq % 2 = 0 then 1 else 0) ∧ field b 11 1 = 0 ∧
        field b 12 2 = w.ledger ∧ field b 14 2 = w.slot ∧ slice b 16 16 = slice result 0 16

/-- A record goes to the log of its severity: coalesced, appended, or dropped and counted; it raises vector 0 and ALERT_N as R464 says (R464). -/
def Obligations.EventLogsKeepTheirRule : Prop :=
  ∀ (s t : State) (sev reason cls slot handle loc : Nat) (arg : List Nat) (e : Event), sev < 4 →
    e = { reason := reason, cls := cls, severity := sev, count := 1, keySlot := slot, handle := handle, location := loc, arg := arg, seq := s.flt.seq, time := s.time } →
    t = eventAt s sev reason cls slot handle loc arg →
    (∀ k, k < 4 → k ≠ sev → logOf t.flt k = logOf s.flt k) ∧
    ((∃ x ∈ logOf s.flt sev, x.reason = reason ∧ x.location = loc ∧ x.keySlot = slot ∧ s.time < x.time + 1000000) →
      logOf t.flt sev = (logOf s.flt sev).map fun x =>
        if x.reason = reason ∧ x.location = loc ∧ x.keySlot = slot ∧ s.time < x.time + 1000000 then { x with count := min 65535 (x.count + 1) } else x) ∧
    ((¬∃ x ∈ logOf s.flt sev, x.reason = reason ∧ x.location = loc ∧ x.keySlot = slot ∧ s.time < x.time + 1000000) →
      ((logOf s.flt sev).length < 16384 → logOf t.flt sev = logOf s.flt sev ++ [e]) ∧
      (16384 ≤ (logOf s.flt sev).length → logOf t.flt sev = logOf s.flt sev ∧
        t.flt.overflow.getD sev 0 = s.flt.overflow.getD sev 0 + 1 ∧ (t.flt.overflowAt.getD sev (0, 0)).2 = s.time ∧
        (t.flt.overflowAt.getD sev (0, 0)).1 = (if s.flt.overflow.getD sev 0 = 0 then s.time else (s.flt.overflowAt.getD sev (0, 0)).1))) ∧
    t.power = (if 2 ≤ sev then { s.power with alert := .asserted } else s.power) ∧
    (if 2 ≤ sev ∨ bit (reg s .fltEvtCfgNotify) sev then
        t.out = s.out ++ (([0, 1].filter fun p => !vectorMasked s p 0).map fun p => .vector p 0) ∧
        (∀ e, e ∈ t.ledg.pendingVec ↔ e ∈ s.ledg.pendingVec ∨ (e.1 < 2 ∧ e.2 = 0 ∧ vectorMasked s e.1 0)) ∧
        t.ledg = { s.ledg with pendingVec := t.ledg.pendingVec }
      else t.out = s.out ∧ t.ledg = s.ledg) ∧
    t = { s with flt := t.flt, power := t.power, ledg := t.ledg, out := t.out } ∧
    (running s → ∀ (ch : Path) (log : Nat), log < 4 → ∃ u b, exec (.getEventRecords ch log) s = .next u ∧ u.out = [.response b])

/-- A descriptor that runs for a handle not held here for its tenant ends NOT_OWNER and does nothing else (R58). -/
def Obligations.UnknownHandlesAreNotOwned : Prop :=
  ∀ (s : State) (id : Nat) (w : Work) (f : Fetch) (bad : List (Nat × Nat)) (hit : List (Nat × Nat × Nat × Bool)), canRun s id w →
    ddFull (begun s w) = false →
    heldFor (begun s w) w.hdr.keySlot (subjectOf w) = none →
    (isOp 0x01 w → exec (.park id f) s = .next (fail (begun s w) w.id stNotOwner)) ∧
    (isFirstMode 0x02 8 3 w → exec (.reviveWorking ⟨id, bad⟩) s = .next (fail (begun s w) w.id stNotOwner)) ∧
    (isMode 0x02 8 1 w → exec (.reviveFull ⟨id, bad⟩) s = .next (fail (begun s w) w.id stNotOwner)) ∧
    (isMode 0x02 8 2 w → exec (.reviveHint id) s = .next (fail (begun s w) w.id stNotOwner)) ∧
    (isFirstMode 0x03 8 4 w → exec (.movePlace ⟨id, bad⟩) s = .next (fail (begun s w) w.id stNotOwner)) ∧
    (isMode 0x03 8 1 w → exec (.moveView id) s = .next (fail (begun s w) w.id stNotOwner)) ∧
    (isMode 0x03 8 2 w → exec (.moveUnview id) s = .next (fail (begun s w) w.id stNotOwner)) ∧
    (isMode 0x03 8 3 w → exec (.moveAttach id) s = .next (fail (begun s w) w.id stNotOwner)) ∧
    (isOp 0x04 w → exec (.handoverOffer id) s = .next (fail (begun s w) w.id stNotOwner)) ∧
    (isFirstMode 0x06 8 3 w → exec (.publishCreate id) s = .next (fail (begun s w) w.id stNotOwner)) ∧
    (isMode 0x06 8 1 w → exec (.publishVersion id f) s = .next (fail (begun s w) w.id stNotOwner)) ∧
    (isMode 0x06 8 2 w → exec (.publishPrefix id) s = .next (fail (begun s w) w.id stNotOwner)) ∧
    (isFirstMode 0x10 24 4 w → exec (.kvIngestFile id f) s = .next (fail (begun s w) w.id stNotOwner)) ∧
    (isMode 0x10 24 1 w → exec (.kvIngestComplete id f) s = .next (fail (begun s w) w.id stNotOwner)) ∧
    (isMode 0x10 24 2 w → exec (.kvIngestRegister id) s = .next (fail (begun s w) w.id stNotOwner)) ∧
    (isMode 0x10 24 3 w → exec (.kvIngestClear id) s = .next (fail (begun s w) w.id stNotOwner)) ∧
    (isMode 0x12 16 1 w → exec (.draftConfigure id) s = .next (fail (begun s w) w.id stNotOwner)) ∧
    (isMode 0x12 16 2 w → exec (.draftReset id) s = .next (fail (begun s w) w.id stNotOwner)) ∧
    (isFirstMode 0x12 16 3 w → exec (.draft ⟨id, hit⟩) s = .next (fail (begun s w) w.id stNotOwner)) ∧
    (isOp 0x13 w → exec (.verifyCommit id) s = .next (fail (begun s w) w.id stNotOwner)) ∧
    (isFirstMode 0x19 26 3 w → exec (.appendTokens id f) s = .next (fail (begun s w) w.id stNotOwner)) ∧
    (isMode 0x19 26 1 w → exec (.setStops id f) s = .next (fail (begun s w) w.id stNotOwner)) ∧
    (isMode 0x19 26 2 w → exec (.setSampler id f) s = .next (fail (begun s w) w.id stNotOwner)) ∧
    (isFirstMode 0x1A 20 4 w → exec (.maskStep id) s = .next (fail (begun s w) w.id stNotOwner)) ∧
    (isMode 0x1A 20 1 w → exec (.maskTree id) s = .next (fail (begun s w) w.id stNotOwner)) ∧
    (isMode 0x1A 20 2 w → exec (.maskConfigure id f) s = .next (fail (begun s w) w.id stNotOwner)) ∧
    (isMode 0x1A 20 3 w → exec (.maskClear id) s = .next (fail (begun s w) w.id stNotOwner)) ∧
    (isFirstMode 0x30 24 4 w → exec (.dumpTiles id) s = .next (fail (begun s w) w.id stNotOwner)) ∧
    (isMode 0x30 24 2 w → exec (.dumpArm id) s = .next (fail (begun s w) w.id stNotOwner)) ∧
    (isMode 0x30 24 3 w → exec (.dumpDisarm id) s = .next (fail (begun s w) w.id stNotOwner))

/-- Assigning a version takes the next one above floor and VFLOOR, and raises the recorded floor to cover it (R63). -/
def Obligations.VersionsAreFresh : Prop :=
  ∀ (s t : State) (h n slot v : Nat) (old : Tile), old = (tileOf s h n).getD (blankTile h n slot) →
    v = max old.floor (vfloorOf s h) + 1 → t = assignVersion s h n slot →
    nextVersion s h n = v ∧ nextVersion t h n = v + 1 ∧
    tileOf t h n = some { old with floor := v, recFloor := if old.recFloor < v then v + 255 else old.recFloor } ∧
    (∀ k m, (k, m) ≠ (h, n) → tileOf t k m = tileOf s k m) ∧
    t = { s with tiles := t.tiles, dur := { s.dur with dirty := t.dur.dirty } }

/-- A copy that fails its check is rewritten from its twin or dropped, and a tile without a good copy is lost by its class (R80, R87). -/
def Obligations.FailedCopiesAreDropped : Prop :=
  ∀ (s u : State) (h n tier place : Nat) (t : Tile) (c : TileCopy), tileOf s h n = some t →
    c = { tier := tier, place := place, version := t.version } → c ∈ t.copies → u = copyDropped s h n tier place →
    (∀ k m, (k, m) ≠ (h, n) → tileOf u k m = tileOf s k m) ∧
    ((∃ d ∈ t.copies, d ≠ c ∧ d.tier = tier ∧ d.version = t.version) →
      tileOf u h n = some { t with copies := c :: t.copies.filter (· ≠ c) }) ∧
    ((∀ d ∈ t.copies, d ≠ c → d.tier = tier → d.version ≠ t.version) → (∃ d ∈ t.copies, d ≠ c ∧ d.version = t.version) →
      tileOf u h n = some { t with copies := t.copies.filter (· ≠ c) }) ∧
    ((∀ d ∈ t.copies, d ≠ c → d.version ≠ t.version) →
      tileOf u h n = some { t with copies := t.copies.filter (· ≠ c), lodged := none } ∧
        (t.durable → ∀ x, subjAny u h = some x → x.state = 5 ∨ (x.state = 4 ∧ x.prior = 5))) ∧
    copyFailed s h n tier place = placeFailed u (t.copies.any fun d => d.tier == tier && d.version == t.version && d.place != place) t tier place ∧
    (tier = 4 → copyFailed s h n tier place = u)

/-- QUERY is answered HELD, WAIT or NO by the records, traces and open claims of the subject (R343, R356). -/
def Obligations.QueryIsAnswered : Prop :=
  ∀ (s t : State) (pbr org h e : Nat) (msg m : List Byte), running s → peerIn (fresh s) pbr msg 0x04 = some (t, org, m) →
    h = field m 8 8 → e = field m 4 4 →
    (((∃ x, subjAny t h = some x ∧ e + 1 ≤ x.own.epoch) ∨ ∃ r, traceOf t h = some r ∧ e + 1 ≤ r.own.epoch) →
      exec (.query pbr msg) s = .next (sendPeer t org 0x05 e h 1 0 0)) ∧
    ((∀ x, subjAny t h = some x → x.own.epoch ≤ e) → (∀ r, traceOf t h = some r → r.own.epoch ≤ e) →
      ((∃ c, claimOf t h = some c ∧ c.epoch = e) → exec (.query pbr msg) s = .next (sendPeer t org 0x05 e h 2 0 0)) ∧
      ((∀ c, claimOf t h = some c → c.epoch ≠ e) → exec (.query pbr msg) s = .next (sendPeer t org 0x05 e h 0 0 0)))

/-- After an input loss the device is OFF with no key, work or ledger, and every copy of a tile that is left lies in flash (R394, R423, R424, R514). -/
def Obligations.PowerLossKeepsFlashOnly : Prop :=
  ∀ (s t : State) (vinMv : Nat) (holds : Bool), s.power.state = .running → vinMv < 44000 → exec (.powerLoss vinMv holds) s = .next t →
    t.power.state = .off ∧ t.sec.slots = [] ∧ t.work = [] ∧ t.vocs = [] ∧ t.models = [] ∧ t.adm.planners = [] ∧ t.obs.arms = [] ∧
      t.cxl.extents = [] ∧ t.own.claims = [] ∧ (∀ x ∈ t.tiles ++ t.own.lodged, ∀ c ∈ x.copies, c.tier = 4) ∧
      (∀ l, regGet t .ldgStatusState l = 0) ∧ t.nv.losses = s.nv.losses + 1 ∧
      t.subjects.map (·.handle) = s.subjects.map (·.handle) ∧ t.pending = s.pending

/-- Before ready, blocks other than SYS take no writes, the mailbox and SPDM answer Busy, no ledger is enabled, CXL.mem is poisoned or dropped (R512). -/
def Obligations.BeforeReadyTheDeviceRefuses : Prop :=
  ∀ (s : State) (p : Path) (q : PortId) (off width value line pbr addr log version : Nat) (te : Bool) (b : Fetch), s.power.state = .starting →
    (0x100000 ≤ off → exec (.registerWrite p off width value) s = .next (fresh s)) ∧
    exec (.ledgerEnable p line) s = .next (fresh s) ∧
    exec (.identify q) s = .next (emit (fresh s) (.refuse mbBusy)) ∧
    exec (.getEventRecords p log) s = .next (emit (fresh s) (.refuse mbBusy)) ∧
    exec (.setTimestamp q value) s = .next (emit (fresh s) (.refuse mbBusy)) ∧
    exec (.getCapabilities p version) s = .next (emit (fresh s) (.refuse spdmBusy)) ∧
    exec (.getDigests p) s = .next (emit (fresh s) (.refuse spdmBusy)) ∧
    exec (.hostLoad pbr addr te) s = .next (emit (fresh s) .poison) ∧
    exec (.hostStore pbr addr te b) s = .next (emit (fresh s) .dropped) ∧
    (accessOk off 8 → off + 8 ≤ 0x100000 → exec (.wideRegisterRead p off) s =
      .next (emit (readBar (fresh s) p off 8).1 (.value (readBar (fresh s) p off 8).2)))

/-- A write of 1 to ENABLE acts on a DISABLED ledger only; a write of 0 drains an ACTIVE or HALTED one (R318). -/
def Obligations.LedgerControlKeepsItsStates : Prop :=
  ∀ (s : State) (p : Path) (l line : Nat), running s → entryOf s p .ldgStatusState 0 = some l →
    (regGet s .ldgStatusState l ≠ 0 → exec (.ledgerEnable p line) s = .next (fresh s)) ∧
    (regGet s .ldgStatusState l = 0 → s.power.quiescing = false → enableError (fresh s) l ≠ 0 →
      exec (.ledgerEnable p line) s = .next (regSet (fresh s) .ldgStatusError l (enableError (fresh s) l))) ∧
    (regGet s .ldgStatusState l = 1 ∨ regGet s .ldgStatusState l = 3 →
      exec (.ledgerDisable p) s = .next (regSet (regSet (fresh s) .ldgStatusState l 2) .ldgCtrlEnable l 0)) ∧
    (regGet s .ldgStatusState l = 0 ∨ regGet s .ldgStatusState l = 2 → exec (.ledgerDisable p) s = .next (fresh s))

/-- A revocation of a slot that is not ACTIVE changes no slot, and a ZEROED slot without a held install ends EMPTY (R394, R408). -/
def Obligations.RevocationNeedsAnActiveSlot : Prop :=
  (∀ (s : State) (ch : Path) (session slot : Nat) (c : SpdmChan), running s → spdmChan s ch = some c → c.algs →
    (c.sessions.any fun x => x.id == session && x.secured && x.operator.isSome) → slotActive s slot = false →
    exec (.revokeSlot ch session slot) s = .next (emit (fresh s) (.response [byte (reg s .secStatusError)]))) ∧
  ∀ (s : State) (slot : Nat) (x : KeySlot), running s → slotRec s slot = some x → x.state = 3 → x.held = none →
    ∃ t, exec (.slotEmptied slot) s = .next t ∧ slotState t slot = 0

/-- Each command of power, start and reset runs to its own effect where its conditions hold (R510, R424, R423, R529, R543, R508, R509, R518, R522, R513, R546). -/
def Obligations.PowerCommandsComplete : Prop :=
  (∀ (s : State) (x : StartInput) (k : FwImage),
    s.power.inserted →
    s.power.state = .off →
    chooseKelgor (lockPlls (powerUp (fresh s) x)) x = some k →
    exec (.powerOnStart x) s =
    .next (bankCheck (prepare { lockPlls (powerUp (fresh s) x) with power := { (lockPlls (powerUp (fresh s) x)).power with kelgor := some k } } x))) ∧
  (∀ (s : State) (energy bankMv : Nat) (x : StartInput),
    s.power.state = .starting →
    s.power.waitBank = some x →
    55000 ≤ bankMv →
    exec (.holdupCharged energy bankMv) s =
    .next (finishStart { (fresh s) with power := { s.power with
        bankMv := bankMv, waitBank := some { x with energy := energy, bankMv := bankMv } } } { x with energy := energy, bankMv := bankMv })) ∧
  (∀ (s : State) (vinMv : Nat) (bankHolds : Bool),
    s.power.state = .running →
    vinMv < 44000 →
    exec (.powerLoss vinMv bankHolds) s = .next (sealAndStop (fresh s) bankHolds .off vinMv)) ∧
  (∀ (s : State) (vinMv : Nat) (bankHolds : Bool),
    s.power.state = .running →
    61000 < vinMv →
    exec (.overVoltage vinMv bankHolds) s = .next (sealAndStop (fresh s) bankHolds .off vinMv)) ∧
  (∀ (s : State),
    s.power.state = .thermalOff ∨ s.power.state = .failed →
    exec .inputBelow20v s = .next (cutPower (takeFree (fresh s)) .off (Config.number s.free % 20000))) ∧
  (∀ (s : State) (live : Bool),
    s.power.inserted = false →
    exec (.insertion live) s =
    .next { takeFree (fresh s) with power := { s.power with
      inserted := true, vinMv := if live then 44000 + Config.number s.free % 17001 else 0 } }) ∧
  (∀ (s : State) (p : PortId),
    running s →
    s.power.perstA = false →
    s.power.perstB = false →
    exec (.portWarmReset p) s = .next (resetFunctions (portFails (setPerst (fresh s) p true) (portNo p)) p)) ∧
  (∀ (s : State) (p : PortId),
    running s →
    perst s p →
    3 ≤ reg s .sysBootStage →
    exec (.perstDeassert p) s = .next (regSet (setPerst (fresh s) p false) .cxlPortStatusLink (portNo p) 1)) ∧
  (∀ (s : State),
    running s →
    (s.power.perstA && s.power.perstB) = false →
    s.power.quiescing = false →
    exec .deviceWarmReset s = .next (warmReset (setPerst (setPerst (fresh s) .a true) .b true))) ∧
  (∀ (s : State) (path : Path),
    running s →
    s.power.quiescing = false →
    exec (.quiesce path) s =
    .next (quiesceCheck { (ledgersIn (fresh s) 1).foldl drainLedger (fresh s) with
      power := { ((ledgersIn (fresh s) 1).foldl drainLedger (fresh s)).power with quiescing := true } })) ∧
  (∀ (s : State),
    running s →
    s.power.quiescing →
    exec .quiesceTimeout s =
    .next (quiesceCheck (drainCheck ((s.work.filter unfinished).foldl (fun s w => fail (dropSteps s w.id) w.id stDiscarded) (fresh s))))) ∧
  (∀ (s : State) (path : Path) (img : Fetch) (t : State) (b : List Byte),
    running s →
    readSource (fresh s) (reg s .sysNvAddrAddr) (reg s .sysNvLenLen) img = (t, some b) →
    updateError t (some b) true true = 0 →
    exec (.nvWrite path img true true) s = .next (setReg (writeSlot t b) .sysNvStatusError 0)) ∧
  (∀ (s : State) (svn : Nat) (img : List Byte),
    s.power.state = .starting →
    reg s .sysBootError = 1 →
    img.length ≤ 8388608 →
    exec (.firmwareWrite svn img true) s = .next { (fresh s) with nv := { s.nv with fwA := some { svn := svn % 2 ^ 32, image := img } } }) ∧
  (∀ (s : State) (vinMv : Nat) (bankHolds : Bool),
    running s →
    44000 ≤ vinMv →
    exec (.thermalCritical vinMv bankHolds) s = .next (sealAndStop (event (fresh s) 0x0A08 0 0xFFFF 0 0 []) bankHolds .thermalOff vinMv))

/-- COMPLETION_WRITE publishes the ended work's completion and makes its effects referenced (R325, R36, R323, R319). -/
def Obligations.CompletionIsWritten : Prop :=
  (∀ (s : State) (t : State) (w : Work) (cq : Nat),
    running s →
    workOf s w.id = some w →
    w.place = .ended →
    cq = regGet s .ldgCfgCq w.ledger →
    cqLost (fresh s) cq = false →
    cqReceives (fresh s) cq →
    compatWaits (fresh s) w = false →
    (createdIndices w).any (revealBusy (fresh s)) = false →
    releaseLines (fresh s) (changedNames (fresh s) (revised (fresh s) w).2.2) = (t, true) →
    (readyFor t cq).head?.map (·.id) = some w.id →
    cqRoom t cq →
    regGet t .ldgCfgLoc cq = 0 →
    exec (.completionWrite w.id) s =
    .next (quiesceCheck (drainCheck (completed
      (emit t (.completion cq (regGet t .ldgHeadCount cq) (completionBytes t w cq (revised (fresh s) w).1 (revised (fresh s) w).2.1)))
      w cq (revised (fresh s) w).1 (revised (fresh s) w).2.2))))

/-- Each command that reaches BAR0 runs to its own effect where the registers answer (R8, R552, R295, R553, R555, R541, R512). -/
def Obligations.RegisterCommandsComplete : Prop :=
  (∀ (s : State) (path : Path),
    powered s →
    exec (.seal path) s = .next (setReg (fresh s) .sysLockSeal 1)) ∧
  (∀ (s : State) (path : Path) (off width value : Nat),
    accessOk off width →
    answers s off →
    exec (.registerWrite path off width value) s = .next (writeWord (fresh s) path off width (value % 2 ^ (8 * width)))) ∧
  (∀ (s : State) (path : Path) (off : Nat),
    accessOk off 8 →
    answers s off →
    exec (.wideRegisterRead path off) s = .next (emit (readBar (fresh s) path off 8).1 (.value (readBar (fresh s) path off 8).2))) ∧
  (∀ (s : State) (path : Path),
    answers s qsampOff →
    exec (.qsampRead path) s = .next (emit (readBar (fresh s) path qsampOff 8).1 (.value (readBar (fresh s) path qsampOff 8).2))) ∧
  (∀ (s : State) (off width value : Nat),
    busServes s →
    accessOk off width →
    answers s off →
    exec (.bar0MctpMessage true off width value) s = .next (writeWord (fresh s) .mb off width (value % 2 ^ (8 * width)))) ∧
  (∀ (s : State) (off width : Nat),
    busServes s →
    accessOk off width →
    answers s off →
    exec (.bar0MctpMessage false off width 0) s =
    .next (emit (readBar (fresh s) .mb off width).1 (.response (leBytes width (readBar (fresh s) .mb off width).2))))

/-- Each bitstream command runs to its own effect where its checks pass (R46, R47, R48, R50, R51, R39). -/
def Obligations.BitstreamCommandsComplete : Prop :=
  (∀ (s : State) (path : Path) (img : Fetch) (t : State) (b : List Byte),
    running s →
    s.units.drain = none →
    192 ≤ reg s .panBsLenLen →
    reg s .panBsLenLen ≤ 67108864 →
    readSource (setReg { (fresh s) with units := { s.units with staged := none } } .panBsStatusState 1) (reg s .panBsAddrAddr) (reg s .panBsLenLen) img = (t, some b) →
    containerError t (some b) true = 0 →
    exec (.bitstreamLoad path img true) s =
    .next (loadResult (bsStatus { t with units := { t.units with staged := some (containerOf b) } } 3 0) [0])) ∧
  (∀ (s : State) (path : Path) (badPans : List (Nat × Nat)) (c : Container) (t : UnitConfig),
    running s →
    s.units.drain = none →
    s.units.staged = some c →
    targetOf (fresh s) c = some t →
    positionsFree t →
    exec (.activate path badPans) s = .next (activateConfig (fresh s) t false badPans)) ∧
  (∀ (s : State) (badPans : List (Nat × Nat)) (t : UnitConfig) (back : Bool) (us : List Nat) (bad : List (Nat × Nat)),
    running s →
    s.units.drain = some (t, back, us, bad) →
    exec (.bitstreamDrainTimeout badPans) s = .next (switchConfig (discardFlight (fresh s) (flightOn (fresh s) us)) t back us (bad ++ badPans))) ∧
  (∀ (s : State) (path : Path) (badPans : List (Nat × Nat)) (c : UnitConfig),
    running s →
    s.units.drain = none →
    s.units.previous = some c →
    reg s .panBsSvnMinValue ≤ configSvn c →
    exec (.rollback path badPans) s = .next (activateConfig (fresh s) c true badPans))

/-- Each event of a pan or of its tile step runs to its own effect where it can happen (R52, R33, R36, R446, R32, R31, R27). -/
def Obligations.PanCommandsComplete : Prop :=
  (∀ (s : State) (bed pos : Nat),
    running s →
    (leafOfPan s bed pos).isSome →
    exec (.panFault bed pos) s = .next (panFails (fresh s) bed pos 0x0201)) ∧
  (∀ (s : State) (bed pos : Nat),
    running s →
    (s.units.steps.any (fun e => e.bed == bed && e.pos == pos)) →
    panHalted s bed pos = false →
    (leafOfPan s bed pos).isSome →
    exec (.stepOverrun bed pos) s = .next (panFails (fresh s) bed pos 0x0202)) ∧
  (∀ (s : State) (w : Work) (bed pos leaf : Nat) (last writes : Bool),
    running s →
    panHalted s bed pos = false →
    (writes && ddFull (fresh s)) = false →
    ((panWorks s bed pos).any (fun y => y.id == w.id)) →
    workOf s w.id = some w →
    (s.units.steps.any (fun e => e.bed == bed && e.pos == pos) = false) →
    (s.units.slots.any (fun e => e.bed == bed && e.pos == pos && setOf e.slot == turnAt (fresh s) bed pos && !e.ready) = false) →
    leafOfPan s bed pos = some leaf →
    serving s leaf →
    (s.units.switching.any (fun e => e.1 == holder s leaf) = false) →
    exec (.tileStepBegin bed pos w.id ⟨last, writes⟩) s =
    .next (countAll (updWork { (fresh s) with units := { s.units with
        steps := s.units.steps ++ [{ bed := bed, pos := pos, work := w.id, start := s.time, set := turnAt (fresh s) bed pos }]
        ran := (bed, pos) :: s.units.ran.filter fun e => e ≠ (bed, pos)
        sram := s.units.sram.filter fun e => !(e.1.1 == bed && e.1.2.1 == pos && decide (codeBytesMax ≤ e.1.2.2)) } } w.id fun w => { w with final := w.final || last })
      3 0xFF bed (rootOf s leaf) w.hdr.keySlot 0xFFFF 1)) ∧
  (∀ (s : State) (bed pos slot handle number : Nat) (image : List Byte),
    running s →
    (s.units.slots.any (fun e => e.bed == bed && e.pos == pos && e.slot == slot && e.handle == handle && e.number == number && !e.ready)) →
    exec (.tileArrival (.slot bed pos slot) handle number image) s = .next (arriveSlot (fresh s) bed pos slot handle number image)) ∧
  (∀ (s : State) (t : State) (handle number : Nat) (tile : Tile) (image : List Byte),
    running s →
    tileOf s handle number = some tile →
    tile.version ≠ 0 →
    2 ≤ (masterPlace tile).1 →
    imagePasses tile image →
    raiseDemand (fresh s) handle number (homeOf s handle) = (t, true) →
    exec (.tileArrival .t1 handle number image) s = .next t) ∧
  (∀ (s : State) (w : Work) (bed pos leaf : Nat) (e : StepEnt),
    running s →
    (s.units.steps.find? (fun e => e.bed == bed && e.pos == pos && !panHalted s bed pos) = some e) →
    workOf s e.work = some w →
    w.id = e.work →
    unfinished w →
    leafOfPan s bed pos = some leaf →
    slotActive s w.hdr.keySlot →
    w.hdr.deadline = 0 →
    exec (.stepEnd bed pos []) s =
    .next (boundary { (fresh s) with units := { s.units with
        steps := s.units.steps.filter fun x => x ≠ e
        slots := s.units.slots.filter fun x => !(x.bed == bed && x.pos == pos && setOf x.slot == e.set)
        turn := aset s.units.turn (bed, pos) (1 - e.set) } } (holder s leaf))) ∧
  (∀ (s : State) (w : Work) (bed pos handle number slot : Nat) (tile : Tile),
    running s →
    panWork s bed pos = some w →
    slot < 8 →
    panHalted s bed pos = false →
    tileOf s handle number = some tile →
    tile.keySlot = w.hdr.keySlot →
    tile.version ≠ 0 →
    masterTier tile ≠ 0 →
    tile.lodged = none →
    keyChecked (fresh s) handle number = (fresh s) →
    exec (.tileRequest bed pos handle number slot) s =
    .next (emit (updWork (putSlot (fresh s) { bed := bed, pos := pos, slot := slot, handle := handle, number := number, version := tile.version, absent := false, ready := false }) w.id fun y =>
        { y with transfers := y.transfers ++ (transferOf (masterPlace tile).1 (masterPlace tile).2).toList }) (.fetchTile handle number))) ∧
  (∀ (s : State) (bed pos toBed toPos a b : Nat) (body : List Byte),
    running s →
    leafOfPan s bed pos = some a →
    leafOfPan s toBed toPos = some b →
    rootOf s a = rootOf s b →
    panHalted s bed pos = false →
    bed = toBed →
    exec (.panMessage bed pos toBed toPos false body) s = .next (emit (fresh s) (.panMessage toBed toPos (slice body 0 64)))) ∧
  (∀ (s : State) (utype : Nat),
    running s →
    exec (.dispatchHeldRelease utype) s = .next (releaseHeld (fresh s) utype))

/-- Each context command runs to its own effect where it can happen (R379, R377, R383, R26, R378, R376, R30). -/
def Obligations.ContextCommandsComplete : Prop :=
  (∀ (s : State) (r : State) (u : State) (leaf c k : Nat),
    running s →
    k = holder s leaf →
    aget s.units.switching k = some c →
    r = reloadImage (fresh s) k c →
    u = freshPans (startsFresh r k c) k c →
    exec (.contextSwitchDone leaf) s =
    .next { u with
      work := updIf (fun w => decide (w.id ∈ ((flightAt r k).filter fun w => contextOf r w == c).map (·.id)))
        (fun w => { w with suspendedAt := w.suspendedAt.filter fun x => x != k }) u.work
      units := { u.units with
        switching := u.units.switching.filter fun e => e.1 != k
        current := aset u.units.current k (c, u.time)
        saved := u.units.saved.filter fun e => e ≠ (k, c)
        images := u.units.images.filter fun e => e ≠ (k, c) } }) ∧
  (∀ (s : State) (leaf : Nat),
    running s →
    isResident s leaf = false →
    (currentOf s leaf).isSome →
    exec (.contextSliceExpiry leaf) s =
    .next (boundary { (fresh s) with units := { s.units with expired := insNat leaf s.units.expired } } leaf)) ∧
  (∀ (s : State) (unit : Nat),
    running s →
    isResident s unit →
    (currentOf s (rootOf s unit)).isSome →
    exec (.residentSliceExpiry unit) s =
    .next (boundary { (fresh s) with units := { s.units with expired := insNat (rootOf s unit) s.units.expired } } (rootOf s unit))) ∧
  (∀ (s : State) (w : Work) (leaf at_ : Nat),
    running s →
    workOf (fresh s) w.id = some w →
    serving (fresh s) leaf →
    (s.units.switching.any (fun e => e.1 == holder (fresh s) leaf) = false) →
    ((waitingFor (fresh s) leaf).any (fun x => x.id == w.id)) →
    isOp 0x11 w = false →
    currentOf (fresh s) (holder (fresh s) leaf) = some (contextOf (fresh s) w, at_) →
    ((leastBy (choiceKey (fresh s)) ((waitingFor (fresh s) leaf).filter fun x => contextOf (fresh s) x == contextOf (fresh s) w)).map (·.id) = some w.id) →
    exec (.descriptorWindowRead leaf w.id) s = .next (takeDescriptor (fresh s) w leaf)) ∧
  (∀ (s : State) (t : State) (w : Work) (leaf : Nat),
    running s →
    workOf (fresh s) w.id = some w →
    serving (fresh s) leaf →
    (s.units.switching.any (fun e => e.1 == holder (fresh s) leaf) = false) →
    ((waitingFor (fresh s) leaf).any (fun x => x.id == w.id)) →
    isOp 0x11 w = false →
    currentOf (fresh s) (holder (fresh s) leaf) = none →
    (leastBy (choiceKey (fresh s)) (waitingFor (fresh s) leaf)).map (·.id) = some w.id →
    residentPlace (fresh s) (holder (fresh s) leaf) = some t →
    exec (.descriptorWindowRead leaf w.id) s = .next (takeDescriptor (makeCurrent t (holder (fresh s) leaf) (contextOf t w)) w leaf))

/-- Each ledger command runs to its own effect where the ledger is in the state for it (R314, R313, R318, R319, R332, R321, R316, R197). -/
def Obligations.LedgerCommandsComplete : Prop :=
  (∀ (s : State) (ledger : Nat) (line : Fetch) (descs : List Fetch) (b : List Byte),
    running s →
    ledgerActive (fresh s) ledger 0 →
    ledgerFetch (fresh s) ledger (regGet s .ldgLineAddrAddr ledger) 64 line = .data b →
    exec (.ledgerTailUpdate ledger line descs) s = .next (takeTail (fresh s) ledger (field b 0 4) descs)) ∧
  (∀ (s : State) (ledger : Nat) (line : Fetch) (b : List Byte),
    running s →
    ledger < 4096 →
    cqReceives (fresh s) ledger →
    ledgerFetch (fresh s) ledger (regGet s .ldgLineAddrAddr ledger) 64 line = .data b →
    exec (.consumedLineUpdate ledger line) s = .next (takeConsumed (fresh s) ledger (field b 0 4))) ∧
  (∀ (s : State) (addr : Nat) (b : List Byte),
    running s →
    addr / 64 ∈ s.ledg.readyPolled →
    exec (.readyLinePoll addr (.data b)) s =
    .next ((List.range 8).foldl (fun s i => setReadyWord s (addr / 64 * 64 + 8 * i) (field b (8 * i) 8)) (fresh s))) ∧
  (∀ (s : State) (addr word : Nat),
    running s →
    addr / 64 ∈ s.ledg.readyWatched →
    addr % 8 = 0 →
    exec (.readyWordUpdate addr word) s = .next (setReadyWord (fresh s) addr word)) ∧
  (∀ (s : State) (path : Path) (line l : Nat),
    running s →
    entryOf (fresh s) path .ldgStatusState 0 = some l →
    ledgerDisabled (fresh s) l →
    s.power.quiescing = false →
    enableError (fresh s) l = 0 →
    regGet (activated (fresh s) l) .ldgCfgLoc l = 0 →
    regGet (activated (fresh s) l) .ldgCfgType l = 0 →
    exec (.ledgerEnable path line) s =
    .next (takeTail { activated (fresh s) l with ledg := { s.ledg with watched := insNat l s.ledg.watched } } l (field (leBytes 4 line) 0 4) [])) ∧
  (∀ (s : State) (path : Path) (l : Nat),
    running s →
    entryOf (fresh s) path .ldgStatusState 0 = some l →
    regGet (fresh s) .ldgStatusState l = 1 →
    exec (.ledgerDisable path) s = .next (regSet (regSet (fresh s) .ldgStatusState l 2) .ldgCtrlEnable l 0)) ∧
  (∀ (s : State) (ledger : Nat),
    running s →
    ledger < 4096 →
    regGet (fresh s) .ldgStatusState ledger = 2 →
    ledgerEmpty (fresh s) ledger →
    exec (.ledgerDrainEnd ledger) s = .next (disableLedger (fresh s) ledger)) ∧
  (∀ (s : State) (ledger : Nat),
    running s →
    ledger < 4096 →
    cqReceives (fresh s) ledger →
    cqRoom (fresh s) ledger = false →
    ledger ∉ s.ledg.stalled →
    (s.work.any (fun w => w.place == .ended && regGet (fresh s) .ldgCfgCq w.ledger == ledger)) →
    exec (.cqFullTimeout ledger) s =
    .next { event (fresh s) 0x0407 0 0xFFFF 0 (locate 8 0 0 0 ledger) [] with
      ledg := { (event (fresh s) 0x0407 0 0xFFFF 0 (locate 8 0 0 0 ledger) []).ledg with
        stalled := insNat ledger (event (fresh s) 0x0407 0 0xFFFF 0 (locate 8 0 0 0 ledger) []).ledg.stalled } }) ∧
  (∀ (s : State) (group : Nat),
    running s →
    regGet (fresh s) .ldgGrpCoalTime group ≠ 0 →
    (aget s.ledg.coal group).isSome →
    exec (.interruptCoalTimeout group) s = .next (raiseVector { (fresh s) with ledg := { s.ledg with coal := adel s.ledg.coal group } } group)) ∧
  (∀ (s : State) (ledger : Nat) (desc : List Byte),
    running s →
    ledgerActive (fresh s) ledger 0 →
    field desc 0 1 ∉ opcodes →
    exec (.unknownOpcode ledger desc) s = .next (publishHead (acceptWork (fresh s) ledger desc) ledger))

/-- Each SLUICE, SESSION, PARK, REVIVE and MOVE descriptor completes where its checks pass (R329, R84, R85, R113, R114, R116, R115, R119, R120, R125, R117, R118). -/
def Obligations.SluiceAndSessionWorkComplete : Prop :=
  (∀ (s : State) (id : Nat) (w : Work),
    canRun s id w →
    isMode 0x07 8 0 w →
    exec (.sluiceSession id) s = .next (done (begun s w) w.id stDone (leBytes 4 w.behind))) ∧
  (∀ (s : State) (id : Nat) (w : Work),
    canRun s id w →
    isMode 0x07 8 1 w →
    exec (.sluicePublish id) s = .next (done (begun s w) w.id stDone (leBytes 4 w.behind))) ∧
  (∀ (s : State) (id : Nat) (w : Work),
    canRun s id w →
    isMode 0x07 8 2 w →
    exec (.sluiceGlobal id) s = .next (done (begun s w) w.id stDone (leBytes 4 w.behind))) ∧
  (∀ (s : State) (t : State) (u : State) (id : Nat) (w : Work) (h i b : Nat),
    canRun s id w →
    isOp 0x08 w →
    ddFull (begun s w) = false →
    passes (openChks (begun s w) w) →
    issueHandle (begun s w) = .ok t h →
    freeIndex (begun s w) = some i →
    bucketBusy t h = false →
    chooseBed (begun s w) w.hdr.keySlot (homeBeds (begun s w)) = some b →
    createSubject t w.id (openedSession t w h i b) (openTiles (openedSession t w h i b)) = some u →
    exec (.sessionOpen id) s = .next (done u w.id stDone (createdResult (openedSession t w h i b)))) ∧
  (∀ (s : State) (t : State) (id : Nat) (w : Work) (x : Subject),
    canRun s id w →
    isOp 0x09 w →
    subjAny (begun s w) (subjectOf w) = some x →
    earlierOpen (begun s w) w = false →
    (releaseLines (begun s w) ((tilesOf (begun s w) x.handle).map fun t => (t.handle, t.number)) = (t, true)) →
    exec (.sessionClose id) s = .next (finish (closeSubject t x) w.id stDone [] [.unmember 0 x.handle])) ∧
  (∀ (s : State) (id : Nat) (w : Work) (x : Subject) (src : Fetch),
    canRun s id w →
    isOp 0x01 w →
    ddFull (begun s w) = false →
    heldFor (begun s w) w.hdr.keySlot (subjectOf w) = some x →
    passes (parkChks x) →
    x.state ≠ 2 →
    passes [chk (!w.tally.isEmpty || parkFields x w) stBad] →
    ends (parkTail (parkWith (begun s w) w x src) w.id x.handle (bit (opr w 20 1) 0)) w.id stDone →
    exec (.park id src) s = .next (parkTail (parkWith (begun s w) w x src) w.id x.handle (bit (opr w 20 1) 0))) ∧
  (∀ (s : State) (id : Nat) (w : Work) (x : Subject) (bad : List (Nat × Nat)),
    canRun s id w →
    isFirstMode 0x02 8 3 w →
    heldFor (begun s w) w.hdr.keySlot (subjectOf w) = some x →
    passes (reviveChks x w) →
    x.state = 2 →
    (ends (reviveSet bad (updSubj (updWork (begun s w) w.id fun z => { z with tally := [1] }) x.handle fun y => { y with state := 3 }) w x false) w.id stDone) →
    exec (.reviveWorking ⟨id, bad⟩) s =
    .next (reviveSet bad (updSubj (updWork (begun s w) w.id fun z => { z with tally := [1] }) x.handle fun y => { y with state := 3 }) w x false)) ∧
  (∀ (s : State) (id : Nat) (w : Work) (x : Subject) (bad : List (Nat × Nat)),
    canRun s id w →
    isMode 0x02 8 1 w →
    heldFor (begun s w) w.hdr.keySlot (subjectOf w) = some x →
    passes (reviveChks x w) →
    x.state = 2 →
    (ends (reviveSet bad (updSubj (updWork (begun s w) w.id fun z => { z with tally := [1] }) x.handle fun y => { y with state := 3 }) w x true) w.id stDone) →
    exec (.reviveFull ⟨id, bad⟩) s =
    .next (reviveSet bad (updSubj (updWork (begun s w) w.id fun z => { z with tally := [1] }) x.handle fun y => { y with state := 3 }) w x true)) ∧
  (∀ (s : State) (id : Nat) (w : Work) (x : Subject),
    canRun s id w →
    isMode 0x02 8 2 w →
    heldFor (begun s w) w.hdr.keySlot (subjectOf w) = some x →
    passes [chk (x.state != 5) stPoisoned, chk (reviveFields w) stBad] →
    exec (.reviveHint id) s = .next (done (hinted (begun s w) w x) w.id stDone [])) ∧
  (∀ (s : State) (t : State) (u : State) (id : Nat) (w : Work) (x : Subject) (a b : Nat) (bad : List (Nat × Nat)),
    canRun s id w →
    isFirstMode 0x03 8 4 w →
    heldFor (begun s w) w.hdr.keySlot (subjectOf w) = some x →
    passes (placeChks x w) →
    u = readFails (begun s w) bad (placeNames (begun s w) x w) →
    ((subjAny u x.handle).any (fun y => y.state == 5) = false) →
    placeLoop w (opr w 9 1) (opr w 24 1) (placeNames (begun s w) x w) u 0 0 = (t, a, b, .placed) →
    exec (.movePlace ⟨id, bad⟩) s = .next (finish t w.id stDone (leBytes 4 a ++ leBytes 4 b) [])) ∧
  (∀ (s : State) (id : Nat) (w : Work) (x : Subject),
    canRun s id w →
    isMode 0x03 8 1 w →
    heldFor (begun s w) w.hdr.keySlot (subjectOf w) = some x →
    passes (viewChks (begun s w) w x) →
    exec (.moveView id) s = .next (finish (begun s w) w.id stDone [] [.bind (opr w 16 8 / 2 ^ 30) (.view x.handle (opr w 24 4))])) ∧
  (∀ (s : State) (t : State) (id : Nat) (w : Work) (x : Subject),
    canRun s id w →
    isMode 0x03 8 2 w →
    heldFor (begun s w) w.hdr.keySlot (subjectOf w) = some x →
    passes (unviewChks (begun s w) w x) →
    releaseWindow (begun s w) (opr w 16 8 / 2 ^ 30) = (t, true) →
    exec (.moveUnview id) s = .next (finish t w.id stDone [] [.unbind (opr w 16 8 / 2 ^ 30)])) ∧
  (∀ (s : State) (t : State) (u : State) (id : Nat) (w : Work) (x : Subject),
    canRun s id w →
    isMode 0x03 8 3 w →
    ddFull (begun s w) = false →
    heldFor (begun s w) w.hdr.keySlot (subjectOf w) = some x →
    passes (attachChks w x ++ [chk (decide (attachNoted w ≤ attachLimit x w)) stConflict]) →
    attachBusy (begun s w) w x = false →
    layerBusy (begun s w) w x.handle (List.range x.layers) = false →
    attachLodged (begun s w) x (attachFound (begun s w) w x).1 = [] →
    attachBad (begun s w) x (attachFound (begun s w) w x).1 = [] →
    u = attachWaits (begun s w) w (attachFound (begun s w) w x).1.length →
    mayMove u w 0 (attachBytes (begun s w) x (attachFound (begun s w) w x).1) →
    t = moved u w (attachBytes (begun s w) x (attachFound (begun s w) w x).1) 0 →
    ends (attachEnd (if (attachFound (begun s w) w x).2 then workEvent t w 0x0305 [(attachFound (begun s w) w x).1.length] else t) w x (attachFound (begun s w) w x).1) w.id stDone →
    exec (.moveAttach id) s =
    .next (attachEnd (if (attachFound (begun s w) w x).2 then workEvent t w 0x0305 [(attachFound (begun s w) w x).1.length] else t) w x (attachFound (begun s w) w x).1))

/-- Each directory, write-back, spill and T3 command runs to its own effect where it can happen (R148, R96, R97, R98, R103, R105, R108, R109, R110). -/
def Obligations.DirectoryAndStoreCommandsComplete : Prop :=
  (∀ (s : State) (bucket : Nat),
    running s →
    bucket < buckets s.model →
    bucket ∉ s.dir.rebuilding →
    exec (.dirRebuild bucket) s =
    .next (event { (fresh s) with dir := { s.dir with rebuilding := insNat bucket s.dir.rebuilding } } 0x0309 0 0xFFFF 0
      (locate 0 (bucket % bedCount s.model) 0 0 bucket) [bucket % bedCount s.model, bucket])) ∧
  (∀ (s : State) (bucket : Nat),
    running s →
    bucket ∈ s.dir.rebuilding →
    exec (.dirRebuildDone bucket) s =
    .next ((sortKey (·.id) ((rebuildBucket (fresh s) bucket).work.filter fun w =>
      decide (w.id ∈ w.waits) && !bucketBusy (rebuildBucket (fresh s) bucket) (subjectOf w))).foldl resumeLookup (rebuildBucket (fresh s) bucket))) ∧
  (∀ (s : State) (t : Tile),
    running s →
    nextWrite (fresh s) = some t →
    reg s .durFlashState ≠ 3 →
    scrubFirst (fresh s) = false →
    exec .writebackStart s = .next { (fresh s) with dur := { s.dur with writing := s.dur.writing ++ [(t.handle, t.number, t.version)] } }) ∧
  (∀ (s : State) (u : State) (handle number : Nat) (e : Nat × Nat × Nat) (t : Tile),
    running s →
    (s.dur.writing.find? (fun e => e.1 == handle && e.2.1 == number) = some e) →
    (u = takeTurn { (fresh s) with dur := { s.dur with writing := s.dur.writing.filter fun x => x ≠ e } } flashWrites 0) →
    ((heldTiles u).find? (fun t => t.handle == handle && t.number == number && t.version == e.2.2) = some t) →
    exec (.writebackTileDone handle number) s =
    .next (updStaged
      (updHeld (countMove u t (masterTier t) 4 0xFFFF) handle number fun t => if t.version = e.2.2 ∧ t.version ≠ 0 then inFlash u t else t)
      handle number fun t => if t.version = e.2.2 ∧ t.version ≠ 0 then inFlash u t else t)) ∧
  (∀ (s : State) (tier scope : Nat),
    running s →
    scopeExists (fresh s) tier scope →
    aboveMark (scopeLoad (fresh s) tier scope) (tierMarks (fresh s) tier).1 →
    (tier, scope) ∉ s.moving.spilling →
    exec (.spillStart tier scope) s = .next { (fresh s) with moving := { s.moving with spilling := s.moving.spilling ++ [(tier, scope)] } }) ∧
  (∀ (s : State) (r : State) (handle number : Nat) (t u : Tile),
    running s →
    r = endSpills (fresh s) →
    ((keptTiles r).find? (fun t => t.handle == handle && t.number == number) = some t) →
    drains r t = false →
    nextSpill r (scopeOf r t).1 (scopeOf r t).2 = some u →
    u.handle = handle →
    u.number = number →
    spillTurn r (((spillTo r t).map (·.1)).getD 0) →
    exec (.spillTileDone handle number) s = .next (spillDone r t)) ∧
  (∀ (s : State) (source handle number : Nat) (t : Tile),
    running s →
    source = 1 ∨ (source, handle, number) ∈ s.moving.items →
    tileOf (fresh s) handle number = some t →
    t.lodged = none →
    readable (fresh s) t →
    source = 1 ∨ itemsAhead (fresh s) source (mediumOf (fresh s) t) = false ∨ eighth (fresh s) (mediumOf (fresh s) t) source →
    exec (.prefetchItem source handle ⟨number, true⟩) s =
    .next (serveItem (takeTurn { (fresh s) with moving := { s.moving with items := s.moving.items.filter fun e => e ≠ (source, handle, number) } }
      (mediumOf (fresh s) t) source) source t)) ∧
  (∀ (s : State) (path : Path) (r : Nat),
    running s →
    entryOf (fresh s) path .stoT3CtrlValid 0 = some r →
    t3Grantable (fresh s) r →
    exec (.t3Grant path) s = .next (regSet (regSet (fresh s) .stoT3CtrlValid r 1) .stoT3StatusState r 1)) ∧
  (∀ (s : State) (path : Path) (r : Nat),
    running s →
    entryOf (fresh s) path .stoT3CtrlValid 0 = some r →
    t3Used (fresh s) r = 0 →
    exec (.t3Withdraw path) s = .next (regSet (regSet (fresh s) .stoT3CtrlValid r 0) .stoT3StatusState r 0)) ∧
  (∀ (s : State) (path : Path) (r : Nat),
    running s →
    entryOf (fresh s) path .stoT3CtrlValid 0 = some r →
    regGet (fresh s) .stoT3StatusState r = 1 →
    exec (.t3Drain path) s = .next (regSet (fresh s) .stoT3StatusState r 2)) ∧
  (∀ (s : State) (path : Path) (r : Nat),
    running s →
    entryOf (fresh s) path .stoT3CtrlValid 0 = some r →
    t3Used (fresh s) r = 0 →
    exec (.t3Compute path) s = .next (regSet (fresh s) .stoT3CtrlCompute r 1)) ∧
  (∀ (s : State) (range : Nat),
    running s →
    range < 64 →
    regGet (fresh s) .stoT3CtrlValid range = 1 →
    regGet (fresh s) .stoT3StatusState range ≠ 3 →
    exec (.t3RangeLost range) s = .next (loseRange (fresh s) range))

/-- Each access of a host or peer, and each coherence event, runs to its own effect where it is allowed (R93, R128, R304, R307, R303, R306, R311, R457, R95). -/
def Obligations.HostAccessCommandsComplete : Prop :=
  (∀ (s : State) (pbr addr h base f k n : Nat) (te : Bool) (t : Tile),
    running s →
    hostOf (fresh s) pbr = some h →
    portServes (fresh s) (regGet (fresh s) .cxlHostMapPort h) →
    suspended (fresh s) h = false →
    aget s.cxl.hdm h = some base →
    base ≤ addr →
    windowExists (fresh s) ((addr - base) / 64 * 64 / 2 ^ 30) →
    extentCovers (fresh s) h ((addr - base) / 64 * 64 / 2 ^ 30) →
    (h, (addr - base) / 64 * 64 / 2 ^ 30) ∉ s.cxl.te →
    spanFrames ((addr - base) / 64 * 64) 64 = [f] →
    tileAt (fresh s) f = some (k, n) →
    tileOf (fresh s) k n = some t →
    t.version ≠ 0 →
    readable (fresh s) t →
    t.lodged = none →
    masterTier t = 1 →
    t.verified →
    exec (.hostLoad pbr addr te) s =
    .next (serveAccess (fresh s) { host := h, peer := false, off := (addr - base) / 64 * 64, len := 64, write := none, tainted := false, got := [] } [(f, t)])) ∧
  (∀ (s : State) (pbr addr h base f k n : Nat) (te : Bool) (t : Tile) (body : Fetch) (place : Nat),
    running s →
    hostOf (fresh s) pbr = some h →
    portServes (fresh s) (regGet (fresh s) .cxlHostMapPort h) →
    suspended (fresh s) h = false →
    aget s.cxl.hdm h = some base →
    base ≤ addr →
    windowExists (fresh s) ((addr - base) / 64 * 64 / 2 ^ 30) →
    extentCovers (fresh s) h ((addr - base) / 64 * 64 / 2 ^ 30) →
    (h, (addr - base) / 64 * 64 / 2 ^ 30) ∉ s.cxl.te →
    spanFrames ((addr - base) / 64 * 64) 64 = [f] →
    bindingOf (fresh s) (f / 2 ^ 30) = some (.region k place) →
    tileAt (fresh s) f = some (k, n) →
    tileOf (fresh s) k n = some t →
    t.version ≠ 0 →
    readable (fresh s) t →
    t.lodged = none →
    masterTier t = 1 →
    t.verified →
    exec (.hostStore pbr addr te body) s =
    .next (serveAccess (fresh s) { host := h, peer := false, off := (addr - base) / 64 * 64, len := 64, write := some (lineOf body).1, tainted := (lineOf body).2, got := [] } [(f, t)])) ∧
  (∀ (s : State) (pbr off len h : Nat) (write : Option (List Byte)),
    running s →
    1 ≤ len →
    len ≤ 512 →
    pairHost (fresh s) pbr off len = some h →
    exec (.peerUioAccess pbr off len write) s =
    .next (routeAccess (fresh s) { host := pbr, peer := true, off := off, len := len, write := write.map fun b => slice b 0 len, tainted := false, got := [] })) ∧
  (∀ (s : State) (u : State) (handle number : Nat),
    running s →
    (handle, number) ∈ s.moving.promoting →
    (u = updTile (arriveAt { (fresh s) with moving := { s.moving with promoting := s.moving.promoting.filter fun e => e ≠ (handle, number) } } handle number) handle number fun t => { t with verified := true }) →
    exec (.tilePromotionDone handle number true) s =
    .next (retryAccesses (raiseDemand u handle number (homeOf (fresh s) handle)).1)) ∧
  (∀ (s : State) (host line : Nat),
    running s →
    (host, line) ∈ s.cxl.biPending →
    exec (.biResponse host line) s = .next (retryAccesses (dropLines (fresh s) fun e => e == (host, line)))) ∧
  (∀ (s : State) (host : Nat),
    running s →
    (s.cxl.biPending.any (fun e => e.1 == host)) →
    exec (.biTimeout host) s =
    .next (retryAccesses (event (suspendHost (fresh s) host) 0x0403 0 0xFFFF 0 (locate 9 0 0 0 host) [host]))) ∧
  (∀ (s : State) (path : Path) (h : Nat),
    running s →
    entryOf (fresh s) path .cxlHostStatusSuspended 0 = some h →
    exec (.hostResume path) s = .next (regSet (fresh s) .cxlHostStatusSuspended h 0))

/-- Each KV_INGEST descriptor and FAR_ATTN completes where its checks pass (R158, R159, R160, R161, R162, R190, R191, R197, R198, R83, R86). -/
def Obligations.IngestAndFarAttentionComplete : Prop :=
  (∀ (s : State) (u : State) (id : Nat) (w : Work) (x : Subject) (src : Fetch),
    canRun s id w →
    isFirstMode 0x10 24 4 w →
    ddFull (begun s w) = false →
    heldFor (begun s w) w.hdr.keySlot (subjectOf w) = some x →
    passes (fileChks x w) →
    u = ingestWith (begun s w) w x src 0 →
    ends u w.id stDone →
    exec (.kvIngestFile id src) s = .next u) ∧
  (∀ (s : State) (u : State) (id : Nat) (w : Work) (x : Subject) (src : Fetch),
    canRun s id w →
    isMode 0x10 24 1 w →
    ddFull (begun s w) = false →
    heldFor (begun s w) w.hdr.keySlot (subjectOf w) = some x →
    passes (completeChks x w) →
    u = ingestWith (begun s w) w x src (completeValid x w) →
    ends u w.id stDone →
    exec (.kvIngestComplete id src) s = .next u) ∧
  (∀ (s : State) (u : State) (id : Nat) (w : Work) (x : Subject),
    canRun s id w →
    isMode 0x10 24 2 w →
    ddFull (begun s w) = false →
    heldFor (begun s w) w.hdr.keySlot (subjectOf w) = some x →
    globalsBusy (begun s w) w x.handle = false →
    passes (registerChks x w) →
    u = conclude (begun s w) w stDone [] (headTiles x) [.globals x.handle (registered x w)] →
    ends u w.id stDone →
    exec (.kvIngestRegister id) s = .next u) ∧
  (∀ (s : State) (u : State) (id : Nat) (w : Work) (x : Subject),
    canRun s id w →
    isMode 0x10 24 3 w →
    ddFull (begun s w) = false →
    heldFor (begun s w) w.hdr.keySlot (subjectOf w) = some x →
    globalsBusy (begun s w) w x.handle = false →
    passes (clearChks x w) →
    u = conclude (begun s w) w stDone [] (headTiles x) [.globals x.handle []] →
    ends u w.id stDone →
    exec (.kvIngestClear id) s = .next u) ∧
  (∀ (s : State) (u : State) (id : Nat) (w : Work) (x : Subject) (queries : List Fetch) (bad : List (Nat × Nat)),
    canRun s id w →
    isOp 0x11 w →
    subjAny (begun s w) (subjectOf w) = some x →
    x.keySlot = w.hdr.keySlot →
    passes (farRunChks (begun s w) w x) →
    layerReady (tidyReady (begun s w)) w w.layer →
    u = runLayers (farLayers w) (tidyReady (begun s w)) w.id queries bad →
    ends u w.id stDone →
    exec (.farAttn ⟨id, bad⟩ queries) s = .next u)

/-- Each model and draft command completes where its checks pass (R206, R207, R210, R216, R217, R218, R219, R220, R228, R229). -/
def Obligations.DraftAndModelCommandsComplete : Prop :=
  (∀ (s : State) (t : State) (path : Path) (img : Fetch) (k : Nat) (b table : List Byte),
    running s →
    entryOf (fresh s) path .panMdlCtrlLoad 0 = some k →
    modelOf (fresh s) k = none →
    regGet (fresh s) .panMdlLenLen k ≠ 0 →
    readSource (fresh s) (regGet (fresh s) .panMdlAddrAddr k) (regGet (fresh s) .panMdlLenLen k) img = (t, some b) →
    modelError t (some b) (regGet (fresh s) .panMdlUnitUnit k) (some table) true = 0 →
    exec (.modelLoad path img (some table) true) s =
    .next (loadResult { regSet t .panMdlStatusError k 0 with models := t.models ++ [slotOf (regSet t .panMdlStatusError k 0) k (regGet (fresh s) .panMdlUnitUnit k) b table] } [k, 0])) ∧
  (∀ (s : State) (path : Path) (k : Nat) (m : ModelSlot),
    running s →
    entryOf (fresh s) path .panMdlCtrlUnload 0 = some k →
    modelOf (fresh s) k = some m →
    m.state = 2 →
    exec (.modelUnload path) s = .next (startUnload (fresh s) m.slot)) ∧
  (∀ (s : State) (slot : Nat) (m : ModelSlot),
    running s →
    modelOf (fresh s) slot = some m →
    m.state = 3 →
    ((s.work.any fun w => inFlight w && draftSlot (fresh s) w == some slot) = false) →
    exec (.modelUnloadDone slot) s =
    .next (regSet (emptySlot (fresh s) slot) .panMdlStatusError slot 0)) ∧
  (∀ (s : State) (u : State) (id : Nat) (w : Work) (x : Subject) (m : ModelSlot) (nums : List Nat),
    canRun s id w →
    isMode 0x12 16 1 w →
    ddFull (begun s w) = false →
    heldFor (begun s w) w.hdr.keySlot (subjectOf w) = some x →
    passes (configureChks (begun s w) w x) →
    usableModel (begun s w) (opr w 17 1) w.hdr.keySlot = some m →
    takeNumbers (begun s w) x.handle 1 = some nums →
    u = endDraft (begun s w) w x stDone (configuredDraft w x m.modelId).1 [] [] (dropAll (if (configuredDraft w x m.modelId).2 then draftTiles (begun s w) x.handle else treeTiles (begun s w) x.handle)) .none [] nums →
    ends u w.id stDone →
    exec (.draftConfigure id) s = .next u) ∧
  (∀ (s : State) (u : State) (id : Nat) (w : Work) (x : Subject) (d : Draft),
    canRun s id w →
    isMode 0x12 16 2 w →
    ddFull (begun s w) = false →
    heldFor (begun s w) w.hdr.keySlot (subjectOf w) = some x →
    passes (resetChks w x) →
    x.draft = some d →
    u = endDraft (begun s w) w x stDone (resetKv d) [] [] (dropAll (draftTiles (begun s w) x.handle)) .none [] [] →
    ends u w.id stDone →
    exec (.draftReset id) s = .next u) ∧
  (∀ (s : State) (t : State) (u : State) (id : Nat) (w : Work) (x : Subject) (d : Draft) (m : ModelSlot) (v : Voc) (hit : List (Nat × Nat × Nat × Bool)),
    canRun s id w →
    isFirstMode 0x12 16 3 w →
    ddFull (begun s w) = false →
    heldFor (begun s w) w.hdr.keySlot (subjectOf w) = some x →
    passes (draftRunChks (begun s w) w x) →
    x.draft = some d →
    draftModel (begun s w) w x = some m →
    vocById (begun s w) x.vocab = some v →
    (if needsPass w d m then readWeights (begun s w) w m hit else some (begun s w)) = some t →
    u = draftEnd t w x v m d →
    ends u w.id stDone →
    exec (.draft ⟨id, hit⟩) s = .next u) ∧
  (∀ (s : State) (u : State) (id : Nat) (w : Work) (x : Subject) (v : Voc) (d : Draft),
    canRun s id w →
    isOp 0x13 w →
    ddFull (begun s w) = false →
    heldFor (begun s w) w.hdr.keySlot (subjectOf w) = some x →
    passes (commitChks (begun s w) w x) →
    vocById (begun s w) x.vocab = some v →
    x.draft = some d →
    u = commitEnd (begun s w) w x v d →
    ends u w.id stDone →
    exec (.verifyCommit id) s = .next u)

/-- Each vocabulary, text and mask command completes where its checks pass (R237, R238, R239, R240, R241, R251, R252, R256, R258, R259, R261, R262). -/
def Obligations.TextCommandsComplete : Prop :=
  (∀ (s : State) (t : State) (path : Path) (img : Fetch) (k : Nat) (b : List Byte),
    running s →
    entryOf (fresh s) path .txtVocCtrlLoad 0 = some k →
    vocAt (fresh s) k = none →
    regGet (fresh s) .txtVocLenLen k ≠ 0 →
    readSource (fresh s) (regGet (fresh s) .txtVocAddrAddr k) (regGet (fresh s) .txtVocLenLen k) img = (t, some b) →
    vocError t (some b) = 0 →
    exec (.vocabularyLoad path img) s =
    .next (loadResult { regSet t .txtVocStatusError k 0 with vocs := t.vocs ++ [vocOf k b] } [k, 0])) ∧
  (∀ (s : State) (path : Path) (k : Nat) (v : Voc),
    running s →
    entryOf (fresh s) path .txtVocCtrlUnload 0 = some k →
    vocAt (fresh s) k = some v →
    (s.subjects.any (fun x => x.kind != .buffer && x.vocab == v.id) = false) →
    exec (.vocabularyUnload path) s =
    .next (regSet { (fresh s) with vocs := s.vocs.filter fun y => y.entry != v.entry } .txtVocStatusError v.entry 0)) ∧
  (∀ (s : State) (t : State) (u : State) (id : Nat) (w : Work) (src : Fetch) (v : Voc) (f : List (Nat × List Nat)) (b : List Byte) (toks : List Nat) (r : Nat),
    canRun s id w →
    isOp 0x18 w →
    bit (opr w 37 1) 0 = false →
    subjectOf w = 0 →
    vocById (begun s w) (opr w 32 4) = some v →
    foldTable (begun s w) v = some f →
    tokenizeFields w →
    reachFault (begun s w) w.hdr.keySlot (addrOf (opr w 8 8)) (opr w 24 4) false = none →
    reachFault (begun s w) w.hdr.keySlot (addrOf (opr w 16 8)) (4 * opr w 28 4) true = none →
    opr w 16 8 ≠ 0 →
    readAddr (begun s w) (addrOf (opr w 8 8)) (opr w 24 4) false src = (t, .ok b) →
    tokens v f (bit (opr w 37 1) 1) b = (some toks, r) →
    u = tokenizeEnd t w none toks r →
    ends u w.id stDone →
    exec (.tokenize id src) s = .next u) ∧
  (∀ (s : State) (u : State) (id : Nat) (w : Work) (x : Subject) (src : Fetch) (v : Voc),
    canRun s id w →
    isFirstMode 0x19 26 3 w →
    ddFull (begun s w) = false →
    heldFor (begun s w) w.hdr.keySlot (subjectOf w) = some x →
    passes (appendChks (begun s w) w x) →
    vocById (begun s w) x.vocab = some v →
    opr w 16 8 = 0 →
    u = appendWith (begun s w) w x v (some (unpackNats 4 (opr w 24 2) w.ops 32)) →
    ends u w.id stDone →
    exec (.appendTokens id src) s = .next u) ∧
  (∀ (s : State) (u : State) (id : Nat) (w : Work) (x : Subject) (src : Fetch),
    canRun s id w →
    isMode 0x19 26 1 w →
    ddFull (begun s w) = false →
    heldFor (begun s w) w.hdr.keySlot (subjectOf w) = some x →
    passes (textChks (begun s w) x true ++ [chk (setFields w 16 true) stBad]) →
    opr w 24 2 = 0 →
    u = setText (begun s w) w x (withStops w x.text []) →
    ends u w.id stDone →
    exec (.setStops id src) s = .next u) ∧
  (∀ (s : State) (u : State) (id : Nat) (w : Work) (x : Subject) (src : Fetch),
    canRun s id w →
    isMode 0x19 26 2 w →
    ddFull (begun s w) = false →
    heldFor (begun s w) w.hdr.keySlot (subjectOf w) = some x →
    passes (textChks (begun s w) x true ++ [chk (setFields w 256 false) stBad]) →
    opr w 24 2 = 0 →
    u = setText (begun s w) w x { x.text with sampler := slice [] 0 256 } →
    ends u w.id stDone →
    exec (.setSampler id src) s = .next u) ∧
  (∀ (s : State) (u : State) (id : Nat) (w : Work) (x : Subject) (v : Voc),
    canRun s id w →
    isFirstMode 0x1A 20 4 w →
    heldFor (begun s w) w.hdr.keySlot (subjectOf w) = some x →
    passes (textChks (begun s w) x false ++ [chk (maskFields w) stBad]) →
    vocById (begun s w) x.vocab = some v →
    passes (maskOutChks false (begun s w) w x v) →
    u = maskEnd (begun s w) w x v [] →
    ends u w.id stDone →
    exec (.maskStep id) s = .next u) ∧
  (∀ (s : State) (u : State) (id : Nat) (w : Work) (x : Subject) (v : Voc),
    canRun s id w →
    isMode 0x1A 20 1 w →
    heldFor (begun s w) w.hdr.keySlot (subjectOf w) = some x →
    passes (textChks (begun s w) x false ++ [chk (maskFields w) stBad]) →
    vocById (begun s w) x.vocab = some v →
    passes (maskOutChks true (begun s w) w x v) →
    (u = maskEnd (begun s w) w x v ((List.range (maskNodes x).length).map fun i => pathTo (maskNodes x) (maskNodes x).length i)) →
    ends u w.id stDone →
    exec (.maskTree id) s = .next u) ∧
  (∀ (s : State) (t : State) (u : State) (id : Nat) (w : Work) (x : Subject) (src : Fetch) (g : List Byte),
    canRun s id w →
    isMode 0x1A 20 2 w →
    ddFull (begun s w) = false →
    heldFor (begun s w) w.hdr.keySlot (subjectOf w) = some x →
    passes (textChks (begun s w) x true ++ [chk (maskFields w) stBad, reachChk (begun s w) w (addrOf (opr w 8 8)) (opr w 16 4) false]) →
    readAddr (begun s w) (addrOf (opr w 8 8)) (opr w 16 4) false src = (t, .ok g) →
    passes [chk (grammarOk g (opr w 16 4) x.vocab) stBad] →
    u = setGrammar t w x { x.text with active := true, dead := false, gstate := field g 18 2, stack := [], image := g, policy := if opr w 22 1 = 0 then 1 else opr w 22 1 } →
    ends u w.id stDone →
    exec (.maskConfigure id src) s = .next u) ∧
  (∀ (s : State) (u : State) (id : Nat) (w : Work) (x : Subject),
    canRun s id w →
    isMode 0x1A 20 3 w →
    ddFull (begun s w) = false →
    heldFor (begun s w) w.hdr.keySlot (subjectOf w) = some x →
    passes (textChks (begun s w) x true ++ [chk (maskFields w) stBad]) →
    u = setGrammar (begun s w) w x { x.text with active := false, dead := false, image := [] } →
    ends u w.id stDone →
    exec (.maskClear id) s = .next u)

/-- Each planner, deadline, shaper and meter command completes where its checks pass (R268, R269, R270, R271, R273, R275, R282, R287, R290, R291, R292, R295). -/
def Obligations.PlannerAndTrafficCommandsComplete : Prop :=
  (∀ (s : State) (u : State) (id : Nat) (w : Work) (p : Planner),
    canRun s id w →
    isFirstMode 0x38 1 4 w →
    plannerNo (noteReady (begun s w)) (opr w 0 1) = some p →
    passes (planChks (noteReady (begun s w)) w p) →
    u = planStep (noteReady (begun s w)) w p →
    ends u w.id stDone →
    exec (.plan id) s = .next u) ∧
  (∀ (s : State) (id : Nat) (w : Work) (x : Subject) (p : Planner),
    canRun s id w →
    isMode 0x38 1 1 w →
    heldFor (begun s w) w.hdr.keySlot (opr w 16 8) = some x →
    plannerNo (begun s w) (opr w 0 1) = some p →
    passes (enrollChks (begun s w) w x) →
    underPause (begun s w) p x.priority = false →
    exec (.enroll id) s = .next (finish (begun s w) w.id stDone [] [.member (opr w 0 1) (opr w 16 8) (opr w 32 4) 0 (opr w 24 8)])) ∧
  (∀ (s : State) (id : Nat) (w : Work) (x : Subject) (p : Planner) (m : Member),
    canRun s id w →
    isMode 0x38 1 2 w →
    heldFor (begun s w) w.hdr.keySlot (opr w 16 8) = some x →
    x.state ≠ 5 →
    plannerOf (begun s w) (opr w 16 8) = some p →
    p.no = opr w 0 1 →
    reservedClear w [(0, 2), (16, 8)] →
    (p.members.find? (fun m => m.handle == opr w 16 8) = some m) →
    m.st = 0 →
    exec (.withdraw id) s = .next (finish (begun s w) w.id stDone [byte x.state] [.unmember (opr w 0 1) (opr w 16 8)])) ∧
  (∀ (s : State) (id : Nat) (w : Work),
    canRun s id w →
    isMode 0x38 1 3 w →
    passes (planConfigureChks (begun s w) w) →
    exec (.stepPlanConfigure id) s = .next (finish (begun s w) w.id stDone [] [.planner (opr w 0 1) (planParams w)])) ∧
  (∀ (s : State) (x : Subject) (handle n : Nat) (m : Member) (src : Fetch),
    running s →
    memberOf (fresh s) handle = some m →
    subjAny (fresh s) handle = some x →
    m.st = 1 →
    m.parkAt = some n →
    slotActive (fresh s) x.keySlot →
    parkWaits (fresh s) handle n = false →
    ddFull (fresh s) = false →
    exec (.plannerParkDone handle src) s =
    .next (runOwn (fresh s) (parkWork (fresh s) x.keySlot m) (runPark src)
      (fun s => dueEntry (updMember s handle fun m => { m with st := 2, parkAt := none, pausedAt := s.time }) handle 4)
      fun s => updMember s handle fun m => { m with st := 0, parkAt := none, retry := 1 })) ∧
  (∀ (s : State) (x : Subject) (handle : Nat) (m : Member),
    running s →
    memberOf (fresh s) handle = some m →
    subjAny (fresh s) handle = some x →
    m.st = 3 →
    slotActive (fresh s) x.keySlot →
    exec (.plannerReviveDone handle) s =
    .next (runOwn (fresh s) (reviveWork (fresh s) x.keySlot m) (runRevive false [])
      (fun s => noteReady (dueEntry (updMember s handle fun m => { m with st := 0 }) handle 5))
      fun s => updSubj (updMember s handle fun m => { m with st := 2, retry := 3 }) handle fun x => if x.state = 3 then { x with state := 2 } else x)) ∧
  (∀ (s : State) (w : Work) (work : Nat),
    running s →
    workOf (fresh s) work = some w →
    w.hdr.deadline ≠ 0 →
    unfinished w →
    w.final = false →
    stepping (fresh s) w = false →
    exec (.deadlineExpiry work) s = .next (missDeadline (fresh s) w)) ∧
  (∀ (s : State) (w : Work) (work : Nat),
    running s →
    workOf (fresh s) work = some w →
    w.hdr.deadline ≠ 0 →
    unfinished w →
    w.final = false →
    stepping (fresh s) w →
    exec (.deadlineExpiry work) s = .next (updWork (fresh s) work fun x => { x with expired := true })) ∧
  (∀ (s : State),
    running s →
    exec .shaperRefill s =
    .next { (fresh s) with adm := { s.adm with shapers := (shaperNos (fresh s)).map (refillShaper (fresh s)), interval := reg s .admShpCfgInterval } }) ∧
  (∀ (s : State) (path : Path) (k : Nat),
    running s →
    entryOf (fresh s) path .admMtrCirCir 0 = some k →
    exec (.meterCommit path) s = .next (commitMeter (fresh s) k)) ∧
  (∀ (s : State) (path : Path) (q : Nat),
    running s →
    entryOf (fresh s) path .admQmaxDepth 0 = some q →
    exec (.clrMax path) s = .next (regSet (regSet (fresh s) .admQmaxDepth q 0) .admQmaxDelay q 0))

/-- Each near-memory descriptor completes where its checks pass and its operands can be read and written (R335, R336, R337, R338, R339, R291). -/
def Obligations.NearMemoryCommandsComplete : Prop :=
  (∀ (s : State) (t : State) (u : State) (id : Nat) (w : Work),
    canRun s id w →
    isOp 0x20 w →
    passes (fillChks (begun s w) w) →
    destReady (begun s w) (addrOf (opr w 0 8)) (opr w 8 8) →
    mayMove (begun s w) w 1 (portBytes (addrOf (opr w 0 8)) (opr w 8 8)) →
    t = moved (begun s w) w 0 (portBytes (addrOf (opr w 0 8)) (opr w 8 8)) →
    u = concludeOut t w stDone [] [] [] (addrOf (opr w 0 8)) (patternBytes (slice w.ops 16 8) (opr w 8 8)) →
    ends u w.id stDone →
    exec (.fill id) s = .next u) ∧
  (∀ (s : State) (t : State) (u : State) (id : Nat) (w : Work) (v : State) (src : Fetch) (b : List Byte),
    canRun s id w →
    isOp 0x21 w →
    passes (copyChks (begun s w) w) →
    destReady (begun s w) (addrOf (opr w 8 8)) (opr w 16 8) →
    lodgedRead (begun s w) (residentOnly w 24) (addrOf (opr w 0 8)) (opr w 16 8) = [] →
    mayMove (begun s w) w 0 (moveBytes (begun s w) (addrOf (opr w 0 8)) (opr w 16 8)) →
    mayMove (begun s w) w 1 (portBytes (addrOf (opr w 8 8)) (opr w 16 8)) →
    t = moved (begun s w) w (moveBytes (begun s w) (addrOf (opr w 0 8)) (opr w 16 8)) (portBytes (addrOf (opr w 8 8)) (opr w 16 8)) →
    readAddr t (addrOf (opr w 0 8)) (opr w 16 8) (residentOnly w 24) src = (v, .ok b) →
    u = concludeOut v w stDone [] [] [] (addrOf (opr w 8 8)) b →
    ends u w.id stDone →
    exec (.copy id src) s = .next u) ∧
  (∀ (s : State) (t : State) (u : State) (id : Nat) (w : Work) (v : State) (fa fb : Fetch) (a b : List Byte),
    canRun s id w →
    isOp 0x22 w →
    passes (compareChks (begun s w) w) →
    lodgedRead (begun s w) (residentOnly w 24) (addrOf (opr w 0 8)) (opr w 16 8) = [] →
    lodgedRead (begun s w) (residentOnly w 24) (addrOf (opr w 8 8)) (opr w 16 8) = [] →
    mayMove (begun s w) w 0 (moveBytes (begun s w) (addrOf (opr w 0 8)) (opr w 16 8) + moveBytes (begun s w) (addrOf (opr w 8 8)) (opr w 16 8)) →
    t = moved (begun s w) w (moveBytes (begun s w) (addrOf (opr w 0 8)) (opr w 16 8) + moveBytes (begun s w) (addrOf (opr w 8 8)) (opr w 16 8)) 0 →
    readAddr t (addrOf (opr w 0 8)) (opr w 16 8) (residentOnly w 24) fa = (v, .ok a) →
    readAddr v (addrOf (opr w 8 8)) (opr w 16 8) (residentOnly w 24) fb = (u, .ok b) →
    exec (.compare id fa fb) s = .next (finish u w.id stDone (leBytes 8 (firstDiff a b)) [])) ∧
  (∀ (s : State) (t : State) (id : Nat) (w : Work) (v : State) (fa fb : Fetch) (a : List Byte),
    canRun s id w →
    (isOp 0x23 w && decide (opr w 0 1 < 0x80)) = true →
    passes (reduceChks (begun s w) w) →
    elementwise (opr w 0 1) = false →
    lodgedRead (begun s w) (residentOnly w 2) (addrOf (opr w 8 8)) (reduceLen w) = [] →
    mayMove (begun s w) w 0 (moveBytes (begun s w) (addrOf (opr w 8 8)) (reduceLen w)) →
    t = moved (begun s w) w (moveBytes (begun s w) (addrOf (opr w 8 8)) (reduceLen w)) 0 →
    readAddr t (addrOf (opr w 8 8)) (reduceLen w) (residentOnly w 2) fa = (v, .ok a) →
    ends (reduceOne v w a) w.id stDone →
    exec (.reduce id fa fb) s = .next (reduceOne v w a)) ∧
  (∀ (s : State) (t : State) (id : Nat) (w : Work) (v y : State) (fa fb : Fetch) (a b : List Byte),
    canRun s id w →
    (isOp 0x23 w && decide (opr w 0 1 < 0x80)) = true →
    passes (reduceChks (begun s w) w) →
    elementwise (opr w 0 1) →
    destReady (begun s w) (addrOf (opr w 24 8)) (reduceLen w) →
    lodgedRead (begun s w) (residentOnly w 2) (addrOf (opr w 8 8)) (reduceLen w) = [] →
    lodgedRead (begun s w) (residentOnly w 2) (addrOf (opr w 16 8)) (reduceLen w) = [] →
    mayMove (begun s w) w 0 (moveBytes (begun s w) (addrOf (opr w 8 8)) (reduceLen w) + moveBytes (begun s w) (addrOf (opr w 16 8)) (reduceLen w)) →
    mayMove (begun s w) w 1 (portBytes (addrOf (opr w 24 8)) (reduceLen w)) →
    t = moved (begun s w) w (moveBytes (begun s w) (addrOf (opr w 8 8)) (reduceLen w) + moveBytes (begun s w) (addrOf (opr w 16 8)) (reduceLen w)) (portBytes (addrOf (opr w 24 8)) (reduceLen w)) →
    readAddr t (addrOf (opr w 8 8)) (reduceLen w) (residentOnly w 2) fa = (v, .ok a) →
    readAddr v (addrOf (opr w 16 8)) (reduceLen w) (residentOnly w 2) fb = (y, .ok b) →
    ends (reduceTwo y w a b) w.id stDone →
    exec (.reduce id fa fb) s = .next (reduceTwo y w a b)) ∧
  (∀ (s : State) (id : Nat) (w : Work) (status : Nat) (result : List Byte),
    canRun s id w →
    (isOp 0x23 w && decide (0x80 ≤ opr w 0 1)) = true →
    status ≤ 0x0F →
    exec (.reduceScorer id status result) s = .next (finish (begun s w) w.id status result []))

/-- Each observation command completes where its checks pass (R497, R499, R500, R501, R502, R496, R490). -/
def Obligations.ObservationCommandsComplete : Prop :=
  (∀ (s : State) (u : State) (id : Nat) (w : Work),
    canRun s id w →
    isOp 0x31 w →
    subjectOf w = 0 →
    passes [chk (markFields w) stBad] →
    u = markEnd (begun s w) w →
    ends u w.id stDone →
    exec (.mark id) s = .next u) ∧
  (∀ (s : State) (t : State) (u : State) (id : Nat) (w : Work) (x : Subject),
    canRun s id w →
    isFirstMode 0x30 24 4 w →
    heldFor (begun s w) w.hdr.keySlot (subjectOf w) = some x →
    passes (dumpTilesChks (begun s w) w) →
    bit (opr w 26 1) 0 = false →
    (((dumpSet (begun s w) x (selectionOf w)).take (opr w 16 8 / tileBytes)).filter (fun t => t.lodged.isSome && !dumpable w t) = []) →
    mayMove (begun s w) w 0 (farBytes ((dumpSet (begun s w) x (selectionOf w)).take (opr w 16 8 / tileBytes))) →
    mayMove (begun s w) w 1 (portBytes (addrOf (opr w 8 8)) (min (opr w 16 8) ((dumpSet (begun s w) x (selectionOf w)).length * tileBytes))) →
    t = moved (begun s w) w (farBytes ((dumpSet (begun s w) x (selectionOf w)).take (opr w 16 8 / tileBytes))) (portBytes (addrOf (opr w 8 8)) (min (opr w 16 8) ((dumpSet (begun s w) x (selectionOf w)).length * tileBytes))) →
    u = writeTiles t w (dumpSet (begun s w) x (selectionOf w)) →
    ends u w.id stDone →
    exec (.dumpTiles id) s = .next u) ∧
  (∀ (s : State) (t : State) (u : State) (id : Nat) (w : Work) (rs : List TraceRec),
    canRun s id w →
    isMode 0x30 24 1 w →
    passes (dumpTraceChks (begun s w) w) →
    rs = recordsFit (opr w 16 8) (begun s w).obs.ring →
    mayMove (begun s w) w 1 (portBytes (addrOf (opr w 8 8)) (rs.flatMap (·.body)).length) →
    t = moved (begun s w) w 0 (portBytes (addrOf (opr w 8 8)) (rs.flatMap (·.body)).length) →
    (u = concludeOut t w stDone (dumpResult rs.length (reg (begun s w) .obsTbufStatLost - (begun s w).obs.lostSeen) ((begun s w).obs.ring.length - rs.length)) [] [.traceTaken ((rs.getLast?.map fun r => r.seq + 1).getD 0) (reg (begun s w) .obsTbufStatLost)] (addrOf (opr w 8 8)) (rs.flatMap (·.body))) →
    ends u w.id stDone →
    exec (.dumpTrace id) s = .next u) ∧
  (∀ (s : State) (u : State) (id : Nat) (w : Work) (x : Subject),
    canRun s id w →
    isMode 0x30 24 2 w →
    heldFor (begun s w) w.hdr.keySlot (subjectOf w) = some x →
    passes (armChks (begun s w) w) →
    u = conclude (begun s w) w stDone (dumpResult 0 0 0) [] [.arm (opr w 27 1) (some (w.hdr.keySlot, subjectOf w, opr w 48 8, opr w 56 4, selectionOf w))] →
    ends u w.id stDone →
    exec (.dumpArm id) s = .next u) ∧
  (∀ (s : State) (u : State) (id : Nat) (w : Work) (x : Subject),
    canRun s id w →
    isMode 0x30 24 3 w →
    heldFor (begun s w) w.hdr.keySlot (subjectOf w) = some x →
    passes (disarmChks (begun s w) w) →
    u = conclude (begun s w) w stDone (dumpResult 0 0 0) [] [.arm (opr w 27 1) none] →
    ends u w.id stDone →
    exec (.dumpDisarm id) s = .next u) ∧
  (∀ (s : State) (c : Capture) (rest : List Capture),
    running s →
    s.obs.captures = c :: rest →
    0 < s.obs.level →
    exec .dumpCapture s = .next (captureNext (fresh s) c)) ∧
  (∀ (s : State) (arm : Nat) (c : Capture) (t : Tile) (rest : List Tile),
    running s →
    (s.obs.captures.find? (fun c => c.arm == arm) = some c) →
    c.tiles = t :: rest →
    exec (.captureTimeout arm) s = .next (dumpRecord { (fresh s) with obs := { s.obs with captures := s.obs.captures.erase c } } c 4 t [])) ∧
  (∀ (s : State),
    running s →
    exec .obsBudgetRefill s =
    .next { (fresh s) with obs := { s.obs with
      rate := reg s .obsBwCfgMbps
      level := min (s.obs.level + 100 * (reg s .obsBwCfgMbps : Int)) (1000 * (reg s .obsBwCfgMbps : Int)) } }) ∧
  (∀ (s : State) (path : Path),
    running s →
    exec (.snap path) s = .next ((List.range 64).foldl (fun s k => regSet s .obsCntSnapCount k (regGet s .obsCntCount k)) (fresh s))) ∧
  (∀ (s : State) (path : Path) (k : Nat),
    running s →
    entryOf (fresh s) path .obsCntCount 0 = some k →
    exec (.counterClear path) s = .next (regSet (fresh s) .obsCntCount k 0)) ∧
  (∀ (s : State),
    running s →
    reg (fresh s) .obsSampCfgPeriod ≠ 0 →
    exec .counterSample s =
    .next (trace (fresh s) 0x08 (if ((List.range 64).filter fun k => regGet s .obsCntCfgSource k != 0).isEmpty then 0 else 1) 0xFFFF 0xFF 0 false
      [byte ((List.range 64).filter fun k => regGet s .obsCntCfgSource k != 0).length]
      (((List.range 64).filter fun k => regGet s .obsCntCfgSource k != 0).flatMap fun k => leBytes 8 k ++ leBytes 8 (regGet s .obsCntCount k))))

/-- HANDOVER_OFFER, HANDOVER_ACCEPT and PUBLISH complete where their checks pass (R345, R346, R347, R348, R349, R358, R359, R360, R361, R362). -/
def Obligations.OwnershipWorkComplete : Prop :=
  (∀ (s : State) (t : State) (u : State) (v : State) (id : Nat) (w : Work) (x : Subject),
    canRun s id w →
    isOp 0x04 w →
    ddFull (begun s w) = false →
    heldFor (begun s w) w.hdr.keySlot (subjectOf w) = some x →
    passes (offerChks (begun s w) w x) →
    w.tally = [] →
    releaseLines (begun s w) (t1Masters (begun s w) x.handle) = (t, true) →
    writeDown (t1Masters (begun s w) x.handle) t = (v, true) →
    sendOwn v x.handle (offeredTo v x (opr w 8 3)) = (v, none) →
    u = offerEnd v w x (offeredTo v x (opr w 8 3)) →
    ends u w.id stDone →
    exec (.handoverOffer id) s = .next u) ∧
  (∀ (s : State) (id : Nat) (w : Work),
    canRun s id w →
    isOp 0x05 w →
    w.tally = [] →
    passes (acceptRunChks (begun s w) w) →
    exec (.handoverAccept id) s =
    .next (sendPeer (updWork { (begun s w) with own := { (begun s w).own with claims := (begun s w).own.claims ++ [openedClaim w] } } w.id
        fun y => { y with tally := [1] }) (openedClaim w).offerer 0x01 (openedClaim w).epoch (opr w 0 8) w.hdr.keySlot 0 0)) ∧
  (∀ (s : State) (t : State) (id : Nat) (w : Work) (x : Subject) (h i : Nat),
    canRun s id w →
    isFirstMode 0x06 8 3 w →
    heldFor (begun s w) w.hdr.keySlot (subjectOf w) = some x →
    passes (createChks (begun s w) w x) →
    issueHandle (begun s w) = .ok t h →
    freeIndex (begun s w) = some i →
    bucketBusy t h = false →
    exec (.publishCreate id) s =
    .next (finish (placeEntry t (handleEntry (createdRegion t w h i x.homeBed) true)) w.id stDone (createdResult (createdRegion t w h i x.homeBed))
      (createEffects w (createdRegion t w h i x.homeBed)))) ∧
  (∀ (s : State) (t : State) (u : State) (id : Nat) (w : Work) (x : Subject) (src : Fetch) (b : List Byte),
    canRun s id w →
    isMode 0x06 8 1 w →
    ddFull (begun s w) = false →
    heldFor (begun s w) w.hdr.keySlot (subjectOf w) = some x →
    passes (versionChks w x) →
    opr w 16 8 = x.version →
    passes [reachChk (begun s w) w (addrOf (opr w 24 8)) (opr w 12 4) false] →
    readAddr (begun s w) (addrOf (opr w 24 8)) (opr w 12 4) false src = (t, .ok b) →
    u = versionEnd t w x b →
    ends u w.id stDone →
    exec (.publishVersion id src) s = .next u) ∧
  (∀ (s : State) (t : State) (u : State) (id : Nat) (w : Work) (x : Subject) (h i : Nat),
    canRun s id w →
    isMode 0x06 8 2 w →
    ddFull (begun s w) = false →
    heldFor (begun s w) w.hdr.keySlot (subjectOf w) = some x →
    passes (shareChks (begun s w) w x) →
    shareLodged (begun s w) x (firstOwn x (opr w 12 4)) (opr w 12 4) = [] →
    shareBad (begun s w) x (firstOwn x (opr w 12 4)) (opr w 12 4) = [] →
    issueHandle (begun s w) = .ok t h →
    freeIndex (begun s w) = some i →
    u = shareEnd t w x (sharedRegion t w x (firstOwn x (opr w 12 4)) h i) →
    ends u w.id stDone →
    exec (.publishPrefix id) s = .next u)

/-- Each peer message, claim event and audit event runs to its own effect where it can (R342, R343, R347, R348, R349, R350, R351, R352, R353, R354, R355, R356). -/
def Obligations.PeerMessagesAct : Prop :=
  (∀ (s : State) (t : State) (x : Subject) (pbr org : Nat) (msg m : List Byte),
    running s →
    peerIn (fresh s) pbr msg 0x01 = some (t, org, m) →
    subjOf t (msgHandle m) = some x →
    slotActive t x.keySlot →
    msgArg m = x.keySlot →
    buddyAway t = false →
    x.own.state = 1 →
    x.own.target = org →
    msgHandle m ∉ t.own.expired →
    x.own.epoch = msgEpoch m →
    exec (.claim pbr msg) s = .next (sendGrant (grantAway t x org) org m x)) ∧
  (∀ (s : State) (t : State) (w : Work) (pbr org i : Nat) (msg m : List Byte) (map : MapArg) (c : Claim),
    running s →
    peerIn (fresh s) pbr msg 0x02 = some (t, org, m) →
    claimOf t (msgHandle m) = some c →
    c.offerer = org →
    c.epoch = msgEpoch m →
    workOf t c.work = some w →
    freeIndex t = some i →
    w.tally = [1] →
    exec (.grant pbr msg map) s = .next (takeGrant t c w map i)) ∧
  (∀ (s : State) (t : State) (w : Work) (pbr org : Nat) (msg m : List Byte) (c : Claim),
    running s →
    peerIn (fresh s) pbr msg 0x03 = some (t, org, m) →
    msgArg m % 256 = stNotOwner →
    claimOf t (msgHandle m) = some c →
    c.offerer = org →
    workOf t c.work = some w →
    w.tally = [1] →
    exec (.refuse pbr msg) s = .next (fail (closeClaim t c.handle) c.work stNotOwner)) ∧
  (∀ (s : State) (handle : Nat) (c : Claim),
    running s →
    claimOf (fresh s) handle = some c →
    exec (.claimWindowExpiry handle) s = .next (fail (closeClaim (fresh s) handle) c.work stDiscarded)) ∧
  (∀ (s : State) (x : Subject) (handle : Nat),
    running s →
    subjOf (fresh s) handle = some x →
    x.own.state = 1 →
    x.own.granted = false →
    exec (.offerTimeout handle) s = .next (reclaimOffer (fresh s) x)) ∧
  (∀ (s : State),
    running s →
    s.own.expired = [] →
    exec .ownershipAudit s =
    .next ((((s.own.traces.filter fun t => t.own.state == 2).foldl reclaimTrace (fresh s)).own.traces.filter
        (auditable ((s.own.traces.filter fun t => t.own.state == 2).foldl reclaimTrace (fresh s)))).foldl askTarget
      ((s.own.traces.filter fun t => t.own.state == 2).foldl reclaimTrace (fresh s)))) ∧
  (∀ (s : State) (t : State) (pbr org : Nat) (msg m : List Byte),
    running s →
    peerIn (fresh s) pbr msg 0x04 = some (t, org, m) →
    exec (.query pbr msg) s =
    .next (sendPeer t org 0x05 (msgEpoch m) (msgHandle m) (answerTo t (msgHandle m) (msgEpoch m)) 0 0)) ∧
  (∀ (s : State) (t : State) (pbr org : Nat) (msg m : List Byte) (r : Trace),
    running s →
    peerIn (fresh s) pbr msg 0x05 = some (t, org, m) →
    traceOf t (msgHandle m) = some r →
    msgHandle m ∈ t.own.queries →
    r.own.target = org →
    r.own.epoch = msgEpoch m →
    r.own.state = 1 →
    msgArg m % 256 = 1 →
    exec (.answer pbr msg) s =
    .next (dropTrace { t with own := { t.own with queries := t.own.queries.filter (· ≠ msgHandle m) } } (msgHandle m))) ∧
  (∀ (s : State) (handle : Nat) (r : Trace),
    running s →
    handle ∈ s.own.queries →
    traceOf (fresh s) handle = some r →
    exec (.auditQueryTimeout handle) s =
    .next (event { (fresh s) with own := { s.own with queries := s.own.queries.filter (· ≠ handle) } } 0x0502 0 r.subject.keySlot handle 0 [])) ∧
  (∀ (s : State) (t : State) (pbr org : Nat) (msg m : List Byte) (tile : Tile),
    running s →
    peerIn (fresh s) pbr msg 0x06 = some (t, org, m) →
    lodgedHere t (msgHandle m) (msgArg m % 2 ^ 24) (msgVersion m) = some tile →
    masterTier tile ≠ 0 →
    exec (.tileReq pbr msg true) s = .next (emit t (.aperture org (field m 24 8) (storedOf t tile)))) ∧
  (∀ (s : State) (u : State) (off : Nat) (image : List Byte) (r : TileReq) (t : Tile),
    running s →
    (s.own.requests.find? (fun r => r.reply == off) = some r) →
    tileOf (fresh s) r.handle r.number = some t →
    t.version = r.version →
    t.lodged.isSome →
    r.keep = false →
    slotActive (fresh s) t.keySlot →
    u = { (fresh s) with own := { s.own with requests := s.own.requests.filter (· ≠ r) } } →
    exec (.tileReply off image) s =
    .next (if imagePasses t (openStored u t (slice image 0 tileBytes)) then
        adopt (showCopy u t ((openStored u t (slice image 0 tileBytes)).drop 64)) t ((openStored u t (slice image 0 tileBytes)).drop 64) r.tier
          (placeRange (showCopy u t ((openStored u t (slice image 0 tileBytes)).drop 64)) r.range)
      else tileLost u t.handle t.number)) ∧
  (∀ (s : State) (handle number : Nat) (r : TileReq),
    running s →
    (s.own.requests.find? (fun r => r.handle == handle && r.number == number) = some r) →
    r.repeated →
    exec (.tileReqTimeout handle number) s =
    .next (tileLost { (fresh s) with own := { s.own with requests := s.own.requests.filter (· ≠ r) } } handle number)) ∧
  (∀ (s : State) (t : State) (pbr org : Nat) (msg m : List Byte),
    running s →
    peerIn (fresh s) pbr msg 0x07 = some (t, org, m) →
    exec (.release pbr msg) s =
    .next { t with own := { t.own with lodged := t.own.lodged.filter fun y =>
      !(y.handle == msgHandle m && y.number == msgArg m % 2 ^ 24 && y.version == msgVersion m && y.lodged.isNone) } }) ∧
  (∀ (s : State) (path : Path) (value : Nat),
    running s →
    reg s .sysMapEpochCurrent < value →
    value < 2 ^ 32 →
    exec (.mapEpochWrite path value) s =
    .next (setReg { (fresh s) with own := { s.own with epochs := (if reg s .sysMapCfgGrace = 0 then [] else
      ((reg s .sysMapEpochCurrent, s.time) :: s.own.epochs).take 3) } } .sysMapEpochCurrent value)) ∧
  (∀ (s : State) (epoch : Nat),
    running s →
    exec (.epochGraceEnd epoch) s = .next { (fresh s) with own := { s.own with epochs := s.own.epochs.filter fun e => e.1 ≠ epoch } })

/-- Each mailbox, dynamic-capacity, TSP, IDE and CDAT command answers as the running device answers it (R299, R303, R306, R309, R311, R363, R463, R464, R475). -/
def Obligations.MailboxCommandsComplete : Prop :=
  (∀ (s : State) (p : PortId),
    running s →
    exec (.identify p) s =
    .next (emit (fresh s) (.response (slice Config.revision 0 16 ++ zeros 32 ++ (List.replicate 4 (leBytes 2 (logCapacity % 65536))).flatten)))) ∧
  (∀ (s : State) (u : State) (ch : Path) (log : Nat) (l : List Event),
    running s →
    log < 4 →
    l = logOf s.flt log →
    u = { (fresh s) with flt := { s.flt with read := setAt 0 s.flt.read log l.length } } →
    exec (.getEventRecords ch log) s =
    .next (alertCheck (emit u (.response (leBytes 2 (min 65535 (s.flt.overflow.getD log 0)) ++
      leBytes 8 (((s.flt.overflowAt.getD log (0, 0)).1 + reg s .clkTimeOffsetOffset) % 2 ^ 64) ++
      leBytes 8 (((s.flt.overflowAt.getD log (0, 0)).2 + reg s .clkTimeOffsetOffset) % 2 ^ 64) ++ leBytes 2 l.length ++
      ((List.range l.length).map fun i => ((l[i]?).map (eventRecord (fresh s) (recordHandle (fresh s) log i))).getD []).flatten))))) ∧
  (∀ (s : State) (ch : Path) (log : Nat) (handles : List Nat),
    running s →
    log < 4 →
    handles ≠ [] →
    handles.length ≤ (logOf s.flt log).length →
    handles = (List.range handles.length).map (recordHandle (fresh s) log) →
    exec (.clearEventRecords ch log handles) s = .next (emit (clearLog (fresh s) log handles.length) (.response []))) ∧
  (∀ (s : State) (p : PortId),
    running s →
    exec (.getEventInterruptPolicy p) s = .next (emit (fresh s) (.response (s.cxl.policy.map byte)))) ∧
  (∀ (s : State) (p : PortId) (settings : List Nat),
    running s →
    settings.length = 4 →
    (∀ x ∈ settings, x < 256) →
    exec (.setEventInterruptPolicy p settings) s =
    .next (emit { (fresh s) with cxl := { s.cxl with policy := settings } } (.response []))) ∧
  (∀ (s : State) (p : PortId) (value : Nat),
    running s →
    exec (.setTimestamp p value) s =
    .next (emit (setReg (fresh s) .clkTimeOffsetOffset ((value % 2 ^ 64 + (2 ^ 64 - s.time % 2 ^ 64)) % 2 ^ 64)) (.response []))) ∧
  (∀ (s : State) (host : Nat) (ext : ExtentArg),
    running s →
    tspLocked (fresh s) host = false →
    host < 32 →
    regGet s .cxlHostMapValid host = 1 →
    extentExists (fresh s) ext →
    extentFits (fresh s) host ext →
    extentLimits host (s.cxl.extents ++ [extentOf host 0 ext]) →
    exec (.fmDynamicCapacityAdd host ext) s =
    .next (emit (extentEvent (setExtents (fresh s) (s.cxl.extents ++ [extentOf host 0 ext])) host ext) (.response []))) ∧
  (∀ (s : State) (host : Nat) (ext : ExtentArg) (e : Extent),
    running s →
    tspLocked (fresh s) host = false →
    offersOf (fresh s) host = [e] →
    within e ext →
    1 ≤ ext.count →
    (extentLimits host ((s.cxl.extents.filter fun y => !(y ∈ [e])) ++ [extentOf host 1 ext])) →
    exec (.addDynamicCapacityResponse host [ext]) s =
    .next (emit (setExtents (fresh s) ((s.cxl.extents.filter fun y => !(y ∈ [e])) ++ [extentOf host 1 ext])) (.response []))) ∧
  (∀ (s : State) (host : Nat) (ext : ExtentArg) (e : Extent),
    running s →
    tspLocked (fresh s) host = false →
    (s.cxl.extents.find? (fun e => e.host == host && decide (e.phase ≤ 1) && decide (1 ≤ ext.count) && within e ext) = some e) →
    e.phase = 1 →
    (extentLimits host ((s.cxl.extents.filter fun y => y ≠ e) ++ splitAround e ext ++ [extentOf host 2 ext])) →
    exec (.releaseDynamicCapacity host ext) s =
    .next (endReleases (emit (setExtents (fresh s) ((s.cxl.extents.filter fun y => y ≠ e) ++ splitAround e ext ++ [extentOf host 2 ext])) (.response [])))) ∧
  (∀ (s : State) (host : Nat) (ext : ExtentArg) (e : Extent),
    running s →
    tspLocked (fresh s) host = false →
    (s.cxl.extents.find? (fun e => e.host == host && decide (e.phase ≤ 1) && decide (1 ≤ ext.count) && within e ext) = some e) →
    e.phase = 1 →
    (extentLimits host ((s.cxl.extents.filter fun y => y ≠ e) ++ splitAround e ext ++ [extentOf host 2 ext])) →
    exec (.fmDynamicCapacityRelease host ext) s =
    .next (endReleases (emit (setExtents (fresh s) ((s.cxl.extents.filter fun y => y ≠ e) ++ splitAround e ext ++ [extentOf host 2 ext])) (.response [])))) ∧
  (∀ (s : State) (host : Nat) (ext : ExtentArg) (e : Extent),
    running s →
    (s.cxl.extents.find? (fun e => e == extentOf host 2 ext) = some e) →
    extentWaits (fresh s) e = [] →
    exec (.extentReleaseTimeout host ext) s =
    .next (retryAccesses (endRelease { (fresh s) with cxl := { s.cxl with waiting := s.cxl.waiting.filter fun _ => true } } e))) ∧
  (∀ (s : State) (p : PortId),
    running s →
    exec (.getDynamicCapacityConfiguration p) s =
    .next (emit (fresh s) (.response ([byte 1] ++ leBytes 8 0 ++ leBytes 8 (reg s .stoRangeWindows * 2 ^ 30) ++ leBytes 8 (2 ^ 30) ++
      leBytes 4 allExtents ++ leBytes 4 (allExtents - s.cxl.extents.length))))) ∧
  (∀ (s : State) (p : PortId) (host count start : Nat) (l : List Extent),
    running s →
    (l = sortKey (·.first) (s.cxl.extents.filter fun e => e.host == host && decide (1 ≤ e.phase))) →
    start ≤ l.length →
    exec (.getDynamicCapacityExtentList p host count start) s =
    .next (emit (fresh s) (.response (leBytes 4 ((l.drop start).take count).length ++ leBytes 4 l.length ++ ((l.drop start).take count).flatMap fun e =>
      leBytes 8 (e.first * 2 ^ 30) ++ leBytes 8 (e.count * 2 ^ 30) ++ leBytes 16 e.tag)))) ∧
  (∀ (s : State) (host base : Nat),
    powered s →
    host < 32 →
    regGet s .cxlHostMapValid host = 1 →
    exec (.hdmDecoderCommit host base) s = .next { (fresh s) with cxl := { s.cxl with hdm := aset s.cxl.hdm host base } }) ∧
  (∀ (s : State) (host : Nat),
    running s →
    host < 32 →
    regGet s .cxlHostMapValid host = 1 →
    exec (.tspRequest host .lock) s = .next (emit (regSet (fresh s) .cxlHostStatusTspLocked host 1) (.response []))) ∧
  (∀ (s : State) (p : PortId) (session stream : Nat),
    running s →
    ((spdmChan (fresh s) (portPath p)).any fun c => c.sessions.any fun x => x.id == session && x.secured) →
    (portNo p, stream) ∈ s.cxl.ideKeys →
    exec (.ideKm p session (.go stream)) s =
    .next (emit { (fresh s) with cxl := { s.cxl with ideKeys := s.cxl.ideKeys.filter fun e => e ≠ (portNo p, stream), ide := (portNo p, stream) :: s.cxl.ide.filter fun e => e ≠ (portNo p, stream) } } (.response []))) ∧
  (∀ (s : State) (p : PortId) (entry : Nat),
    running s →
    exec (.cdatRead p entry) s =
    .next (emit (fresh s) (match Config.cdat[entry]? with
      | none => .refuse spdmInvalid
      | some b => .response b)))

/-- Link events: recovery, its timeout, the five ways a port fails at once, and a link that returns (R299, R309, R457, R469, R510). -/
def Obligations.LinkCommandsComplete : Prop :=
  (∀ (s : State) (p : PortId),
    running s →
    regGet s .cxlPortStatusLink (portNo p) = 2 →
    exec (.linkLeavesL0 p) s = .next (regSet (fresh s) .cxlPortStatusLink (portNo p) 3)) ∧
  (∀ (s : State) (p : PortId),
    running s →
    regGet s .cxlPortStatusLink (portNo p) = 3 →
    portUp (fresh s) (portNo p) →
    exec (.linkRecoveryTimeout p) s = .next (portFails (fresh s) (portNo p))) ∧
  (∀ (s : State) (p : PortId),
    running s →
    portUp (fresh s) (portNo p) →
    exec (.ideIntegrityFailure p) s = .next (portFails (fresh s) (portNo p))) ∧
  (∀ (s : State) (p : PortId),
    running s →
    portUp (fresh s) (portNo p) →
    exec (.viralReceived p) s = .next (portFails (fresh s) (portNo p))) ∧
  (∀ (s : State) (p : PortId),
    running s →
    portUp (fresh s) (portNo p) →
    exec (.surpriseRemoval p) s = .next (portFails (fresh s) (portNo p))) ∧
  (∀ (s : State) (p : PortId),
    running s →
    portUp (fresh s) (portNo p) →
    exec (.cacheResponseTimeout p) s = .next (portFails (fresh s) (portNo p))) ∧
  (∀ (s : State) (p : PortId),
    running s →
    portUp (fresh s) (portNo p) →
    exec (.portReferenceClockLoss p) s = .next (portFails (fresh s) (portNo p))) ∧
  (∀ (s : State) (p : PortId) (width rate : Nat),
    running s →
    perst s p = false →
    width = 2 ∨ width = 4 ∨ width = 8 →
    1 ≤ rate →
    rate ≤ 4 →
    exec (.linkReturn p width rate) s =
    .next (regSet (regSet (regSet (fresh s) .cxlPortStatusLink (portNo p) 2) .cxlPortStatusWidth (portNo p) width) .cxlPortStatusRate (portNo p) rate))

/-- Each fault event takes its class out of service, and each recovery ends it, where it can happen (R52, R448, R449, R450, R451, R452, R453, R454, R456, R458, R459, R460). -/
def Obligations.FaultCommandsComplete : Prop :=
  (∀ (s : State) (bed unit : Nat),
    running s →
    bed < bedCount s.model →
    unit < 4 →
    4 * bed + unit ∉ s.flt.channelsOut →
    exec (.dramChannelFault false bed unit) s = .next (channelFails (fresh s) (4 * bed + unit))) ∧
  (∀ (s : State) (u : State) (package c : Nat),
    running s →
    package ∈ s.flt.migrating →
    (c = (s.flt.channelsOut.find? fun c => c / 4 == package).getD (4 * package)) →
    u = { (fresh s) with flt := { s.flt with migrating := s.flt.migrating.filter (· ≠ package), channelsOut := s.flt.channelsOut.filter (· / 4 ≠ package) }, tiles := s.tiles.map (remirror package c) } →
    exec (.packageMigrationDone package) s =
    .next (event (regAdd u .fltRepairT2Packages 0 1 4) 0x030B 0 0xFFFF 0 (placeLoc 2 c) [package])) ∧
  (∀ (s : State) (u : State) (die : Nat),
    running s →
    die < dieCount s.model →
    die ∉ s.flt.diesOut →
    s.flt.rebuilding = [] →
    (u = openDomain (fresh s) 5 die fun w => decide ((5, die) ∈ w.transfers)) →
    exec (.flashDieFault die) s =
    .next (dropCopies { u with flt := { u.flt with diesOut := insNat die u.flt.diesOut, rebuilding := insNat die u.flt.rebuilding } }
      fun t c => !t.durable && c.tier == 4 && c.place == die)) ∧
  (∀ (s : State) (u : State) (die : Nat) (move : Tile → Tile),
    running s →
    die ∈ s.flt.rebuilding →
    (move = fun t : Tile => { t with copies := updIf (fun c => c.tier == 4 && c.place == die) (fun c => { c with place := t4Place (fresh s) t }) t.copies }) →
    u = { (fresh s) with flt := { s.flt with rebuilding := s.flt.rebuilding.filter (· ≠ die) }, tiles := s.tiles.map move, own := { s.own with lodged := s.own.lodged.map move } } →
    exec (.dieRebuildDone die) s = .next (regAdd u .fltRepairFlashDies 0 1 8)) ∧
  (∀ (s : State) (u : State),
    running s →
    u = unlockPll (fresh s) (reg s .clkPllStatusActive) →
    pllLocked u (1 - reg s .clkPllStatusActive) →
    exec (.pllLossOfLock none) s =
    .next (openDomain (regAdd (setReg u .clkPllStatusActive (1 - reg s .clkPllStatusActive)) .clkPllStatusSwitches 0 1 16) 7 256 fun _ => false)) ∧
  (∀ (s : State),
    running s →
    exec .standbyPllLossOfLock s = .next (unlockPll (fresh s) (1 - reg s .clkPllStatusActive))) ∧
  (∀ (s : State) (bed : Nat) (clock : Bool),
    running s →
    bed < bedCount s.model →
    bed ∉ s.flt.bedsOut →
    exec (.bedFault bed clock) s = .next (bedFails (fresh s) (if clock then 7 else 9) bed)) ∧
  (∀ (s : State) (block : Nat),
    running s →
    block < 5 →
    block ∉ s.flt.failedOver →
    exec (.blockFault block) s =
    .next (openDomain { (fresh s) with flt := { s.flt with failedOver := insNat block s.flt.failedOver } } 0xA block (inBlock block))) ∧
  (∀ (s : State) (u : State) (core : Nat),
    running s →
    core < 4 →
    core ∉ s.flt.coresOut →
    u = setLast (raiseClass { (fresh s) with flt := { s.flt with coresOut := insNat core s.flt.coresOut } } 0xA) 0xA (locate 7 0 core 0 0) 0 →
    u.flt.coresOut.length < 4 →
    exec (.managementCoreFault core) s = .next (event u 0x0A04 0xA 0xFFFF 0 (locate 7 0 core 0 0) [core])) ∧
  (∀ (s : State) (t : State) (u : State) (v : State) (cls place ns : Nat) (us free : List Nat),
    running s →
    (cls, place) ∈ s.flt.recovering →
    us = domainUnits (fresh s) cls place →
    (t = { (fresh s) with flt := { s.flt with recovering := s.flt.recovering.filter fun e => e ≠ (cls, place) } }) →
    (free = us.filter fun k => !(k ∈ (t.flt.recovering.flatMap fun e => domainUnits t e.1 e.2))) →
    (v = { t with units := { t.units with states := (t.units.states.filter fun e => !(e.1 ∈ free && e.2 == 2)) ++ (((t.units.drain.map (·.2.2.1)).getD []).filter fun k => decide (k ∈ free)).map fun k => (k, 3) } }) →
    u = recoveryEvent (setLast v cls (faultLoc cls place) ns) cls place →
    exec (.faultRecoveryDone cls place ns) s =
    .next (redispatch u (us.filter fun k => (unitEnt u k).any (unitHeld u)))) ∧
  (∀ (s : State),
    running s →
    exec .faultControllerFailure s = .next (deviceFailed (fresh s)))

/-- Each event of clocks, margins and temperature changes its bed, and is recorded, where it applies (R470, R472, R477, R478, R480, R481, R483, R484, R485, R487, R546). -/
def Obligations.ClockCommandsComplete : Prop :=
  (∀ (s : State) (bed : Nat),
    running s →
    bedRuns (fresh s) bed →
    ((bedRec s bed).any (fun b => decide (4 ≤ b.floor + b.droop)) = false) →
    exec (.droopTrip bed) s = .next (setBed (fresh s) bed fun b => { b with droop := b.droop + 1 })) ∧
  (∀ (s : State) (bed : Nat),
    running s →
    exec (.stretchRelease bed) s = .next (setBed (fresh s) bed fun b => { b with droop := b.droop - 1 })) ∧
  (∀ (s : State) (bed : Nat),
    running s →
    reg s .clkStopCfgEnable = 1 →
    bedRuns (fresh s) bed →
    bedIdle (fresh s) bed →
    exec (.bedStop bed) s =
    .next (regAdd (updBed (fresh s) bed fun b => { b with stopped := true, stoppedAt := s.time }) .clkBedStopsCount bed 1 64)) ∧
  (∀ (s : State) (bed p slack next : Nat) (walk : WalkArg) (b : Bed),
    running s →
    bedRuns (fresh s) bed →
    bedRec (fresh s) bed = some b →
    worstPan (walk.slack.take 16) = some (p, slack, next) →
    reg s .clkHrwCfgSlackLow ≤ slack →
    reg s .clkHrwCfgSlackHigh < slack →
    walk.high24 →
    exec (.harrowWalk bed walk) s =
    .next (relax (updBed (fresh s) bed fun b => { b with slackMin := if b.slackMin = 0 then slack else min b.slackMin slack }) b)) ∧
  (∀ (s : State) (u : State) (x y railX railY tempX tempY : Nat),
    running s →
    neighbours (fresh s) x y →
    u = noteTemp (noteTemp (fresh s) x tempX) y tempY →
    110 < max railX railY - min railX railY →
    max tempX tempY - min tempX tempY ≤ 28 →
    exec (.neighbourLimit x y railX railY tempX tempY) s =
    .next (holdOffender u (offender u x y (departure u x railX) (departure u y railY)))) ∧
  (∀ (s : State) (bed : Nat),
    running s →
    ((bedRec s bed).any fun b => (b.held || b.hot) && !heldForGood b) →
    (8, bed) ∉ s.flt.recovering →
    exec (.holdRelease bed) s =
    .next (redispatch (margin (setBed (fresh s) bed fun b => { b with held := false, hot := false, droop := 0 }) bed [0]) [])) ∧
  (∀ (s : State) (bed unit r : Nat) (b : Bed),
    running s →
    bedRec s bed = some b →
    b.t1Refresh[unit]? = some r →
    r < 2 →
    exec (.retentionProbe bed true unit true false) s =
    .next (updBed (fresh s) bed fun c => { c with t1Refresh := setAt 0 b.t1Refresh unit (r + 1) })) ∧
  (∀ (s : State) (bed : Nat) (halve month : Bool),
    running s →
    exec (.patrolScrub bed [] halve month) s =
    .next (updBed (fresh s) bed fun b => if halve then { b with scrub := max 1 (b.scrub / 2) }
      else if month then { b with scrub := min (reg s .clkHrwScrubHours) (2 * b.scrub) } else b)) ∧
  (∀ (s : State) (bed shift : Nat),
    running s →
    bedRuns (fresh s) bed →
    exec (.ringOscillatorMeasure bed shift) s = .next (updBed (fresh s) bed fun b => { b with roShift := shift % 2 ^ 16 })) ∧
  (∀ (s : State),
    running s →
    exec .ageingRecordWrite s =
    .next { (fresh s) with nv := { s.nv with ageing := some (ageRecord { (fresh s) with nv := { s.nv with powerHours := s.nv.powerHours + 1 } }), powerHours := s.nv.powerHours + 1 }, beds := s.beds.map fun b => { b with slackMin := 0, tempMax := 0 } }) ∧
  (∀ (s : State) (b : Nat),
    running s →
    b < bedCount s.model →
    exec (.thermalThrottle (some b)) s =
    .next (event (setBed (fresh s) b fun x => { x with throttled := true }) 0x0A06 0 0xFFFF 0 (locate 6 b 0 0 0) [])) ∧
  (∀ (s : State) (b : Nat),
    running s →
    exec (.throttleRelease (some b)) s = .next (setBed (fresh s) b fun x => { x with throttled := false })) ∧
  (∀ (s : State) (bed : Nat),
    running s →
    bed < bedCount s.model →
    exec (.thermalHold bed) s =
    .next (event (setBed (holdOffender (fresh s) bed) bed fun b => { b with hot := true }) 0x0A07 8 0xFFFF 0 (locate 6 bed 0 0 0) []))

/-- Each install, removal, set, lifecycle, claim and debug command has its effect where it may (R389, R393, R396, R397, R401, R402, R407, R408, R505). -/
def Obligations.SlotAndSetCommandsComplete : Prop :=
  (∀ (s : State) (t : State) (path : Path) (img : Fetch) (k : Nat) (b : List Byte) (payload : Option (List Byte)),
    running s →
    isSealed (fresh s) = false →
    entryOf (fresh s) path .secSlotCtrlInstall 0 = some k →
    reg (regSet (fresh s) .secSlotCtrlInstall k 1) .secEnvLenLen = 1264 →
    readSource (regSet (fresh s) .secSlotCtrlInstall k 1) (reg (regSet (fresh s) .secSlotCtrlInstall k 1) .secEnvAddrAddr) 1264 img = (t, some b) →
    installError t (some b) payload = 0 →
    exec (.install path img payload) s =
    .next (debugCheck (freshNonce (secError (applyInstall t (field b 6 2) (keyData b (payload.getD []))) 0)))) ∧
  (∀ (s : State) (t : State) (ch : Path) (session : Nat) (c : SpdmChan) (env : List Byte) (payload : Option (List Byte)),
    running s →
    spdmChan (fresh s) ch = some c →
    c.algs →
    (c.sessions.any fun x => x.id == session && x.secured && x.operator.isSome) →
    installError (fresh s) (some env) payload = 0 →
    t = applyInstall (fresh s) (field env 6 2) (keyData env (payload.getD [])) →
    exec (.installKey ch session env payload) s = .next (answerError (debugCheck (freshNonce (secError t 0))))) ∧
  (∀ (s : State) (path : Path) (k : Nat),
    running s →
    isSealed (fresh s) = false →
    entryOf (fresh s) path .secSlotCtrlRevoke 0 = some k →
    slotActive (fresh s) k →
    exec (.revoke path) s = .next (revokeKey (regSet (fresh s) .secSlotCtrlRevoke k 1) k)) ∧
  (∀ (s : State) (ch : Path) (session slot : Nat) (c : SpdmChan),
    running s →
    spdmChan (fresh s) ch = some c →
    c.algs →
    (c.sessions.any fun x => x.id == session && x.secured && x.operator.isSome) →
    slotActive (fresh s) slot →
    exec (.revokeSlot ch session slot) s = .next (answerError (revokeKey (fresh s) slot))) ∧
  (∀ (s : State) (u : State) (slot : Nat) (x : KeySlot),
    running s →
    slotRec (fresh s) slot = some x →
    x.state = 3 →
    x.held = none →
    u = freeSlot (fresh s) slot →
    exec (.slotEmptied slot) s = .next { u with sec := { u.sec with slots := u.sec.slots.filter fun y => y.slot != slot } }) ∧
  (∀ (s : State) (t : State) (path : Path) (img : Fetch) (b p : List Byte),
    running s →
    isSealed (fresh s) = false →
    readSource (setReg (fresh s) .secSetCtrlJoin 1) (reg (setReg (fresh s) .secSetCtrlJoin 1) .secSetAddrAddr) (reg (setReg (fresh s) .secSetCtrlJoin 1) .secSetLenLen) img = (t, some b) →
    reg (setReg (fresh s) .secSetCtrlJoin 1) .secSetLenLen = 1264 →
    joinError t (some b) (some p) = 0 →
    exec (.join path img (some p)) s =
    .next (freshNonce (secError { t with nv := { t.nv with sets := aset t.nv.sets (field b 8 8) (slice p 0 32) } } 0))) ∧
  (∀ (s : State) (ch : Path) (session : Nat) (c : SpdmChan) (env p : List Byte),
    running s →
    spdmChan (fresh s) ch = some c →
    c.algs →
    (c.sessions.any fun x => x.id == session && x.secured && x.operator.isSome) →
    joinError (fresh s) (some env) (some p) = 0 →
    exec (.joinSet ch session env (some p)) s =
    .next (answerError (freshNonce (secError { (fresh s) with nv := { s.nv with sets := aset s.nv.sets (field env 8 8) (slice p 0 32) } } 0)))) ∧
  (∀ (s : State) (path : Path) (setId : Nat),
    running s →
    isSealed (fresh s) = false →
    setId % 2 ^ 64 ≠ 0 →
    exec (.leave path setId) s = .next (leaveOne (setReg (fresh s) .secSetCtrlLeave (setId % 2 ^ 64)) (setId % 2 ^ 64))) ∧
  (∀ (s : State) (ch : Path) (session setId : Nat) (c : SpdmChan),
    running s →
    spdmChan (fresh s) ch = some c →
    c.algs →
    (c.sessions.any fun x => x.id == session && x.secured && x.operator.isSome) →
    exec (.leaveSet ch session setId) s = .next (answerError (leaveOne (fresh s) setId))) ∧
  (∀ (s : State) (t : State) (path : Path) (img : Fetch) (b : List Byte),
    running s →
    isSealed (fresh s) = false →
    readSource (setReg (fresh s) .secLcCtrlReturn 1) (reg (setReg (fresh s) .secLcCtrlReturn 1) .secTokenAddrAddr) (reg (setReg (fresh s) .secLcCtrlReturn 1) .secTokenLenLen) img = (t, some b) →
    reg t .secLifecycleState ≠ 2 →
    exec (.retire path img true) s =
    .next (debugCheck (secError (cryptoErase (setReg ((t.sec.slots.map (·.slot)).foldl revokeKey t) .secLifecycleState 2)) 0))) ∧
  (∀ (s : State) (t : State) (path : Path) (img : Fetch) (b : List Byte),
    running s →
    isSealed (fresh s) = false →
    readSource (setReg (fresh s) .secClaimClaim 1) (reg (setReg (fresh s) .secClaimClaim 1) .secTokenAddrAddr) (reg (setReg (fresh s) .secClaimClaim 1) .secTokenLenLen) img = (t, some b) →
    t.nv.signers = [] →
    inProduction t →
    b.length = 1952 →
    exec (.ownerClaim path img) s = .next (secError { t with nv := { t.nv with signers := [(0, b)] } } 0)) ∧
  (∀ (s : State) (t : State) (path : Path) (img : Fetch) (b : List Byte),
    running s →
    isSealed (fresh s) = false →
    readSource (setReg (fresh s) .secDebugPresent 1) (reg (setReg (fresh s) .secDebugPresent 1) .secTokenAddrAddr) (reg (setReg (fresh s) .secDebugPresent 1) .secTokenLenLen) img = (t, some b) →
    inProduction t →
    tokenPasses t b →
    exec (.debugPresent path img true) s =
    .next (freshDebugNonce (secError { t with sec := { t.sec with token := some (field b 56 4) } } 0))) ∧
  (∀ (s : State) (path : Path),
    running s →
    exec (.debugClose path) s = .next (debugCheck { (fresh s) with sec := { s.sec with token := none } }))

/-- Each SPDM request is answered where the transport has got so far, with evidence and measurements (R398, R404, R405, R406, R407). -/
def Obligations.SpdmCommandsComplete : Prop :=
  (∀ (s : State) (ch : Path),
    powered s →
    exec (.getVersion ch) s =
    .next (emit (putChan (fresh s) { ch := ch, version := 0, caps := false, algs := false, sessions := [] }) (.response [0x12, 0x13, 0x14]))) ∧
  (∀ (s : State) (ch : Path) (version : Nat) (c : SpdmChan),
    running s →
    spdmChan (fresh s) ch = some c →
    version = 0x12 ∨ version = 0x13 ∨ version = 0x14 →
    exec (.getCapabilities ch version) s =
    .next (emit (putChan (fresh s) { c with version := version, caps := true }) (.response (leBytes 4 0x2D6)))) ∧
  (∀ (s : State) (ch : Path) (c : SpdmChan),
    running s →
    spdmChan (fresh s) ch = some c →
    c.caps →
    exec (.negotiateAlgorithms ch true true true) s = .next (emit (putChan (fresh s) { c with algs := true }) (.response [1, 1, 1]))) ∧
  (∀ (s : State) (ch : Path) (c : SpdmChan),
    running s →
    spdmChan (fresh s) ch = some c →
    c.algs →
    exec (.getDigests ch) s = .next (emit (fresh s) (.response (Config.sha3 (certChain (fresh s)))))) ∧
  (∀ (s : State) (ch : Path) (off len : Nat) (c : SpdmChan),
    running s →
    spdmChan (fresh s) ch = some c →
    c.algs →
    exec (.getCertificate ch 0 off len) s = .next (emit (fresh s) (.response (((certChain (fresh s)).drop off).take len)))) ∧
  (∀ (s : State) (ch : Path) (nonce : List Byte) (c : SpdmChan),
    running s →
    spdmChan (fresh s) ch = some c →
    c.algs →
    exec (.challenge ch 0 nonce) s =
    .next (signedAnswer (fresh s) nonce (Config.sha3 (certChain (fresh s)) ++ Config.sha3 (measures (fresh s) allMeasures)))) ∧
  (∀ (s : State) (ch : Path) (index : Nat) (nonce : List Byte) (c : SpdmChan),
    running s →
    spdmChan (fresh s) ch = some c →
    c.algs →
    1 ≤ index →
    index ≤ 12 →
    exec (.getMeasurements ch index true nonce) s = .next (signedAnswer (fresh s) nonce (measure (fresh s) index))) ∧
  (∀ (s : State) (ch : Path) (session : Nat) (c : SpdmChan),
    running s →
    spdmChan (fresh s) ch = some c →
    c.algs →
    (∀ x ∈ c.sessions, x.id ≠ session) →
    c.sessions.length < 4 →
    exec (.keyExchange ch session) s =
    .next (signedAnswer (putChan (fresh s) { c with sessions := c.sessions ++ [{ id := session, secured := false, operator := none }] }) [] [])) ∧
  (∀ (s : State) (ch : Path) (session : Nat) (c : SpdmChan) (op : Option Nat),
    running s →
    spdmChan (fresh s) ch = some c →
    c.algs →
    (c.sessions.any fun x => x.id == session && !x.secured) →
    exec (.finish ch session true op) s =
    .next (emit (putChan (fresh s) { c with sessions := updIf (fun x => x.id == session) (fun x => { x with secured := true, operator := op.filter fun n => (aget s.nv.operators n).isSome }) c.sessions }) (.response []))) ∧
  (∀ (s : State) (ch : Path) (session : Nat) (c : SpdmChan),
    running s →
    spdmChan (fresh s) ch = some c →
    c.algs →
    (c.sessions.any fun x => x.id == session && x.secured) →
    exec (.endSession ch session) s =
    .next (emit (putChan (fresh s) { c with sessions := c.sessions.filter fun x => x.id != session }) (.response []))) ∧
  (∀ (s : State) (ch : Path) (slot : Nat) (nonce : List Byte) (c : SpdmChan),
    running s →
    spdmChan (fresh s) ch = some c →
    c.algs →
    slot < 4096 →
    exec (.getSlotEvidence ch slot nonce) s =
    .next (emit (fresh s) (.response (evidenceBody (fresh s) slot nonce ++ aliasSign (fresh s) (evidenceBody (fresh s) slot nonce)))))

/-- The TAP's instructions, its reset, debug accesses and the two ways a bus address is assigned (R504, R505, R540, R541). -/
def Obligations.TapAndBusCommandsComplete : Prop :=
  (∀ (s : State) (driven : Bool),
    exec (.tapReset driven) s = .next { (fresh s) with power := { s.power with tapReset := !driven, tap := 0 } }) ∧
  (∀ (s : State) (bitIn : Bool),
    tapServes (fresh s) →
    exec (.bypass bitIn) s = .next (emit (tapSet (fresh s) 1) (.tdo [false, bitIn]))) ∧
  (∀ (s : State) (cells : List Bool),
    tapServes (fresh s) →
    exec (.samplePreload cells) s =
    .next (emit (takeFree (tapSet { (fresh s) with power := { s.power with scan := cells } } 2)) (.tdo (sampled (fresh s) cells.length)))) ∧
  (∀ (s : State) (cells : List Bool),
    tapServes (fresh s) →
    exec (.extest cells) s =
    .next (if s.power.perstA && s.power.perstB then
        emit (takeFree (tapSet { (fresh s) with power := { s.power with scan := cells } } 3)) (.tdo (sampled (fresh s) cells.length))
      else emit (tapSet (fresh s) 1) (.tdo (false :: cells.dropLast)))) ∧
  (∀ (s : State),
    tapServes (fresh s) →
    exec .idcode s = .next (emit (tapSet (fresh s) 4) (.tdo ((List.range 32).map (bit Config.idcode))))) ∧
  (∀ (s : State) (req : JtagReq),
    tapServes (fresh s) →
    s.power.state ≠ .thermalOff →
    exec (.jtagDebugAccess req) s = .next (jtagAccess req (fresh s))) ∧
  (∀ (s : State) (addr : Nat),
    busServes (fresh s) →
    (busMode (fresh s) .i3c).power.bus = .i3c →
    (busMode (fresh s) .i3c).power.dynAddr = none →
    exec (.entdaa addr) s =
    .next { busMode (fresh s) .i3c with power := { (busMode (fresh s) .i3c).power with dynAddr := some (addr % 128) } }) ∧
  (∀ (s : State) (addr : Nat),
    busServes (fresh s) →
    (busMode (fresh s) .i3c).power.bus = .i3c →
    exec (.setdasa (0x50 + s.power.mbAddr) addr) s =
    .next { busMode (fresh s) .i3c with power := { (busMode (fresh s) .i3c).power with dynAddr := some (addr % 128) } })

/-- Checkpoints, their triggers, flash upkeep and RESTORE have their effects where they may (R417, R425, R428, R430, R431, R432, R435, R436, R437, R516). -/
def Obligations.CheckpointCommandsComplete : Prop :=
  (∀ (s : State) (id : Nat) (w : Work),
    canRun s id w →
    isOp 0x28 w →
    w.tally = [] →
    passes [chk (anySlot (begun s w) w && reservedClear w [(0, 1)] && decide (opr w 0 1 < 2)) stBad] →
    exec (.checkpoint id) s = .next (askCheckpoint (updWork (begun s w) w.id fun w => { w with tally := [0] }))) ∧
  (∀ (s : State),
    running s →
    reg s .durCkptCfgInterval ≠ 0 →
    exec .checkpointInterval s = .next (askCheckpoint (fresh s))) ∧
  (∀ (s : State) (trigger : Nat),
    running s →
    trigger < 7 →
    exec (.warningTrigger trigger) s = .next (warn (fresh s) trigger)) ∧
  (∀ (s : State),
    running s →
    s.dur.due ≠ 0 →
    stepFits (fresh s) →
    toAdopt (fresh s) = [] →
    exec .checkpointStart s = .next (runStep (fresh s))) ∧
  (∀ (s : State) (u : State) (id : Nat) (w : Work) (x : Subject) (okA okB bA bB : Bool) (map : MapArg) (recs : List (List Byte)) (c : CkptStep) (y : Subject),
    canRun s id w →
    isFirstMode 0x29 8 2 w →
    ddFull (begun s w) = false →
    passes (restoreChks (begun s w) w) →
    heldFor (begun s w) w.hdr.keySlot (opr w 0 8) = some x →
    x.state = 5 →
    ((pickStep (goodSlots (begun s w) okA okB) (opr w 24 8)).bind (fun c => (c.subjects.find? fun y => y.handle == opr w 0 8).map fun y => (c, y)) = some (c, y)) →
    opr w 9 1 % 2 = 0 →
    (begun s w).dur.fetches = [] →
    (u = restoreEnd (begun s w) w x (broughtBack y) ((c.tiles.filter fun t => t.handle == opr w 0 8).map fun t => { t with lastUse := tick (begun s w), copies := t.copies.filter fun k => k.tier == 4 }) recs c.step) →
    ends u w.id stDone →
    exec (.restoreSession id okA okB bA bB map recs) s = .next u) ∧
  (∀ (s : State) (id : Nat) (w : Work) (okA okB : Bool) (map : MapArg) (tab : List TableArg) (views : List ViewArg) (recs : List (List Byte)) (m : List Byte),
    canRun s id w →
    isMode 0x29 8 1 w →
    ddFull (begun s w) = false →
    passes (takeoverChks (begun s w) w) →
    restoreBuddy (begun s w) w ≠ 0 →
    (peerEntry (begun s w) (restoreBuddy (begun s w) w)).isSome →
    w.tally = [1] →
    (begun s w).dur.fetches = [] →
    pickManifest (begun s w) okA okB (opr w 12 3) (opr w 24 8) = some m →
    missingSlot (begun s w) m = none →
    exec (.restoreTakeover id okA okB map tab views recs) s =
    .next (takeOver (begun s w) w (restoreBuddy (begun s w) w) m map tab views recs)) ∧
  (∀ (s : State) (off : Nat) (body : List Byte),
    running s →
    (s.dur.fetches.any fun f => f.2.2 == off) →
    exec (.fetchReply off body) s =
    .next { (fresh s) with dur := { s.dur with fetches := s.dur.fetches.filter fun f => f.2.2 != off, fetched := aset s.dur.fetched off body } }) ∧
  (∀ (s : State) (path : Path),
    running s →
    s.nv.noStep →
    exec (.discard path) s =
    .next { (fresh s) with nv := { s.nv with noStep := false }, dur := { s.dur with slotA := none, slotB := none } }) ∧
  (∀ (s : State) (handle number corrected : Nat) (t : Tile),
    running s →
    ((keptTiles (fresh s)).find? (fun t => t.handle == handle && t.number == number && hasCopy t 4) = some t) →
    exec (.flashScrub handle number corrected false) s =
    .next (copyFailed { (fresh s) with dur := { s.dur with unscrubbed := s.dur.unscrubbed.filter fun k => k != (handle, number) } } handle number 4 (((t.copies.find? fun c => c.tier == 4).map (·.place)).getD 0))) ∧
  (∀ (s : State) (u : State) (handle number corrected : Nat) (t : Tile),
    running s →
    ((keptTiles (fresh s)).find? (fun t => t.handle == handle && t.number == number && hasCopy t 4) = some t) →
    (u = { (fresh s) with dur := { s.dur with unscrubbed := s.dur.unscrubbed.filter fun k => k != (handle, number) } }) →
    exec (.flashScrub handle number corrected true) s =
    .next (if Config.number s.free < corrected ∧ reg s .durFlashState ≠ 3 then rewritePage (takeFree u) t else takeFree u)) ∧
  (∀ (s : State) (spareLeft used : Nat),
    running s →
    exec (.flashBlockRetire spareLeft used) s =
    .next (flashState { setReg (setReg (fresh s) .durWearSpare (spareLeft % 2 ^ 32)) .durWearUsed (min 255 used) with
      dur := { s.dur with retired := s.dur.retired + 1 } } (flashCode spareLeft used)))

/-- The buddy's stream: records stored, acknowledged, fetched and refused; timeouts, retries, naming and release (R438, R439, R440, R441, R442, R443, R444, R445). -/
def Obligations.StreamCommandsComplete : Prop :=
  (∀ (s : State) (t : State) (pbr org : Nat) (rec r : List Byte),
    running s →
    streamIn (fresh s) pbr rec 0x01 = some (t, org, r) →
    exec (.streamLog pbr rec) s = .next (storeRecord pbr t org r)) ∧
  (∀ (s : State) (t : State) (pbr org : Nat) (rec r : List Byte),
    running s →
    streamIn (fresh s) pbr rec 0x02 = some (t, org, r) →
    exec (.streamOwn pbr rec) s = .next (storeRecord pbr t org r)) ∧
  (∀ (s : State) (t : State) (pbr org : Nat) (rec r : List Byte),
    running s →
    streamIn (fresh s) pbr rec 0x03 = some (t, org, r) →
    exec (.streamLease pbr rec) s = .next (storeRecord pbr t org r)) ∧
  (∀ (s : State) (t : State) (u : State) (pbr org q : Nat) (rec r : List Byte) (steps : List Nat),
    running s →
    streamIn (fresh s) pbr rec 0x04 = some (t, org, r) →
    org = buddy t →
    buddy t ≠ 0 →
    reg t .durBuddyState = 1 →
    q = field r 24 8 →
    (steps = (t.dur.ships.filter fun e => decide (e.1 ≤ q)).map (·.2)) →
    (u = { t with nv := { t.nv with leaseEnd := max t.nv.leaseEnd (leaseOf (t.dur.unacked.filter fun e => decide (e.1 ≤ q))) }, dur := { t.dur with acked := max t.dur.acked q, unacked := t.dur.unacked.filter fun e => decide (q < e.1), ships := t.dur.ships.filter fun e => decide (q < e.1), shipped := steps.foldl max t.dur.shipped, gaps := if steps.isEmpty then t.dur.gaps else [] } }) →
    exec (.streamAck pbr rec) s = .next (goOn (setReg u .durBuddyState 1) q)) ∧
  (∀ (s : State) (t : State) (u : State) (pbr org : Nat) (rec r b : List Byte) (f : Foster),
    running s →
    streamIn (fresh s) pbr rec 0x05 = some (t, org, r) →
    fosterOf t (field r 4 3) = some f →
    f.heard + 1000000 * reg t .durBuddyCfgSilence ≤ t.time →
    u = putFoster t { f with served := f.served || f.pbr != pbr } →
    fetchedObject u f (field r 40 1) (field r 48 8) = some b →
    exec (.streamFetch pbr rec) s = .next (emit (takeFree u) (.aperture org (field r 56 8) b))) ∧
  (∀ (s : State) (t : State) (pbr org : Nat) (rec r : List Byte),
    running s →
    streamIn (fresh s) pbr rec 0x06 = some (t, org, r) →
    field r 40 1 = 1 →
    t.work = [] →
    org = buddy t →
    exec (.streamRefuse pbr rec) s = .next (buddyLost t 3)) ∧
  (∀ (s : State) (u : State) (pbr i org origin seq : Nat) (manifest : List Byte) (f : Foster),
    running s →
    peerOfPbr (fresh s) pbr = some i →
    org = regGet s .cxlPeerMapOrigin i →
    isManifest manifest →
    fosterOf (fresh s) origin = some f →
    f.served = false →
    f.steps = [] →
    manifestTiles manifest = 0 →
    u = putFoster (fresh s) (heardSeq (addStep { f with pbr := pbr } { step := manifestStep manifest, seq := seq, manifest := manifest, images := [] }) seq s.time) →
    exec (.shippedStep pbr origin seq manifest []) s =
    .next (sendAck u org (heardSeq (addStep { f with pbr := pbr } { step := manifestStep manifest, seq := seq, manifest := manifest, images := [] }) seq s.time))) ∧
  (∀ (s : State) (e : Nat × Nat × Nat × Nat) (l : List (Nat × Nat × Nat × Nat)),
    running s →
    s.dur.logBuf = e :: l →
    exec .logRecordFlush s = .next (sendLog (fresh s) e.1)) ∧
  (∀ (s : State),
    running s →
    reg s .durBuddyState = 1 →
    s.dur.ships ≠ [] →
    exec .buddyTimeout s = .next (buddyLost (fresh s) 2)) ∧
  (∀ (s : State),
    running s →
    buddy s ≠ 0 →
    2 ≤ reg s .durBuddyState →
    exec .buddyRetry s = .next (resend (fresh s))) ∧
  (∀ (s : State) (path : Path) (origin : Nat),
    running s →
    exec (.buddyOriginWrite path origin) s = .next (nameBuddy (fresh s) (origin % 2 ^ 24))) ∧
  (∀ (s : State) (path : Path) (origin : Nat),
    running s →
    exec (.fosterRelease path origin) s =
    .next { (fresh s) with dur := { s.dur with fosters := s.dur.fosters.filter fun f => f.origin != origin % 2 ^ 24 } })

/-- A host access to a tile with no verified T1 copy is refused, or waits while the tile comes to the port (R92, R93, R94). -/
def Obligations.HostAccessesMeetTheTile : Prop :=
  ∀ (s : State) (pbr addr h base f k n : Nat) (te : Bool) (t : Tile) (b : Fetch) (a c : Access),
    running s → hostOf (fresh s) pbr = some h → portServes (fresh s) (regGet (fresh s) .cxlHostMapPort h) → suspended (fresh s) h = false →
    aget s.cxl.hdm h = some base → base ≤ addr → windowExists (fresh s) ((addr - base) / 64 * 64 / 2 ^ 30) →
    extentCovers (fresh s) h ((addr - base) / 64 * 64 / 2 ^ 30) → (h, (addr - base) / 64 * 64 / 2 ^ 30) ∉ s.cxl.te →
    spanFrames ((addr - base) / 64 * 64) 64 = [f] →
    a = { host := h, peer := false, off := (addr - base) / 64 * 64, len := 64, write := none, tainted := false, got := [] } →
    c = { a with write := some (lineOf b).1, tainted := (lineOf b).2 } →
    (bindingOf (fresh s) (f / 2 ^ 30) = none → tileAt (fresh s) f = none →
      exec (.hostLoad pbr addr te) s = .next (refuseMedia (fresh s) a 0x0301 0xFFFF 0 [a.off]) ∧
      exec (.hostStore pbr addr te b) s = .next (refuseMedia (fresh s) c 0x0301 0xFFFF 0 [a.off])) ∧
    (∀ (x : Subject) (place : Nat), bindingOf (fresh s) (f / 2 ^ 30) = some (.region k place) → subjAny s k = some x →
      ((tileAt (fresh s) f).bind fun q => tileOf s q.1 q.2).all (fun t => t.version == 0) →
      exec (.hostLoad pbr addr te) s = .next (refuseMedia (fresh s) a 0x0301 x.keySlot x.handle [a.off]) ∧
      exec (.hostStore pbr addr te b) s = .next (refuseMedia (fresh s) c 0x0301 x.keySlot x.handle [a.off])) ∧
    (∀ place, bindingOf (fresh s) (f / 2 ^ 30) = some (.region k place) → tileAt (fresh s) f = some (k, n) → tileOf s k n = some t →
      t.version ≠ 0 → readable s t →
      (t.lodged.isSome ∨ masterTier t = 4 →
        exec (.hostLoad pbr addr te) s = .next (refuseMedia (fresh s) a 0x0303 t.keySlot k [k, n]) ∧
        exec (.hostStore pbr addr te b) s = .next (refuseMedia (fresh s) c 0x0303 t.keySlot k [k, n])) ∧
      (t.lodged = none → masterTier t = 0 →
        exec (.hostLoad pbr addr te) s = .next (refuseMedia (fresh s) a (lostReason t) t.keySlot k [t.layer, n]) ∧
        exec (.hostStore pbr addr te b) s = .next (refuseMedia (fresh s) c (lostReason t) t.keySlot k [t.layer, n])) ∧
      (t.lodged = none → masterTier t = 2 ∨ masterTier t = 3 ∨ masterTier t = 1 ∧ t.verified = false →
        exec (.hostLoad pbr addr te) s = .next (waitAccess (promote (fresh s) t) a) ∧
        exec (.hostStore pbr addr te b) s = .next (waitAccess (promote (fresh s) t) c)))
end

