-- ==== Sys2Proof/Laws/Form.lean ====
section
/-! SUPPORT. What the form that every step keeps asks of an update: one lemma for a record update, and the lemmas of the
lists and the payload cells behind it. -/

namespace Sys2Proof.Laws

open Sys2Proof.Machine Sys2Proof.Safety

/-- A state of a model, with a queue, in the form that every step keeps. -/
structure Kept (m : Model) (p : List Instr) (s : State) : Prop where
  model : s.model = m
  pending : s.pending = p
  form : Formed s

variable {m : Model} {p : List Instr} {s : State}

/-- An update that leaves the model and the queue keeps the form where the parts that the form speaks of keep theirs. -/
theorem Kept.upd
    {regs' : Regs} {power' : Power} {nv' : Nv} {sec' : Sec} {cxl' : Cxl} {ledg' : Ledg} {work' : List Work} {nextId' : Nat}
    {units' : Units} {subjects' : List Subject} {tiles' : List Tile} {windows' : List (Nat × Binding)} {moving' : Moving}
    {dir' : Dir} {models' : List ModelSlot} {vocs' : List Voc} {adm' : Adm} {own' : Own} {dur' : Dur} {flt' : Flt}
    {beds' : List Bed} {obs' : Obs} {time' : Nat} {free' : Nat} {out' : List Out}
    (h : Kept m p s) (h1 : Kept m p s → fieldsFit regs') (h2 : Kept m p s → bedsListed s.model beds')
    (h3 : Kept m p s → planListed s.model nv') (h4 : Kept m p s → payloadsWf tiles')
    (h5 : Kept m p s → payloadsWf own'.lodged) (h6 : Kept m p s → worksWf work') (h7 : Kept m p s → stepsWf dur')
    (h8 : Kept m p s → capturesWf obs') :
    Kept m p {
      model := s.model, regs := regs', power := power', nv := nv', sec := sec', cxl := cxl', ledg := ledg', work := work',
      nextId := nextId', units := units', subjects := subjects', tiles := tiles', windows := windows', moving := moving',
      dir := dir', models := models', vocs := vocs', adm := adm', own := own', dur := dur', flt := flt', beds := beds',
      obs := obs', time := time', free := free', out := out', pending := s.pending } :=
  ⟨h.model, h.pending, ⟨h1 h, h2 h, h3 h, h4 h, h5 h, h6 h, h7 h, h8 h⟩⟩

/-! ### The parts of the form, as an update asks for them -/

theorem regs_of (h : Kept m p s) : fieldsFit s.regs := h.form.regs

theorem beds_of (h : Kept m p s) : bedsListed s.model s.beds := h.form.beds

theorem plan_of (h : Kept m p s) : planListed s.model s.nv := h.form.plan

theorem tiles_of (h : Kept m p s) : payloadsWf s.tiles := h.form.tiles

theorem lodged_of (h : Kept m p s) : payloadsWf s.own.lodged := h.form.lodged

theorem work_of (h : Kept m p s) : worksWf s.work := h.form.work

theorem steps_of (h : Kept m p s) : stepsWf s.dur := h.form.steps

theorem captures_of (h : Kept m p s) : capturesWf s.obs := h.form.captures

/-- A run that answers a pair: what holds of its first part holds of the state that a match names. -/
theorem Kept.of_fst {β : Type} {q : State × β} {t : State} {b : β} (e : q = (t, b)) (h : Kept m p q.1) : Kept m p t := by
  subst e; exact h

/-- The same for a run that may answer nothing. -/
theorem Kept.of_some {q : Option State} {t : State} (e : q = some t) (h : ∀ t, q = some t → Kept m p t) : Kept m p t := h t e

/-- Both branches of a choice keep the form. -/
theorem Kept.ite {c : Prop} [Decidable c] {a b : State} (ha : c → Kept m p a) (hb : ¬c → Kept m p b) :
    Kept m p (if c then a else b) := by
  split
  · exact ha (by assumption)
  · exact hb (by assumption)

/-- What is done where there is something keeps the form. -/
theorem Kept.elim {α : Type} {f : α → State} {o : Option α} (h : Kept m p s) (hf : ∀ a, o = some a → Kept m p (f a)) :
    Kept m p (o.elim s f) := by
  cases o with
  | none => exact h
  | some a => exact hf a rfl

/-- A fold keeps what each step of it keeps. -/
theorem Kept.fold {α : Type} {f : State → α → State} (hf : ∀ s a, Kept m p s → Kept m p (f s a)) :
    ∀ (l : List α) {s : State}, Kept m p s → Kept m p (l.foldl f s)
  | [], _, h => h
  | a :: l, _, h => Kept.fold hf l (hf _ a h)

/-- A fold keeps what each step of it keeps, for elements that meet a condition. -/
theorem Kept.fold_mem {α : Type} {f : State → α → State} {P : α → Prop} (hf : ∀ s a, P a → Kept m p s → Kept m p (f s a)) :
    ∀ (l : List α) {s : State}, (∀ a ∈ l, P a) → Kept m p s → Kept m p (l.foldl f s)
  | [], _, _, h => h
  | a :: l, _, hl, h =>
    Kept.fold_mem hf l (fun b hb => hl b (List.mem_cons_of_mem _ hb)) (hf _ a (hl a (List.mem_cons_self ..)) h)

/-- A fold whose running value carries the state first. -/
theorem Kept.foldPair {α β : Type} {f : State × β → α → State × β} (hf : ∀ r a, Kept m p r.1 → Kept m p (f r a).1) :
    ∀ {l : List α} {b : State × β}, Kept m p b.1 → Kept m p (l.foldl f b).1
  | [], _, h => h
  | a :: l, b, h => Kept.foldPair (l := l) hf (hf b a h)

/-- A fold over tiles in canonical form. -/
theorem Kept.foldTiles {f : State → Tile → State} {l : List Tile} {s : State}
    (hf : ∀ s a, cellsWf a.payload = true → Kept m p s → Kept m p (f s a)) (hl : payloadsWf l) (h : Kept m p s) :
    Kept m p (l.foldl f s) := Kept.fold_mem hf l hl h

/-- A fold over effects whose tiles are in canonical form. -/
theorem Kept.foldEffects {f : State → Effect → State} {l : List Effect} {s : State}
    (hf : ∀ s a, effectWf a → Kept m p s → Kept m p (f s a)) (hl : effectsWf l) (h : Kept m p s) :
    Kept m p (l.foldl f s) := Kept.fold_mem hf l hl h

/-- A fold over works whose tiles are in canonical form. -/
theorem Kept.foldWorks {f : State → Work → State} {l : List Work} {s : State}
    (hf : ∀ s a, effectsWf a.effects → Kept m p s → Kept m p (f s a)) (hl : worksWf l) (h : Kept m p s) :
    Kept m p (l.foldl f s) := Kept.fold_mem hf l hl h

/-! ### Payload cells -/

theorem cellsAbove_mono {lo lo' : Nat} (hl : lo' ≤ lo) : ∀ {c : List Host.Cell}, cellsAbove lo c = true → cellsAbove lo' c = true
  | [], _ => rfl
  | (k, v) :: t, h => by
    simp only [cellsAbove, Bool.and_eq_true, decide_eq_true_eq] at h ⊢
    exact ⟨⟨by omega, h.1.2⟩, h.2⟩

theorem cellsAbove_set {lo a : Nat} {v : Byte} (ha : lo ≤ a) :
    ∀ {c : List Host.Cell}, cellsAbove lo c = true → cellsAbove lo (cellSet c a v) = true
  | [], _ => by
    unfold cellSet
    split
    · rfl
    · rename_i hv
      simp only [cellsAbove, Bool.and_eq_true, decide_eq_true_eq]
      exact ⟨⟨ha, hv⟩, trivial⟩
  | (k, w) :: t, h => by
    simp only [cellsAbove, Bool.and_eq_true, decide_eq_true_eq] at h
    obtain ⟨⟨h1, h2⟩, h3⟩ := h
    unfold cellSet
    split
    · split
      · simp only [cellsAbove, Bool.and_eq_true, decide_eq_true_eq]
        exact ⟨⟨h1, h2⟩, h3⟩
      · rename_i hk hv
        simp only [cellsAbove, Bool.and_eq_true, decide_eq_true_eq]
        exact ⟨⟨ha, hv⟩, ⟨⟨by omega, h2⟩, h3⟩⟩
    · split
      · split
        · exact cellsAbove_mono (by omega) h3
        · rename_i hk hv
          subst hk
          simp only [cellsAbove, Bool.and_eq_true, decide_eq_true_eq]
          exact ⟨⟨ha, hv⟩, h3⟩
      · simp only [cellsAbove, Bool.and_eq_true, decide_eq_true_eq]
        exact ⟨⟨h1, h2⟩, cellsAbove_set (by omega) h3⟩

/-- Writing one byte keeps the canonical form. -/
theorem cellSet_wf {c : List Host.Cell} {a : Nat} {v : Byte} (h : cellsWf c = true) : cellsWf (cellSet c a v) = true :=
  cellsAbove_set (Nat.zero_le _) h

/-- Writing bytes keeps the canonical form. -/
theorem cellWrite_wf : ∀ {b : List Byte} {c : List Host.Cell} {a : Nat}, cellsWf c = true → cellsWf (cellWrite c a b) = true
  | [], _, _, h => h
  | _ :: b, _, _, h => cellWrite_wf (b := b) (cellSet_wf h)

/-- The cells of given bytes are in canonical form. -/
theorem cellsOf_wf {b : List Byte} : cellsWf (cellsOf b) = true := cellWrite_wf rfl

/-- A tile number that was never written has no cells. -/
theorem cellsWf_blank {h n slot : Nat} : cellsWf (blankTile h n slot).payload = true := rfl

theorem cellsWf_ite {c : Prop} [Decidable c] {a b : List Host.Cell} (ha : cellsWf a = true) (hb : cellsWf b = true) :
    cellsWf (if c then a else b) = true := by
  split
  · exact ha
  · exact hb

/-! ### Lists of tiles, of work and of fields -/

theorem payloadsWf_nil : payloadsWf [] := fun _ h => by cases h

theorem payloadsWf_cons {t : Tile} {l : List Tile} (ht : cellsWf t.payload = true) (h : payloadsWf l) : payloadsWf (t :: l) :=
  fun x hx => by
    cases List.mem_cons.1 hx with
    | inl e => subst e; exact ht
    | inr e => exact h x e

theorem payloadsWf_append {l k : List Tile} (hl : payloadsWf l) (hk : payloadsWf k) : payloadsWf (l ++ k) := fun x hx => by
  cases List.mem_append.1 hx with
  | inl e => exact hl x e
  | inr e => exact hk x e

theorem payloadsWf_filter {l : List Tile} {q : Tile → Bool} (h : payloadsWf l) : payloadsWf (l.filter q) :=
  fun x hx => h x (List.mem_filter.1 hx).1

theorem payloadsWf_map {α : Type} {l : List α} {f : α → Tile} (h : ∀ a ∈ l, cellsWf (f a).payload = true) : payloadsWf (l.map f) := by
  intro x hx
  obtain ⟨a, ha, rfl⟩ := List.mem_map.1 hx
  exact h a ha

theorem payloadsWf_updIf {l : List Tile} {q : Tile → Bool} {f : Tile → Tile} (h : payloadsWf l)
    (hf : ∀ t, cellsWf t.payload = true → cellsWf (f t).payload = true) : payloadsWf (updIf q f l) := by
  refine payloadsWf_map fun t ht => ?_
  split
  · exact hf t (h t ht)
  · exact h t ht

theorem payloadsWf_find {l : List Tile} {q : Tile → Bool} {t : Tile} (h : payloadsWf l) (e : l.find? q = some t) :
    cellsWf t.payload = true := h t (List.mem_of_find?_eq_some e)

/-- A tile found by its name has a payload in canonical form. -/
theorem Kept.tile {h n : Nat} {t : Tile} (k : Kept m p s) (e : tileOf s h n = some t) : cellsWf t.payload = true :=
  payloadsWf_find k.form.tiles e

theorem effectsWf_nil : effectsWf [] := fun _ h => by cases h

theorem effectsWf_cons {e : Effect} {l : List Effect} (he : effectWf e) (h : effectsWf l) : effectsWf (e :: l) :=
  fun x hx => by
    cases List.mem_cons.1 hx with
    | inl e => subst e; exact he
    | inr e => exact h x e

theorem effectsWf_append {l k : List Effect} (hl : effectsWf l) (hk : effectsWf k) : effectsWf (l ++ k) := fun x hx => by
  cases List.mem_append.1 hx with
  | inl e => exact hl x e
  | inr e => exact hk x e

theorem effectsWf_filter {l : List Effect} {q : Effect → Bool} (h : effectsWf l) : effectsWf (l.filter q) :=
  fun x hx => h x (List.mem_filter.1 hx).1

theorem effectsWf_map {α : Type} {l : List α} {f : α → Effect} (h : ∀ a ∈ l, effectWf (f a)) : effectsWf (l.map f) := by
  intro x hx
  obtain ⟨a, ha, rfl⟩ := List.mem_map.1 hx
  exact h a ha

theorem effectsWf_flatMap {α : Type} {l : List α} {f : α → List Effect} (h : ∀ a ∈ l, effectsWf (f a)) :
    effectsWf (l.flatMap f) := by
  intro x hx
  obtain ⟨a, ha, hx⟩ := List.mem_flatMap.1 hx
  exact h a ha x hx

theorem effectsWf_filterMap {α : Type} {l : List α} {f : α → Option Effect} (h : ∀ a ∈ l, ∀ e, f a = some e → effectWf e) :
    effectsWf (l.filterMap f) := by
  intro x hx
  obtain ⟨a, ha, e⟩ := List.mem_filterMap.1 hx
  exact h a ha x e

theorem payloadsWf_flatMap {α : Type} {l : List α} {f : α → List Tile} (h : ∀ a ∈ l, payloadsWf (f a)) :
    payloadsWf (l.flatMap f) := by
  intro x hx
  obtain ⟨a, ha, hx⟩ := List.mem_flatMap.1 hx
  exact h a ha x hx

theorem payloadsWf_filterMap {α : Type} {l : List α} {f : α → Option Tile}
    (h : ∀ a ∈ l, ∀ t, f a = some t → cellsWf t.payload = true) : payloadsWf (l.filterMap f) := by
  intro x hx
  obtain ⟨a, ha, e⟩ := List.mem_filterMap.1 hx
  exact h a ha x e

theorem slotWf_none : slotWf none := fun _ e => by cases e

theorem capturesWf_filter {o : Obs} {q : Capture → Bool} {r : List TraceRec} {a b e f g j : Nat} {k : Int} {x : List Arm}
    (h : capturesWf o) :
    capturesWf { ring := r, seq := a, level := k, rate := b, arms := x, captures := o.captures.filter q, lost := e, lostFirst := f,
                 lostLast := g, lostSeen := j } :=
  fun c hc => h c (List.mem_filter.1 hc).1

theorem worksWf_nil : worksWf [] := fun _ h => by cases h

theorem worksWf_cons {w : Work} {l : List Work} (hw : effectsWf w.effects) (h : worksWf l) : worksWf (w :: l) :=
  fun x hx => by
    cases List.mem_cons.1 hx with
    | inl e => subst e; exact hw
    | inr e => exact h x e

theorem worksWf_map {α : Type} {l : List α} {f : α → Work} (h : ∀ a ∈ l, effectsWf (f a).effects) : worksWf (l.map f) := by
  intro x hx
  obtain ⟨a, ha, rfl⟩ := List.mem_map.1 hx
  exact h a ha

theorem worksWf_filter {l : List Work} {q : Work → Bool} (h : worksWf l) : worksWf (l.filter q) :=
  fun x hx => h x (List.mem_filter.1 hx).1

theorem worksWf_append {l k : List Work} (hl : worksWf l) (hk : worksWf k) : worksWf (l ++ k) := fun x hx => by
  cases List.mem_append.1 hx with
  | inl e => exact hl x e
  | inr e => exact hk x e

theorem worksWf_updIf {l : List Work} {q : Work → Bool} {f : Work → Work} (h : worksWf l)
    (hf : ∀ w, effectsWf w.effects → effectsWf (f w).effects) : worksWf (updIf q f l) := by
  intro x hx
  obtain ⟨a, ha, rfl⟩ := List.mem_map.1 hx
  split
  · exact hf a (h a ha)
  · exact h a ha

theorem mem_insertKey {α : Type} {key : α → Nat} {x y : α} : ∀ {l : List α}, y ∈ insertKey key x l → y = x ∨ y ∈ l
  | [], h => by simpa [insertKey] using h
  | a :: l, h => by
    unfold insertKey at h
    split at h
    · exact List.mem_cons.1 h
    · cases List.mem_cons.1 h with
      | inl e => exact .inr (e ▸ List.mem_cons_self ..)
      | inr e =>
        cases mem_insertKey e with
        | inl e => exact .inl e
        | inr e => exact .inr (List.mem_cons_of_mem _ e)

theorem mem_foldl_insertKey {α : Type} {key : α → Nat} {y : α} :
    ∀ {l acc : List α}, y ∈ l.foldl (fun acc x => insertKey key x acc) acc → y ∈ acc ∨ y ∈ l
  | [], _, h => .inl h
  | a :: l, acc, h => by
    cases mem_foldl_insertKey (l := l) h with
    | inl e =>
      cases mem_insertKey e with
      | inl e => exact .inr (e ▸ List.mem_cons_self ..)
      | inr e => exact .inl e
    | inr e => exact .inr (List.mem_cons_of_mem _ e)

/-- Sorting adds no element. -/
theorem mem_sortKey {α : Type} {key : α → Nat} {l : List α} {y : α} (h : y ∈ sortKey key l) : y ∈ l := by
  cases mem_foldl_insertKey h with
  | inl e => cases e
  | inr e => exact e

/-- The element with the largest key is one of the list. -/
theorem mem_bestBy {α : Type} {key : α → Nat} {y : α} : ∀ {l : List α}, bestBy key l = some y → y ∈ l
  | [], h => by cases h
  | a :: l, h => by
    unfold bestBy at h
    split at h
    · cases h; exact List.mem_cons_self ..
    · rename_i b e
      split at h
      · cases h; exact List.mem_cons_of_mem _ (mem_bestBy e)
      · cases h; exact List.mem_cons_self ..

theorem payloadsWf_sortKey {l : List Tile} {key : Tile → Nat} (h : payloadsWf l) : payloadsWf (sortKey key l) :=
  fun x hx => h x (mem_sortKey hx)

theorem payloadsWf_take {l : List Tile} {n : Nat} (h : payloadsWf l) : payloadsWf (l.take n) :=
  fun x hx => h x (List.mem_of_mem_take hx)

theorem tilesOf_wf {h : Nat} (k : Kept m p s) : payloadsWf (tilesOf s h) := payloadsWf_filter k.form.tiles

theorem worksWf_change {l : List Work} {f : Work → Work} (h : worksWf l)
    (hf : ∀ w, effectsWf w.effects → effectsWf (f w).effects) : worksWf (l.map f) := worksWf_map fun a ha => hf a (h a ha)

theorem payloadsWf_change {l : List Tile} {f : Tile → Tile} (h : payloadsWf l)
    (hf : ∀ t, cellsWf t.payload = true → cellsWf (f t).payload = true) : payloadsWf (l.map f) :=
  payloadsWf_map fun a ha => hf a (h a ha)

/-- A work that is found has effects whose tiles are in canonical form. -/
theorem Kept.effects {id : Nat} {w : Work} (k : Kept m p s) (e : workOf s id = some w) : effectsWf w.effects :=
  k.form.work w (List.mem_of_find?_eq_some e)

theorem fieldsFit_aset {r : Regs} {f : Fld} {i v : Nat} (h : fieldsFit r) :
    fieldsFit { r with cells := aset r.cells (f, i) (v % 2 ^ fldBits f) } := by
  intro c hc
  rcases hc with hc | hc
  · cases List.mem_cons.1 hc with
    | inl e => subst e; exact Nat.mod_lt _ (Nat.two_pow_pos _)
    | inr e => exact h c (.inl (List.mem_filter.1 e).1)
  · exact h c (.inr hc)

theorem fieldsFit_filter {r : Regs} {q : (Fld × Nat) × Nat → Bool} {l : List (Nat × Nat × Nat)} {k : List (Nat × Nat × Nat)}
    {o : List (Nat × Nat × Nat)} (h : fieldsFit r) :
    fieldsFit { cells := r.cells.filter q, applied := r.applied, latch := l, staged := k, sample := o } := by
  intro c hc
  rcases hc with hc | hc
  · exact h c (.inl (List.mem_filter.1 hc).1)
  · exact h c (.inr hc)

theorem bedsListed_map {k : Model} {l : List Bed} {f : Bed → Bed} (h : bedsListed k l) (hf : ∀ b, (f b).no = b.no) :
    bedsListed k (l.map f) := by
  unfold bedsListed at h ⊢
  rw [← h, List.map_map]
  exact List.map_congr_left fun b _ => hf b

theorem bedsListed_updIf {k : Model} {l : List Bed} {q : Bed → Bool} {f : Bed → Bed} (h : bedsListed k l)
    (hf : ∀ b, q b = true → (f b).no = b.no) : bedsListed k (updIf q f l) :=
  bedsListed_map h fun b => by
    split
    · exact hf b (by assumption)
    · rfl

end Sys2Proof.Laws
end

