-- ==== Sys2Proof/Laws/KeptOps.lean ====
section
/-! SUPPORT. Every operation and meaning of Machine/Ops.lean keeps the form. -/

namespace Sys2Proof.Laws

open Sys2Proof Sys2Proof.Machine Sys2Proof.Safety

variable {m : Model} {p : List Instr}

theorem regSet_kept {s : State} {f : Fld} {i v : Nat} (h : Kept m p s) : Kept m p (regSet s f i v) := by
  unfold regSet
  exact Kept.upd h (fun k => fieldsFit_aset k.form.regs) beds_of plan_of tiles_of lodged_of work_of steps_of captures_of

theorem setReg_kept
    {s : State} {f : Sys2Proof.Fld} {v : Nat} (h : Kept m p s) :
    Kept m p (setReg s f v) := by
  unfold setReg
  apply regSet_kept
  assumption

theorem regAdd_kept
    {s : State} {f : Sys2Proof.Fld} {i : Nat} {n : Nat} {w : Nat} (h : Kept m p s) :
    Kept m p (regAdd s f i n w) := by
  unfold regAdd
  apply regSet_kept
  assumption

theorem emit_kept
    {s : State} {o : Out} (h : Kept m p s) :
    Kept m p (emit s o) := by
  unfold emit
  refine Kept.upd ?_ regs_of beds_of plan_of tiles_of lodged_of work_of steps_of captures_of
  assumption

theorem takeFree_kept
    {s : State} (h : Kept m p s) :
    Kept m p (takeFree s) := by
  unfold takeFree
  refine Kept.upd ?_ regs_of beds_of plan_of tiles_of lodged_of work_of steps_of captures_of
  assumption

theorem raiseAt_kept
    {s : State} {p1 : Nat} {n : Nat} (h : Kept m p s) :
    Kept m p (raiseAt s p1 n) := by
  unfold raiseAt
  refine Kept.ite (fun _ => ?_) (fun _ => ?_)
  · refine Kept.upd ?_ regs_of beds_of plan_of tiles_of lodged_of work_of steps_of captures_of
    assumption
  · apply emit_kept
    assumption

theorem raiseVector_kept
    {s : State} {n : Nat} (h : Kept m p s) :
    Kept m p (raiseVector s n) := by
  unfold raiseVector
  apply raiseAt_kept
  apply raiseAt_kept
  assumption

theorem raiseClass_kept
    {s : State} {c : Nat} (h : Kept m p s) :
    Kept m p (raiseClass s c) := by
  unfold raiseClass
  dsimp only
  apply regAdd_kept
  refine Kept.ite (fun _ => ?_) (fun _ => ?_)
  · assumption
  · apply setReg_kept
    assumption

theorem setLast_kept
    {s : State} {c : Nat} {loc : Nat} {ns : Nat} (h : Kept m p s) :
    Kept m p (setLast s c loc ns) := by
  unfold setLast
  apply setReg_kept
  apply setReg_kept
  apply setReg_kept
  assumption

theorem eventAt_kept
    {s : State} {sev : Nat} {reason : Nat} {cls : Nat} {slot : Nat} {handle : Nat} {loc : Nat} {arg : List Nat}
    (h : Kept m p s) :
    Kept m p (eventAt s sev reason cls slot handle loc arg) := by
  unfold eventAt
  dsimp only
  refine Kept.ite (fun _ => ?_) (fun _ => ?_)
  · apply raiseVector_kept
    refine Kept.ite (fun _ => ?_) (fun _ => ?_)
    · refine Kept.upd ?_ regs_of beds_of plan_of tiles_of lodged_of work_of steps_of captures_of
      assumption
    · refine Kept.upd ?_ regs_of beds_of plan_of tiles_of lodged_of work_of steps_of captures_of
      assumption
  · refine Kept.ite (fun _ => ?_) (fun _ => ?_)
    · refine Kept.upd ?_ regs_of beds_of plan_of tiles_of lodged_of work_of steps_of captures_of
      assumption
    · refine Kept.upd ?_ regs_of beds_of plan_of tiles_of lodged_of work_of steps_of captures_of
      assumption

theorem event_kept
    {s : State} {reason : Nat} {cls : Nat} {slot : Nat} {handle : Nat} {loc : Nat} {arg : List Nat} (h : Kept m p s) :
    Kept m p (event s reason cls slot handle loc arg) := by
  unfold event
  dsimp only
  refine Kept.ite (fun _ => ?_) (fun _ => ?_)
  · apply eventAt_kept
    assumption
  · apply eventAt_kept
    apply eventAt_kept
    assumption

theorem note_kept
    {s : State} {reason : Nat} (h : Kept m p s) :
    Kept m p (note s reason) := by
  unfold note
  apply event_kept
  assumption

theorem countAll_kept
    {s : State} {source : Nat} {filter : Nat} {bed : Nat} {unit : Nat} {slot : Nat} {port : Nat} {n : Nat}
    (h : Kept m p s) :
    Kept m p (countAll s source filter bed unit slot port n) := by
  unfold countAll
  dsimp only
  apply Kept.fold
  · intro _ _ _
    refine Kept.ite (fun _ => ?_) (fun _ => ?_)
    · apply regAdd_kept
      assumption
    · assumption
  · assumption

theorem traceLost_kept
    {s : State} {n : Nat} (h : Kept m p s) :
    Kept m p (traceLost s n) := by
  unfold traceLost
  dsimp only
  apply regAdd_kept
  refine Kept.upd ?_ regs_of beds_of plan_of tiles_of lodged_of work_of steps_of captures_of
  assumption

theorem makeRoom_kept {k n : Nat} {s : State} (h : Kept m p s) : Kept m p (makeRoom k s n) := by
  induction k generalizing s with
  | zero => exact h
  | succ k ih =>
    unfold makeRoom
    refine Kept.ite (fun _ => ?_) (fun _ => ?_)
    · assumption
    · split
      · assumption
      · apply ih
        apply traceLost_kept
        refine Kept.upd ?_ regs_of beds_of plan_of tiles_of lodged_of work_of steps_of captures_of
        assumption

theorem putTrace_kept
    {s : State} {type : Nat} {flags : Nat} {slot : Nat} {bed : Nat} {handle : Nat} {exempt : Bool}
    {body : List Sys2Proof.Byte} {payload : List Sys2Proof.Byte} (h : Kept m p s) :
    Kept m p (putTrace s type flags slot bed handle exempt body payload) := by
  unfold putTrace
  dsimp only
  refine Kept.upd ?_ regs_of beds_of plan_of tiles_of lodged_of work_of steps_of captures_of
  assumption

theorem flushLoss_kept
    {s : State} (h : Kept m p s) :
    Kept m p (flushLoss s) := by
  unfold flushLoss
  refine Kept.ite (fun _ => ?_) (fun _ => ?_)
  · assumption
  · dsimp only
    refine Kept.upd ?_ regs_of beds_of plan_of tiles_of lodged_of work_of steps_of captures_of
    apply putTrace_kept
    apply makeRoom_kept
    assumption

theorem trace_kept
    {s : State} {type : Nat} {flags : Nat} {slot : Nat} {bed : Nat} {handle : Nat} {exempt : Bool}
    {body : List Sys2Proof.Byte} {payload : List Sys2Proof.Byte} (h : Kept m p s) :
    Kept m p (trace s type flags slot bed handle exempt body payload) := by
  unfold trace
  dsimp only
  refine Kept.ite (fun _ => ?_) (fun _ => ?_)
  · apply putTrace_kept
    apply flushLoss_kept
    apply makeRoom_kept
    assumption
  · refine Kept.ite (fun _ => ?_) (fun _ => ?_)
    · apply traceLost_kept
      assumption
    · apply putTrace_kept
      refine Kept.upd ?_ regs_of beds_of plan_of tiles_of lodged_of work_of steps_of captures_of
      apply flushLoss_kept
      assumption

theorem updSubj_kept
    {s : State} {h1 : Nat} {f : Subject → Subject} (h : Kept m p s) :
    Kept m p (updSubj s h1 f) := by
  unfold updSubj
  refine Kept.upd ?_ regs_of beds_of plan_of tiles_of lodged_of work_of steps_of captures_of
  assumption

theorem updTile_kept
    {s : State} {h1 : Nat} {n : Nat} {f : Tile → Tile} (h : Kept m p s)
    (hf : ∀ t, cellsWf t.payload = true → cellsWf (f t).payload = true) :
    Kept m p (updTile s h1 n f) := by
  unfold updTile
  refine Kept.upd ?_ regs_of beds_of plan_of ?_ lodged_of work_of steps_of captures_of
  · assumption
  · exact fun k => payloadsWf_updIf k.form.tiles (by assumption)

theorem putTile_kept
    {s : State} {t : Tile} (h : Kept m p s) (ht : cellsWf t.payload = true) :
    Kept m p (putTile s t) := by
  unfold putTile
  refine Kept.upd ?_ regs_of beds_of plan_of ?_ lodged_of work_of steps_of captures_of
  · assumption
  · exact fun k => payloadsWf_cons (by assumption) (payloadsWf_filter k.form.tiles)

theorem assignVersion_kept {s : State} {h1 n slot : Nat} (h : Kept m p s) : Kept m p (assignVersion s h1 n slot) := by
  unfold assignVersion
  refine putTile_kept h ?_
  dsimp only
  split
  · exact cellsWf_blank
  · exact h.tile (by assumption)

theorem useTile_kept
    {s : State} {h1 : Nat} {n : Nat} (h : Kept m p s) :
    Kept m p (useTile s h1 n) := by
  unfold useTile
  apply updTile_kept
  · assumption
  · exact fun t ht => ht

theorem tracePeer_kept
    {s : State} {type : Nat} {org : Nat} {channel : Nat} {mtype : Nat} {seq : Nat} (h : Kept m p s) :
    Kept m p (tracePeer s type org channel mtype seq) := by
  unfold tracePeer
  refine Kept.ite (fun _ => ?_) (fun _ => ?_)
  · apply trace_kept
    assumption
  · assumption

theorem sendPeer_kept
    {s : State} {dest : Nat} {type : Nat} {epoch : Nat} {handle : Nat} {arg : Nat} {reply : Nat} {hi : Nat}
    (h : Kept m p s) :
    Kept m p (sendPeer s dest type epoch handle arg reply hi) := by
  unfold sendPeer
  split
  · assumption
  · dsimp only
    apply tracePeer_kept
    apply emit_kept
    refine Kept.upd ?_ regs_of beds_of plan_of tiles_of lodged_of work_of steps_of captures_of
    assumption

theorem sendNotice_kept
    {s : State} {type : Nat} {epoch : Nat} {handle : Nat} {arg : Nat} (h : Kept m p s) :
    Kept m p (sendNotice s type epoch handle arg) := by
  unfold sendNotice
  dsimp only
  apply emit_kept
  refine Kept.upd ?_ regs_of beds_of plan_of tiles_of lodged_of work_of steps_of captures_of
  assumption

theorem sendStream_kept
    {s : State} {type : Nat} {count : Nat} {slot : Nat} {handle : Nat} {first : Nat} {body : List Sys2Proof.Byte}
    (h : Kept m p s) :
    Kept m p (sendStream s type count slot handle first body) := by
  unfold sendStream
  refine Kept.ite (fun _ => ?_) (fun _ => ?_)
  · assumption
  · dsimp only
    refine Kept.ite (fun _ => ?_) (fun _ => ?_)
    · apply tracePeer_kept
      apply emit_kept
      refine Kept.upd ?_ regs_of beds_of plan_of tiles_of lodged_of work_of steps_of captures_of
      assumption
    · refine Kept.upd ?_ regs_of beds_of plan_of tiles_of lodged_of work_of steps_of captures_of
      assumption

theorem setOwn_kept
    {s : State} {h1 : Nat} {o : OwnRec} {notice : Nat} (h : Kept m p s) :
    Kept m p (setOwn s h1 o notice) := by
  unfold setOwn
  dsimp only
  apply sendStream_kept
  apply sendNotice_kept
  apply updSubj_kept
  assumption

theorem act_kept {s : State} {f : State → State} (h : Kept m p s) (hf : ∀ s, Kept m p s → Kept m p (f s)) :
    ∃ t, act s f = .next t ∧ Kept m p t := by
  refine ⟨_, rfl, hf _ ?_⟩
  exact Kept.upd h regs_of beds_of plan_of tiles_of lodged_of work_of steps_of captures_of

theorem whenRunning_kept
    {f : State → State} {s : State} (h : Kept m p s) (hf : ∀ x0, Kept m p x0 → Kept m p (f x0)) :
    Kept m p (whenRunning f s) := by
  unfold whenRunning
  refine Kept.ite (fun _ => ?_) (fun _ => ?_)
  · apply hf
    assumption
  · assumption

theorem idle_kept
    {s : State} (h : Kept m p s) :
    Kept m p (idle s) := by
  unfold idle
  refine Kept.ite (fun _ => ?_) (fun _ => ?_)
  · refine Kept.upd ?_ regs_of beds_of plan_of tiles_of lodged_of work_of steps_of captures_of
    assumption
  · refine Kept.upd ?_ regs_of beds_of plan_of tiles_of lodged_of work_of steps_of captures_of
    assumption

end Sys2Proof.Laws
end

