-- ==== Sys2Proof/Laws/KeptOperands.lean ====
section
/-! SUPPORT. Every operation and meaning of Machine/Operands.lean keeps the form. -/

namespace Sys2Proof.Laws

open Sys2Proof Sys2Proof.Machine Sys2Proof.Safety

variable {m : Model} {p : List Instr}

theorem countDispatch_kept
    {s : State} {q : Nat} {w : Work} (h : Kept m p s) :
    Kept m p (countDispatch s q w) := by
  unfold countDispatch
  dsimp only
  refine Kept.ite (fun _ => ?_) (fun _ => ?_)
  · apply regAdd_kept
    apply regSet_kept
    apply regSet_kept
    refine Kept.ite (fun _ => ?_) (fun _ => ?_)
    · apply regSet_kept
      refine Kept.ite (fun _ => ?_) (fun _ => ?_)
      · apply regSet_kept
        refine Kept.upd ?_ regs_of beds_of plan_of tiles_of lodged_of work_of steps_of captures_of
        assumption
      · refine Kept.upd ?_ regs_of beds_of plan_of tiles_of lodged_of work_of steps_of captures_of
        assumption
    · refine Kept.ite (fun _ => ?_) (fun _ => ?_)
      · apply regSet_kept
        refine Kept.upd ?_ regs_of beds_of plan_of tiles_of lodged_of work_of steps_of captures_of
        assumption
      · refine Kept.upd ?_ regs_of beds_of plan_of tiles_of lodged_of work_of steps_of captures_of
        assumption
  · refine Kept.ite (fun _ => ?_) (fun _ => ?_)
    · apply regSet_kept
      refine Kept.ite (fun _ => ?_) (fun _ => ?_)
      · apply regSet_kept
        refine Kept.upd ?_ regs_of beds_of plan_of tiles_of lodged_of work_of steps_of captures_of
        assumption
      · refine Kept.upd ?_ regs_of beds_of plan_of tiles_of lodged_of work_of steps_of captures_of
        assumption
    · refine Kept.ite (fun _ => ?_) (fun _ => ?_)
      · apply regSet_kept
        refine Kept.upd ?_ regs_of beds_of plan_of tiles_of lodged_of work_of steps_of captures_of
        assumption
      · refine Kept.upd ?_ regs_of beds_of plan_of tiles_of lodged_of work_of steps_of captures_of
        assumption

theorem updWork_kept
    {s : State} {id : Nat} {f : Work → Work} (h : Kept m p s) (hf : ∀ w, effectsWf w.effects → effectsWf (f w).effects) :
    Kept m p (updWork s id f) := by
  unfold updWork
  refine Kept.upd ?_ regs_of beds_of plan_of tiles_of lodged_of ?_ steps_of captures_of
  · assumption
  · exact fun k => worksWf_updIf k.form.work (by assumption)

theorem finish_kept {s : State} {id status : Nat} {result : List Byte} {effects : List Effect} (h : Kept m p s)
    (he : effectsWf effects) : Kept m p (finish s id status result effects) := by
  unfold finish
  refine Kept.upd h regs_of beds_of plan_of tiles_of lodged_of (fun k => ?_) steps_of captures_of
  exact worksWf_append (worksWf_filter k.form.work) (worksWf_map fun _ _ => he)

theorem fail_kept
    {s : State} {id : Nat} {status : Nat} (h : Kept m p s) :
    Kept m p (fail s id status) := by
  unfold fail
  apply finish_kept
  · assumption
  · exact effectsWf_nil

theorem failAll_kept
    {s : State} {p1 : Work → Bool} {status : Nat} (h : Kept m p s) :
    Kept m p (failAll s p1 status) := by
  unfold failAll
  apply Kept.fold
  · intro _ _ _
    apply fail_kept
    assumption
  · assumption

end Sys2Proof.Laws
end

