-- ==== Sys2Proof/Laws/KeptFlags.lean ====
section
/-! SUPPORT. Every operation and meaning of Machine/Flags.lean keeps the form. -/

namespace Sys2Proof.Laws

open Sys2Proof Sys2Proof.Machine Sys2Proof.Safety

variable {m : Model} {p : List Instr}

theorem countReg_kept
    {s : State} {f : Sys2Proof.Fld} {i : Nat} {n : Nat} (h : Kept m p s) :
    Kept m p (countReg s f i n) := by
  unfold countReg
  apply regAdd_kept
  assumption

theorem updBed_kept {s : State} {b : Nat} {f : Bed → Bed} (h : Kept m p s) (hf : ∀ x, (x.no == b) = true → (f x).no = x.no) :
    Kept m p (updBed s b f) :=
  Kept.upd h regs_of (fun k => bedsListed_updIf k.form.beds hf) plan_of tiles_of lodged_of work_of steps_of captures_of

/-- A bed found by its number has it. -/
theorem bedRec_no {s : State} {k : Nat} {b : Bed} (e : bedRec s k = some b) : b.no = k := by
  have h := List.find?_some e
  simpa using h

theorem setBed_kept {s : State} {k : Nat} {f : Bed → Bed} (h : Kept m p s) (hf : ∀ b, (f b).no = b.no) :
    Kept m p (setBed s k f) := by
  unfold setBed
  split
  · exact h
  · rename_i b e
    have hn : (heldNote s b (f b)).no = b.no := by
      unfold heldNote
      split
      · exact hf b
      · split <;> exact hf b
    have hs : Kept m p (if aboveFloor b && !aboveFloor (heldNote s b (f b)) then
        regAdd s .clkBedStretchTime k ((s.time - b.aboveSince) / 1000) 64 else s) := by
      split
      · exact regAdd_kept h
      · exact h
    refine updBed_kept hs fun x hx => ?_
    have hx : x.no = k := by simpa using hx
    split
    · exact hn.trans ((bedRec_no e).trans hx.symm)
    · exact hn.trans ((bedRec_no e).trans hx.symm)

theorem wakeBed_kept
    {s : State} {k1 : Nat} (h : Kept m p s) :
    Kept m p (wakeBed s k1) := by
  unfold wakeBed
  split
  · assumption
  · refine Kept.ite (fun _ => ?_) (fun _ => ?_)
    · dsimp only
      apply trace_kept
      apply regSet_kept
      apply updBed_kept
      · assumption
      · exact fun _ _ => rfl
    · assumption

theorem warn_kept
    {s : State} {k1 : Nat} (h : Kept m p s) :
    Kept m p (warn s k1) := by
  unfold warn
  dsimp only
  refine Kept.ite (fun _ => ?_) (fun _ => ?_)
  · apply regAdd_kept
    refine Kept.ite (fun _ => ?_) (fun _ => ?_)
    · assumption
    · apply setReg_kept
      assumption
  · refine Kept.upd ?_ regs_of beds_of plan_of tiles_of lodged_of work_of steps_of captures_of
    apply regAdd_kept
    refine Kept.ite (fun _ => ?_) (fun _ => ?_)
    · assumption
    · apply setReg_kept
      assumption

theorem margin_kept
    {s : State} {bed : Nat} {arg : List Nat} (h : Kept m p s) :
    Kept m p (margin s bed arg) := by
  unfold margin
  apply warn_kept
  apply event_kept
  assumption

theorem readWord_kept
    {s : State} {p1 : Sys2Proof.Path} {off : Nat} (h : Kept m p s) :
    Kept m p (readWord s p1 off).1 := by
  unfold readWord
  dsimp only
  split
  · assumption
  · split
    · dsimp only
      refine Kept.upd ?_ regs_of beds_of plan_of tiles_of lodged_of work_of steps_of captures_of
      assumption
    · split
      · assumption
      · assumption

theorem afterWrite_kept
    {s : State} {f : Sys2Proof.Fld} {i : Nat} (h : Kept m p s) :
    Kept m p (afterWrite s f i) := by
  unfold afterWrite
  split
  · apply regSet_kept
    assumption
  · apply regSet_kept
    assumption
  · apply regSet_kept
    assumption
  · assumption

theorem denied_kept
    {s : State} (h : Kept m p s) :
    Kept m p (denied s) := by
  unfold denied
  apply regAdd_kept
  apply setReg_kept
  assumption

theorem writeField_kept
    {s : State} {f : Sys2Proof.Fld} {i : Nat} {v : Nat} (h : Kept m p s) :
    Kept m p (writeField s f i v) := by
  unfold writeField
  refine Kept.ite (fun _ => ?_) (fun _ => ?_)
  · assumption
  · refine Kept.ite (fun _ => ?_) (fun _ => ?_)
    · assumption
    · split
      · refine Kept.ite (fun _ => ?_) (fun _ => ?_)
        · apply afterWrite_kept
          apply regSet_kept
          assumption
        · assumption
      · refine Kept.ite (fun _ => ?_) (fun _ => ?_)
        · apply afterWrite_kept
          apply regSet_kept
          assumption
        · assumption
      · refine Kept.ite (fun _ => ?_) (fun _ => ?_)
        · apply regSet_kept
          assumption
        · assumption
      · apply regSet_kept
        assumption
      · apply regSet_kept
        assumption
      · refine Kept.ite (fun _ => ?_) (fun _ => ?_)
        · apply regSet_kept
          assumption
        · assumption
      · assumption

theorem writeFields_kept
    {s : State} {p1 : Sys2Proof.Path} {off : Nat} {hi : Nat} {lo : Nat} {v : Nat} (h : Kept m p s) :
    Kept m p (writeFields s p1 off hi lo v) := by
  unfold writeFields
  dsimp only
  refine Kept.ite (fun _ => ?_) (fun _ => ?_)
  · refine Kept.ite (fun _ => ?_) (fun _ => ?_)
    · split
      · apply regSet_kept
        refine Kept.ite (fun _ => ?_) (fun _ => ?_)
        · apply denied_kept
          refine Kept.ite (fun _ => ?_) (fun _ => ?_)
          · apply Kept.fold
            · intro _ _ _
              apply writeField_kept
              assumption
            · assumption
          · assumption
        · refine Kept.ite (fun _ => ?_) (fun _ => ?_)
          · apply Kept.fold
            · intro _ _ _
              apply writeField_kept
              assumption
            · assumption
          · assumption
      · refine Kept.ite (fun _ => ?_) (fun _ => ?_)
        · apply denied_kept
          refine Kept.ite (fun _ => ?_) (fun _ => ?_)
          · apply Kept.fold
            · intro _ _ _
              apply writeField_kept
              assumption
            · assumption
          · assumption
        · refine Kept.ite (fun _ => ?_) (fun _ => ?_)
          · apply Kept.fold
            · intro _ _ _
              apply writeField_kept
              assumption
            · assumption
          · assumption
    · apply regAdd_kept
      apply setReg_kept
      refine Kept.ite (fun _ => ?_) (fun _ => ?_)
      · apply denied_kept
        refine Kept.ite (fun _ => ?_) (fun _ => ?_)
        · apply Kept.fold
          · intro _ _ _
            apply writeField_kept
            assumption
          · assumption
        · assumption
      · refine Kept.ite (fun _ => ?_) (fun _ => ?_)
        · apply Kept.fold
          · intro _ _ _
            apply writeField_kept
            assumption
          · assumption
        · assumption
  · refine Kept.ite (fun _ => ?_) (fun _ => ?_)
    · apply denied_kept
      refine Kept.ite (fun _ => ?_) (fun _ => ?_)
      · apply Kept.fold
        · intro _ _ _
          apply writeField_kept
          assumption
        · assumption
      · assumption
    · refine Kept.ite (fun _ => ?_) (fun _ => ?_)
      · apply Kept.fold
        · intro _ _ _
          apply writeField_kept
          assumption
        · assumption
      · assumption

theorem writeWord_kept
    {s : State} {p1 : Sys2Proof.Path} {off : Nat} {width : Nat} {v : Nat} (h : Kept m p s) :
    Kept m p (writeWord s p1 off width v) := by
  unfold writeWord
  dsimp only
  refine Kept.ite (fun _ => ?_) (fun _ => ?_)
  · apply writeFields_kept
    assumption
  · refine Kept.ite (fun _ => ?_) (fun _ => ?_)
    · refine Kept.upd ?_ regs_of beds_of plan_of tiles_of lodged_of work_of steps_of captures_of
      assumption
    · refine Kept.upd ?_ regs_of beds_of plan_of tiles_of lodged_of work_of steps_of captures_of
      apply writeFields_kept
      refine Kept.upd ?_ regs_of beds_of plan_of tiles_of lodged_of work_of steps_of captures_of
      assumption

theorem whenUnsealed_kept
    {f : State → State} {s : State} (h : Kept m p s) (hf : ∀ x0, Kept m p x0 → Kept m p (f x0)) :
    Kept m p (whenUnsealed f s) := by
  unfold whenUnsealed
  refine Kept.ite (fun _ => ?_) (fun _ => ?_)
  · apply denied_kept
    assumption
  · apply hf
    assumption

end Sys2Proof.Laws
end

