-- ==== Sys2Proof/Laws/KeptDirOps.lean ====
section
/-! SUPPORT. Every operation and meaning of Machine/DirOps.lean keeps the form. -/

namespace Sys2Proof.Laws

open Sys2Proof Sys2Proof.Machine Sys2Proof.Safety

variable {m : Model} {p : List Instr}

theorem putEntry_kept
    {s : State} {b : Nat} {p1 : Nat} {e : DirEntry} (h : Kept m p s) :
    Kept m p (putEntry s b p1 e) := by
  unfold putEntry
  dsimp only
  refine Kept.ite (fun _ => ?_) (fun _ => ?_)
  · refine Kept.upd ?_ regs_of beds_of plan_of tiles_of lodged_of work_of steps_of captures_of
    assumption
  · refine Kept.ite (fun _ => ?_) (fun _ => ?_)
    · apply event_kept
      refine Kept.ite (fun _ => ?_) (fun _ => ?_)
      · apply setReg_kept
        apply takeFree_kept
        refine Kept.upd ?_ regs_of beds_of plan_of tiles_of lodged_of work_of steps_of captures_of
        assumption
      · apply takeFree_kept
        refine Kept.upd ?_ regs_of beds_of plan_of tiles_of lodged_of work_of steps_of captures_of
        assumption
    · refine Kept.ite (fun _ => ?_) (fun _ => ?_)
      · apply setReg_kept
        apply takeFree_kept
        refine Kept.upd ?_ regs_of beds_of plan_of tiles_of lodged_of work_of steps_of captures_of
        assumption
      · apply takeFree_kept
        refine Kept.upd ?_ regs_of beds_of plan_of tiles_of lodged_of work_of steps_of captures_of
        assumption

theorem stealHeads_kept
    {s : State} (h : Kept m p s) :
    Kept m p (stealHeads s) := by
  unfold stealHeads
  apply takeFree_kept
  apply regAdd_kept
  assumption

theorem placeEntry_kept
    {s : State} {e : DirEntry} (h : Kept m p s) :
    Kept m p (placeEntry s e) := by
  unfold placeEntry
  dsimp only
  refine Kept.ite (fun _ => ?_) (fun _ => ?_)
  · apply putEntry_kept
    apply stealHeads_kept
    assumption
  · split
    · apply putEntry_kept
      apply stealHeads_kept
      assumption
    · split
      · apply putEntry_kept
        apply stealHeads_kept
        assumption
      · apply putEntry_kept
        apply putEntry_kept
        apply stealHeads_kept
        assumption

theorem dirInsert_kept {s : State} {e : DirEntry} (h : Kept m p s) (t : State) (q : dirInsert s e = .written t) : Kept m p t := by
  unfold dirInsert at q
  dsimp only at q
  split at q
  · cases q
  · split at q
    · cases q
    · cases q
      exact placeEntry_kept h

theorem removeAt_kept {s : State} {b q : Nat} (h : Kept m p s) : Kept m p (removeAt s b q) := by
  unfold removeAt
  dsimp only
  refine Kept.ite (fun _ => ?_) (fun _ => ?_)
  · refine Kept.upd ?_ regs_of beds_of plan_of tiles_of lodged_of work_of steps_of captures_of
    apply stealHeads_kept
    assumption
  · refine Kept.ite (fun _ => ?_) (fun _ => ?_)
    · refine Kept.upd ?_ regs_of beds_of plan_of tiles_of lodged_of work_of steps_of captures_of
      apply stealHeads_kept
      assumption
    · refine Kept.upd ?_ regs_of beds_of plan_of tiles_of lodged_of work_of steps_of captures_of
      apply stealHeads_kept
      assumption

theorem dirDeleteN_kept {k : Nat} {s : State} {q : DirEntry → Bool} (h : Kept m p s) : Kept m p (dirDeleteN k s q) := by
  induction k generalizing s with
  | zero => exact h
  | succ k ih =>
    unfold dirDeleteN
    split
    · assumption
    · apply ih
      apply removeAt_kept
      assumption

theorem dirDelete_kept
    {s : State} {p1 : DirEntry → Bool} (h : Kept m p s) :
    Kept m p (dirDelete s p1) := by
  unfold dirDelete
  apply dirDeleteN_kept
  assumption

theorem dirReveal_kept
    {s : State} {index : Nat} (h : Kept m p s) :
    Kept m p (dirReveal s index) := by
  unfold dirReveal
  dsimp only
  refine Kept.upd ?_ regs_of beds_of plan_of tiles_of lodged_of work_of steps_of captures_of
  apply Kept.fold
  · intro _ _ _
    apply stealHeads_kept
    assumption
  · assumption

theorem dirInsertLogged_kept
    {s : State} {x : Subject} {e : DirEntry} (h : Kept m p s) :
    Kept m p (dirInsertLogged s x e).1 := by
  unfold dirInsertLogged
  split
  · dsimp only
    refine dirInsert_kept ?_ _ (by assumption)
    assumption
  · dsimp only
    apply regAdd_kept
    apply event_kept
    assumption
  · dsimp only
    apply event_kept
    assumption

theorem insertBlocks_kept
    {s : State} {x : Subject} {pending : Bool} (h : Kept m p s) :
    Kept m p (insertBlocks s x pending) := by
  unfold insertBlocks
  apply Kept.fold
  · intro _ _ _
    apply dirInsertLogged_kept
    assumption
  · assumption

theorem dirBuild_kept
    {s : State} (h : Kept m p s) :
    Kept m p (dirBuild s) := by
  unfold dirBuild
  dsimp only
  apply Kept.fold
  · intro _ _ _
    apply insertBlocks_kept
    assumption
  · apply Kept.fold
    · intro _ _ _
      refine Kept.ite (fun _ => ?_) (fun _ => ?_)
      · apply placeEntry_kept
        apply placeEntry_kept
        assumption
      · apply placeEntry_kept
        assumption
    · refine Kept.upd ?_ regs_of beds_of plan_of tiles_of lodged_of work_of steps_of captures_of
      assumption

theorem rebuildBucket_kept
    {s : State} {b : Nat} (h : Kept m p s) :
    Kept m p (rebuildBucket s b) := by
  unfold rebuildBucket
  dsimp only
  refine Kept.upd ?_ regs_of beds_of plan_of tiles_of lodged_of work_of steps_of captures_of
  apply Kept.fold
  · intro _ _ _
    split
    · refine dirInsert_kept ?_ _ (by assumption)
      assumption
    · assumption
  · refine Kept.upd ?_ regs_of beds_of plan_of tiles_of lodged_of work_of steps_of captures_of
    assumption

theorem execDirRebuild_kept
    {bucket : Nat} {s : State} (h : Kept m p s) :
    ∃ t, execDirRebuild bucket s = .next t ∧ Kept m p t := by
  unfold execDirRebuild
  apply act_kept
  · assumption
  · intro _ _
    apply whenRunning_kept
    · assumption
    · intro _ _
      refine Kept.ite (fun _ => ?_) (fun _ => ?_)
      · dsimp only
        apply event_kept
        refine Kept.upd ?_ regs_of beds_of plan_of tiles_of lodged_of work_of steps_of captures_of
        assumption
      · assumption

end Sys2Proof.Laws
end

