-- ==== Sys2Proof/Laws/KeptAccess.lean ====
section
/-! SUPPORT. Every operation and meaning of Machine/Access.lean keeps the form. -/

namespace Sys2Proof.Laws

open Sys2Proof Sys2Proof.Machine Sys2Proof.Safety

variable {m : Model} {p : List Instr}

theorem workEvent_kept
    {s : State} {w : Work} {reason : Nat} {arg : List Nat} (h : Kept m p s) :
    Kept m p (workEvent s w reason arg) := by
  unfold workEvent
  apply event_kept
  assumption

theorem failChk_kept
    {s : State} {w : Work} {c : Chk} (h : Kept m p s) :
    Kept m p (failChk s w c) := by
  unfold failChk
  dsimp only
  apply fail_kept
  refine Kept.ite (fun _ => ?_) (fun _ => ?_)
  · assumption
  · apply workEvent_kept
    assumption

theorem checked_kept
    {s : State} {w : Work} {l : List Chk} {f : State → State} (h : Kept m p s) (hf : ∀ x0, Kept m p x0 → Kept m p (f x0)) :
    Kept m p (checked s w l f) := by
  unfold checked
  split
  · apply failChk_kept
    assumption
  · apply hf
    assumption

theorem addEff_kept {s : State} {id : Nat} {e : Effect} (h : Kept m p s) (he : effectWf e) : Kept m p (addEff s id e) :=
  updWork_kept h fun _ hw => effectsWf_append hw (effectsWf_cons he effectsWf_nil)

/-- Adding several effects. -/
theorem addEffs_kept {id : Nat} : ∀ {l : List Effect} {s : State}, Kept m p s → effectsWf l →
    Kept m p (l.foldl (fun s e => addEff s id e) s)
  | [], _, h, _ => h
  | e :: l, _, h, hl => addEffs_kept (l := l) (addEff_kept h (hl e (List.mem_cons_self ..)))
      fun x hx => hl x (List.mem_cons_of_mem _ hx)

theorem done_kept {s : State} {id status : Nat} {result : List Byte} (h : Kept m p s) : Kept m p (done s id status result) := by
  unfold done
  refine finish_kept h ?_
  cases e : workOf s id with
  | none => exact effectsWf_nil
  | some w => exact h.effects e

theorem withSubject_kept
    {s : State} {w : Work} {f : Subject → State} (h : Kept m p s) (hf : ∀ x0, Kept m p (f x0)) :
    Kept m p (withSubject s w f) := by
  unfold withSubject
  split
  · apply fail_kept
    assumption
  · apply hf

theorem absentEvents_kept
    {s : State} {layer : Nat} {l : List (Subject × Nat)} (h : Kept m p s) :
    Kept m p (absentEvents s layer l) := by
  unfold absentEvents
  apply Kept.fold
  · intro _ _ _
    apply event_kept
    assumption
  · assumption

theorem pagesAbsent_kept
    {s : State} {t : Tile} (h : Kept m p s) :
    Kept m p (pagesAbsent s t) := by
  unfold pagesAbsent
  split
  · assumption
  · dsimp only
    refine Kept.upd ?_ regs_of beds_of plan_of tiles_of lodged_of work_of steps_of captures_of
    assumption

theorem draftLost_kept
    {s : State} {t : Tile} (h : Kept m p s) :
    Kept m p (draftLost s t) := by
  unfold draftLost
  apply updSubj_kept
  assumption

theorem tileLost_kept
    {s : State} {h1 : Nat} {n : Nat} (h : Kept m p s) :
    Kept m p (tileLost s h1 n) := by
  unfold tileLost
  split
  · assumption
  · dsimp only
    refine Kept.ite (fun _ => ?_) (fun _ => ?_)
    · apply absentEvents_kept
      apply event_kept
      apply pagesAbsent_kept
      apply updSubj_kept
      apply updTile_kept
      · assumption
      · exact fun t ht => ht
    · refine Kept.ite (fun _ => ?_) (fun _ => ?_)
      · apply event_kept
        apply draftLost_kept
        apply updTile_kept
        · assumption
        · exact fun t ht => ht
      · refine Kept.ite (fun _ => ?_) (fun _ => ?_)
        · apply event_kept
          apply pagesAbsent_kept
          apply updTile_kept
          · assumption
          · exact fun t ht => ht
        · apply absentEvents_kept
          apply pagesAbsent_kept
          apply updTile_kept
          · assumption
          · exact fun t ht => ht

theorem keptTiles_wf
    {s : State} (h : Kept m p s) :
    payloadsWf (keptTiles s) := by
  unfold keptTiles
  refine payloadsWf_append ?_ ?_
  · refine payloadsWf_filter ?_
    exact tiles_of (by assumption)
  · exact lodged_of (by assumption)

theorem updHeld_kept
    {s : State} {h1 : Nat} {n : Nat} {f : Tile → Tile} (h : Kept m p s)
    (hf : ∀ t, cellsWf t.payload = true → cellsWf (f t).payload = true) :
    Kept m p (updHeld s h1 n f) := by
  unfold updHeld
  dsimp only
  refine Kept.upd ?_ regs_of beds_of plan_of tiles_of ?_ work_of steps_of captures_of
  · apply updTile_kept
    · assumption
    · assumption
  · exact fun k => payloadsWf_updIf k.form.lodged (by assumption)

theorem loseInRange_kept
    {s : State} {r : Nat} {t : Tile} (h : Kept m p s) :
    Kept m p (loseInRange s r t) := by
  unfold loseInRange
  dsimp only
  refine Kept.ite (fun _ => ?_) (fun _ => ?_)
  · apply tileLost_kept
    apply updHeld_kept
    · assumption
    · exact fun t ht => ht
  · apply updHeld_kept
    · assumption
    · exact fun t ht => ht

theorem loseRange_kept
    {s : State} {r : Nat} (h : Kept m p s) :
    Kept m p (loseRange s r) := by
  unfold loseRange
  dsimp only
  refine Kept.ite (fun _ => ?_) (fun _ => ?_)
  · apply event_kept
    apply regSet_kept
    apply Kept.fold
    · intro _ _ _
      apply loseInRange_kept
      assumption
    · assumption
  · apply Kept.fold
    · intro _ _ _
      apply event_kept
      assumption
    · apply regSet_kept
      apply Kept.fold
      · intro _ _ _
        apply loseInRange_kept
        assumption
      · assumption

theorem countMove_kept
    {s : State} {t : Tile} {src : Nat} {dst : Nat} {unit : Nat} (h : Kept m p s) :
    Kept m p (countMove s t src dst unit) := by
  unfold countMove
  dsimp only
  refine Kept.ite (fun _ => ?_) (fun _ => ?_)
  · refine Kept.ite (fun _ => ?_) (fun _ => ?_)
    · assumption
    · apply countAll_kept
      assumption
  · apply countAll_kept
    refine Kept.ite (fun _ => ?_) (fun _ => ?_)
    · assumption
    · apply countAll_kept
      assumption

theorem retireRow_kept
    {s : State} {tier : Nat} {place : Nat} {row : Nat} (h : Kept m p s) :
    Kept m p (retireRow s tier place row) := by
  unfold retireRow
  dsimp only
  refine Kept.ite (fun _ => ?_) (fun _ => ?_)
  · refine Kept.upd ?_ regs_of beds_of plan_of tiles_of lodged_of work_of steps_of captures_of
    assumption
  · apply event_kept
    refine Kept.ite (fun _ => ?_) (fun _ => ?_)
    · apply regAdd_kept
      refine Kept.upd ?_ regs_of beds_of plan_of tiles_of lodged_of work_of steps_of captures_of
      assumption
    · refine Kept.upd ?_ regs_of beds_of plan_of tiles_of lodged_of work_of steps_of captures_of
      assumption

theorem rowFailed_kept
    {s : State} {tier : Nat} {place : Nat} {row : Nat} (h : Kept m p s) :
    Kept m p (rowFailed s tier place row) := by
  unfold rowFailed
  refine Kept.ite (fun _ => ?_) (fun _ => ?_)
  · apply retireRow_kept
    assumption
  · refine Kept.upd ?_ regs_of beds_of plan_of tiles_of lodged_of work_of steps_of captures_of
    assumption

theorem rangeFailed_kept
    {s : State} {r : Nat} (h : Kept m p s) :
    Kept m p (rangeFailed s r) := by
  unfold rangeFailed
  dsimp only
  refine Kept.ite (fun _ => ?_) (fun _ => ?_)
  · apply loseRange_kept
    refine Kept.upd ?_ regs_of beds_of plan_of tiles_of lodged_of work_of steps_of captures_of
    assumption
  · refine Kept.upd ?_ regs_of beds_of plan_of tiles_of lodged_of work_of steps_of captures_of
    assumption

theorem placeFailed_kept
    {s : State} {twin : Bool} {t : Tile} {tier : Nat} {place : Nat} (h : Kept m p s) :
    Kept m p (placeFailed s twin t tier place) := by
  unfold placeFailed
  dsimp only
  refine Kept.ite (fun _ => ?_) (fun _ => ?_)
  · apply rangeFailed_kept
    assumption
  · refine Kept.ite (fun _ => ?_) (fun _ => ?_)
    · assumption
    · refine Kept.ite (fun _ => ?_) (fun _ => ?_)
      · refine Kept.ite (fun _ => ?_) (fun _ => ?_)
        · apply rowFailed_kept
          apply takeFree_kept
          assumption
        · apply retireRow_kept
          apply takeFree_kept
          assumption
      · apply rowFailed_kept
        assumption

theorem copyDropped_kept
    {s : State} {h1 : Nat} {n : Nat} {tier : Nat} {place : Nat} (h : Kept m p s) :
    Kept m p (copyDropped s h1 n tier place) := by
  unfold copyDropped
  split
  · assumption
  · dsimp only
    refine Kept.ite (fun _ => ?_) (fun _ => ?_)
    · refine Kept.ite (fun _ => ?_) (fun _ => ?_)
      · apply event_kept
        apply updTile_kept
        · apply setLast_kept
          apply raiseClass_kept
          apply regAdd_kept
          assumption
        · exact fun t ht => ht
      · refine Kept.ite (fun _ => ?_) (fun _ => ?_)
        · refine Kept.ite (fun _ => ?_) (fun _ => ?_)
          · apply event_kept
            apply updTile_kept
            · apply setLast_kept
              apply raiseClass_kept
              apply regAdd_kept
              assumption
            · exact fun t ht => ht
          · apply updTile_kept
            · apply setLast_kept
              apply raiseClass_kept
              apply regAdd_kept
              assumption
            · exact fun t ht => ht
        · apply tileLost_kept
          apply updTile_kept
          · apply setLast_kept
            apply raiseClass_kept
            apply regAdd_kept
            assumption
          · exact fun t ht => ht
    · assumption

theorem lodgedFailed_kept
    {s : State} {h1 : Nat} {n : Nat} {tier : Nat} {place : Nat} (h : Kept m p s) :
    Kept m p (lodgedFailed s h1 n tier place) := by
  unfold lodgedFailed
  split
  · assumption
  · dsimp only
    apply placeFailed_kept
    apply updHeld_kept
    · apply setLast_kept
      apply raiseClass_kept
      apply regAdd_kept
      assumption
    · exact fun t ht => ht

theorem copyFailed_kept
    {s : State} {h1 : Nat} {n : Nat} {tier : Nat} {place : Nat} (h : Kept m p s) :
    Kept m p (copyFailed s h1 n tier place) := by
  unfold copyFailed
  split
  · apply lodgedFailed_kept
    assumption
  · refine Kept.ite (fun _ => ?_) (fun _ => ?_)
    · apply placeFailed_kept
      apply copyDropped_kept
      assumption
    · assumption

theorem masterFails_kept
    {s : State} {h1 : Nat} {n : Nat} (h : Kept m p s) :
    Kept m p (masterFails s h1 n) := by
  unfold masterFails
  split
  · assumption
  · refine Kept.ite (fun _ => ?_) (fun _ => ?_)
    · assumption
    · apply copyFailed_kept
      assumption

theorem readFails_kept
    {s : State} {bad : List (Nat × Nat)} {names : List (Nat × Nat)} (h : Kept m p s) :
    Kept m p (readFails s bad names) := by
  unfold readFails
  apply Kept.fold
  · intro _ _ _
    apply masterFails_kept
    assumption
  · assumption

theorem keyChecked_kept
    {s : State} {h1 : Nat} {n : Nat} (h : Kept m p s) :
    Kept m p (keyChecked s h1 n) := by
  unfold keyChecked
  split
  · assumption
  · refine Kept.ite (fun _ => ?_) (fun _ => ?_)
    · assumption
    · dsimp only
      apply tileLost_kept
      apply setLast_kept
      apply raiseClass_kept
      apply Kept.fold
      · intro _ _ _
        apply regAdd_kept
        assumption
      · assumption

theorem subjectChecked_kept
    {s : State} {h1 : Nat} (h : Kept m p s) :
    Kept m p (subjectChecked s h1) := by
  unfold subjectChecked
  apply keyChecked_kept
  assumption

theorem snoopLines_kept
    {s : State} {lines : List (Nat × Nat)} (h : Kept m p s) :
    Kept m p (snoopLines s lines) := by
  unfold snoopLines
  dsimp only
  refine Kept.upd ?_ regs_of beds_of plan_of tiles_of lodged_of work_of steps_of captures_of
  apply Kept.fold
  · intro _ _ _
    apply emit_kept
    assumption
  · assumption

theorem releaseLodged_kept
    {s : State} {t : Tile} (h : Kept m p s) :
    Kept m p (releaseLodged s t) := by
  unfold releaseLodged
  split
  · assumption
  · apply sendPeer_kept
    assumption

theorem putVersion_kept {s : State} {t : Tile} {tier : Nat} {places : List Nat} (h : Kept m p s)
    (ht : cellsWf t.payload = true) : Kept m p (putVersion s t tier places) :=
  putTile_kept (assignVersion_kept h) ht

theorem raiseBase_kept
    {s : State} {h1 : Nat} (h : Kept m p s) :
    Kept m p (raiseBase s h1) := by
  unfold raiseBase
  split
  · assumption
  · refine Kept.ite (fun _ => ?_) (fun _ => ?_)
    · assumption
    · dsimp only
      refine Kept.ite (fun _ => ?_) (fun _ => ?_)
      · apply updSubj_kept
        assumption
      · split
        · apply updSubj_kept
          assumption
        · apply putVersion_kept
          · apply updSubj_kept
            assumption
          · rfl

theorem commitAt_kept {s : State} {t : Tile} {tier : Nat} {places : List Nat} (h : Kept m p s)
    (ht : cellsWf t.payload = true) : Kept m p (commitAt s t tier places) := by
  have k := snoopLines_kept (lines := heldLines s t.handle t.number) h
  refine countMove_kept (putVersion_kept (raiseBase_kept ?_) ht)
  cases tileOf (snoopLines s (heldLines s t.handle t.number)) t.handle t.number with
  | none => exact k
  | some o => exact releaseLodged_kept k

theorem commitIn_kept {s : State} {t : Tile} (h : Kept m p s) (ht : cellsWf t.payload = true) :
    ∀ u, commitIn s t = some u → Kept m p u := by
  intro u e
  obtain ⟨q, -, rfl⟩ := Option.map_eq_some_iff.1 e
  exact commitAt_kept h ht

theorem commitNow_kept {s : State} {t : Tile} (h : Kept m p s) (ht : cellsWf t.payload = true) : Kept m p (commitNow s t) := by
  unfold commitNow
  cases e : commitIn s t with
  | none => exact h
  | some u => exact commitIn_kept h ht u e

theorem recordTile_wf
    {x : Subject} {n : Nat} {kind : Nat} {count : Nat} {first : Nat} :
    cellsWf (recordTile x n kind count first).payload = true := by
  unfold recordTile
  rfl

theorem headTiles_wf
    {x : Subject} :
    payloadsWf (headTiles x) := by
  unfold headTiles
  refine payloadsWf_cons ?_ ?_
  · apply recordTile_wf
  · refine payloadsWf_cons ?_ ?_
    · apply recordTile_wf
    · exact payloadsWf_nil

theorem touchMap_kept
    {s : State} {h1 : Nat} (h : Kept m p s) :
    Kept m p (touchMap s h1) := by
  unfold touchMap
  split
  · assumption
  · refine Kept.ite (fun _ => ?_) (fun _ => ?_)
    · assumption
    · refine Kept.foldTiles ?_ ?_ ?_
      · intro _ _ _ _
        apply commitNow_kept
        · assumption
        · assumption
      · apply headTiles_wf
      · assumption

theorem expandPair_kept
    {s : State} {t : Tile} (h : Kept m p s) :
    Kept m p (expandPair s t) := by
  unfold expandPair
  split
  · dsimp only
    refine Kept.ite (fun _ => ?_) (fun _ => ?_)
    · assumption
    · apply touchMap_kept
      apply updSubj_kept
      apply commitAt_kept
      · apply commitAt_kept
        · assumption
        · exact cellsOf_wf
      · exact cellsOf_wf
  · assumption

theorem downT1_kept
    {s : State} {t : Tile} (h : Kept m p s) :
    Kept m p (downT1 s t) := by
  unfold downT1
  apply updTile_kept
  · assumption
  · (intro t ht; split <;> exact ht)

theorem displaceT1_kept {k bed : Nat} {s : State} {t : Tile} (h : Kept m p s) : Kept m p (displaceT1 k s t bed) := by
  induction k generalizing s with
  | zero => exact h
  | succ k ih =>
    unfold displaceT1
    refine Kept.ite (fun _ => ?_) (fun _ => ?_)
    · assumption
    · split
      · assumption
      · apply ih
        apply downT1_kept
        assumption

theorem bringT1_kept
    {s : State} {h1 : Nat} {n : Nat} {bed : Nat} (h : Kept m p s) :
    Kept m p (bringT1 s h1 n bed).1 := by
  unfold bringT1
  split
  · assumption
  · split
    · dsimp only
      apply useTile_kept
      assumption
    · split
      · assumption
      · dsimp only
        split
        · dsimp only
          apply updTile_kept
          · apply countMove_kept
            assumption
          · exact fun t ht => ht
        · split
          · dsimp only
            apply updTile_kept
            · apply countMove_kept
              apply displaceT1_kept
              assumption
            · exact fun t ht => ht
          · assumption

theorem demand_kept
    {s : State} {h1 : Nat} {n : Nat} (h : Kept m p s) :
    Kept m p (demand s h1 n) := by
  unfold demand
  split
  · assumption
  · dsimp only
    refine Kept.ite (fun _ => ?_) (fun _ => ?_)
    · apply countMove_kept
      apply updTile_kept
      · assumption
      · exact fun t ht => ht
    · apply bringT1_kept
      refine Kept.ite (fun _ => ?_) (fun _ => ?_)
      · apply expandPair_kept
        apply updTile_kept
        · assumption
        · exact fun t ht => ht
      · refine Kept.ite (fun _ => ?_) (fun _ => ?_)
        · apply updTile_kept
          · apply countMove_kept
            apply updTile_kept
            · assumption
            · exact fun t ht => ht
          · exact fun t ht => ht
        · apply updTile_kept
          · assumption
          · exact fun t ht => ht

theorem releaseLines_kept
    {s : State} {names : List (Nat × Nat)} (h : Kept m p s) :
    Kept m p (releaseLines s names).1 := by
  unfold releaseLines
  dsimp only
  apply snoopLines_kept
  assumption

theorem askTile_kept
    {keep : Bool} {tier : Nat} {range : Nat} {s : State} {t : Tile} (h : Kept m p s) :
    Kept m p (askTile keep tier range s t) := by
  unfold askTile
  dsimp only
  split
  · assumption
  · refine Kept.ite (fun _ => ?_) (fun _ => ?_)
    · refine Kept.upd ?_ regs_of beds_of plan_of tiles_of lodged_of work_of steps_of captures_of
      assumption
    · refine Kept.ite (fun _ => ?_) (fun _ => ?_)
      · assumption
      · refine Kept.upd ?_ regs_of beds_of plan_of tiles_of lodged_of work_of steps_of captures_of
        apply sendPeer_kept
        assumption

theorem requestTile_kept
    {s : State} {t : Tile} (h : Kept m p s) :
    Kept m p (requestTile s t) := by
  unfold requestTile
  apply askTile_kept
  assumption

theorem freeTile_kept
    {s : State} {h1 : Nat} {n : Nat} (h : Kept m p s) :
    Kept m p (freeTile s h1 n) := by
  unfold freeTile
  split
  · assumption
  · apply updTile_kept
    · apply releaseLodged_kept
      assumption
    · exact fun _ _ => rfl

theorem stage_kept {s : State} {id : Nat} {t : Tile} (h : Kept m p s) (ht : cellsWf t.payload = true) :
    ∀ u, stage s id t = some u → Kept m p u := by
  unfold stage
  intro u e
  dsimp only at e
  split at e
  · cases e
  · cases e
    exact countMove_kept (addEff_kept (assignVersion_kept (raiseBase_kept h)) ht)

theorem stageAll_kept {id : Nat} : ∀ {l : List Tile} {s : State}, Kept m p s → payloadsWf l →
    ∀ u, stageAll s id l = some u → Kept m p u
  | [], _, h, _, _, e => by cases e; exact h
  | t :: l, s, h, hl, u, e => by
    obtain ⟨q, e1, e2⟩ := Option.bind_eq_some_iff.1 e
    exact stageAll_kept (stage_kept h (hl t (List.mem_cons_self ..)) q e1) (fun x hx => hl x (List.mem_cons_of_mem _ hx)) u e2

theorem logTiles_wf
    {x : Subject} {first : Nat} {last : Nat} :
    payloadsWf (logTiles x first last) := by
  unfold logTiles
  split
  · exact payloadsWf_nil
  · refine payloadsWf_map (fun _ _ => ?_)
    rfl

theorem textTiles_wf
    {x : Subject} {old : TextState} {new : TextState} :
    payloadsWf (textTiles x old new) := by
  unfold textTiles
  refine payloadsWf_append ?_ ?_
  · refine payloadsWf_append ?_ ?_
    · refine payloadsWf_append ?_ ?_
      · refine payloadsWf_cons ?_ ?_
        · apply recordTile_wf
        · exact payloadsWf_nil
      · split
        · refine payloadsWf_cons ?_ ?_
          · apply recordTile_wf
          · exact payloadsWf_nil
        · exact payloadsWf_nil
    · split
      · refine payloadsWf_cons ?_ ?_
        · apply recordTile_wf
        · exact payloadsWf_nil
      · exact payloadsWf_nil
  · split
    · refine payloadsWf_map (fun _ _ => ?_)
      apply recordTile_wf
    · exact payloadsWf_nil

theorem carryPoison_kept
    {s : State} {t : State} {h1 : Nat} {n : Nat} {clean : Nat → Bool} (h : Kept m p t) :
    Kept m p (carryPoison s t h1 n clean) := by
  unfold carryPoison
  dsimp only
  refine Kept.upd ?_ regs_of beds_of plan_of tiles_of lodged_of work_of steps_of captures_of
  assumption

theorem framesChecked_kept
    {s : State} {off : Nat} {len : Nat} (h : Kept m p s) :
    Kept m p (framesChecked s off len) := by
  unfold framesChecked
  apply Kept.fold
  · intro _ _ _
    apply keyChecked_kept
    assumption
  · assumption

theorem readState_kept
    {s : State} {off : Nat} {len : Nat} {resident : Bool} (h : Kept m p s) :
    Kept m p (readState s off len resident).1 := by
  unfold readState
  dsimp only
  split
  · dsimp only
    apply framesChecked_kept
    assumption
  · split
    · dsimp only
      apply framesChecked_kept
      assumption
    · split
      · dsimp only
        apply framesChecked_kept
        assumption
      · split
        · dsimp only
          apply framesChecked_kept
          assumption
        · split
          · dsimp only
            apply Kept.fold
            · intro _ _ _
              split
              · apply requestTile_kept
                assumption
              · assumption
            · apply framesChecked_kept
              assumption
          · dsimp only
            apply Kept.fold
            · intro _ _ _
              split
              · apply demand_kept
                assumption
              · assumption
            · apply framesChecked_kept
              assumption

theorem countPort_kept
    {s : State} {source : Nat} {addr : Nat} {n : Nat} (h : Kept m p s) :
    Kept m p (countPort s source addr n) := by
  unfold countPort
  split
  · assumption
  · apply countAll_kept
    assumption

theorem readAddr_kept
    {s : State} {a : Addr} {len : Nat} {resident : Bool} {f : Sys2Proof.Fetch} (h : Kept m p s) :
    Kept m p (readAddr s a len resident f).1 := by
  unfold readAddr
  split
  · apply readState_kept
    assumption
  · split
    · assumption
    · dsimp only
      apply countPort_kept
      assumption
  · assumption

theorem withOperand_kept
    {s : State} {w : Work} {a : Addr} {len : Nat} {resident : Bool} {src : Sys2Proof.Fetch}
    {f : State → List Sys2Proof.Byte → State} (h : Kept m p s) (hf : ∀ x0 x1, Kept m p x0 → Kept m p (f x0 x1)) :
    Kept m p (withOperand s w a len resident src f) := by
  unfold withOperand
  split
  · apply hf
    refine Kept.of_fst (by assumption) ?_
    apply readAddr_kept
    assumption
  · apply failChk_kept
    refine Kept.of_fst (by assumption) ?_
    apply readAddr_kept
    assumption
  · refine Kept.of_fst (by assumption) ?_
    apply readAddr_kept
    assumption

theorem readSource_kept
    {s : State} {addr : Nat} {len : Nat} {f : Sys2Proof.Fetch} (h : Kept m p s) :
    Kept m p (readSource s addr len f).1 := by
  unfold readSource
  split
  · assumption
  · split
    · dsimp only
      refine Kept.of_fst (by assumption) ?_
      apply readAddr_kept
      assumption
    · dsimp only
      refine Kept.of_fst (by assumption) ?_
      apply readAddr_kept
      assumption

theorem sourced_kept
    {s : State} {addr : Nat} {len : Nat} {src : Sys2Proof.Fetch} {f : State → Option (List Sys2Proof.Byte) → State}
    (h : Kept m p s) (hf : ∀ x0 x1, Kept m p x0 → Kept m p (f x0 x1)) :
    Kept m p (sourced s addr len src f) := by
  unfold sourced
  refine Kept.ite (fun _ => ?_) (fun _ => ?_)
  · apply readAddr_kept
    assumption
  · apply hf
    apply readSource_kept
    assumption

/-- The cells of a tile, none where there is none, are in canonical form. -/
theorem cellsWf_old {s : State} {h1 n : Nat} (h : Kept m p s) : cellsWf (((tileOf s h1 n).map (·.payload)).getD []) = true := by
  cases e : tileOf s h1 n with
  | none => rfl
  | some t => exact h.tile e

theorem writeFrame_kept {s : State} {id frame at_ : Nat} {b : List Byte} (h : Kept m p s) :
    ∀ u, writeFrame s id frame at_ b = some u → Kept m p u := by
  unfold writeFrame
  intro u e
  split at e
  · cases e; exact h
  · split at e
    · cases e; exact h
    · exact stage_kept h (cellWrite_wf (cellsWf_old h)) u e

theorem writeFrames_kept {id : Nat} : ∀ {k off : Nat} {b : List Byte} {s : State}, Kept m p s →
    ∀ u, writeFrames k s id off b = some u → Kept m p u
  | 0, _, _, _, h, _, e => by cases e; exact h
  | k + 1, off, b, s, h, u, e => by
    unfold writeFrames at e
    split at e
    · cases e; exact h
    · obtain ⟨q, e1, e2⟩ := Option.bind_eq_some_iff.1 e
      exact writeFrames_kept (writeFrame_kept h q e1) u e2

theorem writeAddr_kept {s : State} {id : Nat} {a : Addr} {b : List Byte} (h : Kept m p s) :
    ∀ u, writeAddr s id a b = some u → Kept m p u := by
  unfold writeAddr
  intro u e
  split at e
  · exact writeFrames_kept h u e
  · cases e
    split
    · exact h
    · exact countPort_kept (emit_kept h)
  · cases e; exact h

theorem storeFrame_kept {s : State} {frame at_ : Nat} {b : List Byte} (h : Kept m p s) :
    ∀ u, storeFrame s frame at_ b = some u → Kept m p u := by
  unfold storeFrame
  intro u e
  split at e
  · cases e; exact h
  · split at e
    · cases e; exact h
    · obtain ⟨q, e1, rfl⟩ := Option.map_eq_some_iff.1 e
      exact carryPoison_kept (commitIn_kept h (cellWrite_wf (cellsWf_old h)) q e1)

theorem storeFrames_kept : ∀ {k off : Nat} {b : List Byte} {s : State}, Kept m p s →
    ∀ u, storeFrames k s off b = some u → Kept m p u
  | 0, _, _, _, h, _, e => by cases e; exact h
  | k + 1, off, b, s, h, u, e => by
    unfold storeFrames at e
    split at e
    · cases e; exact h
    · obtain ⟨q, e1, e2⟩ := Option.bind_eq_some_iff.1 e
      exact storeFrames_kept (storeFrame_kept h q e1) u e2

theorem releaseSpan_kept
    {s : State} {a : Addr} {len : Nat} (h : Kept m p s) :
    Kept m p (releaseSpan s a len).1 := by
  unfold releaseSpan
  split
  · apply releaseLines_kept
    assumption
  · assumption

theorem writeNow_kept {s : State} {a : Addr} {b : List Byte} (h : Kept m p s) : ∀ u, writeNow s a b = some u → Kept m p u := by
  unfold writeNow
  intro u e
  split at e
  · exact storeFrames_kept h u e
  · cases e
    exact Kept.ite (fun _ => h) fun _ => countPort_kept (emit_kept h)
  · cases e; exact h

theorem concludeOut_kept {s : State} {w : Work} {status : Nat} {result : List Byte} {tiles : List Tile} {effects : List Effect}
    {a : Addr} {out : List Byte} (h : Kept m p s) (ht : payloadsWf tiles) (he : effectsWf effects) :
    Kept m p (concludeOut s w status result tiles effects a out) := by
  unfold concludeOut
  dsimp only
  split
  · exact fail_kept h
  · split
    · exact fail_kept h
    · rename_i u e
      obtain ⟨q, e1, e2⟩ := Option.bind_eq_some_iff.1 e
      exact done_kept (addEffs_kept (writeAddr_kept (stageAll_kept h ht q e1) u e2) he)

theorem conclude_kept
    {s : State} {w : Work} {status : Nat} {result : List Sys2Proof.Byte} {tiles : List Tile} {effects : List Effect}
    (h : Kept m p s) (htiles : payloadsWf tiles) (heffects : effectsWf effects) :
    Kept m p (conclude s w status result tiles effects) := by
  unfold conclude
  apply concludeOut_kept
  · assumption
  · assumption
  · assumption

theorem shaperTake_kept
    {s : State} {dir : Nat} {slot : Nat} {n : Nat} (h : Kept m p s) :
    Kept m p (shaperTake s dir slot n) := by
  unfold shaperTake
  dsimp only
  refine Kept.upd ?_ regs_of beds_of plan_of tiles_of lodged_of work_of steps_of captures_of
  assumption

theorem moved_kept
    {s : State} {w : Work} {inb : Nat} {outb : Nat} (h : Kept m p s) :
    Kept m p (moved s w inb outb) := by
  unfold moved
  apply shaperTake_kept
  apply shaperTake_kept
  apply updWork_kept
  · assumption
  · exact fun t ht => ht

theorem shaperWait_kept
    {s : State} {w : Work} {inb : Nat} {outb : Nat} (h : Kept m p s) :
    Kept m p (shaperWait s w inb outb) := by
  unfold shaperWait
  apply updWork_kept
  · assumption
  · exact fun t ht => ht

theorem shaped_kept
    {s : State} {w : Work} {inb : Nat} {outb : Nat} {f : State → State} (h : Kept m p s)
    (hf : ∀ x0, Kept m p x0 → Kept m p (f x0)) :
    Kept m p (shaped s w inb outb f) := by
  unfold shaped
  refine Kept.ite (fun _ => ?_) (fun _ => ?_)
  · apply hf
    apply moved_kept
    assumption
  · apply shaperWait_kept
    assumption

theorem askShaped_kept
    {keep : Bool} {tier : Nat} {range : Nat} {w : Work} {s : State} {t : Tile} (h : Kept m p s) :
    Kept m p (askShaped keep tier range w s t) := by
  unfold askShaped
  refine Kept.ite (fun _ => ?_) (fun _ => ?_)
  · apply askTile_kept
    assumption
  · apply shaped_kept
    · assumption
    · intro _ _
      apply askTile_kept
      assumption

-- the tiles of an operand are only asked for

-- the tiles of an operand are only asked for

theorem fetched_kept
    {s : State} {w : Work} {ts : List Tile} {f : State → State} (h : Kept m p s)
    (hf : ∀ x0, Kept m p x0 → Kept m p (f x0)) :
    Kept m p (fetched s w ts f) := by
  unfold fetched
  refine Kept.ite (fun _ => ?_) (fun _ => ?_)
  · apply hf
    assumption
  · apply Kept.fold
    · intro _ _ _
      apply askShaped_kept
      assumption
    · assumption

theorem startWork_kept
    {s : State} {w : Work} (h : Kept m p s) :
    Kept m p (startWork s w) := by
  unfold startWork
  split
  · dsimp only
    refine Kept.ite (fun _ => ?_) (fun _ => ?_)
    · apply countDispatch_kept
      apply updWork_kept
      · assumption
      · exact fun t ht => ht
    · apply updWork_kept
      · assumption
      · exact fun t ht => ht
  · assumption

theorem runWork_kept {id : Nat} {ok : Work → Bool} {f : State → Work → State} {s : State} (h : Kept m p s)
    (hf : ∀ s w, effectsWf w.effects → Kept m p s → Kept m p (f s w)) : Kept m p (runWork id ok f s) := by
  unfold runWork
  split
  · exact h
  · split
    · exact h
    · rename_i w e
      split
      · exact h
      · split
        · split
          · exact h
          · exact hf _ w (h.effects e) (startWork_kept h)
        · exact hf _ w (h.effects e) h
        · exact h

theorem durably_kept {f : State → Work → State} {s : State} {w : Work} (h : Kept m p s)
    (hf : Kept m p s → Kept m p (f s w)) : Kept m p (durably f s w) := by
  unfold durably
  split
  · exact h
  · exact hf h

theorem loadResult_kept
    {s : State} {arg : List Nat} (h : Kept m p s) :
    Kept m p (loadResult s arg) := by
  unfold loadResult
  apply raiseVector_kept
  apply event_kept
  assumption

end Sys2Proof.Laws
end

