-- ==== Sys2Proof/Laws/KeptText.lean ====
section
/-! SUPPORT. Every operation and meaning of Machine/Text.lean keeps the form. -/

namespace Sys2Proof.Laws

open Sys2Proof Sys2Proof.Machine Sys2Proof.Safety

variable {m : Model} {p : List Instr}

theorem loadVoc_kept
    {s : State} {k1 : Nat} {img : Sys2Proof.Fetch} (h : Kept m p s) :
    Kept m p (loadVoc s k1 img) := by
  unfold loadVoc
  refine Kept.ite (fun _ => ?_) (fun _ => ?_)
  · apply regSet_kept
    assumption
  · dsimp only
    apply sourced_kept
    · assumption
    · intro _ _ _
      apply loadResult_kept
      refine Kept.ite (fun _ => ?_) (fun _ => ?_)
      · refine Kept.upd ?_ regs_of beds_of plan_of tiles_of lodged_of work_of steps_of captures_of
        apply regSet_kept
        assumption
      · apply regSet_kept
        assumption

theorem execVocabularyLoad_kept
    {path : Sys2Proof.Path} {img : Sys2Proof.Fetch} {s : State} (h : Kept m p s) :
    ∃ t, execVocabularyLoad path img s = .next t ∧ Kept m p t := by
  unfold execVocabularyLoad
  apply act_kept
  · assumption
  · intro _ _
    apply whenRunning_kept
    · assumption
    · intro _ _
      split
      · assumption
      · apply loadVoc_kept
        assumption

theorem execVocabularyUnload_kept
    {path : Sys2Proof.Path} {s : State} (h : Kept m p s) :
    ∃ t, execVocabularyUnload path s = .next t ∧ Kept m p t := by
  unfold execVocabularyUnload
  apply act_kept
  · assumption
  · intro _ _
    apply whenRunning_kept
    · assumption
    · intro _ _
      split
      · assumption
      · refine Kept.ite (fun _ => ?_) (fun _ => ?_)
        · apply regSet_kept
          assumption
        · apply regSet_kept
          refine Kept.upd ?_ regs_of beds_of plan_of tiles_of lodged_of work_of steps_of captures_of
          assumption

theorem appendTiles_wf
    {x : Subject} {entries : List Nat} {t : TextState} :
    payloadsWf (appendTiles x entries t) := by
  unfold appendTiles
  refine payloadsWf_append ?_ ?_
  · refine payloadsWf_append ?_ ?_
    · apply logTiles_wf
    · apply textTiles_wf
  · apply headTiles_wf

theorem tokenizeEnd_kept
    {s : State} {w : Work} {x : Option Subject} {toks : List Nat} {replaced : Nat} (h : Kept m p s) :
    Kept m p (tokenizeEnd s w x toks replaced) := by
  unfold tokenizeEnd
  dsimp only
  refine Kept.ite (fun _ => ?_) (fun _ => ?_)
  · apply finish_kept
    · assumption
    · exact effectsWf_nil
  · split
    · refine Kept.ite (fun _ => ?_) (fun _ => ?_)
      · refine Kept.ite (fun _ => ?_) (fun _ => ?_)
        · apply finish_kept
          · assumption
          · exact effectsWf_nil
        · apply concludeOut_kept
          · assumption
          · apply appendTiles_wf
          · refine effectsWf_cons trivial ?_
            refine effectsWf_cons trivial ?_
            exact effectsWf_nil
      · apply concludeOut_kept
        · assumption
        · exact payloadsWf_nil
        · exact effectsWf_nil
    · apply concludeOut_kept
      · assumption
      · exact payloadsWf_nil
      · exact effectsWf_nil

theorem tokenizeFor_kept
    {s : State} {w : Work} {src : Sys2Proof.Fetch} {x : Option Subject} (h : Kept m p s) :
    Kept m p (tokenizeFor s w src x) := by
  unfold tokenizeFor
  dsimp only
  apply checked_kept
  · assumption
  · intro _ _
    apply withOperand_kept
    · assumption
    · intro _ _ _
      split
      · split
        · apply tokenizeEnd_kept
          assumption
        · apply fail_kept
          assumption
      · assumption

theorem runTokenize_kept
    {src : Sys2Proof.Fetch} {s : State} {w : Work} (h : Kept m p s) :
    Kept m p (runTokenize src s w) := by
  unfold runTokenize
  refine Kept.ite (fun _ => ?_) (fun _ => ?_)
  · apply tokenizeFor_kept
    assumption
  · apply withSubject_kept
    · assumption
    · intro _
      apply checked_kept
      · assumption
      · intro _ _
        apply tokenizeFor_kept
        assumption

theorem execTokenize_kept
    {work : Nat} {src : Sys2Proof.Fetch} {s : State} (h : Kept m p s) :
    ∃ t, execTokenize work src s = .next t ∧ Kept m p t := by
  unfold execTokenize
  apply act_kept
  · assumption
  · intro _ _
    apply runWork_kept
    · assumption
    · intro _ _ _ _
      refine Kept.ite (fun _ => ?_) (fun _ => ?_)
      · apply durably_kept
        · assumption
        · intro _
          apply runTokenize_kept
          assumption
      · apply runTokenize_kept
        assumption

theorem appendEnd_kept
    {s : State} {w : Work} {x : Subject} {v : Voc} {toks : List Nat} (h : Kept m p s) :
    Kept m p (appendEnd s w x v toks) := by
  unfold appendEnd
  dsimp only
  apply concludeOut_kept
  · apply takeFree_kept
    assumption
  · apply appendTiles_wf
  · refine effectsWf_cons trivial ?_
    refine effectsWf_cons trivial ?_
    exact effectsWf_nil

theorem appendWith_kept
    {s : State} {w : Work} {x : Subject} {v : Voc} {toks : Option (List Nat)} (h : Kept m p s) :
    Kept m p (appendWith s w x v toks) := by
  unfold appendWith
  apply checked_kept
  · assumption
  · intro _ _
    apply appendEnd_kept
    assumption

theorem runAppend_kept
    {src : Sys2Proof.Fetch} {s : State} {w : Work} (h : Kept m p s) :
    Kept m p (runAppend src s w) := by
  unfold runAppend
  apply withSubject_kept
  · assumption
  · intro _
    apply checked_kept
    · assumption
    · intro _ _
      split
      · assumption
      · dsimp only
        refine Kept.ite (fun _ => ?_) (fun _ => ?_)
        · apply appendWith_kept
          assumption
        · refine Kept.ite (fun _ => ?_) (fun _ => ?_)
          · apply appendWith_kept
            assumption
          · apply withOperand_kept
            · assumption
            · intro _ _ _
              apply appendWith_kept
              assumption

theorem execAppendTokens_kept
    {work : Nat} {src : Sys2Proof.Fetch} {s : State} (h : Kept m p s) :
    ∃ t, execAppendTokens work src s = .next t ∧ Kept m p t := by
  unfold execAppendTokens
  apply act_kept
  · assumption
  · intro _ _
    apply runWork_kept
    · assumption
    · intro _ _ _ _
      apply durably_kept
      · assumption
      · intro _
        apply runAppend_kept
        assumption

theorem setText_kept
    {s : State} {w : Work} {x : Subject} {t : TextState} (h : Kept m p s) :
    Kept m p (setText s w x t) := by
  unfold setText
  apply conclude_kept
  · assumption
  · refine payloadsWf_append ?_ ?_
    · apply textTiles_wf
    · apply headTiles_wf
  · refine effectsWf_cons trivial ?_
    exact effectsWf_nil

theorem withSource_kept
    {s : State} {w : Work} {len : Nat} {src : Sys2Proof.Fetch} {f : State → List Sys2Proof.Byte → State} (h : Kept m p s)
    (hf : ∀ x0 x1, Kept m p x0 → Kept m p (f x0 x1)) :
    Kept m p (withSource s w len src f) := by
  unfold withSource
  refine Kept.ite (fun _ => ?_) (fun _ => ?_)
  · apply hf
    assumption
  · apply checked_kept
    · assumption
    · intro _ _
      apply withOperand_kept
      · assumption
      · assumption

theorem runSetStops_kept
    {src : Sys2Proof.Fetch} {s : State} {w : Work} (h : Kept m p s) :
    Kept m p (runSetStops src s w) := by
  unfold runSetStops
  apply withSubject_kept
  · assumption
  · intro _
    apply checked_kept
    · assumption
    · intro _ _
      apply withSource_kept
      · assumption
      · intro _ _ _
        apply checked_kept
        · assumption
        · intro _ _
          apply setText_kept
          assumption

theorem execSetStops_kept
    {work : Nat} {src : Sys2Proof.Fetch} {s : State} (h : Kept m p s) :
    ∃ t, execSetStops work src s = .next t ∧ Kept m p t := by
  unfold execSetStops
  apply act_kept
  · assumption
  · intro _ _
    apply runWork_kept
    · assumption
    · intro _ _ _ _
      apply durably_kept
      · assumption
      · intro _
        apply runSetStops_kept
        assumption

theorem runSetSampler_kept
    {src : Sys2Proof.Fetch} {s : State} {w : Work} (h : Kept m p s) :
    Kept m p (runSetSampler src s w) := by
  unfold runSetSampler
  apply withSubject_kept
  · assumption
  · intro _
    apply checked_kept
    · assumption
    · intro _ _
      apply withSource_kept
      · assumption
      · intro _ _ _
        apply setText_kept
        assumption

theorem execSetSampler_kept
    {work : Nat} {src : Sys2Proof.Fetch} {s : State} (h : Kept m p s) :
    ∃ t, execSetSampler work src s = .next t ∧ Kept m p t := by
  unfold execSetSampler
  apply act_kept
  · assumption
  · intro _ _
    apply runWork_kept
    · assumption
    · intro _ _ _ _
      apply durably_kept
      · assumption
      · intro _
        apply runSetSampler_kept
        assumption

theorem cancelItems_kept
    {s : State} {h1 : Nat} (h : Kept m p s) :
    Kept m p (cancelItems s h1) := by
  unfold cancelItems
  refine Kept.upd ?_ regs_of beds_of plan_of tiles_of lodged_of work_of steps_of captures_of
  assumption

theorem maskHalt_kept
    {s : State} {w : Work} {x : Subject} (h : Kept m p s) :
    Kept m p (maskHalt s w x) := by
  unfold maskHalt
  refine Kept.ite (fun _ => ?_) (fun _ => ?_)
  · assumption
  · dsimp only
    refine Kept.ite (fun _ => ?_) (fun _ => ?_)
    · apply finish_kept
      · apply cancelItems_kept
        assumption
      · exact effectsWf_nil
    · apply finish_kept
      · apply cancelItems_kept
        assumption
      · refine effectsWf_cons trivial ?_
        exact effectsWf_nil

theorem maskEnd_kept
    {s : State} {w : Work} {x : Subject} {v : Voc} {nodes : List (List Nat)} (h : Kept m p s) :
    Kept m p (maskEnd s w x v nodes) := by
  unfold maskEnd
  dsimp only
  refine Kept.ite (fun _ => ?_) (fun _ => ?_)
  · apply maskHalt_kept
    assumption
  · apply concludeOut_kept
    · apply updWork_kept
      · refine Kept.upd ?_ regs_of beds_of plan_of tiles_of lodged_of work_of steps_of captures_of
        assumption
      · exact fun t ht => ht
    · exact payloadsWf_nil
    · exact effectsWf_nil

theorem runMask_kept
    {tree : Bool} {s : State} {w : Work} (h : Kept m p s) :
    Kept m p (runMask tree s w) := by
  unfold runMask
  apply withSubject_kept
  · assumption
  · intro _
    apply checked_kept
    · assumption
    · intro _ _
      split
      · assumption
      · dsimp only
        apply checked_kept
        · assumption
        · intro _ _
          apply maskEnd_kept
          assumption

theorem execMaskStep_kept
    {work : Nat} {s : State} (h : Kept m p s) :
    ∃ t, execMaskStep work s = .next t ∧ Kept m p t := by
  unfold execMaskStep
  apply act_kept
  · assumption
  · intro _ _
    apply runWork_kept
    · assumption
    · intro _ _ _ _
      apply runMask_kept
      assumption

theorem execMaskTree_kept
    {work : Nat} {s : State} (h : Kept m p s) :
    ∃ t, execMaskTree work s = .next t ∧ Kept m p t := by
  unfold execMaskTree
  apply act_kept
  · assumption
  · intro _ _
    apply runWork_kept
    · assumption
    · intro _ _ _ _
      apply runMask_kept
      assumption

theorem setGrammar_kept
    {s : State} {w : Work} {x : Subject} {t : TextState} (h : Kept m p s) :
    Kept m p (setGrammar s w x t) := by
  unfold setGrammar
  apply conclude_kept
  · assumption
  · refine payloadsWf_append ?_ ?_
    · apply textTiles_wf
    · apply headTiles_wf
  · refine effectsWf_cons trivial ?_
    refine effectsWf_map (fun _ _ => trivial)

theorem runMaskConfigure_kept
    {src : Sys2Proof.Fetch} {s : State} {w : Work} (h : Kept m p s) :
    Kept m p (runMaskConfigure src s w) := by
  unfold runMaskConfigure
  apply withSubject_kept
  · assumption
  · intro _
    dsimp only
    apply checked_kept
    · assumption
    · intro _ _
      apply withOperand_kept
      · assumption
      · intro _ _ _
        apply checked_kept
        · assumption
        · intro _ _
          apply setGrammar_kept
          assumption

theorem execMaskConfigure_kept
    {work : Nat} {src : Sys2Proof.Fetch} {s : State} (h : Kept m p s) :
    ∃ t, execMaskConfigure work src s = .next t ∧ Kept m p t := by
  unfold execMaskConfigure
  apply act_kept
  · assumption
  · intro _ _
    apply runWork_kept
    · assumption
    · intro _ _ _ _
      apply durably_kept
      · assumption
      · intro _
        apply runMaskConfigure_kept
        assumption

theorem runMaskClear_kept
    {s : State} {w : Work} (h : Kept m p s) :
    Kept m p (runMaskClear s w) := by
  unfold runMaskClear
  apply withSubject_kept
  · assumption
  · intro _
    apply checked_kept
    · assumption
    · intro _ _
      apply setGrammar_kept
      assumption

theorem execMaskClear_kept
    {work : Nat} {s : State} (h : Kept m p s) :
    ∃ t, execMaskClear work s = .next t ∧ Kept m p t := by
  unfold execMaskClear
  apply act_kept
  · assumption
  · intro _ _
    apply runWork_kept
    · assumption
    · intro _ _ _ _
      apply durably_kept
      · assumption
      · intro _
        apply runMaskClear_kept
        assumption

end Sys2Proof.Laws
end

