-- ==== Sys2Proof/Laws/KeptModels.lean ====
section
/-! SUPPORT. Every operation and meaning of Machine/Models.lean keeps the form. -/

namespace Sys2Proof.Laws

open Sys2Proof Sys2Proof.Machine Sys2Proof.Safety

variable {m : Model} {p : List Instr}

theorem loadModel_kept
    {s : State} {k1 : Nat} {img : Sys2Proof.Fetch} {table : Option (List Sys2Proof.Byte)} {digestsOk : Bool}
    (h : Kept m p s) :
    Kept m p (loadModel s k1 img table digestsOk) := by
  unfold loadModel
  refine Kept.ite (fun _ => ?_) (fun _ => ?_)
  · apply regSet_kept
    assumption
  · dsimp only
    apply sourced_kept
    · assumption
    · intro _ _ _
      apply loadResult_kept
      refine Kept.ite (fun _ => ?_) (fun _ => ?_)
      · refine Kept.upd ?_ regs_of beds_of plan_of tiles_of lodged_of work_of steps_of captures_of
        apply regSet_kept
        assumption
      · apply regSet_kept
        assumption

theorem execModelLoad_kept
    {path : Sys2Proof.Path} {img : Sys2Proof.Fetch} {table : Option (List Sys2Proof.Byte)} {digestsOk : Bool} {s : State}
    (h : Kept m p s) :
    ∃ t, execModelLoad path img table digestsOk s = .next t ∧ Kept m p t := by
  unfold execModelLoad
  apply act_kept
  · assumption
  · intro _ _
    apply whenRunning_kept
    · assumption
    · intro _ _
      split
      · assumption
      · apply loadModel_kept
        assumption

theorem startUnload_kept
    {s : State} {k1 : Nat} (h : Kept m p s) :
    Kept m p (startUnload s k1) := by
  unfold startUnload
  refine Kept.upd ?_ regs_of beds_of plan_of tiles_of lodged_of ?_ steps_of captures_of
  · assumption
  · exact fun k => worksWf_updIf k.form.work (fun w hw => hw)

theorem execModelUnload_kept
    {path : Sys2Proof.Path} {s : State} (h : Kept m p s) :
    ∃ t, execModelUnload path s = .next t ∧ Kept m p t := by
  unfold execModelUnload
  apply act_kept
  · assumption
  · intro _ _
    apply whenRunning_kept
    · assumption
    · intro _ _
      split
      · assumption
      · refine Kept.ite (fun _ => ?_) (fun _ => ?_)
        · apply startUnload_kept
          assumption
        · assumption

theorem emptySlot_kept
    {s : State} {k1 : Nat} (h : Kept m p s) :
    Kept m p (emptySlot s k1) := by
  unfold emptySlot
  refine Kept.upd ?_ regs_of beds_of plan_of tiles_of lodged_of work_of steps_of captures_of
  assumption

theorem execModelUnloadDone_kept
    {slot : Nat} {s : State} (h : Kept m p s) :
    ∃ t, execModelUnloadDone slot s = .next t ∧ Kept m p t := by
  unfold execModelUnloadDone
  apply act_kept
  · assumption
  · intro _ _
    apply whenRunning_kept
    · assumption
    · intro _ _
      split
      · assumption
      · refine Kept.ite (fun _ => ?_) (fun _ => ?_)
        · assumption
        · apply regSet_kept
          apply emptySlot_kept
          assumption

theorem draftTiles_wf
    {s : State} {h1 : Nat} (h : Kept m p s) :
    payloadsWf (draftTiles s h1) := by
  unfold draftTiles
  refine payloadsWf_filter ?_
  exact tilesOf_wf (by assumption)

theorem draftRecord_wf
    {x : Subject} {n : Nat} :
    cellsWf (draftRecord x n).payload = true := by
  unfold draftRecord
  rfl

theorem itemTile_wf {old : Option Tile} {x : Subject} {size layer a b number : Nat} {items : List Byte}
    (ho : ∀ t, old = some t → cellsWf t.payload = true) : cellsWf (itemTile old x size layer a b number items).payload = true := by
  unfold itemTile
  split
  · exact cellWrite_wf (ho _ rfl)
  · exact cellsOf_wf

/-- The tiles of runs whose continued tiles are in canonical form. -/
theorem itemTiles_wf {x : Subject} {size : Nat} : ∀ {rs : List ItemRun} {nums : List Nat},
    (∀ r ∈ rs, ∀ t, r.old = some t → cellsWf t.payload = true) → payloadsWf (itemTiles x size rs nums)
  | [], _, _ => payloadsWf_nil
  | r :: _, _, h => payloadsWf_cons (itemTile_wf (h r (List.mem_cons_self ..)))
      (itemTiles_wf fun q hq => h q (List.mem_cons_of_mem _ hq))

/-- A run of drafter KV continues only tiles of the state. -/
theorem itemRuns_wf {s : State} {x : Subject} {layers size : Nat} {runs : List (Nat × Nat)} {fresh : Bool}
    {item : Nat → Nat → List Byte} (h : Kept m p s) :
    ∀ r ∈ itemRuns s x layers size runs fresh item, ∀ t, r.old = some t → cellsWf t.payload = true := by
  intro r hr t e
  obtain ⟨l, -, hr⟩ := List.mem_flatMap.1 hr
  obtain ⟨a, -, rfl⟩ := List.mem_map.1 hr
  dsimp only at e
  split at e
  · cases e
  · exact payloadsWf_find (payloadsWf_filter (tilesOf_wf h)) e

theorem staleItems_wf
    {s : State} {h1 : Nat} {count : Nat} {window : Nat} (h : Kept m p s) :
    payloadsWf (staleItems s h1 count window) := by
  unfold staleItems
  refine payloadsWf_filter ?_
  apply draftTiles_wf (m := m) (p := p)
  assumption

theorem treeTiles_wf
    {s : State} {h1 : Nat} (h : Kept m p s) :
    payloadsWf (treeTiles s h1) := by
  unfold treeTiles
  refine payloadsWf_filter ?_
  apply draftTiles_wf (m := m) (p := p)
  assumption

theorem dropAll_wf {ts : List Tile} : effectsWf (dropAll ts) := effectsWf_map fun _ _ => trivial

end Sys2Proof.Laws
end

