-- ==== Sys2Proof/Laws/KeptIngest.lean ====
section
/-! SUPPORT. Every operation and meaning of Machine/Ingest.lean keeps the form. -/

namespace Sys2Proof.Laws

open Sys2Proof Sys2Proof.Machine Sys2Proof.Safety

variable {m : Model} {p : List Instr}

theorem dropMalformed_kept
    {s : State} {x : Subject} {layer : Nat} {pages : List Nat} (h : Kept m p s) :
    Kept m p (dropMalformed s x layer pages) := by
  unfold dropMalformed
  apply Kept.fold
  · intro _ _ _
    dsimp only
    apply touchMap_kept
    apply event_kept
    refine Kept.upd ?_ regs_of beds_of plan_of tiles_of lodged_of work_of steps_of captures_of
    assumption
  · assumption

theorem kvTile_wf
    {x : Subject} {kind : Nat} {format : Nat} {layer : Nat} {number : Nat} {count : Nat} {first : Nat}
    {b : List Sys2Proof.Byte} :
    cellsWf (kvTile x kind format layer number count first b).payload = true := by
  unfold kvTile
  exact cellsOf_wf

theorem withMarks_wf
    {ps : List (Nat × Bool)} {t : Tile} (ht : cellsWf t.payload = true) :
    cellsWf (withMarks ps t).payload = true := by
  unfold withMarks
  split
  · assumption
  · assumption

theorem expandFor_kept
    {s : State} {x : Subject} {layers : List Nat} {page : Nat} (h : Kept m p s) :
    Kept m p (expandFor s x layers page) := by
  unfold expandFor
  apply Kept.fold
  · intro _ _ _
    dsimp only
    refine Kept.ite (fun _ => ?_) (fun _ => ?_)
    · apply Kept.fold
      · intro _ _ _
        split
        · refine Kept.ite (fun _ => ?_) (fun _ => ?_)
          · apply expandPair_kept
            assumption
          · assumption
        · assumption
      · assumption
    · apply Kept.fold
      · intro _ _ _
        split
        · refine Kept.ite (fun _ => ?_) (fun _ => ?_)
          · apply expandPair_kept
            assumption
          · assumption
        · assumption
      · assumption
  · assumption

theorem filingTiles_wf
    {s : State} {x : Subject} {layers : List Nat} {page : Nat} (h : Kept m p s) :
    payloadsWf (filingTiles s x layers page) := by
  unfold filingTiles
  refine payloadsWf_flatMap (fun _ _ => ?_)
  dsimp only
  refine payloadsWf_filterMap (fun _ _ _ _ => ?_)
  exact Kept.tile (by assumption) (by assumption)

theorem lodgedOf_wf
    {s : State} {x : Subject} {layers : List Nat} {page : Nat} (h : Kept m p s) :
    payloadsWf (lodgedOf s x layers page) := by
  unfold lodgedOf
  refine payloadsWf_filter ?_
  apply filingTiles_wf (m := m) (p := p)
  assumption

theorem countFiled_kept
    {s : State} {w : Work} {x : Subject} {o : LayerOut} (h : Kept m p s) :
    Kept m p (countFiled s w x o) := by
  unfold countFiled
  dsimp only
  apply countAll_kept
  apply countAll_kept
  refine Kept.ite (fun _ => ?_) (fun _ => ?_)
  · assumption
  · apply countReg_kept
    assumption

/-- The tiles and effects of filing a page of one layer. -/
theorem writePage_wf {s : State} {x : Subject} {layer page valid : Nat} {low : Bool} {hps : List HeadPage} {used : List Nat} :
    payloadsWf (writePage s x layer page valid low hps used).tiles ∧
      effectsWf (writePage s x layer page valid low hps used).effects := by
  constructor
  · refine payloadsWf_append (payloadsWf_append (payloadsWf_append ?_ ?_) ?_) ?_
    · exact payloadsWf_map fun _ _ => withMarks_wf cellsOf_wf
    all_goals exact payloadsWf_map fun _ _ => cellsOf_wf
  · exact effectsWf_cons trivial (effectsWf_cons trivial (effectsWf_map fun _ _ => trivial))

theorem fileLayer_wf {s : State} {w : Work} {x : Subject} {layer page v tn fmt i : Nat} {b : List Byte} {used : List Nat} :
    payloadsWf (fileLayer s w x layer page v tn fmt b i used).tiles ∧
      effectsWf (fileLayer s w x layer page v tn fmt b i used).effects := writePage_wf

theorem fileLayers_wf {s : State} {w : Work} {x : Subject} {page v tn fmt : Nat} {b : List Byte} :
    ∀ {l : List (Nat × Nat)} {used : List Nat}, payloadsWf (fileLayers s w x page v tn fmt b l used).tiles ∧
      effectsWf (fileLayers s w x page v tn fmt b l used).effects
  | [], _ => ⟨payloadsWf_nil, effectsWf_nil⟩
  | _ :: _, _ => ⟨payloadsWf_append fileLayer_wf.1 fileLayers_wf.1, effectsWf_append fileLayer_wf.2 fileLayers_wf.2⟩

theorem ingestEnd_kept {s : State} {w : Work} {x : Subject} {layers lost : List Nat} {page v tn fmt : Nat} {b : List Byte}
    {status : Nat} {result : List Byte} {extra : List Effect} (h : Kept m p s) (he : effectsWf extra) :
    Kept m p (ingestEnd s w x layers lost page v tn fmt b status result extra) := by
  unfold ingestEnd
  split
  · exact fail_kept (workEvent_kept h)
  · have h := expandFor_kept (x := x) (layers := layers) (page := page) h
    dsimp only
    split
    · exact h
    · refine Kept.ite (fun _ => fail_kept h) fun _ => Kept.ite (fun _ => fail_kept h) fun _ => ?_
      exact conclude_kept (countFiled_kept h) (payloadsWf_append fileLayers_wf.1 headTiles_wf)
        (effectsWf_append fileLayers_wf.2 he)

theorem ingestWaits_kept
    {s : State} {w : Work} {v : Nat} (h : Kept m p s) :
    Kept m p (ingestWaits s w v) := by
  unfold ingestWaits
  apply updWork_kept
  · assumption
  · exact fun t ht => ht

theorem ingestWith_kept
    {s : State} {w : Work} {x : Subject} {src : Sys2Proof.Fetch} {v : Nat} (h : Kept m p s) :
    Kept m p (ingestWith s w x src v) := by
  unfold ingestWith
  dsimp only
  apply checked_kept
  · assumption
  · intro _ _
    refine Kept.ite (fun _ => ?_) (fun _ => ?_)
    · apply ingestWaits_kept
      assumption
    · apply fetched_kept
      · apply ingestWaits_kept
        assumption
      · intro _ _
        refine Kept.ite (fun _ => ?_) (fun _ => ?_)
        · apply fail_kept
          apply Kept.fold
          · intro _ _ _
            apply dropMalformed_kept
            assumption
          · assumption
        · apply shaped_kept
          · assumption
          · intro _ _
            apply withOperand_kept
            · assumption
            · intro _ _ _
              apply ingestEnd_kept
              · assumption
              · exact effectsWf_nil

theorem runFile_kept
    {src : Sys2Proof.Fetch} {s : State} {w : Work} (h : Kept m p s) :
    Kept m p (runFile src s w) := by
  unfold runFile
  apply withSubject_kept
  · assumption
  · intro _
    apply checked_kept
    · assumption
    · intro _ _
      apply ingestWith_kept
      assumption

theorem execKvIngestFile_kept
    {work : Nat} {src : Sys2Proof.Fetch} {s : State} (h : Kept m p s) :
    ∃ t, execKvIngestFile work src s = .next t ∧ Kept m p t := by
  unfold execKvIngestFile
  apply act_kept
  · assumption
  · intro _ _
    apply runWork_kept
    · assumption
    · intro _ _ _ _
      apply durably_kept
      · assumption
      · intro _
        apply runFile_kept
        assumption

theorem runComplete_kept
    {src : Sys2Proof.Fetch} {s : State} {w : Work} (h : Kept m p s) :
    Kept m p (runComplete src s w) := by
  unfold runComplete
  apply withSubject_kept
  · assumption
  · intro _
    apply checked_kept
    · assumption
    · intro _ _
      apply ingestWith_kept
      assumption

theorem execKvIngestComplete_kept
    {work : Nat} {src : Sys2Proof.Fetch} {s : State} (h : Kept m p s) :
    ∃ t, execKvIngestComplete work src s = .next t ∧ Kept m p t := by
  unfold execKvIngestComplete
  apply act_kept
  · assumption
  · intro _ _
    apply runWork_kept
    · assumption
    · intro _ _ _ _
      apply durably_kept
      · assumption
      · intro _
        apply runComplete_kept
        assumption

theorem setGlobals_kept
    {s : State} {w : Work} {x : Subject} {g : List Nat} (h : Kept m p s) :
    Kept m p (setGlobals s w x g) := by
  unfold setGlobals
  apply conclude_kept
  · assumption
  · apply headTiles_wf
  · refine effectsWf_cons trivial ?_
    exact effectsWf_nil

theorem runRegister_kept
    {s : State} {w : Work} (h : Kept m p s) :
    Kept m p (runRegister s w) := by
  unfold runRegister
  apply withSubject_kept
  · assumption
  · intro _
    refine Kept.ite (fun _ => ?_) (fun _ => ?_)
    · assumption
    · apply checked_kept
      · assumption
      · intro _ _
        apply setGlobals_kept
        assumption

theorem execKvIngestRegister_kept
    {work : Nat} {s : State} (h : Kept m p s) :
    ∃ t, execKvIngestRegister work s = .next t ∧ Kept m p t := by
  unfold execKvIngestRegister
  apply act_kept
  · assumption
  · intro _ _
    apply runWork_kept
    · assumption
    · intro _ _ _ _
      apply durably_kept
      · assumption
      · intro _
        apply runRegister_kept
        assumption

theorem runClear_kept
    {s : State} {w : Work} (h : Kept m p s) :
    Kept m p (runClear s w) := by
  unfold runClear
  apply withSubject_kept
  · assumption
  · intro _
    refine Kept.ite (fun _ => ?_) (fun _ => ?_)
    · assumption
    · apply checked_kept
      · assumption
      · intro _ _
        apply setGlobals_kept
        assumption

theorem execKvIngestClear_kept
    {work : Nat} {s : State} (h : Kept m p s) :
    ∃ t, execKvIngestClear work s = .next t ∧ Kept m p t := by
  unfold execKvIngestClear
  apply act_kept
  · assumption
  · intro _ _
    apply runWork_kept
    · assumption
    · intro _ _ _ _
      apply durably_kept
      · assumption
      · intro _
        apply runClear_kept
        assumption

end Sys2Proof.Laws
end

