-- ==== Sys2Proof/Laws/KeptFarAttn.lean ====
section
/-! SUPPORT. Every operation and meaning of Machine/FarAttn.lean keeps the form. -/

namespace Sys2Proof.Laws

open Sys2Proof Sys2Proof.Machine Sys2Proof.Safety

variable {m : Model} {p : List Instr}

theorem tidyReady_kept
    {s : State} (h : Kept m p s) :
    Kept m p (tidyReady s) := by
  unfold tidyReady
  dsimp only
  refine Kept.upd ?_ regs_of beds_of plan_of tiles_of lodged_of work_of steps_of captures_of
  assumption

theorem setReadyWord_kept
    {s : State} {addr : Nat} {word : Nat} (h : Kept m p s) :
    Kept m p (setReadyWord s addr word) := by
  unfold setReadyWord
  refine Kept.upd ?_ regs_of beds_of plan_of tiles_of lodged_of work_of steps_of captures_of
  assumption

theorem execReadyWordUpdate_kept
    {addr : Nat} {word : Nat} {s : State} (h : Kept m p s) :
    ∃ t, execReadyWordUpdate addr word s = .next t ∧ Kept m p t := by
  unfold execReadyWordUpdate
  apply act_kept
  · assumption
  · intro _ _
    apply whenRunning_kept
    · assumption
    · intro _ _
      refine Kept.ite (fun _ => ?_) (fun _ => ?_)
      · apply setReadyWord_kept
        assumption
      · assumption

theorem execReadyLinePoll_kept
    {addr : Nat} {line : Sys2Proof.Fetch} {s : State} (h : Kept m p s) :
    ∃ t, execReadyLinePoll addr line s = .next t ∧ Kept m p t := by
  unfold execReadyLinePoll
  apply act_kept
  · assumption
  · intro _ _
    apply whenRunning_kept
    · assumption
    · intro _ _
      split
      · assumption
      · refine Kept.ite (fun _ => ?_) (fun _ => ?_)
        · apply Kept.fold
          · intro _ _ _
            apply setReadyWord_kept
            assumption
          · assumption
        · assumption

theorem prefetchLater_kept
    {s : State} {x : Subject} {w : Work} {i : Nat} {pages : List Nat} (h : Kept m p s) :
    Kept m p (prefetchLater s x w i pages) := by
  unfold prefetchLater
  dsimp only
  refine Kept.upd ?_ regs_of beds_of plan_of tiles_of lodged_of work_of steps_of captures_of
  assumption

theorem countLayer_kept
    {s : State} {w : Work} {x : Subject} {layer : Nat} {rs : List FarRec} (h : Kept m p s) :
    Kept m p (countLayer s w x layer rs) := by
  unfold countLayer
  dsimp only
  apply countAll_kept
  refine Kept.ite (fun _ => ?_) (fun _ => ?_)
  · apply workEvent_kept
    assumption
  · assumption

theorem releaseLayer_kept
    {s : State} {w : Work} {x : Subject} {i : Nat} (h : Kept m p s) :
    Kept m p (releaseLayer s w x i).1 := by
  unfold releaseLayer
  dsimp only
  split
  · apply releaseSpan_kept
    assumption
  · split
    · apply releaseSpan_kept
      apply releaseSpan_kept
      assumption
    · apply releaseSpan_kept
      assumption

theorem writeLayer_kept {s : State} {w : Work} {x : Subject} {i : Nat} {rs : List FarRec} (h : Kept m p s) :
    ∀ u, writeLayer s w x i rs = some u → Kept m p u := by
  intro u e
  obtain ⟨q, e1, e2⟩ := Option.bind_eq_some_iff.1 e
  have k := writeNow_kept h q e1
  split at e2
  · cases e2; exact k
  · refine writeNow_kept ?_ u e2
    split
    · exact setReadyWord_kept k
    · exact k

theorem readLayer_kept
    {s : State} {x : Subject} {layer : Nat} {pages : List Nat} {bad : List (Nat × Nat)} (h : Kept m p s) :
    Kept m p (readLayer s x layer pages bad) := by
  unfold readLayer
  dsimp only
  apply dropMalformed_kept
  apply readFails_kept
  assumption

theorem attendLayer_kept
    {s : State} {w : Work} {x : Subject} {i : Nat} {layer : Nat} {absent0 : List Nat} {b : List Sys2Proof.Byte}
    {bad : List (Nat × Nat)} (h : Kept m p s) :
    Kept m p (attendLayer s w x i layer absent0 b bad) := by
  unfold attendLayer
  dsimp only
  refine Kept.ite (fun _ => ?_) (fun _ => ?_)
  · apply tidyReady_kept
    apply fail_kept
    apply readLayer_kept
    assumption
  · split
    · apply tidyReady_kept
      apply fail_kept
      apply readLayer_kept
      assumption
    · refine Kept.ite (fun _ => ?_) (fun _ => ?_)
      · apply updWork_kept
        · apply prefetchLater_kept
          apply countLayer_kept
          apply Kept.fold
          · intro _ _ _
            apply demand_kept
            assumption
          · refine Kept.upd ?_ regs_of beds_of plan_of tiles_of lodged_of work_of steps_of captures_of
            refine writeLayer_kept ?_ _ (by assumption)
            apply readLayer_kept
            assumption
        · exact fun t ht => ht
      · apply tidyReady_kept
        apply done_kept
        apply prefetchLater_kept
        apply countLayer_kept
        apply Kept.fold
        · intro _ _ _
          apply demand_kept
          assumption
        · refine Kept.upd ?_ regs_of beds_of plan_of tiles_of lodged_of work_of steps_of captures_of
          refine writeLayer_kept ?_ _ (by assumption)
          apply readLayer_kept
          assumption

theorem lodgedFor_wf
    {s : State} {x : Subject} {w : Work} {layer : Nat} {absent : List Nat} (h : Kept m p s) :
    payloadsWf (lodgedFor s x w layer absent) := by
  unfold lodgedFor
  dsimp only
  refine payloadsWf_filter ?_
  refine payloadsWf_filterMap (fun _ _ _ _ => ?_)
  exact Kept.tile (by assumption) (by assumption)

theorem runLayer_kept
    {s : State} {w : Work} {x : Subject} {i : Nat} {b : List Sys2Proof.Byte} {bad : List (Nat × Nat)} (h : Kept m p s) :
    Kept m p (runLayer s w x i b bad) := by
  unfold runLayer
  dsimp only
  refine Kept.ite (fun _ => ?_) (fun _ => ?_)
  · apply tidyReady_kept
    apply finish_kept
    · assumption
    · exact effectsWf_nil
  · refine Kept.ite (fun _ => ?_) (fun _ => ?_)
    · apply Kept.fold
      · intro _ _ _
        apply requestTile_kept
        assumption
      · assumption
    · refine Kept.ite (fun _ => ?_) (fun _ => ?_)
      · apply releaseLayer_kept
        assumption
      · apply attendLayer_kept
        apply Kept.fold
        · intro _ _ _
          apply demand_kept
          assumption
        · apply readFails_kept
          apply releaseLayer_kept
          assumption

theorem readAndRun_kept
    {s : State} {w : Work} {x : Subject} {i : Nat} {queries : List Sys2Proof.Fetch} {bad : List (Nat × Nat)}
    (h : Kept m p s) :
    Kept m p (readAndRun s w x i queries bad) := by
  unfold readAndRun
  dsimp only
  split
  · apply runLayer_kept
    refine Kept.of_fst (by assumption) ?_
    apply readAddr_kept
    assumption
  · apply tidyReady_kept
    apply failChk_kept
    refine Kept.of_fst (by assumption) ?_
    apply readAddr_kept
    assumption
  · refine Kept.of_fst (by assumption) ?_
    apply readAddr_kept
    assumption

theorem runLayers_kept {k id : Nat} {s : State} {qs : List Fetch} {bad : List (Nat × Nat)} (h : Kept m p s) :
    Kept m p (runLayers k s id qs bad) := by
  induction k generalizing s with
  | zero => exact h
  | succ k ih =>
    unfold runLayers
    split
    · assumption
    · split
      · assumption
      · refine Kept.ite (fun _ => ?_) (fun _ => ?_)
        · assumption
        · dsimp only
          split
          · apply readAndRun_kept
            assumption
          · refine Kept.ite (fun _ => ?_) (fun _ => ?_)
            · apply readAndRun_kept
              assumption
            · apply ih
              apply readAndRun_kept
              assumption

theorem runFar_kept
    {queries : List Sys2Proof.Fetch} {bad : List (Nat × Nat)} {s : State} {w : Work} (h : Kept m p s) :
    Kept m p (runFar queries bad s w) := by
  unfold runFar
  split
  · apply fail_kept
    assumption
  · apply checked_kept
    · assumption
    · intro _ _
      apply runLayers_kept
      apply tidyReady_kept
      assumption

theorem execFarAttn_kept
    {run : Sys2Proof.ReadRun} {queries : List Sys2Proof.Fetch} {s : State} (h : Kept m p s) :
    ∃ t, execFarAttn run queries s = .next t ∧ Kept m p t := by
  unfold execFarAttn
  apply act_kept
  · assumption
  · intro _ _
    apply runWork_kept
    · assumption
    · intro _ _ _ _
      apply runFar_kept
      assumption

end Sys2Proof.Laws
end

