-- ==== Sys2Proof/Laws/KeptStore.lean ====
section
/-! SUPPORT. Every operation and meaning of Machine/Store.lean keeps the form. -/

namespace Sys2Proof.Laws

open Sys2Proof Sys2Proof.Machine Sys2Proof.Safety

variable {m : Model} {p : List Instr}

-- the tiles that are still to be written to flash are only named

theorem takeTurn_kept
    {s : State} {m1 : Nat × Nat} {c : Nat} (h : Kept m p s) :
    Kept m p (takeTurn s m1 c) := by
  unfold takeTurn
  refine Kept.upd ?_ regs_of beds_of plan_of tiles_of lodged_of work_of steps_of captures_of
  assumption

theorem execWritebackStart_kept
    {s : State} (h : Kept m p s) :
    ∃ t, execWritebackStart s = .next t ∧ Kept m p t := by
  unfold execWritebackStart
  apply act_kept
  · assumption
  · intro _ _
    apply whenRunning_kept
    · assumption
    · intro _ _
      split
      · assumption
      · refine Kept.ite (fun _ => ?_) (fun _ => ?_)
        · assumption
        · refine Kept.upd ?_ regs_of beds_of plan_of tiles_of lodged_of work_of steps_of captures_of
          assumption

theorem inFlash_wf
    {s : State} {t : Tile} (h : Kept m p s) (ht : cellsWf t.payload = true) :
    cellsWf (inFlash s t).payload = true := by
  unfold inFlash
  assumption

theorem updStaged_kept {s : State} {h1 n : Nat} {f : Tile → Tile} (h : Kept m p s)
    (hf : ∀ t, cellsWf t.payload = true → cellsWf (f t).payload = true) : Kept m p (updStaged s h1 n f) := by
  refine Kept.upd h regs_of beds_of plan_of tiles_of lodged_of (fun k => ?_) steps_of captures_of
  refine worksWf_change k.form.work fun w hw => effectsWf_map fun e he => ?_
  have := hw e he
  cases e with
  | tile t =>
    show cellsWf (if _ then f t else t).payload = true
    split
    · exact hf t this
    · exact this
  | _ => exact this

theorem execWritebackTileDone_kept {handle number : Nat} {s : State} (h : Kept m p s) :
    ∃ t, execWritebackTileDone handle number s = .next t ∧ Kept m p t := by
  refine act_kept h fun s k => whenRunning_kept k fun s k => ?_
  split
  · exact k
  · dsimp only
    refine updStaged_kept (updHeld_kept (Kept.elim (takeTurn_kept ?_) fun _ _ => countMove_kept (takeTurn_kept ?_)) ?_) ?_
    · exact Kept.upd k regs_of beds_of plan_of tiles_of lodged_of work_of steps_of captures_of
    · exact Kept.upd k regs_of beds_of plan_of tiles_of lodged_of work_of steps_of captures_of
    · exact fun t ht => by split <;> exact ht
    · exact fun t ht => by split <;> exact ht

theorem execSpillStart_kept
    {tier : Nat} {scope : Nat} {s : State} (h : Kept m p s) :
    ∃ t, execSpillStart tier scope s = .next t ∧ Kept m p t := by
  unfold execSpillStart
  apply act_kept
  · assumption
  · intro _ _
    apply whenRunning_kept
    · assumption
    · intro _ _
      refine Kept.ite (fun _ => ?_) (fun _ => ?_)
      · refine Kept.upd ?_ regs_of beds_of plan_of tiles_of lodged_of work_of steps_of captures_of
        assumption
      · assumption

theorem lowerPair_kept
    {s : State} {x : Subject} {l : LayerMap} {k1 : Nat} {a : Tile} {b : Tile} {codes : List Sys2Proof.Byte}
    {scales : List Sys2Proof.Byte} {tier : Nat} {places : List Nat} (h : Kept m p s) :
    Kept m p (lowerPair s x l k1 a b codes scales tier places) := by
  unfold lowerPair
  dsimp only
  apply touchMap_kept
  apply updSubj_kept
  apply freeTile_kept
  apply commitAt_kept
  · assumption
  · exact cellsOf_wf

theorem spillPlain_kept
    {s : State} {t : Tile} {tier : Nat} {places : List Nat} (h : Kept m p s) :
    Kept m p (spillPlain s t tier places) := by
  unfold spillPlain
  apply updHeld_kept
  · refine Kept.ite (fun _ => ?_) (fun _ => ?_)
    · assumption
    · apply countMove_kept
      assumption
  · (intro t ht; split <;> exact ht)

theorem spillOne_kept
    {s : State} {t : Tile} (h : Kept m p s) :
    Kept m p (spillOne s t) := by
  unfold spillOne
  split
  · assumption
  · refine Kept.ite (fun _ => ?_) (fun _ => ?_)
    · split
      · assumption
      · dsimp only
        refine Kept.ite (fun _ => ?_) (fun _ => ?_)
        · apply lowerPair_kept
          assumption
        · split
          · apply spillPlain_kept
            apply spillPlain_kept
            apply countReg_kept
            apply dropMalformed_kept
            assumption
          · apply spillPlain_kept
            apply countReg_kept
            apply dropMalformed_kept
            assumption
    · apply spillPlain_kept
      assumption

theorem endSpills_kept
    {s : State} (h : Kept m p s) :
    Kept m p (endSpills s) := by
  unfold endSpills
  dsimp only
  refine Kept.upd ?_ regs_of beds_of plan_of tiles_of lodged_of work_of steps_of captures_of
  assumption

theorem spillDone_kept
    {s : State} {t : Tile} (h : Kept m p s) :
    Kept m p (spillDone s t) := by
  unfold spillDone
  dsimp only
  refine Kept.ite (fun _ => ?_) (fun _ => ?_)
  · apply endSpills_kept
    apply spillOne_kept
    split
    · apply takeTurn_kept
      apply releaseLines_kept
      assumption
    · apply releaseLines_kept
      assumption
  · apply releaseLines_kept
    assumption

theorem drainTile_kept
    {s : State} {t : Tile} (h : Kept m p s) :
    Kept m p (drainTile s t) := by
  unfold drainTile
  dsimp only
  refine Kept.ite (fun _ => ?_) (fun _ => ?_)
  · refine Kept.ite (fun _ => ?_) (fun _ => ?_)
    · apply spillOne_kept
      assumption
    · assumption
  · apply updHeld_kept
    · refine Kept.ite (fun _ => ?_) (fun _ => ?_)
      · apply updHeld_kept
        · assumption
        · exact fun t ht => ht
      · assumption
    · exact fun t ht => ht

theorem execSpillTileDone_kept
    {handle : Nat} {number : Nat} {s : State} (h : Kept m p s) :
    ∃ t, execSpillTileDone handle number s = .next t ∧ Kept m p t := by
  unfold execSpillTileDone
  apply act_kept
  · assumption
  · intro _ _
    apply whenRunning_kept
    · assumption
    · intro _ _
      dsimp only
      split
      · apply endSpills_kept
        assumption
      · refine Kept.ite (fun _ => ?_) (fun _ => ?_)
        · apply endSpills_kept
          apply drainTile_kept
          apply endSpills_kept
          assumption
        · split
          · apply endSpills_kept
            assumption
          · refine Kept.ite (fun _ => ?_) (fun _ => ?_)
            · apply spillDone_kept
              apply endSpills_kept
              assumption
            · apply endSpills_kept
              assumption

theorem bringT2_kept
    {s : State} {h1 : Nat} {n : Nat} (h : Kept m p s) :
    Kept m p (bringT2 s h1 n).1 := by
  unfold bringT2
  split
  · assumption
  · split
    · assumption
    · split
      · dsimp only
        apply useTile_kept
        assumption
      · split
        · dsimp only
          apply expandPair_kept
          assumption
        · split
          · dsimp only
            apply updTile_kept
            · apply countMove_kept
              assumption
            · exact fun t ht => ht
          · assumption

theorem raiseT1_kept
    {s : State} {h1 : Nat} {n : Nat} {bed : Nat} (h : Kept m p s) :
    Kept m p (raiseT1 s h1 n bed).1 := by
  unfold raiseT1
  split
  · assumption
  · split
    · dsimp only
      apply bringT1_kept
      apply bringT2_kept
      assumption
    · apply bringT1_kept
      assumption

theorem raiseDemand_kept
    {s : State} {h1 : Nat} {n : Nat} {bed : Nat} (h : Kept m p s) :
    Kept m p (raiseDemand s h1 n bed).1 := by
  unfold raiseDemand
  split
  · assumption
  · split
    · apply raiseT1_kept
      assumption
    · apply raiseT1_kept
      apply bringT2_kept
      assumption

theorem serveItem_kept
    {s : State} {source : Nat} {t : Tile} (h : Kept m p s) :
    Kept m p (serveItem s source t) := by
  unfold serveItem
  refine Kept.ite (fun _ => ?_) (fun _ => ?_)
  · apply raiseDemand_kept
    apply demand_kept
    assumption
  · refine Kept.ite (fun _ => ?_) (fun _ => ?_)
    · apply bringT2_kept
      assumption
    · apply raiseT1_kept
      assumption

theorem execPrefetchItem_kept
    {source : Nat} {handle : Nat} {tile : Sys2Proof.TileRead} {s : State} (h : Kept m p s) :
    ∃ t, execPrefetchItem source handle tile s = .next t ∧ Kept m p t := by
  unfold execPrefetchItem
  apply act_kept
  · assumption
  · intro _ _
    apply whenRunning_kept
    · assumption
    · intro _ _
      dsimp only
      refine Kept.ite (fun _ => ?_) (fun _ => ?_)
      · split
        · refine Kept.upd ?_ regs_of beds_of plan_of tiles_of lodged_of work_of steps_of captures_of
          assumption
        · refine Kept.ite (fun _ => ?_) (fun _ => ?_)
          · refine Kept.upd ?_ regs_of beds_of plan_of tiles_of lodged_of work_of steps_of captures_of
            assumption
          · refine Kept.ite (fun _ => ?_) (fun _ => ?_)
            · assumption
            · refine Kept.ite (fun _ => ?_) (fun _ => ?_)
              · apply masterFails_kept
                assumption
              · apply serveItem_kept
                apply takeTurn_kept
                refine Kept.upd ?_ regs_of beds_of plan_of tiles_of lodged_of work_of steps_of captures_of
                assumption
      · assumption

theorem withRange_kept
    {path : Sys2Proof.Path} {f : State → Nat → State} {s : State} (h : Kept m p s)
    (hf : ∀ x0 x1, Kept m p x0 → Kept m p (f x0 x1)) :
    Kept m p (withRange path f s) := by
  unfold withRange
  split
  · assumption
  · apply hf
    assumption

theorem execT3Grant_kept
    {path : Sys2Proof.Path} {s : State} (h : Kept m p s) :
    ∃ t, execT3Grant path s = .next t ∧ Kept m p t := by
  unfold execT3Grant
  apply act_kept
  · assumption
  · intro _ _
    apply whenRunning_kept
    · assumption
    · intro _ _
      apply withRange_kept
      · assumption
      · intro _ _ _
        refine Kept.ite (fun _ => ?_) (fun _ => ?_)
        · apply regSet_kept
          apply regSet_kept
          assumption
        · assumption

theorem execT3Withdraw_kept
    {path : Sys2Proof.Path} {s : State} (h : Kept m p s) :
    ∃ t, execT3Withdraw path s = .next t ∧ Kept m p t := by
  unfold execT3Withdraw
  apply act_kept
  · assumption
  · intro _ _
    apply whenRunning_kept
    · assumption
    · intro _ _
      apply withRange_kept
      · assumption
      · intro _ _ _
        refine Kept.ite (fun _ => ?_) (fun _ => ?_)
        · apply regSet_kept
          apply regSet_kept
          assumption
        · assumption

theorem execT3Drain_kept
    {path : Sys2Proof.Path} {s : State} (h : Kept m p s) :
    ∃ t, execT3Drain path s = .next t ∧ Kept m p t := by
  unfold execT3Drain
  apply act_kept
  · assumption
  · intro _ _
    apply whenRunning_kept
    · assumption
    · intro _ _
      apply withRange_kept
      · assumption
      · intro _ _ _
        refine Kept.ite (fun _ => ?_) (fun _ => ?_)
        · apply regSet_kept
          assumption
        · assumption

theorem execT3Compute_kept
    {path : Sys2Proof.Path} {s : State} (h : Kept m p s) :
    ∃ t, execT3Compute path s = .next t ∧ Kept m p t := by
  unfold execT3Compute
  apply act_kept
  · assumption
  · intro _ _
    apply whenRunning_kept
    · assumption
    · intro _ _
      apply withRange_kept
      · assumption
      · intro _ _ _
        refine Kept.ite (fun _ => ?_) (fun _ => ?_)
        · apply regSet_kept
          assumption
        · assumption

theorem execT3RangeLost_kept
    {range : Nat} {s : State} (h : Kept m p s) :
    ∃ t, execT3RangeLost range s = .next t ∧ Kept m p t := by
  unfold execT3RangeLost
  apply act_kept
  · assumption
  · intro _ _
    apply whenRunning_kept
    · assumption
    · intro _ _
      refine Kept.ite (fun _ => ?_) (fun _ => ?_)
      · apply loseRange_kept
        assumption
      · assumption

theorem refuseAccess_kept
    {s : State} {a : Access} (h : Kept m p s) :
    Kept m p (refuseAccess s a) := by
  unfold refuseAccess
  apply emit_kept
  assumption

theorem refuseEvent_kept
    {s : State} {a : Access} {reason : Nat} {slot : Nat} {handle : Nat} {arg : List Nat} (h : Kept m p s) :
    Kept m p (refuseEvent s a reason slot handle arg) := by
  unfold refuseEvent
  apply event_kept
  apply refuseAccess_kept
  assumption

theorem refuseMedia_kept
    {s : State} {a : Access} {reason : Nat} {slot : Nat} {handle : Nat} {arg : List Nat} (h : Kept m p s) :
    Kept m p (refuseMedia s a reason slot handle arg) := by
  unfold refuseMedia
  dsimp only
  refine Kept.ite (fun _ => ?_) (fun _ => ?_)
  · apply eventAt_kept
    apply refuseEvent_kept
    assumption
  · apply refuseEvent_kept
    assumption

theorem waitAccess_kept
    {s : State} {a : Access} (h : Kept m p s) :
    Kept m p (waitAccess s a) := by
  unfold waitAccess
  refine Kept.ite (fun _ => ?_) (fun _ => ?_)
  · assumption
  · refine Kept.upd ?_ regs_of beds_of plan_of tiles_of lodged_of work_of steps_of captures_of
    assumption

theorem holdLine_kept
    {s : State} {a : Access} (h : Kept m p s) :
    Kept m p (holdLine s a) := by
  unfold holdLine
  dsimp only
  refine Kept.ite (fun _ => ?_) (fun _ => ?_)
  · assumption
  · refine Kept.upd ?_ regs_of beds_of plan_of tiles_of lodged_of work_of steps_of captures_of
    assumption

theorem storeInto_kept
    {s : State} {t : Tile} {f : Nat} {off : Nat} {b : List Sys2Proof.Byte} (h : Kept m p s)
    (ht : cellsWf t.payload = true) :
    Kept m p (storeInto s t f off b) := by
  unfold storeInto
  dsimp only
  apply carryPoison_kept
  refine Kept.ite (fun _ => ?_) (fun _ => ?_)
  · apply commitNow_kept
    · assumption
    · exact cellWrite_wf (by assumption)
  · refine Kept.ite (fun _ => ?_) (fun _ => ?_)
    · apply commitAt_kept
      · assumption
      · exact cellWrite_wf (by assumption)
    · apply putTile_kept
      · assumption
      · exact cellWrite_wf (by assumption)

theorem storeSpan_kept {s : State} {off : Nat} {b : List Byte} (h : Kept m p s) : Kept m p (storeSpan s off b) := by
  refine Kept.fold (fun s f k => ?_) _ h
  split
  · exact k
  · rename_i e
    obtain ⟨q, -, e⟩ := Option.bind_eq_some_iff.1 e
    exact storeInto_kept k (k.tile e)

theorem taintSpan_kept
    {s : State} {off : Nat} {len : Nat} (h : Kept m p s) :
    Kept m p (taintSpan s off len) := by
  unfold taintSpan
  refine Kept.upd ?_ regs_of beds_of plan_of tiles_of lodged_of work_of steps_of captures_of
  assumption

/-- A fold over tiles with a number each. -/
theorem Kept.foldNumbered {f : State → Nat × Tile → State} {l : List (Nat × Tile)} {s : State}
    (hf : ∀ s a, cellsWf a.2.payload = true → Kept m p s → Kept m p (f s a)) (hl : ∀ a ∈ l, cellsWf a.2.payload = true)
    (h : Kept m p s) : Kept m p (l.foldl f s) := Kept.fold_mem hf l hl h

theorem serveAccess_kept {s : State} {a : Access} {ts : List (Nat × Tile)} (h : Kept m p s)
    (hts : ∀ x ∈ ts, cellsWf x.2.payload = true) : Kept m p (serveAccess s a ts) := by
  unfold serveAccess
  split
  · split
    · exact waitAccess_kept (snoopLines_kept h)
    · exact Kept.fold (fun _ _ k => useTile_kept k) _ (holdLine_kept (emit_kept h))
  · refine Kept.ite (fun _ => ?_) fun _ => waitAccess_kept (snoopLines_kept h)
    have k := fun b => Kept.foldNumbered (f := fun s t => storeInto s t.2 t.1 a.off b) (fun _ _ ht k => storeInto_kept k ht) hts h
    exact Kept.ite (fun _ => taintSpan_kept (k _)) fun _ => k _

theorem promote_kept
    {s : State} {t : Tile} (h : Kept m p s) :
    Kept m p (promote s t) := by
  unfold promote
  refine Kept.ite (fun _ => ?_) (fun _ => ?_)
  · assumption
  · apply emit_kept
    refine Kept.upd ?_ regs_of beds_of plan_of tiles_of lodged_of work_of steps_of captures_of
    assumption

/-- Tiles that are looked up again, with a number each. -/
theorem shownTiles_wf {s : State} {l : List Tile} {fs : List Nat} {n : Nat} (h : Kept m p s) :
    ∀ x ∈ (List.range n).filterMap (fun i =>
      ((l.filterMap fun t => tileOf s t.handle t.number)[i]?).map fun t => (fs.getD i 0, t)), cellsWf x.2.payload = true := by
  intro x hx
  obtain ⟨i, -, e⟩ := List.mem_filterMap.1 hx
  obtain ⟨t, e1, rfl⟩ := Option.map_eq_some_iff.1 e
  obtain ⟨o, -, e2⟩ := List.mem_filterMap.1 (List.mem_of_getElem? e1)
  exact h.tile e2

theorem routeAccess_kept {s : State} {a : Access} (h : Kept m p s) : Kept m p (routeAccess s a) := by
  have k := framesChecked_kept (off := a.off) (len := a.len) h
  unfold routeAccess
  dsimp only
  split
  · exact refuseMedia_kept h
  · split
    · exact refuseMedia_kept h
    · split
      · exact refuseMedia_kept h
      · split
        · exact refuseMedia_kept k
        · split
          · exact refuseMedia_kept k
          · split
            · exact waitAccess_kept (promote_kept k)
            · exact serveAccess_kept k (shownTiles_wf k)

theorem dropLines_kept
    {s : State} {p1 : Nat × Nat → Bool} (h : Kept m p s) :
    Kept m p (dropLines s p1) := by
  unfold dropLines
  refine Kept.upd ?_ regs_of beds_of plan_of tiles_of lodged_of work_of steps_of captures_of
  assumption

theorem endRelease_kept
    {s : State} {e : Extent} (h : Kept m p s) :
    Kept m p (endRelease s e) := by
  unfold endRelease
  dsimp only
  apply eventAt_kept
  refine Kept.upd ?_ regs_of beds_of plan_of tiles_of lodged_of work_of steps_of captures_of
  apply dropLines_kept
  assumption

theorem endReleases_kept
    {s : State} (h : Kept m p s) :
    Kept m p (endReleases s) := by
  unfold endReleases
  apply Kept.fold
  · intro _ _ _
    apply endRelease_kept
    assumption
  · assumption

theorem retryAccesses_kept
    {s : State} (h : Kept m p s) :
    Kept m p (retryAccesses s) := by
  unfold retryAccesses
  apply endReleases_kept
  apply Kept.fold
  · intro _ _ _
    apply routeAccess_kept
    assumption
  · refine Kept.upd ?_ regs_of beds_of plan_of tiles_of lodged_of work_of steps_of captures_of
    assumption

theorem arriveAt_kept
    {s : State} {h1 : Nat} {n : Nat} (h : Kept m p s) :
    Kept m p (arriveAt s h1 n) := by
  unfold arriveAt
  split
  · assumption
  · dsimp only
    refine Kept.upd ?_ regs_of beds_of plan_of tiles_of lodged_of work_of steps_of captures_of
    assumption

theorem hostAccess_kept
    {s : State} {pbr : Nat} {addr : Nat} {te : Bool} {body : Option (List Sys2Proof.Byte)} {tainted : Bool}
    (h : Kept m p s) :
    Kept m p (hostAccess s pbr addr te body tainted) := by
  unfold hostAccess
  split
  · apply refuseEvent_kept
    assumption
  · dsimp only
    refine Kept.ite (fun _ => ?_) (fun _ => ?_)
    · assumption
    · refine Kept.ite (fun _ => ?_) (fun _ => ?_)
      · apply refuseAccess_kept
        assumption
      · refine Kept.ite (fun _ => ?_) (fun _ => ?_)
        · apply refuseEvent_kept
          assumption
        · refine Kept.ite (fun _ => ?_) (fun _ => ?_)
          · apply refuseEvent_kept
            assumption
          · apply routeAccess_kept
            assumption

theorem whenServing_kept
    {body : Option (List Sys2Proof.Byte)} {f : State → State} {s : State} (h : Kept m p s)
    (hf : ∀ x0, Kept m p x0 → Kept m p (f x0)) :
    Kept m p (whenServing body f s) := by
  unfold whenServing
  refine Kept.ite (fun _ => ?_) (fun _ => ?_)
  · apply hf
    assumption
  · refine Kept.ite (fun _ => ?_) (fun _ => ?_)
    · apply emit_kept
      assumption
    · assumption

theorem execHostLoad_kept
    {pbr : Nat} {addr : Nat} {te : Bool} {s : State} (h : Kept m p s) :
    ∃ t, execHostLoad pbr addr te s = .next t ∧ Kept m p t := by
  unfold execHostLoad
  apply act_kept
  · assumption
  · intro _ _
    apply whenServing_kept
    · assumption
    · intro _ _
      apply hostAccess_kept
      assumption

theorem execHostStore_kept
    {pbr : Nat} {addr : Nat} {te : Bool} {body : Sys2Proof.Fetch} {s : State} (h : Kept m p s) :
    ∃ t, execHostStore pbr addr te body s = .next t ∧ Kept m p t := by
  unfold execHostStore
  split
  · apply act_kept
    · assumption
    · intro _ _
      apply whenServing_kept
      · assumption
      · intro _ _
        apply hostAccess_kept
        assumption
  · apply act_kept
    · assumption
    · intro _ _
      apply whenServing_kept
      · assumption
      · intro _ _
        apply hostAccess_kept
        assumption

theorem execPeerUioAccess_kept
    {pbr : Nat} {off : Nat} {len : Nat} {write : Option (List Sys2Proof.Byte)} {s : State} (h : Kept m p s) :
    ∃ t, execPeerUioAccess pbr off len write s = .next t ∧ Kept m p t := by
  unfold execPeerUioAccess
  apply act_kept
  · assumption
  · intro _ _
    apply whenServing_kept
    · assumption
    · intro _ _
      refine Kept.ite (fun _ => ?_) (fun _ => ?_)
      · assumption
      · dsimp only
        split
        · apply event_kept
          apply refuseAccess_kept
          assumption
        · apply routeAccess_kept
          assumption

theorem execTilePromotionDone_kept
    {handle : Nat} {number : Nat} {good : Bool} {s : State} (h : Kept m p s) :
    ∃ t, execTilePromotionDone handle number good s = .next t ∧ Kept m p t := by
  unfold execTilePromotionDone
  apply act_kept
  · assumption
  · intro _ _
    apply whenRunning_kept
    · assumption
    · intro _ _
      refine Kept.ite (fun _ => ?_) (fun _ => ?_)
      · assumption
      · dsimp only
        apply retryAccesses_kept
        refine Kept.ite (fun _ => ?_) (fun _ => ?_)
        · apply raiseDemand_kept
          apply updTile_kept
          · apply arriveAt_kept
            refine Kept.upd ?_ regs_of beds_of plan_of tiles_of lodged_of work_of steps_of captures_of
            assumption
          · exact fun t ht => ht
        · apply masterFails_kept
          refine Kept.upd ?_ regs_of beds_of plan_of tiles_of lodged_of work_of steps_of captures_of
          assumption

theorem execBiResponse_kept
    {host : Nat} {line : Nat} {s : State} (h : Kept m p s) :
    ∃ t, execBiResponse host line s = .next t ∧ Kept m p t := by
  unfold execBiResponse
  apply act_kept
  · assumption
  · intro _ _
    apply whenRunning_kept
    · assumption
    · intro _ _
      refine Kept.ite (fun _ => ?_) (fun _ => ?_)
      · apply retryAccesses_kept
        apply dropLines_kept
        assumption
      · assumption

theorem suspendHost_kept
    {s : State} {h1 : Nat} (h : Kept m p s) :
    Kept m p (suspendHost s h1) := by
  unfold suspendHost
  apply dropLines_kept
  apply regSet_kept
  assumption

theorem execBiTimeout_kept
    {host : Nat} {s : State} (h : Kept m p s) :
    ∃ t, execBiTimeout host s = .next t ∧ Kept m p t := by
  unfold execBiTimeout
  apply act_kept
  · assumption
  · intro _ _
    apply whenRunning_kept
    · assumption
    · intro _ _
      refine Kept.ite (fun _ => ?_) (fun _ => ?_)
      · apply retryAccesses_kept
        apply event_kept
        apply suspendHost_kept
        assumption
      · assumption

theorem execHostResume_kept
    {path : Sys2Proof.Path} {s : State} (h : Kept m p s) :
    ∃ t, execHostResume path s = .next t ∧ Kept m p t := by
  unfold execHostResume
  apply act_kept
  · assumption
  · intro _ _
    apply whenRunning_kept
    · assumption
    · intro _ _
      split
      · assumption
      · apply regSet_kept
        assumption

end Sys2Proof.Laws
end

