-- ==== Sys2Proof/Laws/KeptSessions.lean ====
section
/-! SUPPORT. Every operation and meaning of Machine/Sessions.lean keeps the form. -/

namespace Sys2Proof.Laws

open Sys2Proof Sys2Proof.Machine Sys2Proof.Safety

variable {m : Model} {p : List Instr}

theorem stageNew_kept {s : State} {id : Nat} {x : Subject} {ts : List Tile} (h : Kept m p s) (ht : payloadsWf ts) :
    ∀ t, stageNew s id x ts = some t → Kept m p t := by
  intro t e
  obtain ⟨u, e1, rfl⟩ := Option.map_eq_some_iff.1 e
  refine Kept.upd (stageAll_kept ?_ ht u e1) regs_of beds_of plan_of tiles_of lodged_of work_of steps_of captures_of
  exact Kept.upd h regs_of beds_of plan_of tiles_of lodged_of work_of steps_of captures_of

theorem createSubject_kept {s : State} {id : Nat} {x : Subject} {ts : List Tile} (h : Kept m p s) (ht : payloadsWf ts) :
    ∀ t, createSubject s id x ts = some t → Kept m p t := by
  intro t e
  obtain ⟨u, e1, rfl⟩ := Option.map_eq_some_iff.1 e
  exact addEff_kept (placeEntry_kept (stageNew_kept h ht u e1)) trivial

theorem openTiles_wf
    {x : Subject} :
    payloadsWf (openTiles x) := by
  unfold openTiles
  refine payloadsWf_cons ?_ ?_
  · apply recordTile_wf
  · refine payloadsWf_cons ?_ ?_
    · apply recordTile_wf
    · refine payloadsWf_cons ?_ ?_
      · apply recordTile_wf
      · exact payloadsWf_nil

theorem issueHandle_ok {s : State} (h : Kept m p s) : ∀ t n, issueHandle s = .ok t n → Kept m p t := by
  unfold issueHandle
  dsimp only
  intro t n e
  split at e
  · cases e
  · split at e
    · cases e
      exact Kept.upd h regs_of beds_of plan_of tiles_of lodged_of work_of steps_of captures_of
    · split at e
      · cases e
        exact Kept.upd h regs_of beds_of plan_of tiles_of lodged_of work_of steps_of captures_of
      · split at e <;> cases e

theorem issueHandle_wait {s : State} (h : Kept m p s) : ∀ t, issueHandle s = .wait t → Kept m p t := by
  unfold issueHandle
  dsimp only
  intro t e
  split at e
  · cases e
  · split at e
    · cases e
    · split at e
      · cases e
      · split at e
        · cases e; exact h
        · cases e; exact sendStream_kept h

theorem runOpen_kept {s : State} {w : Work} (h : Kept m p s) : Kept m p (runOpen s w) := by
  unfold runOpen
  dsimp only
  apply checked_kept
  · assumption
  · intro _ _
    split
    · refine issueHandle_wait ?_ _ (by assumption)
      assumption
    · refine Kept.ite (fun _ => ?_) (fun _ => ?_)
      · refine issueHandle_ok ?_ _ _ (by assumption)
        assumption
      · split
        · apply fail_kept
          refine issueHandle_ok ?_ _ _ (by assumption)
          assumption
        · apply done_kept
          refine createSubject_kept ?_ ?_ _ (by assumption)
          · refine issueHandle_ok ?_ _ _ (by assumption)
            assumption
          · apply openTiles_wf
    · apply fail_kept
      assumption

theorem execSessionOpen_kept
    {work : Nat} {s : State} (h : Kept m p s) :
    ∃ t, execSessionOpen work s = .next t ∧ Kept m p t := by
  unfold execSessionOpen
  apply act_kept
  · assumption
  · intro _ _
    apply runWork_kept
    · assumption
    · intro _ _ _ _
      apply durably_kept
      · assumption
      · intro _
        apply runOpen_kept
        assumption

theorem leavePlanner_kept
    {s : State} {h1 : Nat} (h : Kept m p s) :
    Kept m p (leavePlanner s h1) := by
  unfold leavePlanner
  refine Kept.upd ?_ regs_of beds_of plan_of tiles_of lodged_of work_of steps_of captures_of
  assumption

theorem unbindAll_kept
    {s : State} {h1 : Nat} (h : Kept m p s) :
    Kept m p (unbindAll s h1) := by
  unfold unbindAll
  dsimp only
  apply dropLines_kept
  refine Kept.upd ?_ regs_of beds_of plan_of tiles_of lodged_of work_of steps_of captures_of
  assumption

theorem detach_kept
    {s : State} {h1 : Nat} (h : Kept m p s) :
    Kept m p (detach s h1) := by
  unfold detach
  dsimp only
  refine Kept.upd ?_ regs_of beds_of plan_of tiles_of lodged_of work_of steps_of ?_
  · apply dirDelete_kept
    apply unbindAll_kept
    assumption
  · exact fun k => capturesWf_filter k.form.captures

theorem forget_kept
    {s : State} {h1 : Nat} (h : Kept m p s) :
    Kept m p (forget s h1) := by
  unfold forget
  dsimp only
  refine Kept.upd ?_ regs_of beds_of plan_of ?_ lodged_of work_of steps_of captures_of
  · apply detach_kept
    refine Kept.upd ?_ regs_of beds_of plan_of tiles_of lodged_of work_of steps_of captures_of
    apply Kept.fold
    · intro _ _ _
      apply releaseLodged_kept
      assumption
    · assumption
  · exact fun k => payloadsWf_filter k.form.tiles

theorem reap_kept {k : Nat} {s : State} (h : Kept m p s) : Kept m p (reap k s) := by
  induction k generalizing s with
  | zero => exact h
  | succ k ih =>
    unfold reap
    split
    · assumption
    · apply ih
      apply forget_kept
      assumption

theorem closeSubject_kept
    {s : State} {x : Subject} (h : Kept m p s) :
    Kept m p (closeSubject s x) := by
  unfold closeSubject
  dsimp only
  apply reap_kept
  refine Kept.ite (fun _ => ?_) (fun _ => ?_)
  · apply updSubj_kept
    apply detach_kept
    apply sendNotice_kept
    assumption
  · apply forget_kept
    apply sendNotice_kept
    assumption

theorem closeAccepted_kept
    {s : State} {w : Work} (h : Kept m p s) :
    Kept m p (closeAccepted s w) := by
  unfold closeAccepted
  split
  · apply fail_kept
    assumption
  · refine Kept.ite (fun _ => ?_) (fun _ => ?_)
    · apply fail_kept
      assumption
    · refine Kept.ite (fun _ => ?_) (fun _ => ?_)
      · apply fail_kept
        assumption
      · dsimp only
        refine Kept.ite (fun _ => ?_) (fun _ => ?_)
        · apply dirDelete_kept
          apply updSubj_kept
          apply cancelItems_kept
          apply failAll_kept
          assumption
        · apply updSubj_kept
          apply cancelItems_kept
          apply failAll_kept
          assumption

theorem runClose_kept
    {s : State} {w : Work} (h : Kept m p s) :
    Kept m p (runClose s w) := by
  unfold runClose
  split
  · apply fail_kept
    assumption
  · refine Kept.ite (fun _ => ?_) (fun _ => ?_)
    · assumption
    · dsimp only
      refine Kept.ite (fun _ => ?_) (fun _ => ?_)
      · apply finish_kept
        · apply closeSubject_kept
          apply releaseLines_kept
          assumption
        · refine effectsWf_cons trivial ?_
          exact effectsWf_nil
      · apply releaseLines_kept
        assumption

theorem execSessionClose_kept
    {work : Nat} {s : State} (h : Kept m p s) :
    ∃ t, execSessionClose work s = .next t ∧ Kept m p t := by
  unfold execSessionClose
  apply act_kept
  · assumption
  · intro _ _
    apply runWork_kept
    · assumption
    · intro _ _ _ _
      apply runClose_kept
      assumption

theorem sweepDir_kept
    {s : State} (h : Kept m p s) :
    Kept m p (sweepDir s) := by
  unfold sweepDir
  dsimp only
  apply dirDelete_kept
  assumption

theorem undoWork_kept
    {s : State} {w : Work} (h : Kept m p s) :
    Kept m p (undoWork s w) := by
  unfold undoWork
  dsimp only
  refine Kept.ite (fun _ => ?_) (fun _ => ?_)
  · split
    · refine Kept.ite (fun _ => ?_) (fun _ => ?_)
      · apply updSubj_kept
        assumption
      · assumption
    · refine Kept.ite (fun _ => ?_) (fun _ => ?_)
      · refine Kept.ite (fun _ => ?_) (fun _ => ?_)
        · apply updSubj_kept
          assumption
        · assumption
      · refine Kept.ite (fun _ => ?_) (fun _ => ?_)
        · apply insertBlocks_kept
          refine Kept.ite (fun _ => ?_) (fun _ => ?_)
          · apply placeEntry_kept
            apply placeEntry_kept
            apply updSubj_kept
            refine Kept.ite (fun _ => ?_) (fun _ => ?_)
            · apply updSubj_kept
              assumption
            · assumption
          · apply placeEntry_kept
            apply updSubj_kept
            refine Kept.ite (fun _ => ?_) (fun _ => ?_)
            · apply updSubj_kept
              assumption
            · assumption
        · apply updSubj_kept
          refine Kept.ite (fun _ => ?_) (fun _ => ?_)
          · apply updSubj_kept
            assumption
          · assumption
  · refine Kept.ite (fun _ => ?_) (fun _ => ?_)
    · apply updSubj_kept
      assumption
    · assumption

theorem makeCold_kept {s : State} {h1 : Nat} (h : Kept m p s) : Kept m p (makeCold s h1) := by
  unfold makeCold
  dsimp only
  refine Kept.upd h regs_of beds_of plan_of (fun k => payloadsWf_map fun t ht => ?_) lodged_of
    (fun k => worksWf_map fun w hw => effectsWf_map fun e he => ?_) steps_of captures_of
  · split
    · exact k.form.tiles t ht
    · exact k.form.tiles t ht
  · have := k.form.work w hw e he
    cases e with
    | tile t =>
      show cellsWf (if t.handle = h1 then _ else t).payload = true
      split
      · exact this
      · exact this
    | _ => exact this

theorem parkTail_kept
    {s : State} {id : Nat} {h1 : Nat} {cold : Bool} (h : Kept m p s) :
    Kept m p (parkTail s id h1 cold) := by
  unfold parkTail
  split
  · assumption
  · refine Kept.ite (fun _ => ?_) (fun _ => ?_)
    · dsimp only
      refine Kept.ite (fun _ => ?_) (fun _ => ?_)
      · apply makeCold_kept
        apply cancelItems_kept
        assumption
      · apply cancelItems_kept
        assumption
    · assumption

theorem parkDraft_wf {s : State} {x : Subject} : payloadsWf (parkDraft s x).1 ∧ effectsWf (parkDraft s x).2 := by
  unfold parkDraft
  split
  · split
    · exact ⟨payloadsWf_cons rfl payloadsWf_nil, effectsWf_cons trivial dropAll_wf⟩
    · exact ⟨payloadsWf_nil, effectsWf_nil⟩
  · exact ⟨payloadsWf_nil, effectsWf_nil⟩

theorem parkWith_kept {s : State} {w : Work} {x : Subject} {src : Fetch} (h : Kept m p s) : Kept m p (parkWith s w x src) := by
  have ht := (parkDraft_wf (s := s) (x := x)).1
  have he := (parkDraft_wf (s := s) (x := x)).2
  unfold parkWith
  dsimp only
  refine Kept.ite (fun _ => ?_) (fun _ => ?_)
  · apply conclude_kept
    · apply updWork_kept
      · assumption
      · exact fun t ht => ht
    · assumption
    · refine effectsWf_append ?_ ?_
      · assumption
      · refine effectsWf_cons trivial ?_
        exact effectsWf_nil
  · apply checked_kept
    · apply updWork_kept
      · assumption
      · exact fun t ht => ht
    · intro _ _
      refine Kept.ite (fun _ => ?_) (fun _ => ?_)
      · assumption
      · apply fetched_kept
        · assumption
        · intro _ _
          refine Kept.ite (fun _ => ?_) (fun _ => ?_)
          · apply Kept.fold
            · intro _ _ _
              apply dropMalformed_kept
              assumption
            · assumption
          · apply shaped_kept
            · assumption
            · intro _ _
              apply withOperand_kept
              · assumption
              · intro _ _ _
                split
                · apply fail_kept
                  assumption
                · apply ingestEnd_kept
                  · refine stageAll_kept ?_ ?_ _ (by assumption)
                    · assumption
                    · assumption
                  · refine effectsWf_append ?_ ?_
                    · assumption
                    · refine effectsWf_cons trivial ?_
                      exact effectsWf_nil

theorem runPark_kept
    {src : Sys2Proof.Fetch} {s : State} {w : Work} (h : Kept m p s) :
    Kept m p (runPark src s w) := by
  unfold runPark
  apply withSubject_kept
  · assumption
  · intro _
    apply checked_kept
    · assumption
    · intro _ _
      refine Kept.ite (fun _ => ?_) (fun _ => ?_)
      · apply finish_kept
        · assumption
        · exact effectsWf_nil
      · apply checked_kept
        · assumption
        · intro _ _
          apply parkTail_kept
          apply parkWith_kept
          assumption

theorem execPark_kept
    {work : Nat} {src : Sys2Proof.Fetch} {s : State} (h : Kept m p s) :
    ∃ t, execPark work src s = .next t ∧ Kept m p t := by
  unfold execPark
  apply act_kept
  · assumption
  · intro _ _
    apply runWork_kept
    · assumption
    · intro _ _ _ _
      apply durably_kept
      · assumption
      · intro _
        apply runPark_kept
        assumption

theorem placeAll_kept {f : State → Nat → Nat → State × Bool} {s : State} {names : List (Nat × Nat)} (h : Kept m p s)
    (hf : ∀ s a b, Kept m p s → Kept m p (f s a b).1) : Kept m p (placeAll f s names).1 :=
  Kept.foldPair (b := (s, true)) (fun r e k => hf r.1 e.1 e.2 k) h

theorem endRevive_kept
    {s : State} {w : Work} {status : Nat} {result : List Sys2Proof.Byte} {effects : List Effect} (h : Kept m p s)
    (heffects : effectsWf effects) :
    Kept m p (endRevive s w status result effects) := by
  unfold endRevive
  dsimp only
  apply Kept.fold
  · intro _ _ _
    apply finish_kept
    · assumption
    · exact effectsWf_nil
  · apply finish_kept
    · assumption
    · assumption

theorem placeSet_kept
    {s : State} {x : Subject} {bed : Nat} {t2 : List (Nat × Nat)} {t1 : List (Nat × Nat)} {rest : List (Nat × Nat)}
    (h : Kept m p s) :
    Kept m p (placeSet s x bed t2 t1 rest).1 := by
  unfold placeSet
  dsimp only
  apply placeAll_kept
  · apply placeAll_kept
    · apply placeAll_kept
      · apply placeAll_kept
        · assumption
        · intro _ _ _ _
          apply bringT2_kept
          assumption
      · intro _ _ _ _
        apply raiseT1_kept
        assumption
    · intro _ _ _ _
      apply bringT2_kept
      assumption
  · intro _ _ _ _
    apply bringT2_kept
    assumption

theorem reviveSet_kept {bad : List (Nat × Nat)} {s : State} {w : Work} {x : Subject} {full : Bool} (h : Kept m p s) :
    Kept m p (reviveSet bad s w x full) := by
  have k := readFails_kept (bad := bad)
    (names := ((reviveNames s w x full).1 ++ (reviveNames s w x full).2.1 ++ (reviveNames s w x full).2.2).dedup) h
  unfold reviveSet
  refine Kept.ite (fun _ => endRevive_kept k effectsWf_nil) fun _ => ?_
  dsimp only
  split
  · exact endRevive_kept (tileLost_kept k) effectsWf_nil
  · refine Kept.ite (fun _ => Kept.fold (fun _ _ k => askShaped_kept k) _ k) fun _ => ?_
    refine Kept.ite (fun _ => releaseLines_kept k) fun _ => shaped_kept (releaseLines_kept k) fun s k => ?_
    refine endRevive_kept (placeSet_kept k) (effectsWf_append ?_ ?_) <;> split <;>
      first | exact effectsWf_nil | exact effectsWf_cons trivial effectsWf_nil

theorem beginRevive_kept
    {s : State} {w : Work} {x : Subject} (h : Kept m p s) :
    Kept m p (beginRevive s w x) := by
  unfold beginRevive
  refine Kept.ite (fun _ => ?_) (fun _ => ?_)
  · apply updSubj_kept
    apply updWork_kept
    · assumption
    · exact fun t ht => ht
  · assumption

theorem acceptRevive_kept
    {s : State} {w : Work} (h : Kept m p s) :
    Kept m p (acceptRevive s w) := by
  unfold acceptRevive
  split
  · assumption
  · refine Kept.ite (fun _ => ?_) (fun _ => ?_)
    · apply beginRevive_kept
      assumption
    · assumption

theorem runRevive_kept
    {full : Bool} {bad : List (Nat × Nat)} {s : State} {w : Work} (h : Kept m p s) :
    Kept m p (runRevive full bad s w) := by
  unfold runRevive
  apply withSubject_kept
  · assumption
  · intro _
    apply checked_kept
    · assumption
    · intro _ _
      refine Kept.ite (fun _ => ?_) (fun _ => ?_)
      · split
        · apply reviveSet_kept
          apply updWork_kept
          · assumption
          · exact fun t ht => ht
        · refine Kept.ite (fun _ => ?_) (fun _ => ?_)
          · apply fail_kept
            assumption
          · refine Kept.ite (fun _ => ?_) (fun _ => ?_)
            · apply finish_kept
              · assumption
              · exact effectsWf_nil
            · apply updWork_kept
              · assumption
              · exact fun t ht => ht
      · apply reviveSet_kept
        apply beginRevive_kept
        assumption

theorem execReviveWorking_kept
    {run : Sys2Proof.ReadRun} {s : State} (h : Kept m p s) :
    ∃ t, execReviveWorking run s = .next t ∧ Kept m p t := by
  unfold execReviveWorking
  apply act_kept
  · assumption
  · intro _ _
    apply runWork_kept
    · assumption
    · intro _ _ _ _
      apply runRevive_kept
      assumption

theorem execReviveFull_kept
    {run : Sys2Proof.ReadRun} {s : State} (h : Kept m p s) :
    ∃ t, execReviveFull run s = .next t ∧ Kept m p t := by
  unfold execReviveFull
  apply act_kept
  · assumption
  · intro _ _
    apply runWork_kept
    · assumption
    · intro _ _ _ _
      apply runRevive_kept
      assumption

theorem addItems_kept
    {s : State} {items : List (Nat × Nat × Nat)} (h : Kept m p s) :
    Kept m p (addItems s items) := by
  unfold addItems
  refine Kept.upd ?_ regs_of beds_of plan_of tiles_of lodged_of work_of steps_of captures_of
  assumption

theorem hinted_kept
    {s : State} {w : Work} {x : Subject} (h : Kept m p s) :
    Kept m p (hinted s w x) := by
  unfold hinted
  refine Kept.ite (fun _ => ?_) (fun _ => ?_)
  · assumption
  · apply addItems_kept
    assumption

theorem runHint_kept
    {s : State} {w : Work} (h : Kept m p s) :
    Kept m p (runHint s w) := by
  unfold runHint
  apply withSubject_kept
  · assumption
  · intro _
    apply checked_kept
    · assumption
    · intro _ _
      apply done_kept
      apply hinted_kept
      assumption

theorem acceptHint_kept
    {s : State} {w : Work} (h : Kept m p s) :
    Kept m p (acceptHint s w) := by
  unfold acceptHint
  refine Kept.ite (fun _ => ?_) (fun _ => ?_)
  · apply runHint_kept
    assumption
  · assumption

theorem execReviveHint_kept
    {work : Nat} {s : State} (h : Kept m p s) :
    ∃ t, execReviveHint work s = .next t ∧ Kept m p t := by
  unfold execReviveHint
  apply act_kept
  · assumption
  · intro _ _
    apply runWork_kept
    · assumption
    · intro _ _ _ _
      apply runHint_kept
      assumption

theorem putDown_kept
    {s : State} {t : Tile} {tier : Nat} {places : List Nat} (h : Kept m p s) :
    Kept m p (putDown s t tier places).1 := by
  unfold putDown
  dsimp only
  split
  · split
    · dsimp only
      apply releaseLines_kept
      assumption
    · dsimp only
      apply updTile_kept
      · apply spillPlain_kept
        apply releaseLines_kept
        assumption
      · exact fun t ht => ht
  · split
    · assumption
    · dsimp only
      apply updTile_kept
      · apply spillPlain_kept
        assumption
      · exact fun t ht => ht

theorem placeTile_kept
    {s : State} {t : Tile} {tier : Nat} {range : Nat} (h : Kept m p s) :
    Kept m p (placeTile s t tier range).1 := by
  unfold placeTile
  dsimp only
  split
  · assumption
  · split
    · split
      · assumption
      · dsimp only
        apply askTile_kept
        assumption
    · split
      · assumption
      · split
        · dsimp only
          apply useTile_kept
          assumption
        · split
          · split
            · assumption
            · dsimp only
              apply raiseT1_kept
              assumption
          · split
            · split
              · apply putDown_kept
                assumption
              · split
                · apply putDown_kept
                  assumption
                · assumption
            · dsimp only
              apply bringT2_kept
              assumption
          · split
            · dsimp only
              apply useTile_kept
              assumption
            · split
              · assumption
              · apply putDown_kept
                assumption
          · split
            · apply putDown_kept
              assumption
            · split
              · apply putDown_kept
                assumption
              · assumption

theorem placeShaped_kept
    {s : State} {w : Work} {t : Tile} {tier : Nat} {range : Nat} (h : Kept m p s) :
    Kept m p (placeShaped s w t tier range).1 := by
  unfold placeShaped
  dsimp only
  split
  · dsimp only
    refine Kept.ite (fun _ => ?_) (fun _ => ?_)
    · apply moved_kept
      apply placeTile_kept
      assumption
    · apply placeTile_kept
      assumption
  · dsimp only
    apply shaperWait_kept
    assumption

theorem placeLoop_kept {w : Work} {tier range : Nat} {l : List (Nat × Nat)} {s : State} {a b : Nat} (h : Kept m p s) :
    Kept m p (placeLoop w tier range l s a b).1 := by
  induction l generalizing s a b with
  | nil => exact h
  | cons e l ih =>
    unfold placeLoop
    split
    · apply ih
      assumption
    · split
      · apply ih
        refine Kept.of_fst (by assumption) ?_
        apply placeShaped_kept
        assumption
      · apply ih
        refine Kept.of_fst (by assumption) ?_
        apply placeShaped_kept
        assumption
      · dsimp only
        refine Kept.of_fst (by assumption) ?_
        apply placeShaped_kept
        assumption

theorem runPlace_kept
    {bad : List (Nat × Nat)} {s : State} {w : Work} (h : Kept m p s) :
    Kept m p (runPlace bad s w) := by
  unfold runPlace
  apply withSubject_kept
  · assumption
  · intro _
    apply checked_kept
    · assumption
    · intro _ _
      dsimp only
      refine Kept.ite (fun _ => ?_) (fun _ => ?_)
      · apply fail_kept
        apply readFails_kept
        assumption
      · split
        · refine Kept.of_fst (by assumption) ?_
          apply placeLoop_kept
          apply readFails_kept
          assumption
        · apply finish_kept
          · refine Kept.of_fst (by assumption) ?_
            apply placeLoop_kept
            apply readFails_kept
            assumption
          · exact effectsWf_nil

theorem execMovePlace_kept
    {run : Sys2Proof.ReadRun} {s : State} (h : Kept m p s) :
    ∃ t, execMovePlace run s = .next t ∧ Kept m p t := by
  unfold execMovePlace
  apply act_kept
  · assumption
  · intro _ _
    apply runWork_kept
    · assumption
    · intro _ _ _ _
      apply runPlace_kept
      assumption

theorem runView_kept
    {s : State} {w : Work} (h : Kept m p s) :
    Kept m p (runView s w) := by
  unfold runView
  apply withSubject_kept
  · assumption
  · intro _
    apply checked_kept
    · assumption
    · intro _ _
      apply finish_kept
      · assumption
      · refine effectsWf_cons trivial ?_
        exact effectsWf_nil

theorem execMoveView_kept
    {work : Nat} {s : State} (h : Kept m p s) :
    ∃ t, execMoveView work s = .next t ∧ Kept m p t := by
  unfold execMoveView
  apply act_kept
  · assumption
  · intro _ _
    apply runWork_kept
    · assumption
    · intro _ _ _ _
      apply runView_kept
      assumption

theorem releaseWindow_kept
    {s : State} {w : Nat} (h : Kept m p s) :
    Kept m p (releaseWindow s w).1 := by
  unfold releaseWindow
  dsimp only
  apply snoopLines_kept
  assumption

theorem runUnview_kept
    {s : State} {w : Work} (h : Kept m p s) :
    Kept m p (runUnview s w) := by
  unfold runUnview
  apply withSubject_kept
  · assumption
  · intro _
    dsimp only
    apply checked_kept
    · assumption
    · intro _ _
      refine Kept.ite (fun _ => ?_) (fun _ => ?_)
      · apply finish_kept
        · apply releaseWindow_kept
          assumption
        · refine effectsWf_cons trivial ?_
          exact effectsWf_nil
      · apply releaseWindow_kept
        assumption

theorem execMoveUnview_kept
    {work : Nat} {s : State} (h : Kept m p s) :
    ∃ t, execMoveUnview work s = .next t ∧ Kept m p t := by
  unfold execMoveUnview
  apply act_kept
  · assumption
  · intro _ _
    apply runWork_kept
    · assumption
    · intro _ _ _ _
      apply runUnview_kept
      assumption

theorem scratchEffect_kept
    {s : State} {e : Effect} (h : Kept m p s) :
    Kept m p (scratchEffect s e) := by
  unfold scratchEffect
  split
  · apply updSubj_kept
    assumption
  · apply updSubj_kept
    assumption
  · assumption

theorem scratchLayer_kept {s : State} {o : LayerOut} (h : Kept m p s) (ht : payloadsWf o.tiles) :
    Kept m p (scratchLayer s o) :=
  Kept.fold (fun _ _ k => scratchEffect_kept k) _ (Kept.foldTiles (fun _ _ ht k => putTile_kept k ht) ht h)

theorem copyPage_kept {s : State} {x r : Subject} {layer page : Nat} {used : List Nat} (h : Kept m p s) :
    Kept m p (copyPage s x r layer page used).1 := by
  unfold copyPage
  split
  · exact h
  · exact scratchLayer_kept h writePage_wf.1

theorem attachPage_kept {a : State × List Nat × List (Nat × Nat)} {x r : Subject} {page : Nat} (h : Kept m p a.1) :
    Kept m p (attachPage a x r page).1 := by
  unfold attachPage
  refine Kept.foldPair (fun b _ k => ?_) h
  dsimp only
  split
  · exact updSubj_kept (scratchEffect_kept k)
  · exact copyPage_kept k

theorem mapEffects_wf
    {h1 : Nat} {layer : Nat} {n : Nat} {l : LayerMap} :
    effectsWf (mapEffects h1 layer n l) := by
  unfold mapEffects
  dsimp only
  refine effectsWf_cons trivial ?_
  refine effectsWf_map (fun _ _ => trivial)

theorem attachEnd_kept {s : State} {w : Work} {x : Subject} {rs : List Subject} (h : Kept m p s) :
    Kept m p (attachEnd s w x rs) := by
  unfold attachEnd
  dsimp only
  split
  · exact done_kept h
  · split
    · exact fail_kept h
    · split
      · exact h
      · refine conclude_kept h (payloadsWf_append ?_ headTiles_wf)
          (effectsWf_append (effectsWf_flatMap fun _ _ => mapEffects_wf) (effectsWf_map fun _ _ => trivial))
        refine payloadsWf_filterMap fun e _ t ht => ?_
        refine Kept.tile (m := m) (p := p) (Kept.foldPair (fun b i k => ?_) h) ht
        split
        · exact k
        · exact attachPage_kept k

theorem attachLodged_wf
    {s : State} {x : Subject} {rs : List Subject} (h : Kept m p s) :
    payloadsWf (attachLodged s x rs) := by
  unfold attachLodged
  refine payloadsWf_flatMap (fun _ _ => ?_)
  refine payloadsWf_filter ?_
  exact tilesOf_wf (by assumption)

theorem attachWaits_kept
    {s : State} {w : Work} {n : Nat} (h : Kept m p s) :
    Kept m p (attachWaits s w n) := by
  unfold attachWaits
  apply updWork_kept
  · assumption
  · exact fun t ht => ht

theorem runAttach_kept
    {s : State} {w : Work} (h : Kept m p s) :
    Kept m p (runAttach s w) := by
  unfold runAttach
  apply withSubject_kept
  · assumption
  · intro _
    apply checked_kept
    · assumption
    · intro _ _
      dsimp only
      refine Kept.ite (fun _ => ?_) (fun _ => ?_)
      · assumption
      · refine Kept.ite (fun _ => ?_) (fun _ => ?_)
        · apply attachWaits_kept
          assumption
        · refine Kept.ite (fun _ => ?_) (fun _ => ?_)
          · apply Kept.fold
            · intro _ _ _
              apply askShaped_kept
              assumption
            · apply attachWaits_kept
              assumption
          · refine Kept.ite (fun _ => ?_) (fun _ => ?_)
            · apply Kept.fold
              · intro _ _ _
                apply dropMalformed_kept
                assumption
              · apply attachWaits_kept
                assumption
            · apply shaped_kept
              · apply attachWaits_kept
                assumption
              · intro _ _
                apply attachEnd_kept
                refine Kept.ite (fun _ => ?_) (fun _ => ?_)
                · apply workEvent_kept
                  assumption
                · assumption

theorem execMoveAttach_kept
    {work : Nat} {s : State} (h : Kept m p s) :
    ∃ t, execMoveAttach work s = .next t ∧ Kept m p t := by
  unfold execMoveAttach
  apply act_kept
  · assumption
  · intro _ _
    apply runWork_kept
    · assumption
    · intro _ _ _ _
      apply durably_kept
      · assumption
      · intro _
        apply runAttach_kept
        assumption

end Sys2Proof.Laws
end

