-- ==== Sys2Proof/Laws/KeptEffects.lean ====
section
/-! SUPPORT. Every operation and meaning of Machine/Effects.lean keeps the form. -/

namespace Sys2Proof.Laws

open Sys2Proof Sys2Proof.Machine Sys2Proof.Safety

variable {m : Model} {p : List Instr}

theorem trimLogs_kept
    {s : State} (h : Kept m p s) :
    Kept m p (trimLogs s) := by
  unfold trimLogs
  refine Kept.ite (fun _ => ?_) (fun _ => ?_)
  · assumption
  · dsimp only
    refine Kept.ite (fun _ => ?_) (fun _ => ?_)
    · assumption
    · split
      · assumption
      · refine Kept.upd ?_ regs_of beds_of plan_of tiles_of lodged_of work_of steps_of captures_of
        assumption

theorem sendLog_kept
    {s : State} {h1 : Nat} (h : Kept m p s) :
    Kept m p (sendLog s h1) := by
  unfold sendLog
  split
  · assumption
  · refine Kept.upd ?_ regs_of beds_of plan_of tiles_of lodged_of work_of steps_of captures_of
    assumption
  · dsimp only
    apply trimLogs_kept
    apply sendStream_kept
    refine Kept.upd ?_ regs_of beds_of plan_of tiles_of lodged_of work_of steps_of captures_of
    assumption

theorem sendFullLogs_kept {k h1 : Nat} {s : State} (h : Kept m p s) : Kept m p (sendFullLogs k s h1) := by
  induction k generalizing s with
  | zero => exact h
  | succ k ih =>
    unfold sendFullLogs
    refine Kept.ite (fun _ => ?_) (fun _ => ?_)
    · apply ih
      apply sendLog_kept
      assumption
    · assumption

theorem appendLog_kept
    {s : State} {h1 : Nat} {entries : List Nat} (h : Kept m p s) :
    Kept m p (appendLog s h1 entries) := by
  unfold appendLog
  split
  · assumption
  · dsimp only
    refine Kept.ite (fun _ => ?_) (fun _ => ?_)
    · apply updSubj_kept
      assumption
    · apply sendFullLogs_kept
      refine Kept.upd ?_ regs_of beds_of plan_of tiles_of lodged_of work_of steps_of captures_of
      apply updSubj_kept
      assumption

theorem mapPlanners_kept
    {s : State} {f : Planner → Planner} (h : Kept m p s) :
    Kept m p (mapPlanners s f) := by
  unfold mapPlanners
  refine Kept.upd ?_ regs_of beds_of plan_of tiles_of lodged_of work_of steps_of captures_of
  assumption

theorem updMember_kept
    {s : State} {h1 : Nat} {f : Member → Member} (h : Kept m p s) :
    Kept m p (updMember s h1 f) := by
  unfold updMember
  apply mapPlanners_kept
  assumption

theorem noteReady_kept
    {s : State} (h : Kept m p s) :
    Kept m p (noteReady s) := by
  unfold noteReady
  dsimp only
  apply mapPlanners_kept
  assumption

theorem dueEntry_kept
    {s : State} {h1 : Nat} {kind : Nat} (h : Kept m p s) :
    Kept m p (dueEntry s h1 kind) := by
  unfold dueEntry
  apply mapPlanners_kept
  assumption

theorem applyTile_kept
    {s : State} {t : Tile} (h : Kept m p s) (ht : cellsWf t.payload = true) :
    Kept m p (applyTile s t) := by
  unfold applyTile
  split
  · assumption
  · split
    · apply putTile_kept
      · assumption
      · assumption
    · apply putTile_kept
      · apply releaseLodged_kept
        assumption
      · assumption

theorem applyConfig_kept
    {s : State} {n : Nat} {l : List Nat} (h : Kept m p s) :
    Kept m p (applyConfig s n l) := by
  unfold applyConfig
  dsimp only
  refine Kept.ite (fun _ => ?_) (fun _ => ?_)
  · refine Kept.upd ?_ regs_of beds_of plan_of tiles_of lodged_of work_of steps_of captures_of
    assumption
  · refine Kept.upd ?_ regs_of beds_of plan_of tiles_of lodged_of work_of steps_of captures_of
    assumption

theorem startParks_kept
    {s : State} (h : Kept m p s) :
    Kept m p (startParks s) := by
  unfold startParks
  apply mapPlanners_kept
  assumption

theorem planItems_kept
    {s : State} {manifest : List (Nat × Nat × Nat × Nat)} (h : Kept m p s) :
    Kept m p (planItems s manifest) := by
  unfold planItems
  dsimp only
  apply addItems_kept
  assumption

theorem applyMember_kept
    {s : State} {n : Nat} {h1 : Nat} {kv : Nat} {st : Nat} {near : Nat} (h : Kept m p s) :
    Kept m p (applyMember s n h1 kv st near) := by
  unfold applyMember
  refine Kept.ite (fun _ => ?_) (fun _ => ?_)
  · dsimp only
    apply startParks_kept
    apply mapPlanners_kept
    refine Kept.upd ?_ regs_of beds_of plan_of tiles_of lodged_of work_of steps_of captures_of
    assumption
  · dsimp only
    refine Kept.ite (fun _ => ?_) (fun _ => ?_)
    · apply updSubj_kept
      apply updMember_kept
      assumption
    · apply startParks_kept
      apply updMember_kept
      assumption

theorem applyArm_kept
    {s : State} {id : Nat} {a : Option (Nat × Nat × Nat × Nat × List Nat)} (h : Kept m p s) :
    Kept m p (applyArm s id a) := by
  unfold applyArm
  dsimp only
  split
  · refine Kept.upd ?_ regs_of beds_of plan_of tiles_of lodged_of work_of steps_of captures_of
    assumption
  · refine Kept.upd ?_ regs_of beds_of plan_of tiles_of lodged_of work_of steps_of captures_of
    assumption

theorem applyVersion_kept
    {s : State} {h1 : Nat} {v : Nat} (h : Kept m p s) :
    Kept m p (applyVersion s h1 v) := by
  unfold applyVersion
  dsimp only
  apply sendNotice_kept
  apply updSubj_kept
  assumption

theorem applyRestore_kept
    {s : State} {x : Subject} {ts : List Tile} {writes : List Tile} (h : Kept m p s) (hts : payloadsWf ts)
    (hwrites : payloadsWf writes) :
    Kept m p (applyRestore s x ts writes) := by
  unfold applyRestore
  dsimp only
  refine Kept.foldTiles ?_ ?_ ?_
  · intro _ _ _ _
    apply commitNow_kept
    · assumption
    · assumption
  · assumption
  · refine Kept.foldTiles ?_ ?_ ?_
    · intro _ _ _ _
      apply applyTile_kept
      · assumption
      · assumption
    · assumption
    · refine Kept.upd ?_ regs_of beds_of plan_of tiles_of lodged_of work_of steps_of captures_of
      apply Kept.fold
      · intro _ _ _
        apply freeTile_kept
        assumption
      · assumption

theorem applyEffect_kept
    {s : State} {e : Effect} (h : Kept m p s) (he : effectWf e) :
    Kept m p (applyEffect s e) := by
  unfold applyEffect
  split
  · apply dirReveal_kept
    refine Kept.upd ?_ regs_of beds_of plan_of tiles_of lodged_of work_of steps_of captures_of
    assumption
  · apply updSubj_kept
    assumption
  · apply scratchEffect_kept
    assumption
  · apply scratchEffect_kept
    assumption
  · apply applyTile_kept
    · assumption
    · assumption
  · apply freeTile_kept
    assumption
  · apply updSubj_kept
    assumption
  · apply appendLog_kept
    assumption
  · apply updSubj_kept
    assumption
  · apply updSubj_kept
    assumption
  · refine Kept.upd ?_ regs_of beds_of plan_of tiles_of lodged_of work_of steps_of captures_of
    assumption
  · apply dropLines_kept
    refine Kept.upd ?_ regs_of beds_of plan_of tiles_of lodged_of work_of steps_of captures_of
    assumption
  · apply sendNotice_kept
    apply updSubj_kept
    assumption
  · apply updSubj_kept
    assumption
  · apply applyVersion_kept
    assumption
  · apply dirReveal_kept
    assumption
  · dsimp only
    apply startParks_kept
    apply planItems_kept
    apply mapPlanners_kept
    assumption
  · apply applyMember_kept
    assumption
  · apply leavePlanner_kept
    assumption
  · apply applyConfig_kept
    assumption
  · apply updMember_kept
    assumption
  · refine Kept.upd ?_ regs_of beds_of plan_of tiles_of lodged_of work_of steps_of captures_of
    assumption
  · apply applyRestore_kept
    · assumption
    · exact And.left (by assumption)
    · exact And.right (by assumption)
  · apply applyArm_kept
    assumption

theorem loseUncopied_kept
    {s : State} {e : Effect} (h : Kept m p s) :
    Kept m p (loseUncopied s e) := by
  unfold loseUncopied
  split
  · refine Kept.ite (fun _ => ?_) (fun _ => ?_)
    · apply tileLost_kept
      assumption
    · assumption
  · split
    · assumption
    · refine Kept.ite (fun _ => ?_) (fun _ => ?_)
      · assumption
      · apply absentEvents_kept
        apply updSubj_kept
        assumption
  · assumption

theorem applyEffects_kept
    {s : State} {l : List Effect} (h : Kept m p s) (hl : effectsWf l) :
    Kept m p (applyEffects s l) := by
  unfold applyEffects
  dsimp only
  apply noteReady_kept
  apply Kept.fold
  · intro _ _ _
    apply loseUncopied_kept
    assumption
  · refine Kept.foldEffects ?_ ?_ ?_
    · intro _ _ _ _
      apply applyEffect_kept
      · assumption
      · assumption
    · refine effectsWf_append ?_ ?_
      · refine effectsWf_filter ?_
        assumption
      · refine effectsWf_filter ?_
        assumption
    · assumption

theorem noUnit_kept
    {s : State} {w : Work} (h : Kept m p s) :
    Kept m p (noUnit s w) := by
  unfold noUnit
  apply fail_kept
  apply workEvent_kept
  assumption

theorem dispatch_kept
    {s : State} {w : Work} (h : Kept m p s) :
    Kept m p (dispatch s w) := by
  unfold dispatch
  dsimp only
  refine Kept.ite (fun _ => ?_) (fun _ => ?_)
  · refine Kept.ite (fun _ => ?_) (fun _ => ?_)
    · apply updWork_kept
      · assumption
      · exact fun t ht => ht
    · apply updWork_kept
      · assumption
      · exact fun t ht => ht
  · split
    · apply updWork_kept
      · assumption
      · exact fun t ht => ht
    · apply updWork_kept
      · assumption
      · exact fun t ht => ht
    · apply noUnit_kept
      assumption

theorem releaseHeld_kept
    {s : State} {t : Nat} (h : Kept m p s) :
    Kept m p (releaseHeld s t) := by
  unfold releaseHeld
  apply Kept.fold
  · intro _ _ _
    apply dispatch_kept
    assumption
  · assumption

theorem releaseWaiters_kept
    {s : State} (h : Kept m p s) :
    Kept m p (releaseWaiters s) := by
  unfold releaseWaiters
  apply Kept.fold
  · intro _ _ _
    apply dispatch_kept
    assumption
  · assumption

theorem retireWork_kept
    {s : State} {w : Work} (h : Kept m p s) :
    Kept m p (retireWork s w) := by
  unfold retireWork
  apply releaseWaiters_kept
  refine Kept.upd ?_ regs_of beds_of plan_of tiles_of lodged_of ?_ steps_of captures_of
  · assumption
  · intro _
    refine worksWf_change ?_ (fun _ h => h)
    refine worksWf_filter ?_
    exact work_of (by assumption)

theorem abandon_kept
    {s : State} {w : Work} (h : Kept m p s) :
    Kept m p (abandon s w) := by
  unfold abandon
  dsimp only
  apply tidyReady_kept
  apply sweepDir_kept
  apply reap_kept
  apply retireWork_kept
  apply undoWork_kept
  refine Kept.ite (fun _ => ?_) (fun _ => ?_)
  · apply leavePlanner_kept
    assumption
  · assumption

end Sys2Proof.Laws
end

