-- ==== Sys2Proof/Laws/KeptBitstream.lean ====
section
/-! SUPPORT. Every operation and meaning of Machine/Bitstream.lean keeps the form. -/

namespace Sys2Proof.Laws

open Sys2Proof Sys2Proof.Machine Sys2Proof.Safety

variable {m : Model} {p : List Instr}

theorem bsStatus_kept
    {s : State} {st : Nat} {err : Nat} (h : Kept m p s) :
    Kept m p (bsStatus s st err) := by
  unfold bsStatus
  apply setReg_kept
  apply setReg_kept
  assumption

theorem loadContainer_kept
    {s : State} {img : Sys2Proof.Fetch} {sigOk : Bool} (h : Kept m p s) :
    Kept m p (loadContainer s img sigOk) := by
  unfold loadContainer
  dsimp only
  refine Kept.ite (fun _ => ?_) (fun _ => ?_)
  · apply loadResult_kept
    apply bsStatus_kept
    refine Kept.ite (fun _ => ?_) (fun _ => ?_)
    · refine Kept.upd ?_ regs_of beds_of plan_of tiles_of lodged_of work_of steps_of captures_of
      assumption
    · refine Kept.upd ?_ regs_of beds_of plan_of tiles_of lodged_of work_of steps_of captures_of
      assumption
  · apply sourced_kept
    · apply setReg_kept
      refine Kept.upd ?_ regs_of beds_of plan_of tiles_of lodged_of work_of steps_of captures_of
      assumption
    · intro _ _ _
      apply loadResult_kept
      apply bsStatus_kept
      refine Kept.ite (fun _ => ?_) (fun _ => ?_)
      · refine Kept.upd ?_ regs_of beds_of plan_of tiles_of lodged_of work_of steps_of captures_of
        assumption
      · assumption

theorem execBitstreamLoad_kept
    {_path : Sys2Proof.Path} {img : Sys2Proof.Fetch} {sigOk : Bool} {s : State} (h : Kept m p s) :
    ∃ t, execBitstreamLoad _path img sigOk s = .next t ∧ Kept m p t := by
  unfold execBitstreamLoad
  apply act_kept
  · assumption
  · intro _ _
    apply whenRunning_kept
    · assumption
    · intro _ _
      refine Kept.ite (fun _ => ?_) (fun _ => ?_)
      · apply setReg_kept
        assumption
      · apply loadContainer_kept
        assumption

theorem loadPan_kept
    {s : State} {bed : Nat} {pos : Nat} (h : Kept m p s) :
    Kept m p (loadPan s bed pos) := by
  unfold loadPan
  refine Kept.upd ?_ regs_of beds_of plan_of tiles_of lodged_of work_of steps_of captures_of
  assumption

theorem repairPan_kept
    {s : State} {bed : Nat} {pos : Nat} (h : Kept m p s) :
    Kept m p (repairPan s bed pos) := by
  unfold repairPan
  dsimp only
  split
  · apply regAdd_kept
    apply regAdd_kept
    apply regSet_kept
    apply loadPan_kept
    refine Kept.upd ?_ regs_of beds_of plan_of tiles_of lodged_of work_of steps_of captures_of
    assumption
  · refine Kept.ite (fun _ => ?_) (fun _ => ?_)
    · refine Kept.upd ?_ regs_of beds_of plan_of tiles_of lodged_of work_of steps_of captures_of
      assumption
    · apply event_kept
      apply regAdd_kept
      apply regAdd_kept
      apply regSet_kept
      refine Kept.upd ?_ regs_of beds_of plan_of tiles_of lodged_of work_of steps_of captures_of
      assumption

theorem mapOut_kept
    {s : State} {bed : Nat} {pos : Nat} {arg : List Nat} (h : Kept m p s) :
    Kept m p (mapOut s bed pos arg) := by
  unfold mapOut
  apply event_kept
  apply repairPan_kept
  apply raiseClass_kept
  assumption

theorem dropSteps_kept
    {s : State} {id : Nat} (h : Kept m p s) :
    Kept m p (dropSteps s id) := by
  unfold dropSteps
  refine Kept.upd ?_ regs_of beds_of plan_of tiles_of lodged_of work_of steps_of captures_of
  assumption

theorem discardFlight_kept
    {s : State} {p1 : Work → Bool} (h : Kept m p s) :
    Kept m p (discardFlight s p1) := by
  unfold discardFlight
  apply Kept.fold
  · intro _ _ _
    apply fail_kept
    apply dropSteps_kept
    assumption
  · assumption

theorem clearUnits_kept
    {s : State} {us : List Nat} (h : Kept m p s) :
    Kept m p (clearUnits s us) := by
  unfold clearUnits
  dsimp only
  refine Kept.upd ?_ regs_of beds_of plan_of tiles_of lodged_of work_of steps_of captures_of
  assumption

theorem dropModels_kept
    {s : State} {c : UnitConfig} (h : Kept m p s) :
    Kept m p (dropModels s c) := by
  unfold dropModels
  dsimp only
  apply Kept.fold
  · intro _ _ _
    refine Kept.ite (fun _ => ?_) (fun _ => ?_)
    · apply event_kept
      apply startUnload_kept
      assumption
    · assumption
  · assumption

theorem freshQueues_kept {s : State} {us : List Nat} (h : Kept m p s) : Kept m p (freshQueues s us) := by
  refine Kept.upd h (fun k c hc => ?_) beds_of plan_of tiles_of lodged_of work_of steps_of captures_of
  cases hc with
  | inl hc =>
    cases List.mem_append.1 hc with
    | inl hc => exact k.form.regs c (.inl (List.mem_filter.1 hc).1)
    | inr hc => exact k.form.regs c (.inr (List.mem_filter.1 hc).1)
  | inr hc => exact k.form.regs c (.inr hc)

theorem redispatch_kept
    {s : State} {us : List Nat} (h : Kept m p s) :
    Kept m p (redispatch s us) := by
  unfold redispatch
  dsimp only
  apply Kept.fold
  · intro _ _ _
    apply releaseHeld_kept
    assumption
  · apply Kept.fold
    · intro _ _ _
      apply dispatch_kept
      assumption
    · apply Kept.fold
      · intro _ _ _
        apply updWork_kept
        · assumption
        · exact fun t ht => ht
      · assumption

theorem switchConfig_kept
    {s : State} {t : UnitConfig} {back : Bool} {us : List Nat} {bad : List (Nat × Nat)} (h : Kept m p s) :
    Kept m p (switchConfig s t back us bad) := by
  unfold switchConfig
  dsimp only
  refine Kept.ite (fun _ => ?_) (fun _ => ?_)
  · apply redispatch_kept
    refine Kept.upd ?_ regs_of beds_of plan_of tiles_of lodged_of work_of steps_of captures_of
    apply bsStatus_kept
    apply event_kept
    apply Kept.fold
    · intro _ _ _
      apply mapOut_kept
      assumption
    · apply clearUnits_kept
      refine Kept.upd ?_ regs_of beds_of plan_of tiles_of lodged_of work_of steps_of captures_of
      assumption
  · apply redispatch_kept
    apply event_kept
    apply bsStatus_kept
    refine Kept.upd ?_ regs_of beds_of plan_of tiles_of lodged_of work_of steps_of captures_of
    apply freshQueues_kept
    refine Kept.upd ?_ regs_of beds_of plan_of tiles_of lodged_of work_of steps_of captures_of
    apply Kept.fold
    · intro _ _ _
      refine Kept.ite (fun _ => ?_) (fun _ => ?_)
      · apply loadPan_kept
        apply wakeBed_kept
        assumption
      · assumption
    · apply Kept.fold
      · intro _ _ _
        apply mapOut_kept
        assumption
      · apply clearUnits_kept
        refine Kept.upd ?_ regs_of beds_of plan_of tiles_of lodged_of work_of steps_of captures_of
        assumption

theorem drainCheck_kept
    {s : State} (h : Kept m p s) :
    Kept m p (drainCheck s) := by
  unfold drainCheck
  split
  · assumption
  · refine Kept.ite (fun _ => ?_) (fun _ => ?_)
    · apply switchConfig_kept
      assumption
    · assumption

theorem activateConfig_kept
    {s : State} {t : UnitConfig} {back : Bool} {bad : List (Nat × Nat)} (h : Kept m p s) :
    Kept m p (activateConfig s t back bad) := by
  unfold activateConfig
  dsimp only
  apply drainCheck_kept
  refine Kept.ite (fun _ => ?_) (fun _ => ?_)
  · apply discardFlight_kept
    apply dropModels_kept
    apply setReg_kept
    refine Kept.upd ?_ regs_of beds_of plan_of tiles_of lodged_of work_of steps_of captures_of
    assumption
  · apply dropModels_kept
    apply setReg_kept
    refine Kept.upd ?_ regs_of beds_of plan_of tiles_of lodged_of work_of steps_of captures_of
    assumption

theorem execActivate_kept
    {_path : Sys2Proof.Path} {badPans : List (Nat × Nat)} {s : State} (h : Kept m p s) :
    ∃ t, execActivate _path badPans s = .next t ∧ Kept m p t := by
  unfold execActivate
  apply act_kept
  · assumption
  · intro _ _
    apply whenRunning_kept
    · assumption
    · intro _ _
      refine Kept.ite (fun _ => ?_) (fun _ => ?_)
      · assumption
      · split
        · assumption
        · split
          · apply setReg_kept
            assumption
          · refine Kept.ite (fun _ => ?_) (fun _ => ?_)
            · apply activateConfig_kept
              assumption
            · apply setReg_kept
              assumption

theorem execBitstreamDrainTimeout_kept
    {badPans : List (Nat × Nat)} {s : State} (h : Kept m p s) :
    ∃ t, execBitstreamDrainTimeout badPans s = .next t ∧ Kept m p t := by
  unfold execBitstreamDrainTimeout
  apply act_kept
  · assumption
  · intro _ _
    apply whenRunning_kept
    · assumption
    · intro _ _
      split
      · assumption
      · apply switchConfig_kept
        apply discardFlight_kept
        assumption

theorem execRollback_kept
    {_path : Sys2Proof.Path} {badPans : List (Nat × Nat)} {s : State} (h : Kept m p s) :
    ∃ t, execRollback _path badPans s = .next t ∧ Kept m p t := by
  unfold execRollback
  apply act_kept
  · assumption
  · intro _ _
    apply whenRunning_kept
    · assumption
    · intro _ _
      refine Kept.ite (fun _ => ?_) (fun _ => ?_)
      · assumption
      · split
        · apply setReg_kept
          assumption
        · refine Kept.ite (fun _ => ?_) (fun _ => ?_)
          · apply setReg_kept
            assumption
          · apply activateConfig_kept
            assumption

end Sys2Proof.Laws
end

