-- ==== Sys2Proof/Laws/KeptLedgers.lean ====
section
/-! SUPPORT. Every operation and meaning of Machine/Ledgers.lean keeps the form. -/

namespace Sys2Proof.Laws

open Sys2Proof Sys2Proof.Machine Sys2Proof.Safety

variable {m : Model} {p : List Instr}

theorem metered_kept
    {s : State} {w : Work} (h : Kept m p s) :
    Kept m p (metered s w).1 := by
  unfold metered
  split
  · assumption
  · split
    · assumption
    · dsimp only
      refine Kept.upd ?_ regs_of beds_of plan_of tiles_of lodged_of work_of steps_of captures_of
      assumption

theorem refuseMetered_kept
    {s : State} {w : Work} (h : Kept m p s) :
    Kept m p (refuseMetered s w) := by
  unfold refuseMetered
  dsimp only
  apply fail_kept
  refine Kept.ite (fun _ => ?_) (fun _ => ?_)
  · apply countReg_kept
    assumption
  · refine Kept.upd ?_ regs_of beds_of plan_of tiles_of lodged_of work_of steps_of captures_of
    apply event_kept
    apply countReg_kept
    assumption

theorem acceptOwn_kept
    {s : State} {w : Work} (h : Kept m p s) :
    Kept m p (acceptOwn s w) := by
  unfold acceptOwn
  split
  · split
    · apply fail_kept
      assumption
    · apply checked_kept
      · assumption
      · exact fun t ht => ht
  · apply closeAccepted_kept
    assumption
  · apply checked_kept
    · assumption
    · exact fun t ht => ht
  · refine Kept.ite (fun _ => ?_) (fun _ => ?_)
    · apply acceptHint_kept
      assumption
    · refine Kept.ite (fun _ => ?_) (fun _ => ?_)
      · apply acceptRevive_kept
        assumption
      · assumption
  · apply checked_kept
    · assumption
    · exact fun t ht => ht
  · assumption

theorem allowWork_kept
    {s : State} {id : Nat} (h : Kept m p s) :
    Kept m p (allowWork s id) := by
  unfold allowWork
  split
  · assumption
  · refine Kept.ite (fun _ => ?_) (fun _ => ?_)
    · apply dispatch_kept
      assumption
    · assumption

theorem admitWork_kept
    {s : State} {w : Work} (h : Kept m p s) :
    Kept m p (admitWork s w) := by
  unfold admitWork
  apply allowWork_kept
  apply acceptOwn_kept
  apply subjectChecked_kept
  assumption

theorem resumeLookup_kept
    {s : State} {w : Work} (h : Kept m p s) :
    Kept m p (resumeLookup s w) := by
  unfold resumeLookup
  dsimp only
  refine Kept.ite (fun _ => ?_) (fun _ => ?_)
  · apply admitWork_kept
    apply updWork_kept
    · assumption
    · exact fun t ht => ht
  · assumption

theorem acceptChecks_kept
    {s : State} {w : Work} (h : Kept m p s) :
    Kept m p (acceptChecks s w) := by
  unfold acceptChecks
  split
  · refine Kept.ite (fun _ => ?_) (fun _ => ?_)
    · apply finish_kept
      · apply regAdd_kept
        assumption
      · exact effectsWf_nil
    · apply failChk_kept
      assumption
  · split
    · apply refuseMetered_kept
      refine Kept.of_fst (by assumption) ?_
      apply metered_kept
      assumption
    · refine Kept.ite (fun _ => ?_) (fun _ => ?_)
      · apply failChk_kept
        refine Kept.of_fst (by assumption) ?_
        apply metered_kept
        assumption
      · refine Kept.ite (fun _ => ?_) (fun _ => ?_)
        · apply fail_kept
          refine Kept.of_fst (by assumption) ?_
          apply metered_kept
          assumption
        · refine Kept.ite (fun _ => ?_) (fun _ => ?_)
          · apply updWork_kept
            · refine Kept.of_fst (by assumption) ?_
              apply metered_kept
              assumption
            · exact fun t ht => ht
          · apply admitWork_kept
            refine Kept.of_fst (by assumption) ?_
            apply metered_kept
            assumption

theorem execDirRebuildDone_kept
    {bucket : Nat} {s : State} (h : Kept m p s) :
    ∃ t, execDirRebuildDone bucket s = .next t ∧ Kept m p t := by
  unfold execDirRebuildDone
  apply act_kept
  · assumption
  · intro _ _
    apply whenRunning_kept
    · assumption
    · intro _ _
      refine Kept.ite (fun _ => ?_) (fun _ => ?_)
      · dsimp only
        apply Kept.fold
        · intro _ _ _
          apply resumeLookup_kept
          assumption
        · apply rebuildBucket_kept
          assumption
      · assumption

theorem acceptWork_kept
    {s : State} {l : Nat} {desc : List Sys2Proof.Byte} (h : Kept m p s) :
    Kept m p (acceptWork s l desc) := by
  unfold acceptWork
  dsimp only
  apply acceptChecks_kept
  refine Kept.upd ?_ regs_of beds_of plan_of tiles_of lodged_of ?_ steps_of captures_of
  · apply countAll_kept
    apply regSet_kept
    assumption
  · intro _
    refine worksWf_append ?_ ?_
    · exact work_of (by assumption)
    · refine worksWf_cons ?_ ?_
      · (intro e he; cases he)
      · exact worksWf_nil

theorem haltLedger_kept
    {s : State} {l : Nat} {err : Nat} (h : Kept m p s) :
    Kept m p (haltLedger s l err) := by
  unfold haltLedger
  apply regSet_kept
  apply regSet_kept
  assumption

theorem publishHead_kept
    {s : State} {l : Nat} (h : Kept m p s) :
    Kept m p (publishHead s l) := by
  unfold publishHead
  dsimp only
  split
  · apply storeSpan_kept
    apply emit_kept
    apply releaseSpan_kept
    assumption
  · apply emit_kept
    assumption
  · assumption

theorem consume_kept {k l : Nat} {s : State} {fs : List Fetch} (h : Kept m p s) : Kept m p (consume k s l fs) := by
  induction k generalizing s fs with
  | zero =>
    unfold consume
    apply publishHead_kept
    assumption
  | succ k ih =>
    unfold consume
    dsimp only
    split
    · apply publishHead_kept
      assumption
    · split
      · apply haltLedger_kept
        apply publishHead_kept
        assumption
      · apply ih
        refine Kept.ite (fun _ => ?_) (fun _ => ?_)
        · apply publishHead_kept
          apply acceptWork_kept
          assumption
        · apply acceptWork_kept
          assumption

theorem takeTail_kept
    {s : State} {l : Nat} {tail : Nat} {descs : List Sys2Proof.Fetch} (h : Kept m p s) :
    Kept m p (takeTail s l tail descs) := by
  unfold takeTail
  dsimp only
  refine Kept.ite (fun _ => ?_) (fun _ => ?_)
  · apply haltLedger_kept
    apply regSet_kept
    assumption
  · apply consume_kept
    apply regSet_kept
    assumption

theorem execLedgerTailUpdate_kept
    {ledger : Nat} {line : Sys2Proof.Fetch} {descs : List Sys2Proof.Fetch} {s : State} (h : Kept m p s) :
    ∃ t, execLedgerTailUpdate ledger line descs s = .next t ∧ Kept m p t := by
  unfold execLedgerTailUpdate
  apply act_kept
  · assumption
  · intro _ _
    apply whenRunning_kept
    · assumption
    · intro _ _
      refine Kept.ite (fun _ => ?_) (fun _ => ?_)
      · assumption
      · split
        · apply haltLedger_kept
          assumption
        · apply takeTail_kept
          assumption

theorem execUnknownOpcode_kept
    {ledger : Nat} {desc : List Sys2Proof.Byte} {s : State} (h : Kept m p s) :
    ∃ t, execUnknownOpcode ledger desc s = .next t ∧ Kept m p t := by
  unfold execUnknownOpcode
  apply act_kept
  · assumption
  · intro _ _
    apply whenRunning_kept
    · assumption
    · intro _ _
      refine Kept.ite (fun _ => ?_) (fun _ => ?_)
      · apply publishHead_kept
        apply acceptWork_kept
        assumption
      · assumption

theorem takeConsumed_kept
    {s : State} {l : Nat} {n : Nat} (h : Kept m p s) :
    Kept m p (takeConsumed s l n) := by
  unfold takeConsumed
  dsimp only
  refine Kept.ite (fun _ => ?_) (fun _ => ?_)
  · apply haltLedger_kept
    apply regSet_kept
    assumption
  · refine Kept.ite (fun _ => ?_) (fun _ => ?_)
    · refine Kept.upd ?_ regs_of beds_of plan_of tiles_of lodged_of work_of steps_of captures_of
      apply regSet_kept
      assumption
    · apply regSet_kept
      assumption

theorem execConsumedLineUpdate_kept
    {ledger : Nat} {line : Sys2Proof.Fetch} {s : State} (h : Kept m p s) :
    ∃ t, execConsumedLineUpdate ledger line s = .next t ∧ Kept m p t := by
  unfold execConsumedLineUpdate
  apply act_kept
  · assumption
  · intro _ _
    apply whenRunning_kept
    · assumption
    · intro _ _
      refine Kept.ite (fun _ => ?_) (fun _ => ?_)
      · split
        · apply haltLedger_kept
          assumption
        · apply takeConsumed_kept
          assumption
      · assumption

theorem pinLedger_kept
    {s : State} {l : Nat} (h : Kept m p s) :
    Kept m p (pinLedger s l) := by
  unfold pinLedger
  apply Kept.fold
  · intro _ _ _
    apply raiseDemand_kept
    assumption
  · assumption

theorem execLedgerEnable_kept
    {path : Sys2Proof.Path} {line : Nat} {s : State} (h : Kept m p s) :
    ∃ t, execLedgerEnable path line s = .next t ∧ Kept m p t := by
  unfold execLedgerEnable
  apply act_kept
  · assumption
  · intro _ _
    apply whenRunning_kept
    · assumption
    · intro _ _
      split
      · assumption
      · refine Kept.ite (fun _ => ?_) (fun _ => ?_)
        · assumption
        · dsimp only
          refine Kept.ite (fun _ => ?_) (fun _ => ?_)
          · apply regSet_kept
            assumption
          · split
            · apply haltLedger_kept
              refine Kept.ite (fun _ => ?_) (fun _ => ?_)
              · refine Kept.upd ?_ regs_of beds_of plan_of tiles_of lodged_of work_of steps_of captures_of
                apply regSet_kept
                apply regSet_kept
                apply regSet_kept
                apply regSet_kept
                apply regSet_kept
                assumption
              · apply pinLedger_kept
                apply regSet_kept
                apply regSet_kept
                apply regSet_kept
                apply regSet_kept
                apply regSet_kept
                assumption
            · refine Kept.ite (fun _ => ?_) (fun _ => ?_)
              · apply takeTail_kept
                refine Kept.ite (fun _ => ?_) (fun _ => ?_)
                · refine Kept.upd ?_ regs_of beds_of plan_of tiles_of lodged_of work_of steps_of captures_of
                  apply regSet_kept
                  apply regSet_kept
                  apply regSet_kept
                  apply regSet_kept
                  apply regSet_kept
                  assumption
                · apply pinLedger_kept
                  apply regSet_kept
                  apply regSet_kept
                  apply regSet_kept
                  apply regSet_kept
                  apply regSet_kept
                  assumption
              · apply takeConsumed_kept
                refine Kept.ite (fun _ => ?_) (fun _ => ?_)
                · refine Kept.upd ?_ regs_of beds_of plan_of tiles_of lodged_of work_of steps_of captures_of
                  apply regSet_kept
                  apply regSet_kept
                  apply regSet_kept
                  apply regSet_kept
                  apply regSet_kept
                  assumption
                · apply pinLedger_kept
                  apply regSet_kept
                  apply regSet_kept
                  apply regSet_kept
                  apply regSet_kept
                  apply regSet_kept
                  assumption

theorem drainLedger_kept
    {s : State} {l : Nat} (h : Kept m p s) :
    Kept m p (drainLedger s l) := by
  unfold drainLedger
  refine Kept.ite (fun _ => ?_) (fun _ => ?_)
  · apply regSet_kept
    apply regSet_kept
    assumption
  · assumption

theorem execLedgerDisable_kept
    {path : Sys2Proof.Path} {s : State} (h : Kept m p s) :
    ∃ t, execLedgerDisable path s = .next t ∧ Kept m p t := by
  unfold execLedgerDisable
  apply act_kept
  · assumption
  · intro _ _
    apply whenRunning_kept
    · assumption
    · intro _ _
      split
      · assumption
      · apply drainLedger_kept
        assumption

theorem disableLedger_kept
    {s : State} {l : Nat} (h : Kept m p s) :
    Kept m p (disableLedger s l) := by
  unfold disableLedger
  dsimp only
  refine Kept.upd ?_ regs_of beds_of plan_of tiles_of lodged_of work_of steps_of captures_of
  apply regSet_kept
  assumption

theorem execLedgerDrainEnd_kept
    {ledger : Nat} {s : State} (h : Kept m p s) :
    ∃ t, execLedgerDrainEnd ledger s = .next t ∧ Kept m p t := by
  unfold execLedgerDrainEnd
  apply act_kept
  · assumption
  · intro _ _
    apply whenRunning_kept
    · assumption
    · intro _ _
      refine Kept.ite (fun _ => ?_) (fun _ => ?_)
      · apply disableLedger_kept
        assumption
      · assumption

theorem signal_kept
    {s : State} {cq : Nat} {notify : Bool} (h : Kept m p s) :
    Kept m p (signal s cq notify) := by
  unfold signal
  dsimp only
  refine Kept.ite (fun _ => ?_) (fun _ => ?_)
  · assumption
  · refine Kept.ite (fun _ => ?_) (fun _ => ?_)
    · apply raiseVector_kept
      refine Kept.upd ?_ regs_of beds_of plan_of tiles_of lodged_of work_of steps_of captures_of
      assumption
    · refine Kept.upd ?_ regs_of beds_of plan_of tiles_of lodged_of work_of steps_of captures_of
      assumption

theorem traceDesc_kept
    {s : State} {w : Work} {status : Nat} {l : List Effect} (h : Kept m p s) :
    Kept m p (traceDesc s w status l) := by
  unfold traceDesc
  refine Kept.ite (fun _ => ?_) (fun _ => ?_)
  · assumption
  · dsimp only
    apply trace_kept
    assumption

theorem plannerRevived_kept
    {s : State} {w : Work} (h : Kept m p s) :
    Kept m p (plannerRevived s w) := by
  unfold plannerRevived
  refine Kept.ite (fun _ => ?_) (fun _ => ?_)
  · split
    · assumption
    · refine Kept.ite (fun _ => ?_) (fun _ => ?_)
      · apply dueEntry_kept
        apply updMember_kept
        assumption
      · assumption
  · assumption

theorem completed_kept
    {s : State} {w : Work} {cq : Nat} {status : Nat} {effects : List Effect} (h : Kept m p s)
    (heffects : effectsWf effects) :
    Kept m p (completed s w cq status effects) := by
  unfold completed
  dsimp only
  apply tidyReady_kept
  apply noteReady_kept
  apply sweepDir_kept
  apply reap_kept
  apply retireWork_kept
  apply countAll_kept
  apply traceDesc_kept
  apply signal_kept
  refine Kept.ite (fun _ => ?_) (fun _ => ?_)
  · apply plannerRevived_kept
    apply applyEffects_kept
    · apply regSet_kept
      assumption
    · assumption
  · apply undoWork_kept
    apply applyEffects_kept
    · apply regSet_kept
      assumption
    · assumption

theorem revised_wf {s : State} {w : Work} (hw : effectsWf w.effects) : effectsWf (revised s w).2.2 := by
  unfold revised
  dsimp only
  split
  · exact effectsWf_nil
  · split
    · exact effectsWf_nil
    · split
      · exact hw
      · exact effectsWf_filter hw

theorem writeCompletion_kept {s : State} {w : Work} (h : Kept m p s) (hw : effectsWf w.effects) :
    Kept m p (writeCompletion s w) := by
  have hr := revised_wf (s := s) hw
  unfold writeCompletion
  dsimp only
  refine Kept.ite (fun _ => ?_) (fun _ => ?_)
  · apply abandon_kept
    assumption
  · refine Kept.ite (fun _ => ?_) (fun _ => ?_)
    · assumption
    · refine Kept.ite (fun _ => ?_) (fun _ => ?_)
      · apply releaseLines_kept
        assumption
      · refine Kept.ite (fun _ => ?_) (fun _ => ?_)
        · apply releaseLines_kept
          assumption
        · split
          · refine Kept.ite (fun _ => ?_) (fun _ => ?_)
            · apply releaseSpan_kept
              apply releaseLines_kept
              assumption
            · apply completed_kept
              · apply emit_kept
                apply storeSpan_kept
                apply releaseSpan_kept
                apply releaseLines_kept
                assumption
              · assumption
          · apply completed_kept
            · apply emit_kept
              apply releaseLines_kept
              assumption
            · assumption

theorem execCqFullTimeout_kept
    {ledger : Nat} {s : State} (h : Kept m p s) :
    ∃ t, execCqFullTimeout ledger s = .next t ∧ Kept m p t := by
  unfold execCqFullTimeout
  apply act_kept
  · assumption
  · intro _ _
    apply whenRunning_kept
    · assumption
    · intro _ _
      refine Kept.ite (fun _ => ?_) (fun _ => ?_)
      · dsimp only
        refine Kept.upd ?_ regs_of beds_of plan_of tiles_of lodged_of work_of steps_of captures_of
        apply event_kept
        assumption
      · assumption

theorem execInterruptCoalTimeout_kept
    {group : Nat} {s : State} (h : Kept m p s) :
    ∃ t, execInterruptCoalTimeout group s = .next t ∧ Kept m p t := by
  unfold execInterruptCoalTimeout
  apply act_kept
  · assumption
  · intro _ _
    apply whenRunning_kept
    · assumption
    · intro _ _
      refine Kept.ite (fun _ => ?_) (fun _ => ?_)
      · apply raiseVector_kept
        refine Kept.upd ?_ regs_of beds_of plan_of tiles_of lodged_of work_of steps_of captures_of
        assumption
      · assumption

theorem runSluice_kept
    {s : State} {w : Work} (h : Kept m p s) :
    Kept m p (runSluice s w) := by
  unfold runSluice
  apply done_kept
  assumption

theorem execSluiceSession_kept
    {work : Nat} {s : State} (h : Kept m p s) :
    ∃ t, execSluiceSession work s = .next t ∧ Kept m p t := by
  unfold execSluiceSession
  apply act_kept
  · assumption
  · intro _ _
    apply runWork_kept
    · assumption
    · intro _ _ _ _
      apply runSluice_kept
      assumption

theorem execSluicePublish_kept
    {work : Nat} {s : State} (h : Kept m p s) :
    ∃ t, execSluicePublish work s = .next t ∧ Kept m p t := by
  unfold execSluicePublish
  apply act_kept
  · assumption
  · intro _ _
    apply runWork_kept
    · assumption
    · intro _ _ _ _
      apply runSluice_kept
      assumption

theorem execSluiceGlobal_kept
    {work : Nat} {s : State} (h : Kept m p s) :
    ∃ t, execSluiceGlobal work s = .next t ∧ Kept m p t := by
  unfold execSluiceGlobal
  apply act_kept
  · assumption
  · intro _ _
    apply runWork_kept
    · assumption
    · intro _ _ _ _
      apply runSluice_kept
      assumption

end Sys2Proof.Laws
end

