-- ==== Sys2Proof/Laws/KeptAdmission.lean ====
section
/-! SUPPORT. Every operation and meaning of Machine/Admission.lean keeps the form. -/

namespace Sys2Proof.Laws

open Sys2Proof Sys2Proof.Machine Sys2Proof.Safety

variable {m : Model} {p : List Instr}

theorem planStep_kept
    {s : State} {w : Work} {p1 : Planner} (h : Kept m p s) :
    Kept m p (planStep s w p1) := by
  unfold planStep
  dsimp only
  apply concludeOut_kept
  · apply mapPlanners_kept
    assumption
  · exact payloadsWf_nil
  · refine effectsWf_append ?_ ?_
    · refine effectsWf_append ?_ ?_
      · refine effectsWf_append ?_ ?_
        · refine effectsWf_append ?_ ?_
          · refine effectsWf_map (fun _ _ => trivial)
          · refine effectsWf_map (fun _ _ => trivial)
        · refine effectsWf_map (fun _ _ => trivial)
      · refine effectsWf_map (fun _ _ => trivial)
    · refine effectsWf_cons trivial ?_
      exact effectsWf_nil

theorem runPlan_kept
    {s : State} {w : Work} (h : Kept m p s) :
    Kept m p (runPlan s w) := by
  unfold runPlan
  dsimp only
  split
  · apply fail_kept
    apply noteReady_kept
    assumption
  · apply checked_kept
    · apply noteReady_kept
      assumption
    · intro _ _
      apply planStep_kept
      assumption

theorem execPlan_kept
    {work : Nat} {s : State} (h : Kept m p s) :
    ∃ t, execPlan work s = .next t ∧ Kept m p t := by
  unfold execPlan
  apply act_kept
  · assumption
  · intro _ _
    apply runWork_kept
    · assumption
    · intro _ _ _ _
      apply runPlan_kept
      assumption

theorem runEnroll_kept
    {s : State} {w : Work} (h : Kept m p s) :
    Kept m p (runEnroll s w) := by
  unfold runEnroll
  dsimp only
  split
  · apply fail_kept
    assumption
  · apply checked_kept
    · assumption
    · intro _ _
      apply finish_kept
      · assumption
      · refine effectsWf_cons trivial ?_
        exact effectsWf_nil

theorem execEnroll_kept
    {work : Nat} {s : State} (h : Kept m p s) :
    ∃ t, execEnroll work s = .next t ∧ Kept m p t := by
  unfold execEnroll
  apply act_kept
  · assumption
  · intro _ _
    apply runWork_kept
    · assumption
    · intro _ _ _ _
      apply runEnroll_kept
      assumption

theorem runWithdraw_kept
    {s : State} {w : Work} (h : Kept m p s) :
    Kept m p (runWithdraw s w) := by
  unfold runWithdraw
  dsimp only
  split
  · apply fail_kept
    assumption
  · refine Kept.ite (fun _ => ?_) (fun _ => ?_)
    · apply fail_kept
      assumption
    · split
      · apply fail_kept
        assumption
      · refine Kept.ite (fun _ => ?_) (fun _ => ?_)
        · assumption
        · apply finish_kept
          · assumption
          · refine effectsWf_cons trivial ?_
            exact effectsWf_nil

theorem execWithdraw_kept
    {work : Nat} {s : State} (h : Kept m p s) :
    ∃ t, execWithdraw work s = .next t ∧ Kept m p t := by
  unfold execWithdraw
  apply act_kept
  · assumption
  · intro _ _
    apply runWork_kept
    · assumption
    · intro _ _ _ _
      apply runWithdraw_kept
      assumption

theorem runPlanConfigure_kept
    {s : State} {w : Work} (h : Kept m p s) :
    Kept m p (runPlanConfigure s w) := by
  unfold runPlanConfigure
  apply checked_kept
  · assumption
  · intro _ _
    apply finish_kept
    · assumption
    · refine effectsWf_cons trivial ?_
      exact effectsWf_nil

theorem execStepPlanConfigure_kept
    {work : Nat} {s : State} (h : Kept m p s) :
    ∃ t, execStepPlanConfigure work s = .next t ∧ Kept m p t := by
  unfold execStepPlanConfigure
  apply act_kept
  · assumption
  · intro _ _
    apply runWork_kept
    · assumption
    · intro _ _ _ _
      apply runPlanConfigure_kept
      assumption

theorem dropOwn_kept
    {s : State} {id : Nat} (h : Kept m p s) :
    Kept m p (dropOwn s id) := by
  unfold dropOwn
  refine Kept.upd ?_ regs_of beds_of plan_of tiles_of lodged_of ?_ steps_of captures_of
  · assumption
  · exact fun k => worksWf_filter k.form.work

theorem runOwn_kept {s : State} {w : Work} {run : State → Work → State} {good bad : State → State} (h : Kept m p s)
    (hrun : ∀ x y, Kept m p x → Kept m p (run x y)) (hgood : ∀ x, Kept m p x → Kept m p (good x))
    (hbad : ∀ x, Kept m p x → Kept m p (bad x)) (hw : effectsWf w.effects) :
    Kept m p (runOwn s w run good bad) := by
  have ht : Kept m p (run { s with work := s.work ++ [w], nextId := s.nextId + 1 } w) :=
    hrun _ _ (Kept.upd h regs_of beds_of plan_of tiles_of lodged_of
      (fun k => worksWf_append k.form.work (worksWf_cons hw worksWf_nil)) steps_of captures_of)
  unfold runOwn
  dsimp only
  split
  · exact ht
  · rename_i v e
    have hv := revised_wf (s := run { s with work := s.work ++ [w], nextId := s.nextId + 1 } w) (ht.effects e)
    refine Kept.ite (fun _ => ?_) (fun _ => Kept.ite (fun _ => ?_) (fun _ => Kept.ite (fun _ => ?_) (fun _ => ?_)))
    · exact Kept.upd (dropOwn_kept ht) regs_of beds_of plan_of tiles_of lodged_of work_of steps_of captures_of
    · exact hbad _ (undoWork_kept (dropOwn_kept ht))
    · exact Kept.upd (dropOwn_kept (releaseLines_kept ht)) regs_of beds_of plan_of tiles_of lodged_of work_of steps_of
        captures_of
    · exact hgood _ (noteReady_kept (applyEffects_kept (dropOwn_kept (releaseLines_kept ht)) hv))

theorem execPlannerParkDone_kept
    {handle : Nat} {src : Sys2Proof.Fetch} {s : State} (h : Kept m p s) :
    ∃ t, execPlannerParkDone handle src s = .next t ∧ Kept m p t := by
  unfold execPlannerParkDone
  apply act_kept
  · assumption
  · intro _ _
    apply whenRunning_kept
    · assumption
    · intro _ _
      split
      · split
        · dsimp only
          refine Kept.ite (fun _ => ?_) (fun _ => ?_)
          · apply updMember_kept
            assumption
          · refine Kept.ite (fun _ => ?_) (fun _ => ?_)
            · assumption
            · apply runOwn_kept
              · assumption
              · intro _ _ _
                apply runPark_kept
                assumption
              · intro _ _
                apply dueEntry_kept
                apply updMember_kept
                assumption
              · intro _ _
                apply updMember_kept
                assumption
              · (intro e he; cases he)
        · assumption
      · assumption

theorem execPlannerReviveDone_kept
    {handle : Nat} {s : State} (h : Kept m p s) :
    ∃ t, execPlannerReviveDone handle s = .next t ∧ Kept m p t := by
  unfold execPlannerReviveDone
  apply act_kept
  · assumption
  · intro _ _
    apply whenRunning_kept
    · assumption
    · intro _ _
      split
      · refine Kept.ite (fun _ => ?_) (fun _ => ?_)
        · assumption
        · dsimp only
          refine Kept.ite (fun _ => ?_) (fun _ => ?_)
          · apply updSubj_kept
            apply updMember_kept
            assumption
          · apply runOwn_kept
            · assumption
            · intro _ _ _
              apply runRevive_kept
              assumption
            · intro _ _
              apply noteReady_kept
              apply dueEntry_kept
              apply updMember_kept
              assumption
            · intro _ _
              apply updSubj_kept
              apply updMember_kept
              assumption
            · (intro e he; cases he)
      · assumption

theorem missDeadline_kept
    {s : State} {w : Work} (h : Kept m p s) :
    Kept m p (missDeadline s w) := by
  unfold missDeadline
  dsimp only
  apply tidyReady_kept
  apply fail_kept
  apply dropSteps_kept
  apply countReg_kept
  apply workEvent_kept
  apply setLast_kept
  apply raiseClass_kept
  assumption

theorem execDeadlineExpiry_kept
    {work : Nat} {s : State} (h : Kept m p s) :
    ∃ t, execDeadlineExpiry work s = .next t ∧ Kept m p t := by
  unfold execDeadlineExpiry
  apply act_kept
  · assumption
  · intro _ _
    apply whenRunning_kept
    · assumption
    · intro _ _
      split
      · assumption
      · refine Kept.ite (fun _ => ?_) (fun _ => ?_)
        · assumption
        · refine Kept.ite (fun _ => ?_) (fun _ => ?_)
          · apply updWork_kept
            · assumption
            · exact fun t ht => ht
          · apply missDeadline_kept
            assumption

theorem execShaperRefill_kept
    {s : State} (h : Kept m p s) :
    ∃ t, execShaperRefill s = .next t ∧ Kept m p t := by
  unfold execShaperRefill
  apply act_kept
  · assumption
  · intro _ _
    apply whenRunning_kept
    · assumption
    · intro _ _
      refine Kept.upd ?_ regs_of beds_of plan_of tiles_of lodged_of work_of steps_of captures_of
      assumption

theorem commitMeter_kept
    {s : State} {k1 : Nat} (h : Kept m p s) :
    Kept m p (commitMeter s k1) := by
  unfold commitMeter
  dsimp only
  refine Kept.ite (fun _ => ?_) (fun _ => ?_)
  · assumption
  · refine Kept.upd ?_ regs_of beds_of plan_of tiles_of lodged_of work_of steps_of captures_of
    assumption

theorem execMeterCommit_kept
    {path : Sys2Proof.Path} {s : State} (h : Kept m p s) :
    ∃ t, execMeterCommit path s = .next t ∧ Kept m p t := by
  unfold execMeterCommit
  apply act_kept
  · assumption
  · intro _ _
    apply whenRunning_kept
    · assumption
    · intro _ _
      split
      · assumption
      · apply commitMeter_kept
        assumption

theorem execClrMax_kept
    {path : Sys2Proof.Path} {s : State} (h : Kept m p s) :
    ∃ t, execClrMax path s = .next t ∧ Kept m p t := by
  unfold execClrMax
  apply act_kept
  · assumption
  · intro _ _
    apply whenRunning_kept
    · assumption
    · intro _ _
      split
      · assumption
      · apply regSet_kept
        apply regSet_kept
        assumption

end Sys2Proof.Laws
end

