-- ==== Sys2Proof/Laws/KeptUnits.lean ====
section
/-! SUPPORT. Every operation and meaning of Machine/Units.lean keeps the form. -/

namespace Sys2Proof.Laws

open Sys2Proof Sys2Proof.Machine Sys2Proof.Safety

variable {m : Model} {p : List Instr}

theorem imageRoom_kept {k c : Nat} {s : State} (h : Kept m p s) : ∀ t, imageRoom k s c = some t → Kept m p t := by
  induction k generalizing s with
  | zero =>
    intro t e
    unfold imageRoom at e
    split at e
    · cases e; exact h
    · split at e
      · contradiction
      · cases e
  | succ k ih =>
    intro t e
    unfold imageRoom at e
    split at e
    · cases e; exact h
    · split at e
      · rename_i e1 _
        cases e1
        exact ih (Kept.upd h regs_of beds_of plan_of tiles_of lodged_of work_of steps_of captures_of) t e
      · cases e

theorem clearSlots_kept
    {s : State} {k1 : Nat} (h : Kept m p s) :
    Kept m p (clearSlots s k1) := by
  unfold clearSlots
  dsimp only
  refine Kept.upd ?_ regs_of beds_of plan_of tiles_of lodged_of work_of steps_of captures_of
  assumption

theorem startSwitch_kept
    {s : State} {k1 : Nat} {c : Nat} (h : Kept m p s) :
    Kept m p (startSwitch s k1 c) := by
  unfold startSwitch
  dsimp only
  refine Kept.upd ?_ regs_of beds_of plan_of tiles_of lodged_of work_of steps_of captures_of
  apply clearSlots_kept
  assumption

theorem saveImage_kept
    {s : State} {k1 : Nat} {c : Nat} (h : Kept m p s) :
    Kept m p (saveImage s k1 c) := by
  unfold saveImage
  refine Kept.upd ?_ regs_of beds_of plan_of tiles_of lodged_of work_of steps_of captures_of
  assumption

theorem saveAtEnd_kept
    {s : State} {k1 : Nat} {c : Nat} (h : Kept m p s) :
    Kept m p (saveAtEnd s k1 c) := by
  unfold saveAtEnd
  refine Kept.ite (fun _ => ?_) (fun _ => ?_)
  · split
    · apply saveImage_kept
      refine imageRoom_kept ?_ _ (by assumption)
      assumption
    · assumption
  · assumption

theorem preempt_kept
    {s : State} {k1 : Nat} {old : Nat} {c : Nat} (h : Kept m p s) :
    Kept m p (preempt s k1 old c) := by
  unfold preempt
  dsimp only
  refine Kept.ite (fun _ => ?_) (fun _ => ?_)
  · apply saveImage_kept
    apply startSwitch_kept
    apply countAll_kept
    refine Kept.upd ?_ regs_of beds_of plan_of tiles_of lodged_of ?_ steps_of captures_of
    · assumption
    · exact fun k => worksWf_updIf k.form.work (fun w hw => hw)
  · refine Kept.upd ?_ regs_of beds_of plan_of tiles_of lodged_of work_of steps_of captures_of
    apply startSwitch_kept
    apply countAll_kept
    refine Kept.upd ?_ regs_of beds_of plan_of tiles_of lodged_of ?_ steps_of captures_of
    · assumption
    · exact fun k => worksWf_updIf k.form.work (fun w hw => hw)

theorem boundary_kept
    {s : State} {k1 : Nat} (h : Kept m p s) :
    Kept m p (boundary s k1) := by
  unfold boundary
  refine Kept.ite (fun _ => ?_) (fun _ => ?_)
  · assumption
  · split
    · assumption
    · split
      · assumption
      · dsimp only
        refine Kept.ite (fun _ => ?_) (fun _ => ?_)
        · apply startSwitch_kept
          apply saveAtEnd_kept
          assumption
        · refine Kept.ite (fun _ => ?_) (fun _ => ?_)
          · refine Kept.ite (fun _ => ?_) (fun _ => ?_)
            · split
              · apply preempt_kept
                refine imageRoom_kept ?_ _ (by assumption)
                assumption
              · assumption
            · assumption
          · refine Kept.ite (fun _ => ?_) (fun _ => ?_)
            · apply preempt_kept
              assumption
            · assumption

theorem residentPlace_kept {s : State} {k : Nat} (h : Kept m p s) : ∀ t, residentPlace s k = some t → Kept m p t := by
  intro t e
  unfold residentPlace at e
  split at e
  · cases e; exact h
  · obtain ⟨a, -, rfl⟩ := Option.map_eq_some_iff.1 e
    exact Kept.upd h regs_of beds_of plan_of tiles_of lodged_of work_of steps_of captures_of

theorem startsFresh_kept
    {s : State} {k1 : Nat} {c : Nat} (h : Kept m p s) :
    Kept m p (startsFresh s k1 c) := by
  unfold startsFresh
  refine Kept.ite (fun _ => ?_) (fun _ => ?_)
  · assumption
  · refine Kept.upd ?_ regs_of beds_of plan_of tiles_of lodged_of work_of steps_of captures_of
    assumption

theorem makeCurrent_kept
    {s : State} {k1 : Nat} {c : Nat} (h : Kept m p s) :
    Kept m p (makeCurrent s k1 c) := by
  unfold makeCurrent
  dsimp only
  refine Kept.upd ?_ regs_of beds_of plan_of tiles_of lodged_of work_of steps_of captures_of
  apply startsFresh_kept
  assumption

theorem advanceNext_kept {k u : Nat} {s : State} (h : Kept m p s) : Kept m p (advanceNext k s u) := by
  induction k generalizing s u with
  | zero => exact h
  | succ k ih =>
    unfold advanceNext
    split
    · assumption
    · refine Kept.ite (fun _ => ?_) (fun _ => ?_)
      · assumption
      · dsimp only
        apply ih
        refine Kept.upd ?_ regs_of beds_of plan_of tiles_of lodged_of work_of steps_of captures_of
        assumption

theorem takeDescriptor_kept
    {s : State} {w : Work} {leaf : Nat} (h : Kept m p s) :
    Kept m p (takeDescriptor s w leaf) := by
  unfold takeDescriptor
  dsimp only
  refine Kept.ite (fun _ => ?_) (fun _ => ?_)
  · apply countDispatch_kept
    apply updWork_kept
    · split
      · apply wakeBed_kept
        apply advanceNext_kept
        assumption
      · apply advanceNext_kept
        assumption
    · (intro t ht; split <;> exact ht)
  · apply updWork_kept
    · split
      · apply wakeBed_kept
        apply advanceNext_kept
        assumption
      · apply advanceNext_kept
        assumption
    · (intro t ht; split <;> exact ht)

theorem execDescriptorWindowRead_kept
    {leaf : Nat} {work : Nat} {s : State} (h : Kept m p s) :
    ∃ t, execDescriptorWindowRead leaf work s = .next t ∧ Kept m p t := by
  unfold execDescriptorWindowRead
  apply act_kept
  · assumption
  · intro _ _
    apply whenRunning_kept
    · assumption
    · intro _ _
      split
      · assumption
      · dsimp only
        refine Kept.ite (fun _ => ?_) (fun _ => ?_)
        · assumption
        · split
          · refine Kept.ite (fun _ => ?_) (fun _ => ?_)
            · split
              · apply takeDescriptor_kept
                apply makeCurrent_kept
                refine residentPlace_kept ?_ _ (by assumption)
                assumption
              · assumption
            · assumption
          · refine Kept.ite (fun _ => ?_) (fun _ => ?_)
            · refine Kept.ite (fun _ => ?_) (fun _ => ?_)
              · apply takeDescriptor_kept
                assumption
              · assumption
            · apply boundary_kept
              assumption

theorem reloadImage_kept
    {s : State} {k1 : Nat} {c : Nat} (h : Kept m p s) :
    Kept m p (reloadImage s k1 c) := by
  unfold reloadImage
  refine Kept.ite (fun _ => ?_) (fun _ => ?_)
  · dsimp only
    refine Kept.upd ?_ regs_of beds_of plan_of tiles_of lodged_of work_of steps_of captures_of
    apply Kept.fold
    · intro _ _ _
      apply fail_kept
      apply dropSteps_kept
      assumption
    · assumption
  · assumption

theorem freshPans_kept
    {s : State} {k1 : Nat} {c : Nat} (h : Kept m p s) :
    Kept m p (freshPans s k1 c) := by
  unfold freshPans
  dsimp only
  refine Kept.upd ?_ regs_of beds_of plan_of tiles_of lodged_of work_of steps_of captures_of
  assumption

theorem execContextSwitchDone_kept
    {leaf : Nat} {s : State} (h : Kept m p s) :
    ∃ t, execContextSwitchDone leaf s = .next t ∧ Kept m p t := by
  unfold execContextSwitchDone
  apply act_kept
  · assumption
  · intro _ _
    apply whenRunning_kept
    · assumption
    · intro _ _
      dsimp only
      split
      · assumption
      · refine Kept.upd ?_ regs_of beds_of plan_of tiles_of lodged_of ?_ steps_of captures_of
        · apply freshPans_kept
          apply startsFresh_kept
          apply reloadImage_kept
          assumption
        · exact fun k => worksWf_updIf k.form.work (fun w hw => hw)

theorem sliceOver_kept
    {s : State} {k1 : Nat} (h : Kept m p s) :
    Kept m p (sliceOver s k1) := by
  unfold sliceOver
  refine Kept.ite (fun _ => ?_) (fun _ => ?_)
  · apply boundary_kept
    refine Kept.upd ?_ regs_of beds_of plan_of tiles_of lodged_of work_of steps_of captures_of
    assumption
  · assumption

theorem execContextSliceExpiry_kept
    {leaf : Nat} {s : State} (h : Kept m p s) :
    ∃ t, execContextSliceExpiry leaf s = .next t ∧ Kept m p t := by
  unfold execContextSliceExpiry
  apply act_kept
  · assumption
  · intro _ _
    apply whenRunning_kept
    · assumption
    · intro _ _
      refine Kept.ite (fun _ => ?_) (fun _ => ?_)
      · assumption
      · apply sliceOver_kept
        assumption

theorem execResidentSliceExpiry_kept
    {unit : Nat} {s : State} (h : Kept m p s) :
    ∃ t, execResidentSliceExpiry unit s = .next t ∧ Kept m p t := by
  unfold execResidentSliceExpiry
  apply act_kept
  · assumption
  · intro _ _
    apply whenRunning_kept
    · assumption
    · intro _ _
      refine Kept.ite (fun _ => ?_) (fun _ => ?_)
      · apply sliceOver_kept
        assumption
      · assumption

theorem execDispatchHeldRelease_kept
    {utype : Nat} {s : State} (h : Kept m p s) :
    ∃ t, execDispatchHeldRelease utype s = .next t ∧ Kept m p t := by
  unfold execDispatchHeldRelease
  apply act_kept
  · assumption
  · intro _ _
    apply whenRunning_kept
    · assumption
    · intro _ _
      apply releaseHeld_kept
      assumption

theorem panFails_kept
    {s : State} {bed : Nat} {pos : Nat} {reason : Nat} (h : Kept m p s) :
    Kept m p (panFails s bed pos reason) := by
  unfold panFails
  split
  · assumption
  · dsimp only
    apply event_kept
    apply repairPan_kept
    refine Kept.upd ?_ regs_of beds_of plan_of tiles_of lodged_of work_of steps_of captures_of
    apply clearUnits_kept
    apply discardFlight_kept
    apply wakeBed_kept
    apply raiseClass_kept
    assumption

theorem execPanFault_kept
    {bed : Nat} {pos : Nat} {s : State} (h : Kept m p s) :
    ∃ t, execPanFault bed pos s = .next t ∧ Kept m p t := by
  unfold execPanFault
  apply act_kept
  · assumption
  · intro _ _
    apply whenRunning_kept
    · assumption
    · intro _ _
      apply panFails_kept
      assumption

theorem execStepOverrun_kept
    {bed : Nat} {pos : Nat} {s : State} (h : Kept m p s) :
    ∃ t, execStepOverrun bed pos s = .next t ∧ Kept m p t := by
  unfold execStepOverrun
  apply act_kept
  · assumption
  · intro _ _
    apply whenRunning_kept
    · assumption
    · intro _ _
      refine Kept.ite (fun _ => ?_) (fun _ => ?_)
      · apply panFails_kept
        assumption
      · assumption

theorem putSlot_kept
    {s : State} {e : SlotEnt} (h : Kept m p s) :
    Kept m p (putSlot s e) := by
  unfold putSlot
  dsimp only
  refine Kept.upd ?_ regs_of beds_of plan_of tiles_of lodged_of work_of steps_of captures_of
  assumption

theorem askSlot_kept
    {s : State} {id : Nat} {e : SlotEnt} (h : Kept m p s) :
    Kept m p (askSlot s id e) := by
  unfold askSlot
  split
  · apply putSlot_kept
    assumption
  · refine Kept.ite (fun _ => ?_) (fun _ => ?_)
    · apply putSlot_kept
      assumption
    · dsimp only
      apply emit_kept
      refine Kept.ite (fun _ => ?_) (fun _ => ?_)
      · apply requestTile_kept
        apply updWork_kept
        · apply putSlot_kept
          assumption
        · exact fun t ht => ht
      · apply updWork_kept
        · apply putSlot_kept
          assumption
        · exact fun t ht => ht

theorem execTileRequest_kept
    {bed : Nat} {pos : Nat} {handle : Nat} {number : Nat} {slot : Nat} {s : State} (h : Kept m p s) :
    ∃ t, execTileRequest bed pos handle number slot s = .next t ∧ Kept m p t := by
  unfold execTileRequest
  apply act_kept
  · assumption
  · intro _ _
    apply whenRunning_kept
    · assumption
    · intro _ _
      split
      · assumption
      · dsimp only
        refine Kept.ite (fun _ => ?_) (fun _ => ?_)
        · assumption
        · split
          · refine Kept.ite (fun _ => ?_) (fun _ => ?_)
            · apply panFails_kept
              assumption
            · apply putSlot_kept
              assumption
          · refine Kept.ite (fun _ => ?_) (fun _ => ?_)
            · apply panFails_kept
              assumption
            · apply askSlot_kept
              apply keyChecked_kept
              assumption

theorem arriveSlot_kept
    {s : State} {bed : Nat} {pos : Nat} {slot : Nat} {handle : Nat} {number : Nat} {image : List Sys2Proof.Byte}
    (h : Kept m p s) :
    Kept m p (arriveSlot s bed pos slot handle number image) := by
  unfold arriveSlot
  split
  · dsimp only
    refine Kept.ite (fun _ => ?_) (fun _ => ?_)
    · apply useTile_kept
      apply putSlot_kept
      apply countAll_kept
      apply countAll_kept
      split
      · apply updWork_kept
        · assumption
        · exact fun t ht => ht
      · assumption
    · refine Kept.ite (fun _ => ?_) (fun _ => ?_)
      · apply askSlot_kept
        apply copyFailed_kept
        split
        · apply updWork_kept
          · assumption
          · exact fun t ht => ht
        · assumption
      · apply putSlot_kept
        split
        · apply updWork_kept
          · assumption
          · exact fun t ht => ht
        · assumption
  · apply putSlot_kept
    assumption
  · assumption

theorem arriveT1_kept
    {s : State} {handle : Nat} {number : Nat} {image : List Sys2Proof.Byte} (h : Kept m p s) :
    Kept m p (arriveT1 s handle number image) := by
  unfold arriveT1
  split
  · assumption
  · dsimp only
    refine Kept.ite (fun _ => ?_) (fun _ => ?_)
    · assumption
    · refine Kept.ite (fun _ => ?_) (fun _ => ?_)
      · apply raiseDemand_kept
        assumption
      · apply copyFailed_kept
        assumption

theorem execTileArrival_kept
    {dest : Sys2Proof.Dest} {handle : Nat} {number : Nat} {image : List Sys2Proof.Byte} {s : State} (h : Kept m p s) :
    ∃ t, execTileArrival dest handle number image s = .next t ∧ Kept m p t := by
  unfold execTileArrival
  apply act_kept
  · assumption
  · intro _ _
    apply whenRunning_kept
    · assumption
    · intro _ _
      split
      · apply arriveSlot_kept
        assumption
      · apply arriveT1_kept
        assumption

theorem execTileStepBegin_kept
    {bed : Nat} {pos : Nat} {work : Nat} {step : Sys2Proof.StepArg} {s : State} (h : Kept m p s) :
    ∃ t, execTileStepBegin bed pos work step s = .next t ∧ Kept m p t := by
  unfold execTileStepBegin
  apply act_kept
  · assumption
  · intro _ _
    apply whenRunning_kept
    · assumption
    · intro _ _
      refine Kept.ite (fun _ => ?_) (fun _ => ?_)
      · assumption
      · dsimp only
        apply countAll_kept
        apply updWork_kept
        · refine Kept.upd ?_ regs_of beds_of plan_of tiles_of lodged_of work_of steps_of captures_of
          assumption
        · exact fun t ht => ht

theorem outTiles_wf {s : State} {w : Work} {l : List OutTile} : payloadsWf (l.filterMap (outTile s w)) := by
  refine payloadsWf_filterMap fun o _ t e => ?_
  obtain ⟨x, -, rfl⟩ := Option.map_eq_some_iff.1 e
  exact cellsOf_wf

theorem execStepEnd_kept {bed pos : Nat} {outs : List OutTile} {s : State} (h : Kept m p s) :
    ∃ t, execStepEnd bed pos outs s = .next t ∧ Kept m p t := by
  refine act_kept h fun s k => whenRunning_kept k fun s k => ?_
  split
  · exact k
  · rename_i e _
    have k : Kept m p { s with units := { s.units with
        steps := s.units.steps.filter fun x => x ≠ e
        slots := s.units.slots.filter fun x => !(x.bed == bed && x.pos == pos && setOf x.slot == e.set)
        turn := aset s.units.turn (bed, pos) (1 - e.set) } } :=
      Kept.upd k regs_of beds_of plan_of tiles_of lodged_of work_of steps_of captures_of
    dsimp only
    split
    · refine boundary_kept (Kept.ite (fun _ => fail_kept (dropSteps_kept ?_)) fun _ =>
        Kept.ite (fun _ => missDeadline_kept ?_) fun _ => ?_)
      all_goals
        refine Kept.ite (fun _ => fail_kept k) fun _ => ?_
        split
        · exact fail_kept k
        · exact stageAll_kept k outTiles_wf _ (by assumption)
    · exact k

theorem execPanMessage_kept
    {bed : Nat} {pos : Nat} {toBed : Nat} {toPos : Nat} {bulk : Bool} {body : List Sys2Proof.Byte} {s : State}
    (h : Kept m p s) :
    ∃ t, execPanMessage bed pos toBed toPos bulk body s = .next t ∧ Kept m p t := by
  unfold execPanMessage
  apply act_kept
  · assumption
  · intro _ _
    apply whenRunning_kept
    · assumption
    · intro _ _
      split
      · refine Kept.ite (fun _ => ?_) (fun _ => ?_)
        · assumption
        · dsimp only
          apply emit_kept
          refine Kept.ite (fun _ => ?_) (fun _ => ?_)
          · assumption
          · apply countAll_kept
            assumption
      · assumption

end Sys2Proof.Laws
end

