-- ==== Sys2Proof/Laws/KeptFaults.lean ====
section
/-! SUPPORT. Every operation and meaning of Machine/Faults.lean keeps the form. -/

namespace Sys2Proof.Laws

open Sys2Proof Sys2Proof.Machine Sys2Proof.Safety

variable {m : Model} {p : List Instr}

theorem openDomain_kept
    {s : State} {cls : Nat} {place : Nat} {p1 : Work → Bool} (h : Kept m p s) :
    Kept m p (openDomain s cls place p1) := by
  unfold openDomain
  dsimp only
  refine Kept.upd ?_ regs_of beds_of plan_of tiles_of lodged_of work_of steps_of captures_of
  apply clearUnits_kept
  apply discardFlight_kept
  apply raiseClass_kept
  assumption

theorem recoveryEvent_kept
    {s : State} {cls : Nat} {place : Nat} (h : Kept m p s) :
    Kept m p (recoveryEvent s cls place) := by
  unfold recoveryEvent
  dsimp only
  split
  · apply event_kept
    assumption
  · apply event_kept
    assumption
  · apply event_kept
    assumption
  · refine Kept.ite (fun _ => ?_) (fun _ => ?_)
    · apply event_kept
      assumption
    · apply event_kept
      apply takeFree_kept
      assumption
  · apply event_kept
    assumption
  · apply event_kept
    assumption
  · apply event_kept
    assumption
  · assumption

theorem execFaultRecoveryDone_kept {cls place interruptNs : Nat} {s : State} (h : Kept m p s) :
    ∃ t, execFaultRecoveryDone cls place interruptNs s = .next t ∧ Kept m p t := by
  refine act_kept h fun s k => whenRunning_kept k fun s k => Kept.ite (fun _ => ?_) (fun _ => k)
  refine redispatch_kept (recoveryEvent_kept (setLast_kept ?_))
  refine Kept.upd ?_ regs_of beds_of plan_of tiles_of lodged_of work_of steps_of captures_of
  exact Kept.upd k regs_of beds_of plan_of tiles_of lodged_of work_of steps_of captures_of

theorem deviceFailed_kept
    {s : State} (h : Kept m p s) :
    Kept m p (deviceFailed s) := by
  unfold deviceFailed
  dsimp only
  apply event_kept
  refine Kept.upd ?_ regs_of beds_of plan_of tiles_of lodged_of work_of steps_of captures_of
  apply setReg_kept
  apply Kept.fold
  · intro _ _ _
    apply refuseAccess_kept
    assumption
  · refine Kept.upd ?_ regs_of beds_of plan_of tiles_of lodged_of work_of steps_of captures_of
    apply discardFlight_kept
    assumption

theorem execFaultControllerFailure_kept
    {s : State} (h : Kept m p s) :
    ∃ t, execFaultControllerFailure s = .next t ∧ Kept m p t := by
  unfold execFaultControllerFailure
  apply act_kept
  · assumption
  · intro _ _
    apply whenRunning_kept
    · assumption
    · intro _ _
      apply deviceFailed_kept
      assumption

theorem dropCopies_kept {s : State} {q : Tile → TileCopy → Bool} (h : Kept m p s) : Kept m p (dropCopies s q) := by
  unfold dropCopies
  refine Kept.fold (fun _ _ k => tileLost_kept k) _ ?_
  refine Kept.upd h regs_of beds_of plan_of (fun k => payloadsWf_change k.form.tiles fun _ ht => ht)
    (fun k => payloadsWf_change k.form.lodged fun _ ht => ht)
    (fun k => worksWf_change k.form.work fun w hw => effectsWf_map fun e he => ?_) steps_of captures_of
  have := hw e he
  cases e <;> exact this

theorem channelFails_kept
    {s : State} {c : Nat} (h : Kept m p s) :
    Kept m p (channelFails s c) := by
  unfold channelFails
  dsimp only
  refine Kept.ite (fun _ => ?_) (fun _ => ?_)
  · apply dropCopies_kept
    refine Kept.upd ?_ regs_of beds_of plan_of tiles_of lodged_of work_of steps_of captures_of
    apply openDomain_kept
    assumption
  · refine Kept.ite (fun _ => ?_) (fun _ => ?_)
    · refine Kept.upd ?_ regs_of beds_of plan_of tiles_of lodged_of work_of steps_of captures_of
      apply dropCopies_kept
      refine Kept.upd ?_ regs_of beds_of plan_of tiles_of lodged_of work_of steps_of captures_of
      apply openDomain_kept
      assumption
    · apply event_kept
      refine Kept.upd ?_ regs_of beds_of plan_of tiles_of lodged_of work_of steps_of captures_of
      apply dropCopies_kept
      refine Kept.upd ?_ regs_of beds_of plan_of tiles_of lodged_of work_of steps_of captures_of
      apply openDomain_kept
      assumption

theorem vaultFails_kept
    {s : State} {bed : Nat} {pos : Nat} (h : Kept m p s) :
    Kept m p (vaultFails s bed pos) := by
  unfold vaultFails
  dsimp only
  apply dropCopies_kept
  refine Kept.upd ?_ regs_of beds_of plan_of tiles_of lodged_of work_of steps_of captures_of
  apply openDomain_kept
  assumption

theorem execDramChannelFault_kept
    {vault : Bool} {bed : Nat} {unit : Nat} {s : State} (h : Kept m p s) :
    ∃ t, execDramChannelFault vault bed unit s = .next t ∧ Kept m p t := by
  unfold execDramChannelFault
  apply act_kept
  · assumption
  · intro _ _
    apply whenRunning_kept
    · assumption
    · intro _ _
      refine Kept.ite (fun _ => ?_) (fun _ => ?_)
      · assumption
      · refine Kept.ite (fun _ => ?_) (fun _ => ?_)
        · refine Kept.ite (fun _ => ?_) (fun _ => ?_)
          · apply vaultFails_kept
            assumption
          · assumption
        · refine Kept.ite (fun _ => ?_) (fun _ => ?_)
          · apply channelFails_kept
            assumption
          · assumption

-- remirror_wf stands below

theorem remirror_wf {k c : Nat} {t : Tile} (ht : cellsWf t.payload = true) : cellsWf (remirror k c t).payload = true := by
  unfold remirror
  split
  · split
    · exact ht
    · exact ht
  · exact ht

theorem execPackageMigrationDone_kept {package : Nat} {s : State} (h : Kept m p s) :
    ∃ t, execPackageMigrationDone package s = .next t ∧ Kept m p t := by
  refine act_kept h fun s k => whenRunning_kept k fun s k => Kept.ite (fun _ => ?_) (fun _ => k)
  refine event_kept (regAdd_kept ?_)
  exact Kept.upd k regs_of beds_of plan_of (fun k => payloadsWf_change k.form.tiles fun _ ht => remirror_wf ht) lodged_of work_of
    steps_of captures_of

theorem losePair_kept
    {s : State} {t : Tile} (h : Kept m p s) :
    Kept m p (losePair s t) := by
  unfold losePair
  refine Kept.ite (fun _ => ?_) (fun _ => ?_)
  · apply dropCopies_kept
    apply takeFree_kept
    assumption
  · apply takeFree_kept
    assumption

theorem execFlashDieFault_kept
    {die : Nat} {s : State} (h : Kept m p s) :
    ∃ t, execFlashDieFault die s = .next t ∧ Kept m p t := by
  unfold execFlashDieFault
  apply act_kept
  · assumption
  · intro _ _
    apply whenRunning_kept
    · assumption
    · intro _ _
      refine Kept.ite (fun _ => ?_) (fun _ => ?_)
      · assumption
      · dsimp only
        refine Kept.ite (fun _ => ?_) (fun _ => ?_)
        · apply Kept.fold
          · intro _ _ _
            apply losePair_kept
            assumption
          · apply dropCopies_kept
            refine Kept.upd ?_ regs_of beds_of plan_of tiles_of lodged_of work_of steps_of captures_of
            apply openDomain_kept
            assumption
        · apply dropCopies_kept
          refine Kept.upd ?_ regs_of beds_of plan_of tiles_of lodged_of work_of steps_of captures_of
          apply openDomain_kept
          assumption

theorem execDieRebuildDone_kept
    {die : Nat} {s : State} (h : Kept m p s) :
    ∃ t, execDieRebuildDone die s = .next t ∧ Kept m p t := by
  unfold execDieRebuildDone
  apply act_kept
  · assumption
  · intro _ _
    apply whenRunning_kept
    · assumption
    · intro _ _
      refine Kept.ite (fun _ => ?_) (fun _ => ?_)
      · dsimp only
        apply regAdd_kept
        refine Kept.upd ?_ regs_of beds_of plan_of ?_ ?_ work_of steps_of captures_of
        · assumption
        · intro _
          refine payloadsWf_change ?_ (fun _ h => h)
          exact tiles_of (by assumption)
        · intro _
          dsimp only
          refine payloadsWf_change ?_ (fun _ h => h)
          exact lodged_of (by assumption)
      · assumption

theorem bedFails_kept
    {s : State} {cls : Nat} {bed : Nat} (h : Kept m p s) :
    Kept m p (bedFails s cls bed) := by
  unfold bedFails
  dsimp only
  apply dropCopies_kept
  refine Kept.upd ?_ regs_of beds_of plan_of tiles_of lodged_of work_of steps_of captures_of
  apply wakeBed_kept
  apply openDomain_kept
  assumption

theorem execBedFault_kept
    {bed : Nat} {clock : Bool} {s : State} (h : Kept m p s) :
    ∃ t, execBedFault bed clock s = .next t ∧ Kept m p t := by
  unfold execBedFault
  apply act_kept
  · assumption
  · intro _ _
    apply whenRunning_kept
    · assumption
    · intro _ _
      refine Kept.ite (fun _ => ?_) (fun _ => ?_)
      · apply bedFails_kept
        assumption
      · assumption

theorem holdBed_kept
    {s : State} {bed : Nat} (h : Kept m p s) :
    Kept m p (holdBed s bed) := by
  unfold holdBed
  dsimp only
  apply setBed_kept
  · apply openDomain_kept
    assumption
  · exact fun _ => rfl

theorem unlockPll_kept
    {s : State} {p1 : Nat} (h : Kept m p s) :
    Kept m p (unlockPll s p1) := by
  unfold unlockPll
  refine Kept.ite (fun _ => ?_) (fun _ => ?_)
  · apply setReg_kept
    assumption
  · apply setReg_kept
    assumption

theorem execPllLossOfLock_kept
    {crossing : Option Nat} {s : State} (h : Kept m p s) :
    ∃ t, execPllLossOfLock crossing s = .next t ∧ Kept m p t := by
  unfold execPllLossOfLock
  apply act_kept
  · assumption
  · intro _ _
    apply whenRunning_kept
    · assumption
    · intro _ _
      dsimp only
      refine Kept.ite (fun _ => ?_) (fun _ => ?_)
      · split
        · apply openDomain_kept
          apply regAdd_kept
          apply setReg_kept
          apply unlockPll_kept
          assumption
        · refine Kept.ite (fun _ => ?_) (fun _ => ?_)
          · apply bedFails_kept
            apply openDomain_kept
            apply regAdd_kept
            apply setReg_kept
            apply unlockPll_kept
            assumption
          · apply openDomain_kept
            apply regAdd_kept
            apply setReg_kept
            apply unlockPll_kept
            assumption
      · apply deviceFailed_kept
        apply raiseClass_kept
        apply unlockPll_kept
        assumption

theorem execStandbyPllLossOfLock_kept
    {s : State} (h : Kept m p s) :
    ∃ t, execStandbyPllLossOfLock s = .next t ∧ Kept m p t := by
  unfold execStandbyPllLossOfLock
  apply act_kept
  · assumption
  · intro _ _
    apply whenRunning_kept
    · assumption
    · intro _ _
      apply unlockPll_kept
      assumption

theorem execBlockFault_kept
    {block : Nat} {s : State} (h : Kept m p s) :
    ∃ t, execBlockFault block s = .next t ∧ Kept m p t := by
  unfold execBlockFault
  apply act_kept
  · assumption
  · intro _ _
    apply whenRunning_kept
    · assumption
    · intro _ _
      refine Kept.ite (fun _ => ?_) (fun _ => ?_)
      · assumption
      · refine Kept.ite (fun _ => ?_) (fun _ => ?_)
        · apply deviceFailed_kept
          apply raiseClass_kept
          assumption
        · apply openDomain_kept
          refine Kept.upd ?_ regs_of beds_of plan_of tiles_of lodged_of work_of steps_of captures_of
          assumption

theorem execManagementCoreFault_kept
    {core : Nat} {s : State} (h : Kept m p s) :
    ∃ t, execManagementCoreFault core s = .next t ∧ Kept m p t := by
  unfold execManagementCoreFault
  apply act_kept
  · assumption
  · intro _ _
    apply whenRunning_kept
    · assumption
    · intro _ _
      refine Kept.ite (fun _ => ?_) (fun _ => ?_)
      · assumption
      · dsimp only
        refine Kept.ite (fun _ => ?_) (fun _ => ?_)
        · apply deviceFailed_kept
          apply setLast_kept
          apply raiseClass_kept
          refine Kept.upd ?_ regs_of beds_of plan_of tiles_of lodged_of work_of steps_of captures_of
          assumption
        · apply event_kept
          apply setLast_kept
          apply raiseClass_kept
          refine Kept.upd ?_ regs_of beds_of plan_of tiles_of lodged_of work_of steps_of captures_of
          assumption

theorem suspendLogged_kept
    {s : State} {h1 : Nat} (h : Kept m p s) :
    Kept m p (suspendLogged s h1) := by
  unfold suspendLogged
  apply event_kept
  apply suspendHost_kept
  assumption

theorem portFails_kept
    {s : State} {p1 : Nat} (h : Kept m p s) :
    Kept m p (portFails s p1) := by
  unfold portFails
  refine Kept.ite (fun _ => ?_) (fun _ => ?_)
  · assumption
  · dsimp only
    apply retryAccesses_kept
    apply Kept.fold
    · intro _ _ _
      apply suspendLogged_kept
      assumption
    · apply Kept.fold
      · intro _ _ _
        apply loseRange_kept
        assumption
      · apply failAll_kept
        apply Kept.fold
        · intro _ _ _
          apply haltLedger_kept
          assumption
        · apply openDomain_kept
          apply regSet_kept
          assumption

theorem execLinkLeavesL0_kept
    {p1 : Sys2Proof.PortId} {s : State} (h : Kept m p s) :
    ∃ t, execLinkLeavesL0 p1 s = .next t ∧ Kept m p t := by
  unfold execLinkLeavesL0
  apply act_kept
  · assumption
  · intro _ _
    apply whenRunning_kept
    · assumption
    · intro _ _
      refine Kept.ite (fun _ => ?_) (fun _ => ?_)
      · apply regSet_kept
        assumption
      · assumption

theorem execLinkRecoveryTimeout_kept
    {p1 : Sys2Proof.PortId} {s : State} (h : Kept m p s) :
    ∃ t, execLinkRecoveryTimeout p1 s = .next t ∧ Kept m p t := by
  unfold execLinkRecoveryTimeout
  apply act_kept
  · assumption
  · intro _ _
    apply whenRunning_kept
    · assumption
    · intro _ _
      refine Kept.ite (fun _ => ?_) (fun _ => ?_)
      · apply portFails_kept
        assumption
      · assumption

theorem execIdeIntegrityFailure_kept
    {p1 : Sys2Proof.PortId} {s : State} (h : Kept m p s) :
    ∃ t, execIdeIntegrityFailure p1 s = .next t ∧ Kept m p t := by
  unfold execIdeIntegrityFailure
  apply act_kept
  · assumption
  · intro _ _
    apply whenRunning_kept
    · assumption
    · intro _ _
      apply portFails_kept
      assumption

theorem execViralReceived_kept
    {p1 : Sys2Proof.PortId} {s : State} (h : Kept m p s) :
    ∃ t, execViralReceived p1 s = .next t ∧ Kept m p t := by
  unfold execViralReceived
  apply act_kept
  · assumption
  · intro _ _
    apply whenRunning_kept
    · assumption
    · intro _ _
      apply portFails_kept
      assumption

theorem execSurpriseRemoval_kept
    {p1 : Sys2Proof.PortId} {s : State} (h : Kept m p s) :
    ∃ t, execSurpriseRemoval p1 s = .next t ∧ Kept m p t := by
  unfold execSurpriseRemoval
  apply act_kept
  · assumption
  · intro _ _
    apply whenRunning_kept
    · assumption
    · intro _ _
      apply portFails_kept
      assumption

theorem execCacheResponseTimeout_kept
    {p1 : Sys2Proof.PortId} {s : State} (h : Kept m p s) :
    ∃ t, execCacheResponseTimeout p1 s = .next t ∧ Kept m p t := by
  unfold execCacheResponseTimeout
  apply act_kept
  · assumption
  · intro _ _
    apply whenRunning_kept
    · assumption
    · intro _ _
      apply portFails_kept
      assumption

theorem execPortReferenceClockLoss_kept
    {p1 : Sys2Proof.PortId} {s : State} (h : Kept m p s) :
    ∃ t, execPortReferenceClockLoss p1 s = .next t ∧ Kept m p t := by
  unfold execPortReferenceClockLoss
  apply act_kept
  · assumption
  · intro _ _
    apply whenRunning_kept
    · assumption
    · intro _ _
      apply portFails_kept
      assumption

theorem execLinkReturn_kept
    {p1 : Sys2Proof.PortId} {width : Nat} {rate : Nat} {s : State} (h : Kept m p s) :
    ∃ t, execLinkReturn p1 width rate s = .next t ∧ Kept m p t := by
  unfold execLinkReturn
  apply act_kept
  · assumption
  · intro _ _
    refine Kept.ite (fun _ => ?_) (fun _ => ?_)
    · apply regSet_kept
      apply regSet_kept
      apply regSet_kept
      assumption
    · assumption

end Sys2Proof.Laws
end

