-- ==== Sys2Proof/Laws/KeptClocks.lean ====
section
/-! SUPPORT. Every operation and meaning of Machine/Clocks.lean keeps the form. -/

namespace Sys2Proof.Laws

open Sys2Proof Sys2Proof.Machine Sys2Proof.Safety

variable {m : Model} {p : List Instr}

theorem execDroopTrip_kept
    {bed : Nat} {s : State} (h : Kept m p s) :
    ∃ t, execDroopTrip bed s = .next t ∧ Kept m p t := by
  unfold execDroopTrip
  apply act_kept
  · assumption
  · intro _ _
    apply whenRunning_kept
    · assumption
    · intro _ _
      refine Kept.ite (fun _ => ?_) (fun _ => ?_)
      · assumption
      · refine Kept.ite (fun _ => ?_) (fun _ => ?_)
        · apply holdBed_kept
          assumption
        · apply setBed_kept
          · assumption
          · exact fun _ => rfl

theorem execStretchRelease_kept
    {bed : Nat} {s : State} (h : Kept m p s) :
    ∃ t, execStretchRelease bed s = .next t ∧ Kept m p t := by
  unfold execStretchRelease
  apply act_kept
  · assumption
  · intro _ _
    apply whenRunning_kept
    · assumption
    · intro _ _
      apply setBed_kept
      · assumption
      · exact fun _ => rfl

theorem execBedStop_kept
    {bed : Nat} {s : State} (h : Kept m p s) :
    ∃ t, execBedStop bed s = .next t ∧ Kept m p t := by
  unfold execBedStop
  apply act_kept
  · assumption
  · intro _ _
    apply whenRunning_kept
    · assumption
    · intro _ _
      refine Kept.ite (fun _ => ?_) (fun _ => ?_)
      · apply regAdd_kept
        apply updBed_kept
        · assumption
        · exact fun _ _ => rfl
      · assumption

theorem tighten_kept
    {s : State} {b : Bed} {p1 : Nat} {slack : Nat} {next : Nat} (h : Kept m p s) :
    Kept m p (tighten s b p1 slack next) := by
  unfold tighten
  dsimp only
  refine Kept.ite (fun _ => ?_) (fun _ => ?_)
  · refine Kept.ite (fun _ => ?_) (fun _ => ?_)
    · refine Kept.ite (fun _ => ?_) (fun _ => ?_)
      · apply panFails_kept
        assumption
      · apply mapOut_kept
        assumption
    · refine Kept.ite (fun _ => ?_) (fun _ => ?_)
      · apply updBed_kept
        · assumption
        · exact fun _ _ => rfl
      · refine Kept.ite (fun _ => ?_) (fun _ => ?_)
        · apply setBed_kept
          · assumption
          · exact fun _ => rfl
        · apply holdBed_kept
          assumption
  · apply margin_kept
    refine Kept.ite (fun _ => ?_) (fun _ => ?_)
    · refine Kept.ite (fun _ => ?_) (fun _ => ?_)
      · apply panFails_kept
        assumption
      · apply mapOut_kept
        assumption
    · refine Kept.ite (fun _ => ?_) (fun _ => ?_)
      · apply updBed_kept
        · assumption
        · exact fun _ _ => rfl
      · refine Kept.ite (fun _ => ?_) (fun _ => ?_)
        · apply setBed_kept
          · assumption
          · exact fun _ => rfl
        · apply holdBed_kept
          assumption

theorem relax_kept
    {s : State} {b : Bed} (h : Kept m p s) :
    Kept m p (relax s b) := by
  unfold relax
  refine Kept.ite (fun _ => ?_) (fun _ => ?_)
  · apply setBed_kept
    · assumption
    · exact fun _ => rfl
  · refine Kept.ite (fun _ => ?_) (fun _ => ?_)
    · apply updBed_kept
      · assumption
      · exact fun _ _ => rfl
    · assumption

theorem execHarrowWalk_kept
    {bed : Nat} {walk : Sys2Proof.WalkArg} {s : State} (h : Kept m p s) :
    ∃ t, execHarrowWalk bed walk s = .next t ∧ Kept m p t := by
  unfold execHarrowWalk
  apply act_kept
  · assumption
  · intro _ _
    apply whenRunning_kept
    · assumption
    · intro _ _
      refine Kept.ite (fun _ => ?_) (fun _ => ?_)
      · assumption
      · split
        · dsimp only
          refine Kept.ite (fun _ => ?_) (fun _ => ?_)
          · apply tighten_kept
            apply updBed_kept
            · assumption
            · exact fun _ _ => rfl
          · refine Kept.ite (fun _ => ?_) (fun _ => ?_)
            · apply relax_kept
              apply updBed_kept
              · assumption
              · exact fun _ _ => rfl
            · apply updBed_kept
              · assumption
              · exact fun _ _ => rfl
        · assumption

theorem holdOffender_kept
    {s : State} {b : Nat} (h : Kept m p s) :
    Kept m p (holdOffender s b) := by
  unfold holdOffender
  refine Kept.ite (fun _ => ?_) (fun _ => ?_)
  · assumption
  · apply holdBed_kept
    assumption

theorem noteTemp_kept
    {s : State} {x : Nat} {t : Nat} (h : Kept m p s) :
    Kept m p (noteTemp s x t) := by
  unfold noteTemp
  apply updBed_kept
  · assumption
  · exact fun _ _ => rfl

theorem execNeighbourLimit_kept
    {x : Nat} {y : Nat} {railX : Nat} {railY : Nat} {tempX : Nat} {tempY : Nat} {s : State} (h : Kept m p s) :
    ∃ t, execNeighbourLimit x y railX railY tempX tempY s = .next t ∧ Kept m p t := by
  unfold execNeighbourLimit
  apply act_kept
  · assumption
  · intro _ _
    apply whenRunning_kept
    · assumption
    · intro _ _
      refine Kept.ite (fun _ => ?_) (fun _ => ?_)
      · assumption
      · dsimp only
        refine Kept.ite (fun _ => ?_) (fun _ => ?_)
        · refine Kept.ite (fun _ => ?_) (fun _ => ?_)
          · apply holdOffender_kept
            refine Kept.ite (fun _ => ?_) (fun _ => ?_)
            · apply holdOffender_kept
              apply noteTemp_kept
              apply noteTemp_kept
              assumption
            · apply noteTemp_kept
              apply noteTemp_kept
              assumption
          · refine Kept.ite (fun _ => ?_) (fun _ => ?_)
            · apply holdOffender_kept
              apply noteTemp_kept
              apply noteTemp_kept
              assumption
            · apply noteTemp_kept
              apply noteTemp_kept
              assumption
        · refine Kept.ite (fun _ => ?_) (fun _ => ?_)
          · apply margin_kept
            apply noteTemp_kept
            apply noteTemp_kept
            assumption
          · refine Kept.ite (fun _ => ?_) (fun _ => ?_)
            · apply margin_kept
              apply noteTemp_kept
              apply noteTemp_kept
              assumption
            · apply noteTemp_kept
              apply noteTemp_kept
              assumption

theorem execHoldRelease_kept {bed : Nat} {s : State} (h : Kept m p s) :
    ∃ t, execHoldRelease bed s = .next t ∧ Kept m p t := by
  refine act_kept h fun s k => whenRunning_kept k fun s k => Kept.ite (fun _ => ?_) (fun _ => k)
  exact redispatch_kept (margin_kept (setBed_kept k fun _ => rfl))

theorem execRetentionProbe_kept
    {bed : Nat} {vault : Bool} {unit : Nat} {failed : Bool} {month : Bool} {s : State} (h : Kept m p s) :
    ∃ t, execRetentionProbe bed vault unit failed month s = .next t ∧ Kept m p t := by
  unfold execRetentionProbe
  apply act_kept
  · assumption
  · intro _ _
    apply whenRunning_kept
    · assumption
    · intro _ _
      split
      · assumption
      · dsimp only
        split
        · assumption
        · refine Kept.ite (fun _ => ?_) (fun _ => ?_)
          · refine Kept.ite (fun _ => ?_) (fun _ => ?_)
            · apply updBed_kept
              · assumption
              · split
                · exact fun _ _ => rfl
                · exact fun _ _ => rfl
            · apply margin_kept
              apply updBed_kept
              · assumption
              · exact fun _ _ => rfl
          · refine Kept.ite (fun _ => ?_) (fun _ => ?_)
            · apply updBed_kept
              · assumption
              · split
                · exact fun _ _ => rfl
                · exact fun _ _ => rfl
            · assumption

theorem execPatrolScrub_kept
    {bed : Nat} {bad : List (Nat × Nat × Nat)} {halve : Bool} {month : Bool} {s : State} (h : Kept m p s) :
    ∃ t, execPatrolScrub bed bad halve month s = .next t ∧ Kept m p t := by
  unfold execPatrolScrub
  apply act_kept
  · assumption
  · intro _ _
    apply whenRunning_kept
    · assumption
    · intro _ _
      dsimp only
      apply updBed_kept
      · apply Kept.fold
        · intro _ _ _
          split
          · apply copyFailed_kept
            assumption
          · assumption
        · assumption
      · split
        · exact fun _ _ => rfl
        · split
          · exact fun _ _ => rfl
          · exact fun _ _ => rfl

theorem execRingOscillatorMeasure_kept
    {bed : Nat} {shift : Nat} {s : State} (h : Kept m p s) :
    ∃ t, execRingOscillatorMeasure bed shift s = .next t ∧ Kept m p t := by
  unfold execRingOscillatorMeasure
  apply act_kept
  · assumption
  · intro _ _
    apply whenRunning_kept
    · assumption
    · intro _ _
      refine Kept.ite (fun _ => ?_) (fun _ => ?_)
      · apply updBed_kept
        · assumption
        · exact fun _ _ => rfl
      · assumption

theorem writeAgeing_kept {s : State} (h : Kept m p s) : Kept m p (writeAgeing s) := by
  refine Kept.upd h regs_of beds_of (fun k r e => ?_) tiles_of lodged_of work_of steps_of captures_of
  cases e
  exact k.form.beds

theorem execAgeingRecordWrite_kept
    {s : State} (h : Kept m p s) :
    ∃ t, execAgeingRecordWrite s = .next t ∧ Kept m p t := by
  unfold execAgeingRecordWrite
  apply act_kept
  · assumption
  · intro _ _
    apply whenRunning_kept
    · assumption
    · intro _ _
      dsimp only
      refine Kept.upd ?_ regs_of ?_ plan_of tiles_of lodged_of work_of steps_of captures_of
      · apply writeAgeing_kept
        refine Kept.upd ?_ regs_of beds_of plan_of tiles_of lodged_of work_of steps_of captures_of
        assumption
      · exact fun k => bedsListed_map k.form.beds (fun b => rfl)

theorem throttleForCore_kept
    {s : State} (h : Kept m p s) :
    Kept m p (throttleForCore s) := by
  unfold throttleForCore
  dsimp only
  refine Kept.ite (fun _ => ?_) (fun _ => ?_)
  · assumption
  · apply setBed_kept
    · apply takeFree_kept
      assumption
    · exact fun _ => rfl

theorem execThermalThrottle_kept
    {bed : Option Nat} {s : State} (h : Kept m p s) :
    ∃ t, execThermalThrottle bed s = .next t ∧ Kept m p t := by
  unfold execThermalThrottle
  apply act_kept
  · assumption
  · intro _ _
    apply whenRunning_kept
    · assumption
    · intro _ _
      split
      · apply event_kept
        apply throttleForCore_kept
        assumption
      · refine Kept.ite (fun _ => ?_) (fun _ => ?_)
        · apply event_kept
          apply setBed_kept
          · assumption
          · exact fun _ => rfl
        · assumption

theorem execThrottleRelease_kept
    {bed : Option Nat} {s : State} (h : Kept m p s) :
    ∃ t, execThrottleRelease bed s = .next t ∧ Kept m p t := by
  unfold execThrottleRelease
  apply act_kept
  · assumption
  · intro _ _
    apply whenRunning_kept
    · assumption
    · intro _ _
      split
      · apply Kept.fold
        · intro _ _ _
          apply setBed_kept
          · assumption
          · exact fun _ => rfl
        · assumption
      · apply setBed_kept
        · assumption
        · exact fun _ => rfl

theorem execThermalHold_kept
    {bed : Nat} {s : State} (h : Kept m p s) :
    ∃ t, execThermalHold bed s = .next t ∧ Kept m p t := by
  unfold execThermalHold
  apply act_kept
  · assumption
  · intro _ _
    apply whenRunning_kept
    · assumption
    · intro _ _
      refine Kept.ite (fun _ => ?_) (fun _ => ?_)
      · assumption
      · dsimp only
        apply event_kept
        apply setBed_kept
        · apply holdOffender_kept
          assumption
        · exact fun _ => rfl

end Sys2Proof.Laws
end

