-- ==== Sys2Proof/Laws/KeptMaps.lean ====
section
/-! SUPPORT. Every operation and meaning of Machine/Maps.lean keeps the form. -/

namespace Sys2Proof.Laws

open Sys2Proof Sys2Proof.Machine Sys2Proof.Safety

variable {m : Model} {p : List Instr}

theorem tileFrom_wf
    {slot : Nat} {from_ : Nat} {l : Sys2Proof.LeafArg} :
    cellsWf (tileFrom slot from_ l).payload = true := by
  unfold tileFrom
  rfl

theorem tilesFrom_wf
    {m1 : Sys2Proof.MapArg} {x : Subject} {from_ : Nat} :
    payloadsWf (tilesFrom m1 x from_) := by
  unfold tilesFrom
  refine payloadsWf_map (fun _ _ => ?_)
  apply tileFrom_wf

end Sys2Proof.Laws
end

