-- ==== Sys2Proof/Laws/KeptOwnership.lean ====
section
/-! SUPPORT. Every operation and meaning of Machine/Ownership.lean keeps the form. -/

namespace Sys2Proof.Laws

open Sys2Proof Sys2Proof.Machine Sys2Proof.Safety

variable {m : Model} {p : List Instr}

theorem receivePeer_kept
    {pbr : Nat} {msg : List Sys2Proof.Byte} {type : Nat} {f : State → Nat → List Sys2Proof.Byte → State} {s : State}
    (h : Kept m p s) (hf : ∀ x0 x1 x2, Kept m p x0 → Kept m p (f x0 x1 x2)) :
    Kept m p (receivePeer pbr msg type f s) := by
  unfold receivePeer
  split
  · apply event_kept
    assumption
  · dsimp only
    refine Kept.ite (fun _ => ?_) (fun _ => ?_)
    · apply countReg_kept
      assumption
    · refine Kept.ite (fun _ => ?_) (fun _ => ?_)
      · assumption
      · apply hf
        apply tracePeer_kept
        assumption

theorem sendOwn_kept
    {s : State} {h1 : Nat} {o : OwnRec} (h : Kept m p s) :
    Kept m p (sendOwn s h1 o).1 := by
  unfold sendOwn
  split
  · assumption
  · dsimp only
    apply sendStream_kept
    assumption

theorem writeDown_kept {l : List (Nat × Nat)} {s : State} (h : Kept m p s) : Kept m p (writeDown l s).1 := by
  induction l generalizing s with
  | nil => exact h
  | cons e l ih =>
    unfold writeDown
    split
    · apply ih
      assumption
    · split
      · assumption
      · apply ih
        apply spillPlain_kept
        assumption

theorem ownTiles_wf
    {x : Subject} :
    payloadsWf (ownTiles x) := by
  unfold ownTiles
  split
  · exact payloadsWf_nil
  · apply headTiles_wf

theorem offerEnd_kept {s : State} {w : Work} {x : Subject} {o : OwnRec} (h : Kept m p s) : Kept m p (offerEnd s w x o) :=
  conclude_kept h (payloadsWf_append parkDraft_wf.1 ownTiles_wf) (effectsWf_append parkDraft_wf.2 (effectsWf_cons trivial effectsWf_nil))

theorem runOffer_kept
    {s : State} {w : Work} (h : Kept m p s) :
    Kept m p (runOffer s w) := by
  unfold runOffer
  apply withSubject_kept
  · assumption
  · intro _
    dsimp only
    apply checked_kept
    · assumption
    · intro _ _
      split
      · refine Kept.ite (fun _ => ?_) (fun _ => ?_)
        · assumption
        · apply offerEnd_kept
          assumption
      · refine Kept.ite (fun _ => ?_) (fun _ => ?_)
        · apply releaseLines_kept
          assumption
        · split
          · apply fail_kept
            refine Kept.of_fst (by assumption) ?_
            apply writeDown_kept
            apply releaseLines_kept
            assumption
          · split
            · apply offerEnd_kept
              refine Kept.of_fst (by assumption) ?_
              apply sendOwn_kept
              refine Kept.of_fst (by assumption) ?_
              apply writeDown_kept
              apply releaseLines_kept
              assumption
            · apply updWork_kept
              · refine Kept.of_fst (by assumption) ?_
                apply sendOwn_kept
                refine Kept.of_fst (by assumption) ?_
                apply writeDown_kept
                apply releaseLines_kept
                assumption
              · exact fun t ht => ht

theorem execHandoverOffer_kept
    {work : Nat} {s : State} (h : Kept m p s) :
    ∃ t, execHandoverOffer work s = .next t ∧ Kept m p t := by
  unfold execHandoverOffer
  apply act_kept
  · assumption
  · intro _ _
    apply runWork_kept
    · assumption
    · intro _ _ _ _
      apply durably_kept
      · assumption
      · intro _
        apply runOffer_kept
        assumption

theorem closeClaim_kept
    {s : State} {h1 : Nat} (h : Kept m p s) :
    Kept m p (closeClaim s h1) := by
  unfold closeClaim
  refine Kept.upd ?_ regs_of beds_of plan_of tiles_of lodged_of work_of steps_of captures_of
  assumption

theorem acceptEnd_kept
    {s : State} {w : Work} (h : Kept m p s) :
    Kept m p (acceptEnd s w) := by
  unfold acceptEnd
  dsimp only
  split
  · assumption
  · apply done_kept
    apply closeClaim_kept
    assumption

theorem runAccept_kept
    {s : State} {w : Work} (h : Kept m p s) :
    Kept m p (runAccept s w) := by
  unfold runAccept
  dsimp only
  split
  · assumption
  · refine Kept.ite (fun _ => ?_) (fun _ => ?_)
    · apply fail_kept
      apply closeClaim_kept
      assumption
    · refine Kept.ite (fun _ => ?_) (fun _ => ?_)
      · assumption
      · apply acceptEnd_kept
        assumption
  · apply checked_kept
    · assumption
    · intro _ _
      apply sendPeer_kept
      apply updWork_kept
      · refine Kept.upd ?_ regs_of beds_of plan_of tiles_of lodged_of work_of steps_of captures_of
        assumption
      · exact fun t ht => ht

theorem execHandoverAccept_kept
    {work : Nat} {s : State} (h : Kept m p s) :
    ∃ t, execHandoverAccept work s = .next t ∧ Kept m p t := by
  unfold execHandoverAccept
  apply act_kept
  · assumption
  · intro _ _
    apply runWork_kept
    · assumption
    · intro _ _ _ _
      apply runAccept_kept
      assumption

theorem takeGrant_kept {s : State} {c : Claim} {w : Work} {map : MapArg} {i : Nat} (h : Kept m p s) :
    Kept m p (takeGrant s c w map i) := by
  unfold takeGrant
  split
  · exact fail_kept (closeClaim_kept h)
  · rename_i x0 _
    have he : ∀ ws : List Nat, effectsWf (.openSubject (takenOver s x0 c) ::
        ((tilesFrom map (takenOver s x0 c) c.offerer).map fun t => .tile t) ++
        ((List.range ws.length).map fun k => .bind (ws.getD k 0) (.region (takenOver s x0 c).handle k)) ++
        [.own (takenOver s x0 c).handle (takenOver s x0 c).own 0x13]) := fun ws =>
      effectsWf_append (effectsWf_append (effectsWf_cons trivial (effectsWf_map fun t ht => tilesFrom_wf t ht))
        (effectsWf_map fun _ _ => trivial)) (effectsWf_cons trivial effectsWf_nil)
    refine Kept.ite (fun _ => fail_kept (closeClaim_kept h)) (fun _ => ?_)
    dsimp only
    have hq := placeEntry_kept (e := handleEntry (takenOver s x0 c) true) h
    split
    · refine acceptEnd_kept (Kept.of_fst (by assumption) (sendOwn_kept (updWork_kept ?_ fun _ _ => he _)))
      exact Kept.ite (fun _ => insertBlocks_kept (Kept.ite (fun _ => placeEntry_kept hq) fun _ => hq)) fun _ => hq
    · refine updWork_kept (Kept.of_fst (by assumption) (sendOwn_kept (updWork_kept ?_ fun _ _ => he _))) fun _ hw => hw
      exact Kept.ite (fun _ => insertBlocks_kept (Kept.ite (fun _ => placeEntry_kept hq) fun _ => hq)) fun _ => hq

theorem execGrant_kept
    {pbr : Nat} {msg : List Sys2Proof.Byte} {map : Sys2Proof.MapArg} {s : State} (h : Kept m p s) :
    ∃ t, execGrant pbr msg map s = .next t ∧ Kept m p t := by
  unfold execGrant
  apply act_kept
  · assumption
  · intro _ _
    apply whenRunning_kept
    · assumption
    · intro _ _
      apply receivePeer_kept
      · assumption
      · intro _ _ _ _
        split
        · assumption
        · split
          · refine Kept.ite (fun _ => ?_) (fun _ => ?_)
            · apply takeGrant_kept
              assumption
            · assumption
          · apply fail_kept
            apply closeClaim_kept
            assumption
          · apply closeClaim_kept
            assumption

theorem execRefuse_kept
    {pbr : Nat} {msg : List Sys2Proof.Byte} {s : State} (h : Kept m p s) :
    ∃ t, execRefuse pbr msg s = .next t ∧ Kept m p t := by
  unfold execRefuse
  apply act_kept
  · assumption
  · intro _ _
    apply whenRunning_kept
    · assumption
    · intro _ _
      apply receivePeer_kept
      · assumption
      · intro _ _ _ _
        dsimp only
        refine Kept.ite (fun _ => ?_) (fun _ => ?_)
        · split
          · assumption
          · apply tileLost_kept
            refine Kept.upd ?_ regs_of beds_of plan_of tiles_of lodged_of work_of steps_of captures_of
            assumption
        · split
          · assumption
          · refine Kept.ite (fun _ => ?_) (fun _ => ?_)
            · apply fail_kept
              apply closeClaim_kept
              assumption
            · assumption

theorem execClaimWindowExpiry_kept
    {handle : Nat} {s : State} (h : Kept m p s) :
    ∃ t, execClaimWindowExpiry handle s = .next t ∧ Kept m p t := by
  unfold execClaimWindowExpiry
  apply act_kept
  · assumption
  · intro _ _
    apply whenRunning_kept
    · assumption
    · intro _ _
      split
      · assumption
      · apply fail_kept
        apply closeClaim_kept
        assumption

theorem lodgedTile_wf {s : State} {t : Tile} (ht : cellsWf t.payload = true) : cellsWf (lodgedTile s t).payload = true := by
  unfold lodgedTile
  refine cellsWf_ite cellsOf_wf ?_
  split
  · split
    · split
      · exact ht
      · exact ht
    · exact ht
  · exact ht

theorem unattach_kept
    {s : State} {x : Subject} (h : Kept m p s) :
    Kept m p (unattach s x) := by
  unfold unattach
  refine Kept.ite (fun _ => ?_) (fun _ => ?_)
  · assumption
  · dsimp only
    refine Kept.upd ?_ regs_of beds_of plan_of tiles_of lodged_of work_of steps_of captures_of
    assumption

theorem grantAway_kept {s : State} {x : Subject} {target : Nat} (h : Kept m p s) : Kept m p (grantAway s x target) := by
  refine reap_kept (sendOwn_kept ?_)
  refine Kept.upd (unattach_kept (detach_kept (leavePlanner_kept (snoopLines_kept h)))) regs_of beds_of plan_of
    (fun k => payloadsWf_filter k.form.tiles) (fun k => payloadsWf_append k.form.lodged ?_) work_of steps_of captures_of
  exact payloadsWf_change (tilesOf_wf h) fun _ ht => lodgedTile_wf ht

theorem declineClaim_kept
    {s : State} {org : Nat} {m1 : List Sys2Proof.Byte} {status : Nat} (h : Kept m p s) :
    Kept m p (declineClaim s org m1 status) := by
  unfold declineClaim
  apply sendPeer_kept
  assumption

theorem sendGrant_kept
    {s : State} {org : Nat} {m1 : List Sys2Proof.Byte} {x : Subject} (h : Kept m p s) :
    Kept m p (sendGrant s org m1 x) := by
  unfold sendGrant
  dsimp only
  apply sendNotice_kept
  apply sendPeer_kept
  assumption

theorem decideClaim_kept
    {s : State} {org : Nat} {m1 : List Sys2Proof.Byte} (h : Kept m p s) :
    Kept m p (decideClaim s org m1) := by
  unfold decideClaim
  dsimp only
  split
  · apply declineClaim_kept
    assumption
  · refine Kept.ite (fun _ => ?_) (fun _ => ?_)
    · apply declineClaim_kept
      assumption
    · refine Kept.ite (fun _ => ?_) (fun _ => ?_)
      · apply declineClaim_kept
        assumption
      · refine Kept.ite (fun _ => ?_) (fun _ => ?_)
        · apply declineClaim_kept
          assumption
        · refine Kept.ite (fun _ => ?_) (fun _ => ?_)
          · apply declineClaim_kept
            assumption
          · refine Kept.ite (fun _ => ?_) (fun _ => ?_)
            · apply declineClaim_kept
              assumption
            · refine Kept.ite (fun _ => ?_) (fun _ => ?_)
              · apply sendGrant_kept
                apply grantAway_kept
                assumption
              · apply sendGrant_kept
                assumption

theorem execClaim_kept
    {pbr : Nat} {msg : List Sys2Proof.Byte} {s : State} (h : Kept m p s) :
    ∃ t, execClaim pbr msg s = .next t ∧ Kept m p t := by
  unfold execClaim
  apply act_kept
  · assumption
  · intro _ _
    apply whenRunning_kept
    · assumption
    · intro _ _
      apply receivePeer_kept
      · assumption
      · intro _ _ _ _
        apply decideClaim_kept
        assumption

theorem reclaimFailed_kept
    {s : State} {h1 : Nat} {slot : Nat} (h : Kept m p s) :
    Kept m p (reclaimFailed s h1 slot) := by
  unfold reclaimFailed
  apply event_kept
  assumption

theorem reclaimOffer_kept
    {s : State} {x : Subject} (h : Kept m p s) :
    Kept m p (reclaimOffer s x) := by
  unfold reclaimOffer
  refine Kept.ite (fun _ => ?_) (fun _ => ?_)
  · dsimp only
    apply touchMap_kept
    refine Kept.upd ?_ regs_of beds_of plan_of tiles_of lodged_of work_of steps_of captures_of
    apply setOwn_kept
    assumption
  · apply reclaimFailed_kept
    refine Kept.upd ?_ regs_of beds_of plan_of tiles_of lodged_of work_of steps_of captures_of
    assumption

theorem execOfferTimeout_kept
    {handle : Nat} {s : State} (h : Kept m p s) :
    ∃ t, execOfferTimeout handle s = .next t ∧ Kept m p t := by
  unfold execOfferTimeout
  apply act_kept
  · assumption
  · intro _ _
    apply whenRunning_kept
    · assumption
    · intro _ _
      split
      · assumption
      · refine Kept.ite (fun _ => ?_) (fun _ => ?_)
        · apply reclaimOffer_kept
          assumption
        · assumption

theorem restoreTrace_kept
    {s : State} {t : Trace} {i : Nat} (h : Kept m p s) :
    Kept m p (restoreTrace s t i) := by
  unfold restoreTrace
  dsimp only
  apply touchMap_kept
  apply sendNotice_kept
  apply sendOwn_kept
  refine Kept.ite (fun _ => ?_) (fun _ => ?_)
  · refine Kept.upd ?_ regs_of beds_of plan_of tiles_of lodged_of work_of steps_of captures_of
    refine Kept.ite (fun _ => ?_) (fun _ => ?_)
    · apply insertBlocks_kept
      refine Kept.ite (fun _ => ?_) (fun _ => ?_)
      · apply placeEntry_kept
        apply placeEntry_kept
        refine Kept.upd ?_ regs_of beds_of plan_of ?_ ?_ work_of steps_of captures_of
        · assumption
        · intro _
          refine payloadsWf_append ?_ ?_
          · exact tiles_of (by assumption)
          · refine payloadsWf_filter ?_
            exact lodged_of (by assumption)
        · exact fun k => payloadsWf_filter k.form.lodged
      · apply placeEntry_kept
        refine Kept.upd ?_ regs_of beds_of plan_of ?_ ?_ work_of steps_of captures_of
        · assumption
        · intro _
          refine payloadsWf_append ?_ ?_
          · exact tiles_of (by assumption)
          · refine payloadsWf_filter ?_
            exact lodged_of (by assumption)
        · exact fun k => payloadsWf_filter k.form.lodged
    · apply placeEntry_kept
      refine Kept.upd ?_ regs_of beds_of plan_of ?_ ?_ work_of steps_of captures_of
      · assumption
      · intro _
        refine payloadsWf_append ?_ ?_
        · exact tiles_of (by assumption)
        · refine payloadsWf_filter ?_
          exact lodged_of (by assumption)
      · exact fun k => payloadsWf_filter k.form.lodged
  · refine Kept.ite (fun _ => ?_) (fun _ => ?_)
    · apply insertBlocks_kept
      refine Kept.ite (fun _ => ?_) (fun _ => ?_)
      · apply placeEntry_kept
        apply placeEntry_kept
        refine Kept.upd ?_ regs_of beds_of plan_of ?_ ?_ work_of steps_of captures_of
        · assumption
        · intro _
          refine payloadsWf_append ?_ ?_
          · exact tiles_of (by assumption)
          · refine payloadsWf_filter ?_
            exact lodged_of (by assumption)
        · exact fun k => payloadsWf_filter k.form.lodged
      · apply placeEntry_kept
        refine Kept.upd ?_ regs_of beds_of plan_of ?_ ?_ work_of steps_of captures_of
        · assumption
        · intro _
          refine payloadsWf_append ?_ ?_
          · exact tiles_of (by assumption)
          · refine payloadsWf_filter ?_
            exact lodged_of (by assumption)
        · exact fun k => payloadsWf_filter k.form.lodged
    · apply placeEntry_kept
      refine Kept.upd ?_ regs_of beds_of plan_of ?_ ?_ work_of steps_of captures_of
      · assumption
      · intro _
        refine payloadsWf_append ?_ ?_
        · exact tiles_of (by assumption)
        · refine payloadsWf_filter ?_
          exact lodged_of (by assumption)
      · exact fun k => payloadsWf_filter k.form.lodged

theorem reclaimTrace_kept
    {s : State} {t : Trace} (h : Kept m p s) :
    Kept m p (reclaimTrace s t) := by
  unfold reclaimTrace
  split
  · refine Kept.ite (fun _ => ?_) (fun _ => ?_)
    · apply restoreTrace_kept
      assumption
    · apply reclaimFailed_kept
      assumption
  · apply reclaimFailed_kept
    assumption

theorem askTarget_kept
    {s : State} {t : Trace} (h : Kept m p s) :
    Kept m p (askTarget s t) := by
  unfold askTarget
  dsimp only
  apply sendPeer_kept
  refine Kept.upd ?_ regs_of beds_of plan_of tiles_of lodged_of work_of steps_of captures_of
  assumption

theorem execOwnershipAudit_kept
    {s : State} (h : Kept m p s) :
    ∃ t, execOwnershipAudit s = .next t ∧ Kept m p t := by
  unfold execOwnershipAudit
  apply act_kept
  · assumption
  · intro _ _
    apply whenRunning_kept
    · assumption
    · intro _ _
      dsimp only
      apply Kept.fold
      · intro _ _ _
        apply askTarget_kept
        assumption
      · apply Kept.fold
        · intro _ _ _
          apply reclaimTrace_kept
          assumption
        · apply Kept.fold
          · intro _ _ _
            split
            · refine Kept.upd ?_ regs_of beds_of plan_of tiles_of lodged_of work_of steps_of captures_of
              assumption
            · apply reclaimOffer_kept
              assumption
          · assumption

theorem execQuery_kept
    {pbr : Nat} {msg : List Sys2Proof.Byte} {s : State} (h : Kept m p s) :
    ∃ t, execQuery pbr msg s = .next t ∧ Kept m p t := by
  unfold execQuery
  apply act_kept
  · assumption
  · intro _ _
    apply whenRunning_kept
    · assumption
    · intro _ _
      apply receivePeer_kept
      · assumption
      · intro _ _ _ _
        apply sendPeer_kept
        assumption

theorem dropTrace_kept
    {s : State} {h1 : Nat} (h : Kept m p s) :
    Kept m p (dropTrace s h1) := by
  unfold dropTrace
  refine Kept.upd ?_ regs_of beds_of plan_of tiles_of ?_ work_of steps_of captures_of
  · assumption
  · exact fun k => payloadsWf_filter k.form.lodged

theorem orphan_kept
    {s : State} {t : Trace} (h : Kept m p s) :
    Kept m p (orphan s t) := by
  unfold orphan
  dsimp only
  apply reclaimTrace_kept
  apply sendNotice_kept
  apply sendOwn_kept
  refine Kept.upd ?_ regs_of beds_of plan_of tiles_of lodged_of work_of steps_of captures_of
  assumption

theorem execAnswer_kept
    {pbr : Nat} {msg : List Sys2Proof.Byte} {s : State} (h : Kept m p s) :
    ∃ t, execAnswer pbr msg s = .next t ∧ Kept m p t := by
  unfold execAnswer
  apply act_kept
  · assumption
  · intro _ _
    apply whenRunning_kept
    · assumption
    · intro _ _
      apply receivePeer_kept
      · assumption
      · intro _ _ _ _
        dsimp only
        split
        · assumption
        · refine Kept.ite (fun _ => ?_) (fun _ => ?_)
          · split
            · apply orphan_kept
              refine Kept.upd ?_ regs_of beds_of plan_of tiles_of lodged_of work_of steps_of captures_of
              assumption
            · apply dropTrace_kept
              refine Kept.upd ?_ regs_of beds_of plan_of tiles_of lodged_of work_of steps_of captures_of
              assumption
            · refine Kept.upd ?_ regs_of beds_of plan_of tiles_of lodged_of work_of steps_of captures_of
              assumption
          · assumption

theorem execAuditQueryTimeout_kept
    {handle : Nat} {s : State} (h : Kept m p s) :
    ∃ t, execAuditQueryTimeout handle s = .next t ∧ Kept m p t := by
  unfold execAuditQueryTimeout
  apply act_kept
  · assumption
  · intro _ _
    apply whenRunning_kept
    · assumption
    · intro _ _
      refine Kept.ite (fun _ => ?_) (fun _ => ?_)
      · dsimp only
        apply event_kept
        refine Kept.upd ?_ regs_of beds_of plan_of tiles_of lodged_of work_of steps_of captures_of
        assumption
      · assumption

theorem declineTile_kept
    {s : State} {org : Nat} {m1 : List Sys2Proof.Byte} (h : Kept m p s) :
    Kept m p (declineTile s org m1) := by
  unfold declineTile
  apply sendPeer_kept
  assumption

theorem execTileReq_kept {pbr : Nat} {msg : List Byte} {good : Bool} {s : State} (h : Kept m p s) :
    ∃ t, execTileReq pbr msg good s = .next t ∧ Kept m p t := by
  refine act_kept h fun s k => whenRunning_kept k fun s k => receivePeer_kept k fun s org b k => ?_
  dsimp only
  split
  · rename_i t e
    refine Kept.ite (fun _ => declineTile_kept k) fun _ => Kept.ite (fun _ => emit_kept k) fun _ => declineTile_kept ?_
    exact Kept.upd k regs_of beds_of plan_of tiles_of
      (fun k => payloadsWf_updIf k.form.lodged fun _ _ => payloadsWf_find (t := t) k.form.lodged e) work_of steps_of captures_of
  · split
    · exact Kept.ite (fun _ => emit_kept k) fun _ => declineTile_kept k
    · exact declineTile_kept k

theorem adopt_kept {s : State} {t : Tile} {payload : List Byte} {tier : Nat} {range : Option Nat} (h : Kept m p s)
    (ht : cellsWf t.payload = true) : Kept m p (adopt s t payload tier range) := by
  unfold adopt
  dsimp only
  split
  · exact h
  · refine Kept.ite (fun _ => expandPair_kept h) fun _ => putTile_kept (releaseLodged_kept h) ?_
    exact cellsWf_ite ht cellsOf_wf

theorem showCopy_kept {s : State} {t : Tile} {payload : List Byte} (h : Kept m p s) : Kept m p (showCopy s t payload) := by
  unfold showCopy
  have hu : Kept m p (updTile s t.handle t.number fun x =>
      if x.kind ≤ 4 ∨ isDraftRecord x then x else { x with payload := cellsOf payload }) :=
    updTile_kept h fun x hx => by
      split
      · exact hx
      · exact cellsOf_wf
  refine Kept.upd hu regs_of beds_of plan_of tiles_of lodged_of (fun k => worksWf_updIf k.form.work fun _ hw => hw) steps_of
    (fun k c hc => ?_)
  obtain ⟨c0, h0, rfl⟩ := List.mem_map.1 hc
  exact payloadsWf_updIf (k.form.captures c0 h0) fun _ _ => cellsOf_wf

theorem execTileReply_kept
    {off : Nat} {image : List Sys2Proof.Byte} {s : State} (h : Kept m p s) :
    ∃ t, execTileReply off image s = .next t ∧ Kept m p t := by
  unfold execTileReply
  apply act_kept
  · assumption
  · intro _ _
    apply whenRunning_kept
    · assumption
    · intro _ _
      split
      · assumption
      · dsimp only
        split
        · refine Kept.upd ?_ regs_of beds_of plan_of tiles_of lodged_of work_of steps_of captures_of
          assumption
        · refine Kept.ite (fun _ => ?_) (fun _ => ?_)
          · refine Kept.upd ?_ regs_of beds_of plan_of tiles_of lodged_of work_of steps_of captures_of
            assumption
          · refine Kept.ite (fun _ => ?_) (fun _ => ?_)
            · apply tileLost_kept
              refine Kept.upd ?_ regs_of beds_of plan_of tiles_of lodged_of work_of steps_of captures_of
              assumption
            · refine Kept.ite (fun _ => ?_) (fun _ => ?_)
              · apply showCopy_kept
                refine Kept.upd ?_ regs_of beds_of plan_of tiles_of lodged_of work_of steps_of captures_of
                assumption
              · apply adopt_kept
                · apply showCopy_kept
                  refine Kept.upd ?_ regs_of beds_of plan_of tiles_of lodged_of work_of steps_of captures_of
                  assumption
                · exact Kept.tile (by assumption) (by assumption)

theorem execTileReqTimeout_kept
    {handle : Nat} {number : Nat} {s : State} (h : Kept m p s) :
    ∃ t, execTileReqTimeout handle number s = .next t ∧ Kept m p t := by
  unfold execTileReqTimeout
  apply act_kept
  · assumption
  · intro _ _
    apply whenRunning_kept
    · assumption
    · intro _ _
      split
      · assumption
      · refine Kept.ite (fun _ => ?_) (fun _ => ?_)
        · apply tileLost_kept
          refine Kept.upd ?_ regs_of beds_of plan_of tiles_of lodged_of work_of steps_of captures_of
          assumption
        · dsimp only
          apply sendPeer_kept
          refine Kept.upd ?_ regs_of beds_of plan_of tiles_of lodged_of work_of steps_of captures_of
          assumption

theorem execRelease_kept
    {pbr : Nat} {msg : List Sys2Proof.Byte} {s : State} (h : Kept m p s) :
    ∃ t, execRelease pbr msg s = .next t ∧ Kept m p t := by
  unfold execRelease
  apply act_kept
  · assumption
  · intro _ _
    apply whenRunning_kept
    · assumption
    · intro _ _
      apply receivePeer_kept
      · assumption
      · intro _ _ _ _
        dsimp only
        refine Kept.upd ?_ regs_of beds_of plan_of tiles_of ?_ work_of steps_of captures_of
        · assumption
        · exact fun k => payloadsWf_filter k.form.lodged

theorem execMapEpochWrite_kept
    {_path : Sys2Proof.Path} {value : Nat} {s : State} (h : Kept m p s) :
    ∃ t, execMapEpochWrite _path value s = .next t ∧ Kept m p t := by
  unfold execMapEpochWrite
  apply act_kept
  · assumption
  · intro _ _
    apply whenRunning_kept
    · assumption
    · intro _ _
      dsimp only
      refine Kept.ite (fun _ => ?_) (fun _ => ?_)
      · assumption
      · apply setReg_kept
        refine Kept.upd ?_ regs_of beds_of plan_of tiles_of lodged_of work_of steps_of captures_of
        assumption

theorem execEpochGraceEnd_kept
    {epoch : Nat} {s : State} (h : Kept m p s) :
    ∃ t, execEpochGraceEnd epoch s = .next t ∧ Kept m p t := by
  unfold execEpochGraceEnd
  apply act_kept
  · assumption
  · intro _ _
    apply whenRunning_kept
    · assumption
    · intro _ _
      refine Kept.upd ?_ regs_of beds_of plan_of tiles_of lodged_of work_of steps_of captures_of
      assumption

end Sys2Proof.Laws
end

