-- ==== Sys2Proof/Laws/KeptSecurity.lean ====
section
/-! SUPPORT. Every operation and meaning of Machine/Security.lean keeps the form. -/

namespace Sys2Proof.Laws

open Sys2Proof Sys2Proof.Machine Sys2Proof.Safety

variable {m : Model} {p : List Instr}

theorem freshNonce_kept
    {s : State} (h : Kept m p s) :
    Kept m p (freshNonce s) := by
  unfold freshNonce
  apply setReg_kept
  apply takeFree_kept
  assumption

theorem freshDebugNonce_kept
    {s : State} (h : Kept m p s) :
    Kept m p (freshDebugNonce s) := by
  unfold freshDebugNonce
  apply setReg_kept
  apply takeFree_kept
  assumption

theorem debugCheck_kept
    {s : State} (h : Kept m p s) :
    Kept m p (debugCheck s) := by
  unfold debugCheck
  refine Kept.ite (fun _ => ?_) (fun _ => ?_)
  · assumption
  · refine Kept.upd ?_ regs_of beds_of plan_of tiles_of lodged_of work_of steps_of captures_of
    assumption

theorem secError_kept
    {s : State} {e : Nat} (h : Kept m p s) :
    Kept m p (secError s e) := by
  unfold secError
  apply setReg_kept
  assumption

theorem activateSlot_kept
    {s : State} {k1 : Nat} {d : KeyData} (h : Kept m p s) :
    Kept m p (activateSlot s k1 d) := by
  unfold activateSlot
  dsimp only
  refine Kept.upd ?_ regs_of beds_of plan_of tiles_of lodged_of work_of steps_of captures_of
  apply regSet_kept
  apply regSet_kept
  apply regSet_kept
  apply regSet_kept
  apply regSet_kept
  apply Kept.fold
  · intro _ _ _
    apply regSet_kept
    apply regSet_kept
    assumption
  · apply regSet_kept
    apply regSet_kept
    apply regSet_kept
    apply regSet_kept
    assumption

theorem updSlot_kept
    {s : State} {k1 : Nat} {f : KeySlot → KeySlot} (h : Kept m p s) :
    Kept m p (updSlot s k1 f) := by
  unfold updSlot
  refine Kept.upd ?_ regs_of beds_of plan_of tiles_of lodged_of work_of steps_of captures_of
  assumption

theorem applyInstall_kept
    {s : State} {k1 : Nat} {d : KeyData} (h : Kept m p s) :
    Kept m p (applyInstall s k1 d) := by
  unfold applyInstall
  split
  · apply activateSlot_kept
    assumption
  · apply updSlot_kept
    assumption
  · apply updSlot_kept
    assumption

theorem tryInstall_kept
    {s : State} {env : Option (List Sys2Proof.Byte)} {payload : Option (List Sys2Proof.Byte)} (h : Kept m p s) :
    Kept m p (tryInstall s env payload) := by
  unfold tryInstall
  dsimp only
  apply debugCheck_kept
  apply freshNonce_kept
  apply secError_kept
  refine Kept.ite (fun _ => ?_) (fun _ => ?_)
  · apply applyInstall_kept
    assumption
  · assumption

theorem execInstall_kept
    {path : Sys2Proof.Path} {env : Sys2Proof.Fetch} {payload : Option (List Sys2Proof.Byte)} {s : State} (h : Kept m p s) :
    ∃ t, execInstall path env payload s = .next t ∧ Kept m p t := by
  unfold execInstall
  apply act_kept
  · assumption
  · intro _ _
    apply whenRunning_kept
    · assumption
    · intro _ _
      apply whenUnsealed_kept
      · assumption
      · intro _ _
        dsimp only
        apply sourced_kept
        · split
          · apply regSet_kept
            assumption
          · assumption
        · intro _ _ _
          apply tryInstall_kept
          assumption

theorem abortSlot_kept
    {s : State} {k1 : Nat} (h : Kept m p s) :
    Kept m p (abortSlot s k1) := by
  unfold abortSlot
  apply Kept.fold
  · intro _ _ _
    apply fail_kept
    apply dropSteps_kept
    assumption
  · assumption

theorem revokeKey_kept
    {s : State} {k1 : Nat} (h : Kept m p s) :
    Kept m p (revokeKey s k1) := by
  unfold revokeKey
  refine Kept.ite (fun _ => ?_) (fun _ => ?_)
  · assumption
  · dsimp only
    apply event_kept
    apply updSlot_kept
    apply Kept.fold
    · intro _ _ _
      apply leavePlanner_kept
      assumption
    · apply retryAccesses_kept
      refine Kept.upd ?_ regs_of beds_of plan_of tiles_of lodged_of work_of steps_of captures_of
      apply abortSlot_kept
      apply updSlot_kept
      assumption

theorem execRevoke_kept
    {path : Sys2Proof.Path} {s : State} (h : Kept m p s) :
    ∃ t, execRevoke path s = .next t ∧ Kept m p t := by
  unfold execRevoke
  apply act_kept
  · assumption
  · intro _ _
    apply whenRunning_kept
    · assumption
    · intro _ _
      apply whenUnsealed_kept
      · assumption
      · intro _ _
        split
        · assumption
        · apply revokeKey_kept
          apply regSet_kept
          assumption

theorem freeSlot_kept
    {s : State} {k1 : Nat} (h : Kept m p s) :
    Kept m p (freeSlot s k1) := by
  unfold freeSlot
  dsimp only
  refine Kept.upd ?_ regs_of beds_of plan_of tiles_of ?_ work_of steps_of captures_of
  · apply Kept.fold
    · intro _ _ _
      apply forget_kept
      apply unattach_kept
      assumption
    · assumption
  · exact fun k => payloadsWf_filter k.form.lodged

theorem execSlotEmptied_kept
    {slot : Nat} {s : State} (h : Kept m p s) :
    ∃ t, execSlotEmptied slot s = .next t ∧ Kept m p t := by
  unfold execSlotEmptied
  apply act_kept
  · assumption
  · intro _ _
    apply whenRunning_kept
    · assumption
    · intro _ _
      split
      · assumption
      · refine Kept.ite (fun _ => ?_) (fun _ => ?_)
        · assumption
        · dsimp only
          split
          · refine Kept.upd ?_ regs_of beds_of plan_of tiles_of lodged_of work_of steps_of captures_of
            apply freeSlot_kept
            assumption
          · apply debugCheck_kept
            apply activateSlot_kept
            refine Kept.upd ?_ regs_of beds_of plan_of tiles_of lodged_of work_of steps_of captures_of
            apply freeSlot_kept
            assumption

theorem tryJoin_kept
    {s : State} {env : Option (List Sys2Proof.Byte)} {payload : Option (List Sys2Proof.Byte)} (h : Kept m p s) :
    Kept m p (tryJoin s env payload) := by
  unfold tryJoin
  dsimp only
  apply freshNonce_kept
  apply secError_kept
  refine Kept.ite (fun _ => ?_) (fun _ => ?_)
  · refine Kept.upd ?_ regs_of beds_of plan_of tiles_of lodged_of work_of steps_of captures_of
    assumption
  · assumption

theorem execJoin_kept
    {_path : Sys2Proof.Path} {env : Sys2Proof.Fetch} {payload : Option (List Sys2Proof.Byte)} {s : State} (h : Kept m p s) :
    ∃ t, execJoin _path env payload s = .next t ∧ Kept m p t := by
  unfold execJoin
  apply act_kept
  · assumption
  · intro _ _
    apply whenRunning_kept
    · assumption
    · intro _ _
      apply whenUnsealed_kept
      · assumption
      · intro _ _
        dsimp only
        apply sourced_kept
        · apply setReg_kept
          assumption
        · intro _ _ _
          apply tryJoin_kept
          assumption

theorem leaveOne_kept
    {s : State} {id : Nat} (h : Kept m p s) :
    Kept m p (leaveOne s id) := by
  unfold leaveOne
  refine Kept.ite (fun _ => ?_) (fun _ => ?_)
  · assumption
  · dsimp only
    apply Kept.fold
    · intro _ _ _
      apply event_kept
      apply startUnload_kept
      assumption
    · refine Kept.upd ?_ regs_of beds_of plan_of tiles_of lodged_of work_of steps_of captures_of
      assumption

theorem execLeave_kept
    {_path : Sys2Proof.Path} {setId : Nat} {s : State} (h : Kept m p s) :
    ∃ t, execLeave _path setId s = .next t ∧ Kept m p t := by
  unfold execLeave
  apply act_kept
  · assumption
  · intro _ _
    apply whenRunning_kept
    · assumption
    · intro _ _
      apply whenUnsealed_kept
      · assumption
      · intro _ _
        dsimp only
        refine Kept.ite (fun _ => ?_) (fun _ => ?_)
        · apply setReg_kept
          assumption
        · apply leaveOne_kept
          apply setReg_kept
          assumption

theorem cryptoErase_kept
    {s : State} (h : Kept m p s) :
    Kept m p (cryptoErase s) := by
  unfold cryptoErase
  dsimp only
  refine Kept.upd ?_ regs_of beds_of ?_ ?_ ?_ work_of ?_ captures_of
  · apply Kept.fold
    · intro _ _ _
      apply forget_kept
      assumption
    · assumption
  · (intro w hw; simp)
  · exact fun k => payloadsWf_nil
  · exact fun k => payloadsWf_nil
  · exact fun k => ⟨slotWf_none, slotWf_none⟩

theorem execRetire_kept
    {_path : Sys2Proof.Path} {token : Sys2Proof.Fetch} {sigOk : Bool} {s : State} (h : Kept m p s) :
    ∃ t, execRetire _path token sigOk s = .next t ∧ Kept m p t := by
  unfold execRetire
  apply act_kept
  · assumption
  · intro _ _
    apply whenRunning_kept
    · assumption
    · intro _ _
      apply whenUnsealed_kept
      · assumption
      · intro _ _
        dsimp only
        apply sourced_kept
        · apply setReg_kept
          assumption
        · intro _ _ _
          refine Kept.ite (fun _ => ?_) (fun _ => ?_)
          · apply secError_kept
            assumption
          · refine Kept.ite (fun _ => ?_) (fun _ => ?_)
            · apply debugCheck_kept
              apply secError_kept
              apply cryptoErase_kept
              apply setReg_kept
              apply Kept.fold
              · intro _ _ _
                apply revokeKey_kept
                assumption
              · assumption
            · apply secError_kept
              assumption

theorem execOwnerClaim_kept
    {_path : Sys2Proof.Path} {key : Sys2Proof.Fetch} {s : State} (h : Kept m p s) :
    ∃ t, execOwnerClaim _path key s = .next t ∧ Kept m p t := by
  unfold execOwnerClaim
  apply act_kept
  · assumption
  · intro _ _
    apply whenRunning_kept
    · assumption
    · intro _ _
      apply whenUnsealed_kept
      · assumption
      · intro _ _
        dsimp only
        apply sourced_kept
        · apply setReg_kept
          assumption
        · intro _ _ _
          split
          · apply secError_kept
            assumption
          · refine Kept.ite (fun _ => ?_) (fun _ => ?_)
            · apply secError_kept
              refine Kept.upd ?_ regs_of beds_of plan_of tiles_of lodged_of work_of steps_of captures_of
              assumption
            · apply secError_kept
              assumption

theorem execDebugPresent_kept
    {_path : Sys2Proof.Path} {token : Sys2Proof.Fetch} {sigOk : Bool} {s : State} (h : Kept m p s) :
    ∃ t, execDebugPresent _path token sigOk s = .next t ∧ Kept m p t := by
  unfold execDebugPresent
  apply act_kept
  · assumption
  · intro _ _
    apply whenRunning_kept
    · assumption
    · intro _ _
      apply whenUnsealed_kept
      · assumption
      · intro _ _
        dsimp only
        apply sourced_kept
        · apply setReg_kept
          assumption
        · intro _ _ _
          apply freshDebugNonce_kept
          split
          · apply secError_kept
            assumption
          · refine Kept.ite (fun _ => ?_) (fun _ => ?_)
            · apply secError_kept
              refine Kept.upd ?_ regs_of beds_of plan_of tiles_of lodged_of work_of steps_of captures_of
              assumption
            · apply secError_kept
              assumption

theorem execDebugClose_kept
    {_path : Sys2Proof.Path} {s : State} (h : Kept m p s) :
    ∃ t, execDebugClose _path s = .next t ∧ Kept m p t := by
  unfold execDebugClose
  apply act_kept
  · assumption
  · intro _ _
    apply whenRunning_kept
    · assumption
    · intro _ _
      apply debugCheck_kept
      refine Kept.upd ?_ regs_of beds_of plan_of tiles_of lodged_of work_of steps_of captures_of
      assumption

theorem putChan_kept
    {s : State} {c : SpdmChan} (h : Kept m p s) :
    Kept m p (putChan s c) := by
  unfold putChan
  refine Kept.upd ?_ regs_of beds_of plan_of tiles_of lodged_of work_of steps_of captures_of
  assumption

theorem spdmRequest_kept
    {f : State → State} {s : State} (h : Kept m p s) (hf : ∀ x0, Kept m p x0 → Kept m p (f x0)) :
    Kept m p (spdmRequest f s) := by
  unfold spdmRequest
  refine Kept.ite (fun _ => ?_) (fun _ => ?_)
  · apply hf
    assumption
  · refine Kept.ite (fun _ => ?_) (fun _ => ?_)
    · apply emit_kept
      assumption
    · assumption

theorem spdmAfter_kept
    {ch : Sys2Proof.Path} {f : SpdmChan → State → State} {s : State} (h : Kept m p s)
    (hf : ∀ x0 x1, Kept m p x1 → Kept m p (f x0 x1)) :
    Kept m p (spdmAfter ch f s) := by
  unfold spdmAfter
  apply spdmRequest_kept
  · assumption
  · intro _ _
    split
    · apply emit_kept
      assumption
    · refine Kept.ite (fun _ => ?_) (fun _ => ?_)
      · apply hf
        assumption
      · apply emit_kept
        assumption

theorem execGetVersion_kept
    {ch : Sys2Proof.Path} {s : State} (h : Kept m p s) :
    ∃ t, execGetVersion ch s = .next t ∧ Kept m p t := by
  unfold execGetVersion
  apply act_kept
  · assumption
  · intro _ _
    refine Kept.ite (fun _ => ?_) (fun _ => ?_)
    · apply emit_kept
      apply putChan_kept
      assumption
    · assumption

theorem execGetCapabilities_kept
    {ch : Sys2Proof.Path} {version : Nat} {s : State} (h : Kept m p s) :
    ∃ t, execGetCapabilities ch version s = .next t ∧ Kept m p t := by
  unfold execGetCapabilities
  apply act_kept
  · assumption
  · intro _ _
    apply spdmRequest_kept
    · assumption
    · intro _ _
      split
      · apply emit_kept
        assumption
      · refine Kept.ite (fun _ => ?_) (fun _ => ?_)
        · apply emit_kept
          apply putChan_kept
          assumption
        · apply emit_kept
          assumption

theorem execNegotiateAlgorithms_kept
    {ch : Sys2Proof.Path} {mldsa : Bool} {mlkem : Bool} {aesgcm : Bool} {s : State} (h : Kept m p s) :
    ∃ t, execNegotiateAlgorithms ch mldsa mlkem aesgcm s = .next t ∧ Kept m p t := by
  unfold execNegotiateAlgorithms
  apply act_kept
  · assumption
  · intro _ _
    apply spdmRequest_kept
    · assumption
    · intro _ _
      split
      · apply emit_kept
        assumption
      · refine Kept.ite (fun _ => ?_) (fun _ => ?_)
        · apply emit_kept
          assumption
        · refine Kept.ite (fun _ => ?_) (fun _ => ?_)
          · apply emit_kept
            apply putChan_kept
            assumption
          · apply emit_kept
            assumption

theorem execGetDigests_kept
    {ch : Sys2Proof.Path} {s : State} (h : Kept m p s) :
    ∃ t, execGetDigests ch s = .next t ∧ Kept m p t := by
  unfold execGetDigests
  apply act_kept
  · assumption
  · intro _ _
    apply spdmAfter_kept
    · assumption
    · intro _ _ _
      apply emit_kept
      assumption

theorem execGetCertificate_kept
    {ch : Sys2Proof.Path} {slot : Nat} {off : Nat} {len : Nat} {s : State} (h : Kept m p s) :
    ∃ t, execGetCertificate ch slot off len s = .next t ∧ Kept m p t := by
  unfold execGetCertificate
  apply act_kept
  · assumption
  · intro _ _
    apply spdmAfter_kept
    · assumption
    · intro _ _ _
      refine Kept.ite (fun _ => ?_) (fun _ => ?_)
      · apply emit_kept
        assumption
      · apply emit_kept
        assumption

theorem signedAnswer_kept
    {s : State} {nonce : List Sys2Proof.Byte} {body : List Sys2Proof.Byte} (h : Kept m p s) :
    Kept m p (signedAnswer s nonce body) := by
  unfold signedAnswer
  dsimp only
  apply emit_kept
  apply takeFree_kept
  assumption

theorem execChallenge_kept
    {ch : Sys2Proof.Path} {slot : Nat} {nonce : List Sys2Proof.Byte} {s : State} (h : Kept m p s) :
    ∃ t, execChallenge ch slot nonce s = .next t ∧ Kept m p t := by
  unfold execChallenge
  apply act_kept
  · assumption
  · intro _ _
    apply spdmAfter_kept
    · assumption
    · intro _ _ _
      refine Kept.ite (fun _ => ?_) (fun _ => ?_)
      · apply signedAnswer_kept
        assumption
      · apply emit_kept
        assumption

theorem execGetMeasurements_kept
    {ch : Sys2Proof.Path} {index : Nat} {signed : Bool} {nonce : List Sys2Proof.Byte} {s : State} (h : Kept m p s) :
    ∃ t, execGetMeasurements ch index signed nonce s = .next t ∧ Kept m p t := by
  unfold execGetMeasurements
  apply act_kept
  · assumption
  · intro _ _
    apply spdmAfter_kept
    · assumption
    · intro _ _ _
      dsimp only
      split
      · apply emit_kept
        assumption
      · refine Kept.ite (fun _ => ?_) (fun _ => ?_)
        · apply signedAnswer_kept
          assumption
        · apply emit_kept
          assumption

theorem execKeyExchange_kept
    {ch : Sys2Proof.Path} {session : Nat} {s : State} (h : Kept m p s) :
    ∃ t, execKeyExchange ch session s = .next t ∧ Kept m p t := by
  unfold execKeyExchange
  apply act_kept
  · assumption
  · intro _ _
    apply spdmAfter_kept
    · assumption
    · intro _ _ _
      refine Kept.ite (fun _ => ?_) (fun _ => ?_)
      · apply emit_kept
        assumption
      · refine Kept.ite (fun _ => ?_) (fun _ => ?_)
        · apply emit_kept
          assumption
        · apply signedAnswer_kept
          apply putChan_kept
          assumption

theorem execFinish_kept
    {ch : Sys2Proof.Path} {session : Nat} {good : Bool} {operator : Option Nat} {s : State} (h : Kept m p s) :
    ∃ t, execFinish ch session good operator s = .next t ∧ Kept m p t := by
  unfold execFinish
  apply act_kept
  · assumption
  · intro _ _
    apply spdmAfter_kept
    · assumption
    · intro _ _ _
      refine Kept.ite (fun _ => ?_) (fun _ => ?_)
      · apply emit_kept
        assumption
      · refine Kept.ite (fun _ => ?_) (fun _ => ?_)
        · dsimp only
          apply emit_kept
          apply putChan_kept
          assumption
        · apply emit_kept
          apply putChan_kept
          assumption

theorem execEndSession_kept
    {ch : Sys2Proof.Path} {session : Nat} {s : State} (h : Kept m p s) :
    ∃ t, execEndSession ch session s = .next t ∧ Kept m p t := by
  unfold execEndSession
  apply act_kept
  · assumption
  · intro _ _
    apply spdmAfter_kept
    · assumption
    · intro _ _ _
      refine Kept.ite (fun _ => ?_) (fun _ => ?_)
      · apply emit_kept
        apply putChan_kept
        assumption
      · apply emit_kept
        assumption

theorem execGetSlotEvidence_kept
    {ch : Sys2Proof.Path} {slot : Nat} {nonce : List Sys2Proof.Byte} {s : State} (h : Kept m p s) :
    ∃ t, execGetSlotEvidence ch slot nonce s = .next t ∧ Kept m p t := by
  unfold execGetSlotEvidence
  apply act_kept
  · assumption
  · intro _ _
    apply spdmAfter_kept
    · assumption
    · intro _ _ _
      refine Kept.ite (fun _ => ?_) (fun _ => ?_)
      · dsimp only
        apply emit_kept
        assumption
      · apply emit_kept
        assumption

theorem asOperator_kept
    {ch : Sys2Proof.Path} {session : Nat} {f : State → State} {s : State} (h : Kept m p s)
    (hf : ∀ x0, Kept m p x0 → Kept m p (f x0)) :
    Kept m p (asOperator ch session f s) := by
  unfold asOperator
  apply spdmAfter_kept
  · assumption
  · intro _ _ _
    refine Kept.ite (fun _ => ?_) (fun _ => ?_)
    · refine Kept.ite (fun _ => ?_) (fun _ => ?_)
      · apply hf
        assumption
      · apply emit_kept
        assumption
    · apply event_kept
      apply emit_kept
      assumption

theorem answerError_kept
    {s : State} (h : Kept m p s) :
    Kept m p (answerError s) := by
  unfold answerError
  apply emit_kept
  assumption

theorem execInstallKey_kept
    {ch : Sys2Proof.Path} {session : Nat} {env : List Sys2Proof.Byte} {payload : Option (List Sys2Proof.Byte)} {s : State}
    (h : Kept m p s) :
    ∃ t, execInstallKey ch session env payload s = .next t ∧ Kept m p t := by
  unfold execInstallKey
  apply act_kept
  · assumption
  · intro _ _
    apply asOperator_kept
    · assumption
    · intro _ _
      apply answerError_kept
      apply tryInstall_kept
      assumption

theorem execRevokeSlot_kept
    {ch : Sys2Proof.Path} {session : Nat} {slot : Nat} {s : State} (h : Kept m p s) :
    ∃ t, execRevokeSlot ch session slot s = .next t ∧ Kept m p t := by
  unfold execRevokeSlot
  apply act_kept
  · assumption
  · intro _ _
    apply asOperator_kept
    · assumption
    · intro _ _
      apply answerError_kept
      apply revokeKey_kept
      assumption

theorem execJoinSet_kept
    {ch : Sys2Proof.Path} {session : Nat} {env : List Sys2Proof.Byte} {payload : Option (List Sys2Proof.Byte)} {s : State}
    (h : Kept m p s) :
    ∃ t, execJoinSet ch session env payload s = .next t ∧ Kept m p t := by
  unfold execJoinSet
  apply act_kept
  · assumption
  · intro _ _
    apply asOperator_kept
    · assumption
    · intro _ _
      apply answerError_kept
      apply tryJoin_kept
      assumption

theorem execLeaveSet_kept
    {ch : Sys2Proof.Path} {session : Nat} {setId : Nat} {s : State} (h : Kept m p s) :
    ∃ t, execLeaveSet ch session setId s = .next t ∧ Kept m p t := by
  unfold execLeaveSet
  apply act_kept
  · assumption
  · intro _ _
    apply asOperator_kept
    · assumption
    · intro _ _
      apply answerError_kept
      apply leaveOne_kept
      assumption

theorem tapSet_kept
    {s : State} {n : Nat} (h : Kept m p s) :
    Kept m p (tapSet s n) := by
  unfold tapSet
  refine Kept.upd ?_ regs_of beds_of plan_of tiles_of lodged_of work_of steps_of captures_of
  assumption

theorem execTapReset_kept
    {driven : Bool} {s : State} (h : Kept m p s) :
    ∃ t, execTapReset driven s = .next t ∧ Kept m p t := by
  unfold execTapReset
  apply act_kept
  · assumption
  · intro _ _
    refine Kept.upd ?_ regs_of beds_of plan_of tiles_of lodged_of work_of steps_of captures_of
    assumption

theorem execBypass_kept
    {bitIn : Bool} {s : State} (h : Kept m p s) :
    ∃ t, execBypass bitIn s = .next t ∧ Kept m p t := by
  unfold execBypass
  apply act_kept
  · assumption
  · intro _ _
    refine Kept.ite (fun _ => ?_) (fun _ => ?_)
    · apply emit_kept
      apply tapSet_kept
      assumption
    · assumption

theorem execSamplePreload_kept
    {cells : List Bool} {s : State} (h : Kept m p s) :
    ∃ t, execSamplePreload cells s = .next t ∧ Kept m p t := by
  unfold execSamplePreload
  apply act_kept
  · assumption
  · intro _ _
    refine Kept.ite (fun _ => ?_) (fun _ => ?_)
    · apply emit_kept
      apply takeFree_kept
      apply tapSet_kept
      refine Kept.upd ?_ regs_of beds_of plan_of tiles_of lodged_of work_of steps_of captures_of
      assumption
    · assumption

theorem execExtest_kept
    {cells : List Bool} {s : State} (h : Kept m p s) :
    ∃ t, execExtest cells s = .next t ∧ Kept m p t := by
  unfold execExtest
  apply act_kept
  · assumption
  · intro _ _
    refine Kept.ite (fun _ => ?_) (fun _ => ?_)
    · assumption
    · refine Kept.ite (fun _ => ?_) (fun _ => ?_)
      · apply emit_kept
        apply takeFree_kept
        apply tapSet_kept
        refine Kept.upd ?_ regs_of beds_of plan_of tiles_of lodged_of work_of steps_of captures_of
        assumption
      · apply emit_kept
        apply tapSet_kept
        assumption

theorem execIdcode_kept
    {s : State} (h : Kept m p s) :
    ∃ t, execIdcode s = .next t ∧ Kept m p t := by
  unfold execIdcode
  apply act_kept
  · assumption
  · intro _ _
    refine Kept.ite (fun _ => ?_) (fun _ => ?_)
    · apply emit_kept
      apply tapSet_kept
      assumption
    · assumption

theorem jtagAccess_kept
    {req : Sys2Proof.JtagReq} {s : State} (h : Kept m p s) :
    Kept m p (jtagAccess req s) := by
  unfold jtagAccess
  dsimp only
  split
  · refine Kept.ite (fun _ => ?_) (fun _ => ?_)
    · refine Kept.upd ?_ regs_of beds_of plan_of tiles_of lodged_of work_of steps_of captures_of
      assumption
    · assumption
  · refine Kept.ite (fun _ => ?_) (fun _ => ?_)
    · refine Kept.upd ?_ regs_of beds_of plan_of tiles_of lodged_of work_of steps_of captures_of
      assumption
    · assumption
  · assumption
  · refine Kept.ite (fun _ => ?_) (fun _ => ?_)
    · apply emit_kept
      apply takeFree_kept
      assumption
    · apply emit_kept
      assumption
  · assumption
  · refine Kept.ite (fun _ => ?_) (fun _ => ?_)
    · refine Kept.upd ?_ regs_of beds_of plan_of tiles_of lodged_of work_of steps_of captures_of
      assumption
    · assumption
  · refine Kept.ite (fun _ => ?_) (fun _ => ?_)
    · refine Kept.upd ?_ regs_of beds_of plan_of tiles_of lodged_of work_of steps_of captures_of
      assumption
    · assumption
  · assumption
  · refine Kept.ite (fun _ => ?_) (fun _ => ?_)
    · split
      · apply emit_kept
        assumption
      · apply emit_kept
        apply takeFree_kept
        assumption
    · apply emit_kept
      assumption
  · refine Kept.ite (fun _ => ?_) (fun _ => ?_)
    · refine Kept.upd ?_ regs_of beds_of plan_of tiles_of lodged_of work_of steps_of captures_of
      assumption
    · assumption
  · refine Kept.ite (fun _ => ?_) (fun _ => ?_)
    · apply emit_kept
      assumption
    · apply emit_kept
      assumption
  · split
    · assumption
    · refine Kept.ite (fun _ => ?_) (fun _ => ?_)
      · apply updTile_kept
        · assumption
        · exact fun t ht => ht
      · assumption

theorem execJtagDebugAccess_kept
    {req : Sys2Proof.JtagReq} {s : State} (h : Kept m p s) :
    ∃ t, execJtagDebugAccess req s = .next t ∧ Kept m p t := by
  unfold execJtagDebugAccess
  apply act_kept
  · assumption
  · intro _ _
    refine Kept.ite (fun _ => ?_) (fun _ => ?_)
    · apply jtagAccess_kept
      assumption
    · assumption

theorem busMode_kept
    {s : State} {m1 : BusMode} (h : Kept m p s) :
    Kept m p (busMode s m1) := by
  unfold busMode
  refine Kept.ite (fun _ => ?_) (fun _ => ?_)
  · refine Kept.upd ?_ regs_of beds_of plan_of tiles_of lodged_of work_of steps_of captures_of
    assumption
  · assumption

theorem execEntdaa_kept
    {addr : Nat} {s : State} (h : Kept m p s) :
    ∃ t, execEntdaa addr s = .next t ∧ Kept m p t := by
  unfold execEntdaa
  apply act_kept
  · assumption
  · intro _ _
    dsimp only
    refine Kept.ite (fun _ => ?_) (fun _ => ?_)
    · refine Kept.upd ?_ regs_of beds_of plan_of tiles_of lodged_of work_of steps_of captures_of
      apply busMode_kept
      assumption
    · assumption

theorem execSetdasa_kept
    {static : Nat} {addr : Nat} {s : State} (h : Kept m p s) :
    ∃ t, execSetdasa static addr s = .next t ∧ Kept m p t := by
  unfold execSetdasa
  apply act_kept
  · assumption
  · intro _ _
    dsimp only
    refine Kept.ite (fun _ => ?_) (fun _ => ?_)
    · refine Kept.upd ?_ regs_of beds_of plan_of tiles_of lodged_of work_of steps_of captures_of
      apply busMode_kept
      assumption
    · assumption

end Sys2Proof.Laws
end

