-- ==== Sys2Proof/Laws/KeptCxl.lean ====
section
/-! SUPPORT. Every operation and meaning of Machine/Cxl.lean keeps the form. -/

namespace Sys2Proof.Laws

open Sys2Proof Sys2Proof.Machine Sys2Proof.Safety

variable {m : Model} {p : List Instr}

theorem mailbox_kept
    {ch : Sys2Proof.Path} {f : State → State} {s : State} (h : Kept m p s) (hf : ∀ x0, Kept m p x0 → Kept m p (f x0)) :
    Kept m p (mailbox ch f s) := by
  unfold mailbox
  refine Kept.ite (fun _ => ?_) (fun _ => ?_)
  · apply hf
    assumption
  · refine Kept.ite (fun _ => ?_) (fun _ => ?_)
    · apply emit_kept
      assumption
    · assumption

theorem execIdentify_kept
    {p1 : Sys2Proof.PortId} {s : State} (h : Kept m p s) :
    ∃ t, execIdentify p1 s = .next t ∧ Kept m p t := by
  unfold execIdentify
  apply act_kept
  · assumption
  · intro _ _
    apply mailbox_kept
    · assumption
    · intro _ _
      apply emit_kept
      assumption

theorem alertCheck_kept
    {s : State} (h : Kept m p s) :
    Kept m p (alertCheck s) := by
  unfold alertCheck
  dsimp only
  refine Kept.ite (fun _ => ?_) (fun _ => ?_)
  · assumption
  · refine Kept.upd ?_ regs_of beds_of plan_of tiles_of lodged_of work_of steps_of captures_of
    assumption

theorem execGetEventRecords_kept
    {ch : Sys2Proof.Path} {log : Nat} {s : State} (h : Kept m p s) :
    ∃ t, execGetEventRecords ch log s = .next t ∧ Kept m p t := by
  unfold execGetEventRecords
  apply act_kept
  · assumption
  · intro _ _
    apply mailbox_kept
    · assumption
    · intro _ _
      refine Kept.ite (fun _ => ?_) (fun _ => ?_)
      · apply emit_kept
        assumption
      · dsimp only
        apply alertCheck_kept
        apply emit_kept
        refine Kept.upd ?_ regs_of beds_of plan_of tiles_of lodged_of work_of steps_of captures_of
        assumption

theorem clearLog_kept
    {s : State} {log : Nat} {n : Nat} (h : Kept m p s) :
    Kept m p (clearLog s log n) := by
  unfold clearLog
  dsimp only
  apply alertCheck_kept
  refine Kept.upd ?_ regs_of beds_of plan_of tiles_of lodged_of work_of steps_of captures_of
  assumption

theorem execClearEventRecords_kept
    {ch : Sys2Proof.Path} {log : Nat} {handles : List Nat} {s : State} (h : Kept m p s) :
    ∃ t, execClearEventRecords ch log handles s = .next t ∧ Kept m p t := by
  unfold execClearEventRecords
  apply act_kept
  · assumption
  · intro _ _
    apply mailbox_kept
    · assumption
    · intro _ _
      dsimp only
      refine Kept.ite (fun _ => ?_) (fun _ => ?_)
      · apply emit_kept
        assumption
      · refine Kept.ite (fun _ => ?_) (fun _ => ?_)
        · apply emit_kept
          apply clearLog_kept
          assumption
        · refine Kept.ite (fun _ => ?_) (fun _ => ?_)
          · apply emit_kept
            apply clearLog_kept
            assumption
          · apply emit_kept
            assumption

theorem execGetEventInterruptPolicy_kept
    {p1 : Sys2Proof.PortId} {s : State} (h : Kept m p s) :
    ∃ t, execGetEventInterruptPolicy p1 s = .next t ∧ Kept m p t := by
  unfold execGetEventInterruptPolicy
  apply act_kept
  · assumption
  · intro _ _
    apply mailbox_kept
    · assumption
    · intro _ _
      apply emit_kept
      assumption

theorem execSetEventInterruptPolicy_kept
    {p1 : Sys2Proof.PortId} {settings : List Nat} {s : State} (h : Kept m p s) :
    ∃ t, execSetEventInterruptPolicy p1 settings s = .next t ∧ Kept m p t := by
  unfold execSetEventInterruptPolicy
  apply act_kept
  · assumption
  · intro _ _
    apply mailbox_kept
    · assumption
    · intro _ _
      refine Kept.ite (fun _ => ?_) (fun _ => ?_)
      · apply emit_kept
        refine Kept.upd ?_ regs_of beds_of plan_of tiles_of lodged_of work_of steps_of captures_of
        assumption
      · apply emit_kept
        assumption

theorem execSetTimestamp_kept
    {p1 : Sys2Proof.PortId} {value : Nat} {s : State} (h : Kept m p s) :
    ∃ t, execSetTimestamp p1 value s = .next t ∧ Kept m p t := by
  unfold execSetTimestamp
  apply act_kept
  · assumption
  · intro _ _
    apply mailbox_kept
    · assumption
    · intro _ _
      apply emit_kept
      apply setReg_kept
      assumption

theorem setExtents_kept
    {s : State} {l : List Extent} (h : Kept m p s) :
    Kept m p (setExtents s l) := by
  unfold setExtents
  refine Kept.upd ?_ regs_of beds_of plan_of tiles_of lodged_of work_of steps_of captures_of
  assumption

theorem extentEvent_kept
    {s : State} {h1 : Nat} {x : Sys2Proof.ExtentArg} (h : Kept m p s) :
    Kept m p (extentEvent s h1 x) := by
  unfold extentEvent
  apply eventAt_kept
  assumption

theorem unlockedHost_kept
    {h1 : Nat} {f : State → State} {s : State} (h : Kept m p s) (hf : ∀ x0, Kept m p x0 → Kept m p (f x0)) :
    Kept m p (unlockedHost h1 f s) := by
  unfold unlockedHost
  refine Kept.ite (fun _ => ?_) (fun _ => ?_)
  · apply emit_kept
    apply regAdd_kept
    apply setReg_kept
    assumption
  · apply hf
    assumption

theorem execFmDynamicCapacityAdd_kept
    {host : Nat} {ext : Sys2Proof.ExtentArg} {s : State} (h : Kept m p s) :
    ∃ t, execFmDynamicCapacityAdd host ext s = .next t ∧ Kept m p t := by
  unfold execFmDynamicCapacityAdd
  apply act_kept
  · assumption
  · intro _ _
    apply mailbox_kept
    · assumption
    · intro _ _
      apply unlockedHost_kept
      · assumption
      · intro _ _
        dsimp only
        refine Kept.ite (fun _ => ?_) (fun _ => ?_)
        · apply emit_kept
          assumption
        · refine Kept.ite (fun _ => ?_) (fun _ => ?_)
          · apply emit_kept
            assumption
          · apply emit_kept
            apply extentEvent_kept
            apply setExtents_kept
            assumption

theorem execAddDynamicCapacityResponse_kept
    {host : Nat} {accepted : List Sys2Proof.ExtentArg} {s : State} (h : Kept m p s) :
    ∃ t, execAddDynamicCapacityResponse host accepted s = .next t ∧ Kept m p t := by
  unfold execAddDynamicCapacityResponse
  apply act_kept
  · assumption
  · intro _ _
    apply mailbox_kept
    · assumption
    · intro _ _
      apply unlockedHost_kept
      · assumption
      · intro _ _
        dsimp only
        refine Kept.ite (fun _ => ?_) (fun _ => ?_)
        · apply emit_kept
          assumption
        · refine Kept.ite (fun _ => ?_) (fun _ => ?_)
          · apply emit_kept
            assumption
          · apply emit_kept
            apply setExtents_kept
            assumption

theorem giveBack_kept
    {h1 : Nat} {x : Sys2Proof.ExtentArg} {s : State} (h : Kept m p s) :
    Kept m p (giveBack h1 x s) := by
  unfold giveBack
  split
  · apply emit_kept
    assumption
  · dsimp only
    refine Kept.ite (fun _ => ?_) (fun _ => ?_)
    · apply emit_kept
      apply setExtents_kept
      assumption
    · refine Kept.ite (fun _ => ?_) (fun _ => ?_)
      · apply emit_kept
        assumption
      · apply endReleases_kept
        apply emit_kept
        apply setExtents_kept
        assumption

theorem execReleaseDynamicCapacity_kept
    {host : Nat} {ext : Sys2Proof.ExtentArg} {s : State} (h : Kept m p s) :
    ∃ t, execReleaseDynamicCapacity host ext s = .next t ∧ Kept m p t := by
  unfold execReleaseDynamicCapacity
  apply act_kept
  · assumption
  · intro _ _
    apply mailbox_kept
    · assumption
    · intro _ _
      apply unlockedHost_kept
      · assumption
      · intro _ _
        apply giveBack_kept
        assumption

theorem execFmDynamicCapacityRelease_kept
    {host : Nat} {ext : Sys2Proof.ExtentArg} {s : State} (h : Kept m p s) :
    ∃ t, execFmDynamicCapacityRelease host ext s = .next t ∧ Kept m p t := by
  unfold execFmDynamicCapacityRelease
  apply act_kept
  · assumption
  · intro _ _
    apply mailbox_kept
    · assumption
    · intro _ _
      apply unlockedHost_kept
      · assumption
      · intro _ _
        apply giveBack_kept
        assumption

theorem execExtentReleaseTimeout_kept
    {host : Nat} {ext : Sys2Proof.ExtentArg} {s : State} (h : Kept m p s) :
    ∃ t, execExtentReleaseTimeout host ext s = .next t ∧ Kept m p t := by
  unfold execExtentReleaseTimeout
  apply act_kept
  · assumption
  · intro _ _
    apply whenRunning_kept
    · assumption
    · intro _ _
      split
      · assumption
      · dsimp only
        apply retryAccesses_kept
        apply endRelease_kept
        apply Kept.fold
        · intro _ _ _
          apply refuseEvent_kept
          assumption
        · refine Kept.upd ?_ regs_of beds_of plan_of tiles_of lodged_of work_of steps_of captures_of
          assumption

theorem execGetDynamicCapacityConfiguration_kept
    {p1 : Sys2Proof.PortId} {s : State} (h : Kept m p s) :
    ∃ t, execGetDynamicCapacityConfiguration p1 s = .next t ∧ Kept m p t := by
  unfold execGetDynamicCapacityConfiguration
  apply act_kept
  · assumption
  · intro _ _
    apply mailbox_kept
    · assumption
    · intro _ _
      apply emit_kept
      assumption

theorem execGetDynamicCapacityExtentList_kept
    {p1 : Sys2Proof.PortId} {host : Nat} {count : Nat} {start : Nat} {s : State} (h : Kept m p s) :
    ∃ t, execGetDynamicCapacityExtentList p1 host count start s = .next t ∧ Kept m p t := by
  unfold execGetDynamicCapacityExtentList
  apply act_kept
  · assumption
  · intro _ _
    apply mailbox_kept
    · assumption
    · intro _ _
      dsimp only
      refine Kept.ite (fun _ => ?_) (fun _ => ?_)
      · apply emit_kept
        assumption
      · apply emit_kept
        assumption

theorem execHdmDecoderCommit_kept
    {host : Nat} {base : Nat} {s : State} (h : Kept m p s) :
    ∃ t, execHdmDecoderCommit host base s = .next t ∧ Kept m p t := by
  unfold execHdmDecoderCommit
  apply act_kept
  · assumption
  · intro _ _
    refine Kept.ite (fun _ => ?_) (fun _ => ?_)
    · refine Kept.upd ?_ regs_of beds_of plan_of tiles_of lodged_of work_of steps_of captures_of
      assumption
    · assumption

theorem doeServes_kept
    {f : State → State} {s : State} (h : Kept m p s) (hf : ∀ x0, Kept m p x0 → Kept m p (f x0)) :
    Kept m p (doeServes f s) := by
  unfold doeServes
  refine Kept.ite (fun _ => ?_) (fun _ => ?_)
  · apply hf
    assumption
  · refine Kept.ite (fun _ => ?_) (fun _ => ?_)
    · apply emit_kept
      assumption
    · assumption

theorem execTspRequest_kept
    {host : Nat} {req : Sys2Proof.TspReq} {s : State} (h : Kept m p s) :
    ∃ t, execTspRequest host req s = .next t ∧ Kept m p t := by
  unfold execTspRequest
  apply act_kept
  · assumption
  · intro _ _
    apply doeServes_kept
    · assumption
    · intro _ _
      refine Kept.ite (fun _ => ?_) (fun _ => ?_)
      · apply emit_kept
        assumption
      · split
        · apply emit_kept
          assumption
        · apply emit_kept
          assumption
        · apply emit_kept
          assumption
        · apply emit_kept
          apply regSet_kept
          assumption
        · apply emit_kept
          apply regSet_kept
          assumption
        · refine Kept.ite (fun _ => ?_) (fun _ => ?_)
          · apply emit_kept
            assumption
          · dsimp only
            apply emit_kept
            refine Kept.upd ?_ regs_of beds_of plan_of tiles_of lodged_of work_of steps_of captures_of
            assumption

theorem execIdeKm_kept
    {p1 : Sys2Proof.PortId} {session : Nat} {req : Sys2Proof.IdeReq} {s : State} (h : Kept m p s) :
    ∃ t, execIdeKm p1 session req s = .next t ∧ Kept m p t := by
  unfold execIdeKm
  apply act_kept
  · assumption
  · intro _ _
    apply doeServes_kept
    · assumption
    · intro _ _
      dsimp only
      refine Kept.ite (fun _ => ?_) (fun _ => ?_)
      · apply emit_kept
        assumption
      · split
        · apply emit_kept
          assumption
        · refine Kept.ite (fun _ => ?_) (fun _ => ?_)
          · apply emit_kept
            refine Kept.upd ?_ regs_of beds_of plan_of tiles_of lodged_of work_of steps_of captures_of
            assumption
          · apply emit_kept
            assumption
        · refine Kept.ite (fun _ => ?_) (fun _ => ?_)
          · apply emit_kept
            refine Kept.upd ?_ regs_of beds_of plan_of tiles_of lodged_of work_of steps_of captures_of
            assumption
          · apply emit_kept
            assumption
        · apply emit_kept
          refine Kept.upd ?_ regs_of beds_of plan_of tiles_of lodged_of work_of steps_of captures_of
          assumption

theorem execCdatRead_kept
    {_p : Sys2Proof.PortId} {entry : Nat} {s : State} (h : Kept m p s) :
    ∃ t, execCdatRead _p entry s = .next t ∧ Kept m p t := by
  unfold execCdatRead
  apply act_kept
  · assumption
  · intro _ _
    apply doeServes_kept
    · assumption
    · intro _ _
      split
      · apply emit_kept
        assumption
      · apply emit_kept
        assumption

end Sys2Proof.Laws
end

