-- ==== Sys2Proof/Laws/KeptDrafts.lean ====
section
/-! SUPPORT. Every operation and meaning of Machine/Drafts.lean keeps the form. -/

namespace Sys2Proof.Laws

open Sys2Proof Sys2Proof.Machine Sys2Proof.Safety

variable {m : Model} {p : List Instr}

theorem slotFails_kept
    {s : State} {k1 : Nat} (h : Kept m p s) :
    Kept m p (slotFails s k1) := by
  unfold slotFails
  dsimp only
  apply regSet_kept
  apply emptySlot_kept
  apply Kept.fold
  · intro _ _ _
    apply fail_kept
    apply dropSteps_kept
    assumption
  · assumption

theorem readWeights_kept {s : State} {w : Work} {k : ModelSlot} {bad : List (Nat × Nat × Nat × Bool)} (h : Kept m p s) :
    ∀ u, readWeights s w k bad = some u → Kept m p u := by
  unfold readWeights
  intro u e
  dsimp only at e
  split at e
  · cases e
  · split at e
    · cases e; exact h
    · cases e
      exact Kept.upd h regs_of beds_of plan_of tiles_of lodged_of work_of steps_of captures_of

theorem endDraft_kept
    {s : State} {w : Work} {x : Subject} {status : Nat} {d : Draft} {result : List Sys2Proof.Byte} {tiles : List Tile}
    {effects : List Effect} {a : Addr} {out : List Sys2Proof.Byte} {nums : List Nat} (h : Kept m p s)
    (htiles : payloadsWf tiles) (heffects : effectsWf effects) :
    Kept m p (endDraft s w x status d result tiles effects a out nums) := by
  unfold endDraft
  dsimp only
  apply concludeOut_kept
  · assumption
  · refine payloadsWf_append ?_ ?_
    · refine payloadsWf_cons ?_ ?_
      · apply draftRecord_wf
      · assumption
    · apply headTiles_wf
  · refine effectsWf_cons trivial ?_
    assumption

theorem runConfigure_kept
    {s : State} {w : Work} (h : Kept m p s) :
    Kept m p (runConfigure s w) := by
  unfold runConfigure
  apply withSubject_kept
  · assumption
  · intro _
    dsimp only
    apply checked_kept
    · assumption
    · intro _ _
      split
      · apply fail_kept
        assumption
      · apply endDraft_kept
        · assumption
        · exact payloadsWf_nil
        · apply dropAll_wf

theorem execDraftConfigure_kept
    {work : Nat} {s : State} (h : Kept m p s) :
    ∃ t, execDraftConfigure work s = .next t ∧ Kept m p t := by
  unfold execDraftConfigure
  apply act_kept
  · assumption
  · intro _ _
    apply runWork_kept
    · assumption
    · intro _ _ _ _
      apply durably_kept
      · assumption
      · intro _
        apply runConfigure_kept
        assumption

theorem runReset_kept
    {s : State} {w : Work} (h : Kept m p s) :
    Kept m p (runReset s w) := by
  unfold runReset
  apply withSubject_kept
  · assumption
  · intro _
    apply checked_kept
    · assumption
    · intro _ _
      split
      · apply done_kept
        assumption
      · apply endDraft_kept
        · assumption
        · exact payloadsWf_nil
        · apply dropAll_wf

theorem execDraftReset_kept
    {work : Nat} {s : State} (h : Kept m p s) :
    ∃ t, execDraftReset work s = .next t ∧ Kept m p t := by
  unfold execDraftReset
  apply act_kept
  · assumption
  · intro _ _
    apply runWork_kept
    · assumption
    · intro _ _ _ _
      apply durably_kept
      · assumption
      · intro _
        apply runReset_kept
        assumption

theorem draftEnd_kept {s : State} {w : Work} {x : Subject} {v : Voc} {k : ModelSlot} {d0 : Draft} (h : Kept m p s) :
    Kept m p (draftEnd s w x v k d0) := by
  unfold draftEnd
  dsimp only
  split
  · exact fail_kept h
  · exact endDraft_kept (takeFree_kept (takeFree_kept h)) (itemTiles_wf (itemRuns_wf h)) (effectsWf_map fun _ _ => trivial)

theorem runDraft_kept {bad : List (Nat × Nat × Nat × Bool)} {s : State} {w : Work} (h : Kept m p s) :
    Kept m p (runDraft bad s w) := by
  refine withSubject_kept h fun x => checked_kept h fun s k => ?_
  split
  · split
    · exact slotFails_kept k
    · rename_i e
      refine draftEnd_kept ?_
      split at e
      · exact readWeights_kept k _ e
      · cases e; exact k
  · exact k

theorem execDraft_kept
    {run : Sys2Proof.DraftRun} {s : State} (h : Kept m p s) :
    ∃ t, execDraft run s = .next t ∧ Kept m p t := by
  unfold execDraft
  apply act_kept
  · assumption
  · intro _ _
    apply runWork_kept
    · assumption
    · intro _ _ _ _
      apply durably_kept
      · assumption
      · intro _
        apply runDraft_kept
        assumption

theorem commitEnd_kept
    {s : State} {w : Work} {x : Subject} {v : Voc} {d : Draft} (h : Kept m p s) :
    Kept m p (commitEnd s w x v d) := by
  unfold commitEnd
  dsimp only
  split
  · apply fail_kept
    assumption
  · apply endDraft_kept
    · apply takeFree_kept
      assumption
    · refine payloadsWf_append ?_ ?_
      · refine payloadsWf_append ?_ ?_
        · apply itemTiles_wf
          exact itemRuns_wf (by assumption)
        · apply logTiles_wf
      · apply textTiles_wf
    · refine effectsWf_append ?_ ?_
      · apply dropAll_wf
      · refine effectsWf_cons trivial ?_
        refine effectsWf_cons trivial ?_
        refine effectsWf_cons trivial ?_
        exact effectsWf_nil

theorem runCommit_kept
    {s : State} {w : Work} (h : Kept m p s) :
    Kept m p (runCommit s w) := by
  unfold runCommit
  apply withSubject_kept
  · assumption
  · intro _
    apply checked_kept
    · assumption
    · intro _ _
      split
      · assumption
      · apply commitEnd_kept
        assumption

theorem execVerifyCommit_kept
    {work : Nat} {s : State} (h : Kept m p s) :
    ∃ t, execVerifyCommit work s = .next t ∧ Kept m p t := by
  unfold execVerifyCommit
  apply act_kept
  · assumption
  · intro _ _
    apply runWork_kept
    · assumption
    · intro _ _ _ _
      apply durably_kept
      · assumption
      · intro _
        apply runCommit_kept
        assumption

end Sys2Proof.Laws
end

