-- ==== Sys2Proof/Laws/KeptDurability.lean ====
section
/-! SUPPORT. Every operation and meaning of Machine/Durability.lean keeps the form. -/

namespace Sys2Proof.Laws

open Sys2Proof Sys2Proof.Machine Sys2Proof.Safety

variable {m : Model} {p : List Instr}

theorem flashState_kept
    {s : State} {code : Nat} (h : Kept m p s) :
    Kept m p (flashState s code) := by
  unfold flashState
  dsimp only
  refine Kept.ite (fun _ => ?_) (fun _ => ?_)
  · assumption
  · refine Kept.ite (fun _ => ?_) (fun _ => ?_)
    · apply warn_kept
      refine Kept.ite (fun _ => ?_) (fun _ => ?_)
      · apply event_kept
        apply setReg_kept
        assumption
      · apply setReg_kept
        assumption
    · refine Kept.ite (fun _ => ?_) (fun _ => ?_)
      · apply event_kept
        apply setReg_kept
        assumption
      · apply setReg_kept
        assumption

theorem execFlashBlockRetire_kept
    {spareLeft : Nat} {used : Nat} {s : State} (h : Kept m p s) :
    ∃ t, execFlashBlockRetire spareLeft used s = .next t ∧ Kept m p t := by
  unfold execFlashBlockRetire
  apply act_kept
  · assumption
  · intro _ _
    apply whenRunning_kept
    · assumption
    · intro _ _
      dsimp only
      apply flashState_kept
      refine Kept.upd ?_ regs_of beds_of plan_of tiles_of lodged_of work_of steps_of captures_of
      apply setReg_kept
      apply setReg_kept
      assumption

theorem rewritePage_kept
    {s : State} {t : Tile} (h : Kept m p s) :
    Kept m p (rewritePage s t) := by
  unfold rewritePage
  dsimp only
  apply updHeld_kept
  · apply takeFree_kept
    assumption
  · exact fun t ht => ht

theorem execFlashScrub_kept
    {handle : Nat} {number : Nat} {corrected : Nat} {good : Bool} {s : State} (h : Kept m p s) :
    ∃ t, execFlashScrub handle number corrected good s = .next t ∧ Kept m p t := by
  unfold execFlashScrub
  apply act_kept
  · assumption
  · intro _ _
    apply whenRunning_kept
    · assumption
    · intro _ _
      split
      · assumption
      · dsimp only
        refine Kept.ite (fun _ => ?_) (fun _ => ?_)
        · apply copyFailed_kept
          refine Kept.upd ?_ regs_of beds_of plan_of tiles_of lodged_of work_of steps_of captures_of
          assumption
        · refine Kept.ite (fun _ => ?_) (fun _ => ?_)
          · apply rewritePage_kept
            apply takeFree_kept
            refine Kept.upd ?_ regs_of beds_of plan_of tiles_of lodged_of work_of steps_of captures_of
            assumption
          · apply takeFree_kept
            refine Kept.upd ?_ regs_of beds_of plan_of tiles_of lodged_of work_of steps_of captures_of
            assumption

theorem shardTiles_wf
    {s : State} {l : List Tile} {k1 : Nat} (h : Kept m p s) (hl : payloadsWf l) :
    payloadsWf (shardTiles s l k1) := by
  unfold shardTiles
  refine payloadsWf_sortKey ?_
  refine payloadsWf_filter ?_
  assumption

theorem askCheckpoint_kept
    {s : State} (h : Kept m p s) :
    Kept m p (askCheckpoint s) := by
  unfold askCheckpoint
  refine Kept.upd ?_ regs_of beds_of plan_of tiles_of lodged_of work_of steps_of captures_of
  assumption

theorem execCheckpointInterval_kept
    {s : State} (h : Kept m p s) :
    ∃ t, execCheckpointInterval s = .next t ∧ Kept m p t := by
  unfold execCheckpointInterval
  apply act_kept
  · assumption
  · intro _ _
    apply whenRunning_kept
    · assumption
    · intro _ _
      refine Kept.ite (fun _ => ?_) (fun _ => ?_)
      · assumption
      · apply askCheckpoint_kept
        assumption

theorem execWarningTrigger_kept
    {trigger : Nat} {s : State} (h : Kept m p s) :
    ∃ t, execWarningTrigger trigger s = .next t ∧ Kept m p t := by
  unfold execWarningTrigger
  apply act_kept
  · assumption
  · intro _ _
    apply whenRunning_kept
    · assumption
    · intro _ _
      refine Kept.ite (fun _ => ?_) (fun _ => ?_)
      · apply warn_kept
        assumption
      · assumption

theorem runCheckpoint_kept
    {s : State} {w : Work} (h : Kept m p s) :
    Kept m p (runCheckpoint s w) := by
  unfold runCheckpoint
  split
  · apply checked_kept
    · assumption
    · intro _ _
      apply askCheckpoint_kept
      apply updWork_kept
      · assumption
      · exact fun t ht => ht
  · assumption

theorem execCheckpoint_kept
    {work : Nat} {s : State} (h : Kept m p s) :
    ∃ t, execCheckpoint work s = .next t ∧ Kept m p t := by
  unfold execCheckpoint
  apply act_kept
  · assumption
  · intro _ _
    apply runWork_kept
    · assumption
    · intro _ _ _ _
      apply runCheckpoint_kept
      assumption

theorem toStore_wf
    {s : State} (h : Kept m p s) :
    payloadsWf (toStore s) := by
  unfold toStore
  refine payloadsWf_filter ?_
  exact tiles_of (by assumption)

theorem toAdopt_wf
    {s : State} (h : Kept m p s) :
    payloadsWf (toAdopt s) := by
  unfold toAdopt
  refine payloadsWf_filter ?_
  exact tiles_of (by assumption)

/-- The tile of a manifest holds its bytes. -/
theorem manifestTile_wf {s : State} {c : CkptStep} : cellsWf (manifestTile s c).payload = true := by
  unfold manifestTile
  generalize manifestBytes s c = b
  exact cellsOf_wf

-- the tiles of a step that are not shipped yet are only sent

theorem shipStep_kept
    {s : State} {c : CkptStep} (h : Kept m p s) :
    Kept m p (shipStep s c) := by
  unfold shipStep
  refine Kept.ite (fun _ => ?_) (fun _ => ?_)
  · assumption
  · dsimp only
    refine Kept.upd ?_ regs_of beds_of plan_of tiles_of lodged_of work_of steps_of captures_of
    apply emit_kept
    apply Kept.fold
    · intro _ _ _
      apply emit_kept
      assumption
    · apply Kept.fold
      · intro _ _ _
        apply emit_kept
        assumption
      · assumption

theorem satisfy_kept
    {n : Nat} {sent : Nat} {c : CkptStep} {s : State} {w : Work} (h : Kept m p s) :
    Kept m p (satisfy n sent c s w) := by
  unfold satisfy
  dsimp only
  refine Kept.ite (fun _ => ?_) (fun _ => ?_)
  · apply done_kept
    assumption
  · refine Kept.ite (fun _ => ?_) (fun _ => ?_)
    · apply done_kept
      assumption
    · apply updWork_kept
      · assumption
      · exact fun t ht => ht

theorem takeStep_wf {s : State} (h : Kept m p s) : payloadsWf (takeStep s).tiles := payloadsWf_filter h.form.tiles

theorem putStep_kept {s : State} {c : CkptStep} (h : Kept m p s) (hc : payloadsWf c.tiles) : Kept m p (putStep s c) := by
  have k := setReg_kept (f := .durCkptStatStep) (v := c.step) (takeFree_kept h)
  have hs : slotWf (some { c with manifest := manifestTile s c }) := fun _ e => by cases e; exact ⟨hc, manifestTile_wf⟩
  refine Kept.ite (fun _ => ?_) (fun _ => ?_)
  · exact Kept.upd k regs_of beds_of plan_of tiles_of lodged_of work_of (fun k => ⟨hs, k.form.steps.2⟩) captures_of
  · exact Kept.upd k regs_of beds_of plan_of tiles_of lodged_of work_of (fun k => ⟨k.form.steps.1, hs⟩) captures_of

theorem runStep_kept {s : State} (h : Kept m p s) : Kept m p (runStep s) := by
  have hw : Kept m p ((toStore s).foldl (fun s t => updTile s t.handle t.number (inFlash s)) s) :=
    Kept.fold (fun _ _ k => updTile_kept k fun _ ht => inFlash_wf k ht) _ h
  have hs := shipStep_kept (c := takeStep ((toStore s).foldl (fun s t => updTile s t.handle t.number (inFlash s)) s))
    (putStep_kept hw (takeStep_wf hw))
  have hq := fun (ws : List Work) (n sent : Nat) (c : CkptStep) => Kept.fold (f := satisfy n sent c) (fun _ _ k => satisfy_kept k) ws hs
  refine Kept.ite (fun _ => askCheckpoint_kept ?_) (fun _ => ?_)
  · exact Kept.upd (hq _ _ _ _) regs_of beds_of plan_of tiles_of lodged_of work_of steps_of captures_of
  · exact Kept.upd (hq _ _ _ _) regs_of beds_of plan_of tiles_of lodged_of work_of steps_of captures_of

theorem execCheckpointStart_kept
    {s : State} (h : Kept m p s) :
    ∃ t, execCheckpointStart s = .next t ∧ Kept m p t := by
  unfold execCheckpointStart
  apply act_kept
  · assumption
  · intro _ _
    apply whenRunning_kept
    · assumption
    · intro _ _
      refine Kept.ite (fun _ => ?_) (fun _ => ?_)
      · assumption
      · refine Kept.ite (fun _ => ?_) (fun _ => ?_)
        · dsimp only
          refine Kept.upd ?_ regs_of beds_of plan_of tiles_of lodged_of work_of steps_of captures_of
          apply failAll_kept
          assumption
        · refine Kept.ite (fun _ => ?_) (fun _ => ?_)
          · apply runStep_kept
            assumption
          · apply Kept.fold
            · intro _ _ _
              apply requestTile_kept
              assumption
            · assumption

theorem receiveStream_kept
    {pbr : Nat} {rec : List Sys2Proof.Byte} {type : Nat} {f : State → Nat → List Sys2Proof.Byte → State} {s : State}
    (h : Kept m p s) (hf : ∀ x0 x1 x2, Kept m p x0 → Kept m p (f x0 x1 x2)) :
    Kept m p (receiveStream pbr rec type f s) := by
  unfold receiveStream
  split
  · apply event_kept
    assumption
  · dsimp only
    refine Kept.ite (fun _ => ?_) (fun _ => ?_)
    · apply countReg_kept
      assumption
    · refine Kept.ite (fun _ => ?_) (fun _ => ?_)
      · assumption
      · apply hf
        apply tracePeer_kept
        assumption

theorem endWaits_kept
    {s : State} (h : Kept m p s) :
    Kept m p (endWaits s) := by
  unfold endWaits
  apply Kept.fold
  · intro _ _ _
    split
    · apply fail_kept
      assumption
    · apply fail_kept
      apply closeClaim_kept
      assumption
    · apply done_kept
      assumption
    · assumption
  · assumption

theorem buddyLost_kept
    {s : State} {code : Nat} (h : Kept m p s) :
    Kept m p (buddyLost s code) := by
  unfold buddyLost
  refine Kept.ite (fun _ => ?_) (fun _ => ?_)
  · assumption
  · dsimp only
    apply endWaits_kept
    refine Kept.ite (fun _ => ?_) (fun _ => ?_)
    · apply event_kept
      apply setReg_kept
      assumption
    · apply setReg_kept
      assumption

theorem execBuddyTimeout_kept
    {s : State} (h : Kept m p s) :
    ∃ t, execBuddyTimeout s = .next t ∧ Kept m p t := by
  unfold execBuddyTimeout
  apply act_kept
  · assumption
  · intro _ _
    apply whenRunning_kept
    · assumption
    · intro _ _
      refine Kept.ite (fun _ => ?_) (fun _ => ?_)
      · apply buddyLost_kept
        assumption
      · assumption

theorem resend_kept
    {s : State} (h : Kept m p s) :
    Kept m p (resend s) := by
  unfold resend
  apply Kept.fold
  · intro _ _ _
    apply tracePeer_kept
    apply emit_kept
    assumption
  · assumption

theorem execBuddyRetry_kept
    {s : State} (h : Kept m p s) :
    ∃ t, execBuddyRetry s = .next t ∧ Kept m p t := by
  unfold execBuddyRetry
  apply act_kept
  · assumption
  · intro _ _
    apply whenRunning_kept
    · assumption
    · intro _ _
      refine Kept.ite (fun _ => ?_) (fun _ => ?_)
      · apply resend_kept
        assumption
      · assumption

theorem goOn_kept
    {s : State} {q : Nat} (h : Kept m p s) :
    Kept m p (goOn s q) := by
  unfold goOn
  apply Kept.fold
  · intro _ _ _
    split
    · refine Kept.ite (fun _ => ?_) (fun _ => ?_)
      · apply runOffer_kept
        assumption
      · assumption
    · refine Kept.ite (fun _ => ?_) (fun _ => ?_)
      · apply acceptEnd_kept
        assumption
      · assumption
    · refine Kept.ite (fun _ => ?_) (fun _ => ?_)
      · apply done_kept
        assumption
      · assumption
    · assumption
  · assumption

theorem execStreamAck_kept
    {pbr : Nat} {rec : List Sys2Proof.Byte} {s : State} (h : Kept m p s) :
    ∃ t, execStreamAck pbr rec s = .next t ∧ Kept m p t := by
  unfold execStreamAck
  apply act_kept
  · assumption
  · intro _ _
    apply whenRunning_kept
    · assumption
    · intro _ _
      apply receiveStream_kept
      · assumption
      · intro _ _ _ _
        refine Kept.ite (fun _ => ?_) (fun _ => ?_)
        · assumption
        · dsimp only
          apply goOn_kept
          refine Kept.ite (fun _ => ?_) (fun _ => ?_)
          · apply resend_kept
            apply setReg_kept
            refine Kept.upd ?_ regs_of beds_of plan_of tiles_of lodged_of work_of steps_of captures_of
            assumption
          · apply setReg_kept
            refine Kept.upd ?_ regs_of beds_of plan_of tiles_of lodged_of work_of steps_of captures_of
            assumption

theorem execLogRecordFlush_kept
    {s : State} (h : Kept m p s) :
    ∃ t, execLogRecordFlush s = .next t ∧ Kept m p t := by
  unfold execLogRecordFlush
  apply act_kept
  · assumption
  · intro _ _
    apply whenRunning_kept
    · assumption
    · intro _ _
      split
      · assumption
      · apply sendLog_kept
        assumption

theorem turnWaits_kept
    {s : State} (h : Kept m p s) :
    Kept m p (turnWaits s) := by
  unfold turnWaits
  apply Kept.fold
  · intro _ _ _
    split
    · apply updWork_kept
      · assumption
      · exact fun t ht => ht
    · split
      · assumption
      · split
        · apply acceptEnd_kept
          refine Kept.of_fst (by assumption) ?_
          apply sendOwn_kept
          assumption
        · apply updWork_kept
          · refine Kept.of_fst (by assumption) ?_
            apply sendOwn_kept
            assumption
          · exact fun t ht => ht
    · apply done_kept
      assumption
    · assumption
  · assumption

theorem nameBuddy_kept
    {s : State} {o : Nat} (h : Kept m p s) :
    Kept m p (nameBuddy s o) := by
  unfold nameBuddy
  dsimp only
  apply warn_kept
  apply turnWaits_kept
  refine Kept.upd ?_ regs_of beds_of plan_of tiles_of lodged_of work_of steps_of captures_of
  apply setReg_kept
  apply setReg_kept
  assumption

theorem execBuddyOriginWrite_kept
    {_path : Sys2Proof.Path} {origin : Nat} {s : State} (h : Kept m p s) :
    ∃ t, execBuddyOriginWrite _path origin s = .next t ∧ Kept m p t := by
  unfold execBuddyOriginWrite
  apply act_kept
  · assumption
  · intro _ _
    apply whenRunning_kept
    · assumption
    · intro _ _
      apply nameBuddy_kept
      assumption

theorem putFoster_kept
    {s : State} {f : Foster} (h : Kept m p s) :
    Kept m p (putFoster s f) := by
  unfold putFoster
  refine Kept.upd ?_ regs_of beds_of plan_of tiles_of lodged_of work_of steps_of captures_of
  assumption

theorem refuseStream_kept
    {s : State} {dest : Nat} {o : Nat} {reason : Nat} (h : Kept m p s) :
    Kept m p (refuseStream s dest o reason) := by
  unfold refuseStream
  apply emit_kept
  assumption

theorem sendAck_kept
    {s : State} {dest : Nat} {f : Foster} (h : Kept m p s) :
    Kept m p (sendAck s dest f) := by
  unfold sendAck
  split
  · refine Kept.ite (fun _ => ?_) (fun _ => ?_)
    · assumption
    · apply tracePeer_kept
      apply emit_kept
      assumption
  · assumption

theorem refuseFoster_kept
    {s : State} {dest : Nat} {o : Nat} (h : Kept m p s) :
    Kept m p (refuseFoster s dest o) := by
  unfold refuseFoster
  refine Kept.ite (fun _ => ?_) (fun _ => ?_)
  · assumption
  · dsimp only
    apply event_kept
    apply refuseStream_kept
    refine Kept.upd ?_ regs_of beds_of plan_of tiles_of lodged_of work_of steps_of captures_of
    assumption

theorem fosterFor_kept
    {s : State} {pbr : Nat} {dest : Nat} {o : Nat} {f : State → Foster → State} (h : Kept m p s)
    (hf : ∀ x0 x1, Kept m p x0 → Kept m p (f x0 x1)) :
    Kept m p (fosterFor s pbr dest o f) := by
  unfold fosterFor
  split
  · refine Kept.ite (fun _ => ?_) (fun _ => ?_)
    · assumption
    · apply hf
      assumption
  · refine Kept.ite (fun _ => ?_) (fun _ => ?_)
    · apply hf
      assumption
    · apply refuseFoster_kept
      assumption

theorem storeRecord_kept
    {pbr : Nat} {s : State} {org : Nat} {r : List Sys2Proof.Byte} (h : Kept m p s) :
    Kept m p (storeRecord pbr s org r) := by
  unfold storeRecord
  apply fosterFor_kept
  · assumption
  · intro _ _ _
    dsimp only
    apply sendAck_kept
    apply putFoster_kept
    assumption

theorem execStreamLog_kept
    {pbr : Nat} {rec : List Sys2Proof.Byte} {s : State} (h : Kept m p s) :
    ∃ t, execStreamLog pbr rec s = .next t ∧ Kept m p t := by
  unfold execStreamLog
  apply act_kept
  · assumption
  · intro _ _
    apply whenRunning_kept
    · assumption
    · intro _ _
      apply receiveStream_kept
      · assumption
      · intro _ _ _ _
        apply storeRecord_kept
        assumption

theorem execStreamOwn_kept
    {pbr : Nat} {rec : List Sys2Proof.Byte} {s : State} (h : Kept m p s) :
    ∃ t, execStreamOwn pbr rec s = .next t ∧ Kept m p t := by
  unfold execStreamOwn
  apply act_kept
  · assumption
  · intro _ _
    apply whenRunning_kept
    · assumption
    · intro _ _
      apply receiveStream_kept
      · assumption
      · intro _ _ _ _
        apply storeRecord_kept
        assumption

theorem execStreamLease_kept
    {pbr : Nat} {rec : List Sys2Proof.Byte} {s : State} (h : Kept m p s) :
    ∃ t, execStreamLease pbr rec s = .next t ∧ Kept m p t := by
  unfold execStreamLease
  apply act_kept
  · assumption
  · intro _ _
    apply whenRunning_kept
    · assumption
    · intro _ _
      apply receiveStream_kept
      · assumption
      · intro _ _ _ _
        apply storeRecord_kept
        assumption

theorem execShippedStep_kept
    {pbr : Nat} {origin : Nat} {seq : Nat} {manifest : List Sys2Proof.Byte} {tiles : List (List Sys2Proof.Byte)}
    {s : State} (h : Kept m p s) :
    ∃ t, execShippedStep pbr origin seq manifest tiles s = .next t ∧ Kept m p t := by
  unfold execShippedStep
  apply act_kept
  · assumption
  · intro _ _
    apply whenRunning_kept
    · assumption
    · intro _ _
      split
      · apply event_kept
        assumption
      · dsimp only
        refine Kept.ite (fun _ => ?_) (fun _ => ?_)
        · assumption
        · apply fosterFor_kept
          · assumption
          · intro _ _ _
            refine Kept.ite (fun _ => ?_) (fun _ => ?_)
            · apply sendAck_kept
              apply putFoster_kept
              assumption
            · apply putFoster_kept
              assumption

theorem execFosterRelease_kept
    {_path : Sys2Proof.Path} {origin : Nat} {s : State} (h : Kept m p s) :
    ∃ t, execFosterRelease _path origin s = .next t ∧ Kept m p t := by
  unfold execFosterRelease
  apply act_kept
  · assumption
  · intro _ _
    apply whenRunning_kept
    · assumption
    · intro _ _
      refine Kept.upd ?_ regs_of beds_of plan_of tiles_of lodged_of work_of steps_of captures_of
      assumption

theorem execStreamFetch_kept
    {pbr : Nat} {rec : List Sys2Proof.Byte} {s : State} (h : Kept m p s) :
    ∃ t, execStreamFetch pbr rec s = .next t ∧ Kept m p t := by
  unfold execStreamFetch
  apply act_kept
  · assumption
  · intro _ _
    apply whenRunning_kept
    · assumption
    · intro _ _
      apply receiveStream_kept
      · assumption
      · intro _ _ _ _
        dsimp only
        split
        · apply refuseStream_kept
          assumption
        · refine Kept.ite (fun _ => ?_) (fun _ => ?_)
          · apply refuseStream_kept
            assumption
          · split
            · apply putFoster_kept
              assumption
            · apply emit_kept
              apply takeFree_kept
              apply putFoster_kept
              assumption

theorem sendFetches_kept
    {s : State} {w : Work} {b : Nat} {o : Nat} (h : Kept m p s) :
    Kept m p (sendFetches s w b o) := by
  unfold sendFetches
  dsimp only
  apply updWork_kept
  · refine Kept.upd ?_ regs_of beds_of plan_of tiles_of lodged_of work_of steps_of captures_of
    apply Kept.fold
    · intro _ _ _
      apply emit_kept
      assumption
    · assumption
  · exact fun t ht => ht

theorem execFetchReply_kept
    {off : Nat} {body : List Sys2Proof.Byte} {s : State} (h : Kept m p s) :
    ∃ t, execFetchReply off body s = .next t ∧ Kept m p t := by
  unfold execFetchReply
  apply act_kept
  · assumption
  · intro _ _
    apply whenRunning_kept
    · assumption
    · intro _ _
      refine Kept.ite (fun _ => ?_) (fun _ => ?_)
      · refine Kept.upd ?_ regs_of beds_of plan_of tiles_of lodged_of work_of steps_of captures_of
        assumption
      · assumption

theorem endFetches_kept
    {s : State} {id : Nat} (h : Kept m p s) :
    Kept m p (endFetches s id) := by
  unfold endFetches
  refine Kept.upd ?_ regs_of beds_of plan_of tiles_of lodged_of work_of steps_of captures_of
  assumption

theorem execStreamRefuse_kept
    {pbr : Nat} {rec : List Sys2Proof.Byte} {s : State} (h : Kept m p s) :
    ∃ t, execStreamRefuse pbr rec s = .next t ∧ Kept m p t := by
  unfold execStreamRefuse
  apply act_kept
  · assumption
  · intro _ _
    apply whenRunning_kept
    · assumption
    · intro _ _
      apply receiveStream_kept
      · assumption
      · intro _ _ _ _
        dsimp only
        split
        · apply fail_kept
          apply endFetches_kept
          assumption
        · apply fail_kept
          apply endFetches_kept
          assumption
        · refine Kept.ite (fun _ => ?_) (fun _ => ?_)
          · apply buddyLost_kept
            assumption
          · assumption
        · assumption

theorem replayTiles_wf
    {old : Subject} {new : Subject} :
    payloadsWf (replayTiles old new) := by
  unfold replayTiles
  split
  · exact payloadsWf_nil
  · refine payloadsWf_append ?_ ?_
    · refine payloadsWf_append ?_ ?_
      · apply logTiles_wf
      · apply textTiles_wf
    · apply headTiles_wf

theorem restoreEnd_kept {s : State} {w : Work} {x y : Subject} {tiles : List Tile} {records : List (List Byte)} {step : Nat}
    (h : Kept m p s) (ht : payloadsWf tiles) : Kept m p (restoreEnd s w x y tiles records step) :=
  Kept.ite (fun _ => fail_kept (endFetches_kept h)) fun _ =>
    conclude_kept (endFetches_kept h) payloadsWf_nil (effectsWf_cons ⟨ht, replayTiles_wf⟩ effectsWf_nil)

theorem stepTile_wf
    {s : State} {t : Tile} (h : Kept m p s) (ht : cellsWf t.payload = true) :
    cellsWf (stepTile s t).payload = true := by
  unfold stepTile
  assumption

theorem goodSlots_wf {s : State} {a b : Bool} (h : Kept m p s) : ∀ c ∈ goodSlots s a b, payloadsWf c.tiles := by
  intro c hc
  cases List.mem_append.1 hc with
  | inl e =>
    split at e
    · exact (h.form.steps.1 c (Option.mem_toList.1 e)).1
    · cases e
  | inr e =>
    split at e
    · exact (h.form.steps.2 c (Option.mem_toList.1 e)).1
    · cases e

theorem pickedStep_wf {s : State} {a b : Bool} {n : Nat} {q : Subject → Bool} {c : CkptStep} {y : Subject} (h : Kept m p s)
    (e : ((pickStep (goodSlots s a b) n).bind fun c => (c.subjects.find? q).map fun y => (c, y)) = some (c, y)) :
    payloadsWf c.tiles := by
  obtain ⟨d, e1, e2⟩ := Option.bind_eq_some_iff.1 e
  obtain ⟨z, -, e3⟩ := Option.map_eq_some_iff.1 e2
  cases e3
  exact goodSlots_wf h c (List.mem_filter.1 (mem_bestBy e1)).1

theorem runRestoreSession_kept {okA okB buddyA buddyB : Bool} {map : MapArg} {records : List (List Byte)} {s : State} {w : Work}
    (h : Kept m p s) : Kept m p (runRestoreSession okA okB buddyA buddyB map records s w) := by
  unfold runRestoreSession
  refine checked_kept h fun s k => ?_
  split
  · exact fail_kept k
  · refine Kept.ite (fun _ => fail_kept k) fun _ => Kept.ite (fun _ => sendFetches_kept k) fun _ => Kept.ite (fun _ => k) fun _ => ?_
    split
    · exact restoreEnd_kept k (payloadsWf_map fun t ht => stepTile_wf k
        (payloadsWf_filter (pickedStep_wf k (by assumption)) t ht))
    · split
      · exact restoreEnd_kept k tilesFrom_wf
      · exact fail_kept (endFetches_kept k)

theorem execRestoreSession_kept
    {work : Nat} {okA : Bool} {okB : Bool} {buddyA : Bool} {buddyB : Bool} {map : Sys2Proof.MapArg}
    {records : List (List Sys2Proof.Byte)} {s : State} (h : Kept m p s) :
    ∃ t, execRestoreSession work okA okB buddyA buddyB map records s = .next t ∧ Kept m p t := by
  unfold execRestoreSession
  apply act_kept
  · assumption
  · intro _ _
    apply runWork_kept
    · assumption
    · intro _ _ _ _
      apply durably_kept
      · assumption
      · intro _
        apply runRestoreSession_kept
        assumption

theorem restoredTrace_kept
    {s : State} {b : Nat} {map : Sys2Proof.MapArg} {x : Subject} {o : OwnRec} (h : Kept m p s) :
    Kept m p (restoredTrace s b map x o) := by
  unfold restoredTrace
  refine Kept.upd ?_ regs_of beds_of plan_of tiles_of ?_ work_of steps_of captures_of
  · assumption
  · intro _
    dsimp only
    refine payloadsWf_append ?_ ?_
    · exact lodged_of (by assumption)
    · apply tilesFrom_wf

theorem restoreOne_kept
    {b : Nat} {map : Sys2Proof.MapArg} {table : List Sys2Proof.TableArg} {records : List (List Sys2Proof.Byte)}
    {rep : Bool} {s : State} {h1 : Nat} (h : Kept m p s) :
    Kept m p (restoreOne b map table records rep s h1) := by
  unfold restoreOne
  dsimp only
  split
  · assumption
  · refine Kept.ite (fun _ => ?_) (fun _ => ?_)
    · apply restoredTrace_kept
      assumption
    · refine Kept.ite (fun _ => ?_) (fun _ => ?_)
      · apply touchMap_kept
        apply sendNotice_kept
        apply sendOwn_kept
        refine Kept.foldTiles ?_ ?_ ?_
        · intro _ _ _ _
          apply commitNow_kept
          · assumption
          · assumption
        · apply replayTiles_wf
        · refine Kept.foldTiles ?_ ?_ ?_
          · intro _ _ _ _
            apply adopt_kept
            · assumption
            · assumption
          · refine payloadsWf_filter ?_
            apply tilesOf_wf (m := m) (p := p)
            refine Kept.upd ?_ regs_of beds_of plan_of ?_ lodged_of work_of steps_of captures_of
            · assumption
            · intro _
              refine payloadsWf_append ?_ ?_
              · exact tiles_of (by assumption)
              · apply tilesFrom_wf
          · refine Kept.upd ?_ regs_of beds_of plan_of ?_ lodged_of work_of steps_of captures_of
            · assumption
            · intro _
              refine payloadsWf_append ?_ ?_
              · exact tiles_of (by assumption)
              · apply tilesFrom_wf
      · refine Kept.foldTiles ?_ ?_ ?_
        · intro _ _ _ _
          apply commitNow_kept
          · assumption
          · assumption
        · apply replayTiles_wf
        · refine Kept.foldTiles ?_ ?_ ?_
          · intro _ _ _ _
            apply adopt_kept
            · assumption
            · assumption
          · refine payloadsWf_filter ?_
            apply tilesOf_wf (m := m) (p := p)
            refine Kept.upd ?_ regs_of beds_of plan_of ?_ lodged_of work_of steps_of captures_of
            · assumption
            · intro _
              refine payloadsWf_append ?_ ?_
              · exact tiles_of (by assumption)
              · apply tilesFrom_wf
          · refine Kept.upd ?_ regs_of beds_of plan_of ?_ lodged_of work_of steps_of captures_of
            · assumption
            · intro _
              refine payloadsWf_append ?_ ?_
              · exact tiles_of (by assumption)
              · apply tilesFrom_wf

theorem restoreLate_kept
    {s : State} {h1 : Nat} {o : OwnRec} (h : Kept m p s) :
    Kept m p (restoreLate s h1 o) := by
  unfold restoreLate
  dsimp only
  refine Kept.ite (fun _ => ?_) (fun _ => ?_)
  · refine Kept.upd ?_ regs_of beds_of plan_of tiles_of lodged_of work_of steps_of captures_of
    assumption
  · refine Kept.ite (fun _ => ?_) (fun _ => ?_)
    · apply restoredTrace_kept
      assumption
    · apply sendNotice_kept
      apply sendOwn_kept
      refine Kept.upd ?_ regs_of beds_of plan_of tiles_of lodged_of work_of steps_of captures_of
      assumption

theorem restoreWindows_kept
    {s : State} {views : List Sys2Proof.ViewArg} (h : Kept m p s) :
    Kept m p (restoreWindows s views) := by
  unfold restoreWindows
  dsimp only
  refine Kept.upd ?_ regs_of beds_of plan_of tiles_of lodged_of work_of steps_of captures_of
  assumption

theorem takeOver_kept
    {s : State} {w : Work} {b : Nat} {m1 : List Sys2Proof.Byte} {map : Sys2Proof.MapArg} {table : List Sys2Proof.TableArg}
    {views : List Sys2Proof.ViewArg} {records : List (List Sys2Proof.Byte)} (h : Kept m p s) :
    Kept m p (takeOver s w b m1 map table views records) := by
  unfold takeOver
  dsimp only
  apply warn_kept
  apply done_kept
  apply endFetches_kept
  refine Kept.upd ?_ regs_of beds_of plan_of tiles_of lodged_of work_of steps_of captures_of
  apply dirBuild_kept
  apply restoreWindows_kept
  apply Kept.fold
  · intro _ _ _
    split
    · assumption
    · apply restoreLate_kept
      assumption
  · apply Kept.fold
    · intro _ _ _
      apply restoreOne_kept
      assumption
    · apply Kept.fold
      · intro _ _ _
        apply restoreOne_kept
        assumption
      · apply setReg_kept
        refine Kept.upd ?_ regs_of beds_of plan_of tiles_of lodged_of work_of steps_of captures_of
        apply setReg_kept
        assumption

theorem runRestoreTakeover_kept
    {okA : Bool} {okB : Bool} {map : Sys2Proof.MapArg} {table : List Sys2Proof.TableArg} {views : List Sys2Proof.ViewArg}
    {records : List (List Sys2Proof.Byte)} {s : State} {w : Work} (h : Kept m p s) :
    Kept m p (runRestoreTakeover okA okB map table views records s w) := by
  unfold runRestoreTakeover
  dsimp only
  apply checked_kept
  · assumption
  · intro _ _
    refine Kept.ite (fun _ => ?_) (fun _ => ?_)
    · apply fail_kept
      assumption
    · refine Kept.ite (fun _ => ?_) (fun _ => ?_)
      · apply sendFetches_kept
        assumption
      · refine Kept.ite (fun _ => ?_) (fun _ => ?_)
        · assumption
        · split
          · apply fail_kept
            apply endFetches_kept
            assumption
          · split
            · apply fail_kept
              apply event_kept
              apply endFetches_kept
              assumption
            · apply takeOver_kept
              assumption

theorem execRestoreTakeover_kept
    {work : Nat} {okA : Bool} {okB : Bool} {map : Sys2Proof.MapArg} {table : List Sys2Proof.TableArg}
    {views : List Sys2Proof.ViewArg} {records : List (List Sys2Proof.Byte)} {s : State} (h : Kept m p s) :
    ∃ t, execRestoreTakeover work okA okB map table views records s = .next t ∧ Kept m p t := by
  unfold execRestoreTakeover
  apply act_kept
  · assumption
  · intro _ _
    apply runWork_kept
    · assumption
    · intro _ _ _ _
      apply durably_kept
      · assumption
      · intro _
        apply runRestoreTakeover_kept
        assumption

theorem execDiscard_kept
    {_path : Sys2Proof.Path} {s : State} (h : Kept m p s) :
    ∃ t, execDiscard _path s = .next t ∧ Kept m p t := by
  unfold execDiscard
  apply act_kept
  · assumption
  · intro _ _
    apply whenRunning_kept
    · assumption
    · intro _ _
      refine Kept.ite (fun _ => ?_) (fun _ => ?_)
      · refine Kept.upd ?_ regs_of beds_of plan_of tiles_of lodged_of work_of ?_ captures_of
        · assumption
        · exact fun k => ⟨slotWf_none, slotWf_none⟩
      · assumption

end Sys2Proof.Laws
end

