-- ==== Sys2Proof/Laws/KeptNearMem.lean ====
section
/-! SUPPORT. Every operation and meaning of Machine/NearMem.lean keeps the form. -/

namespace Sys2Proof.Laws

open Sys2Proof Sys2Proof.Machine Sys2Proof.Safety

variable {m : Model} {p : List Instr}

-- the tiles of an operand are only asked for

theorem withDest_kept
    {s : State} {w : Work} {a : Addr} {len : Nat} {f : State → State} (h : Kept m p s)
    (hf : ∀ x0, Kept m p x0 → Kept m p (f x0)) :
    Kept m p (withDest s w a len f) := by
  unfold withDest
  split
  · dsimp only
    refine Kept.ite (fun _ => ?_) (fun _ => ?_)
    · apply failChk_kept
      assumption
    · apply fetched_kept
      · assumption
      · assumption
  · apply hf
    assumption

theorem runFill_kept
    {s : State} {w : Work} (h : Kept m p s) :
    Kept m p (runFill s w) := by
  unfold runFill
  dsimp only
  apply checked_kept
  · assumption
  · intro _ _
    apply withDest_kept
    · assumption
    · intro _ _
      apply shaped_kept
      · assumption
      · intro _ _
        apply concludeOut_kept
        · assumption
        · exact payloadsWf_nil
        · exact effectsWf_nil

theorem execFill_kept
    {work : Nat} {s : State} (h : Kept m p s) :
    ∃ t, execFill work s = .next t ∧ Kept m p t := by
  unfold execFill
  apply act_kept
  · assumption
  · intro _ _
    apply runWork_kept
    · assumption
    · intro _ _ _ _
      apply runFill_kept
      assumption

theorem runCopy_kept
    {src : Sys2Proof.Fetch} {s : State} {w : Work} (h : Kept m p s) :
    Kept m p (runCopy src s w) := by
  unfold runCopy
  dsimp only
  apply checked_kept
  · assumption
  · intro _ _
    apply withDest_kept
    · assumption
    · intro _ _
      apply fetched_kept
      · assumption
      · intro _ _
        apply shaped_kept
        · assumption
        · intro _ _
          apply withOperand_kept
          · assumption
          · intro _ _ _
            apply concludeOut_kept
            · assumption
            · exact payloadsWf_nil
            · exact effectsWf_nil

theorem execCopy_kept
    {work : Nat} {src : Sys2Proof.Fetch} {s : State} (h : Kept m p s) :
    ∃ t, execCopy work src s = .next t ∧ Kept m p t := by
  unfold execCopy
  apply act_kept
  · assumption
  · intro _ _
    apply runWork_kept
    · assumption
    · intro _ _ _ _
      apply runCopy_kept
      assumption

theorem runCompare_kept
    {fa : Sys2Proof.Fetch} {fb : Sys2Proof.Fetch} {s : State} {w : Work} (h : Kept m p s) :
    Kept m p (runCompare fa fb s w) := by
  unfold runCompare
  dsimp only
  apply checked_kept
  · assumption
  · intro _ _
    apply fetched_kept
    · assumption
    · intro _ _
      apply shaped_kept
      · assumption
      · intro _ _
        apply withOperand_kept
        · assumption
        · intro _ _ _
          apply withOperand_kept
          · assumption
          · intro _ _ _
            apply finish_kept
            · assumption
            · exact effectsWf_nil

theorem execCompare_kept
    {work : Nat} {a : Sys2Proof.Fetch} {b : Sys2Proof.Fetch} {s : State} (h : Kept m p s) :
    ∃ t, execCompare work a b s = .next t ∧ Kept m p t := by
  unfold execCompare
  apply act_kept
  · assumption
  · intro _ _
    apply runWork_kept
    · assumption
    · intro _ _ _ _
      apply runCompare_kept
      assumption

theorem nonFinite_kept
    {s : State} {w : Work} {i : Nat} (h : Kept m p s) :
    Kept m p (nonFinite s w i) := by
  unfold nonFinite
  apply fail_kept
  apply workEvent_kept
  assumption

theorem reduceTwo_kept
    {s : State} {w : Work} {x : List Sys2Proof.Byte} {y : List Sys2Proof.Byte} (h : Kept m p s) :
    Kept m p (reduceTwo s w x y) := by
  unfold reduceTwo
  dsimp only
  refine Kept.ite (fun _ => ?_) (fun _ => ?_)
  · apply concludeOut_kept
    · assumption
    · exact payloadsWf_nil
    · exact effectsWf_nil
  · split
    · apply nonFinite_kept
      assumption
    · apply concludeOut_kept
      · assumption
      · exact payloadsWf_nil
      · exact effectsWf_nil

theorem reduceOne_kept
    {s : State} {w : Work} {x : List Sys2Proof.Byte} (h : Kept m p s) :
    Kept m p (reduceOne s w x) := by
  unfold reduceOne
  dsimp only
  split
  · apply nonFinite_kept
    assumption
  · refine Kept.ite (fun _ => ?_) (fun _ => ?_)
    · apply finish_kept
      · assumption
      · exact effectsWf_nil
    · apply finish_kept
      · apply takeFree_kept
        assumption
      · exact effectsWf_nil

theorem runReduce_kept
    {fa : Sys2Proof.Fetch} {fb : Sys2Proof.Fetch} {s : State} {w : Work} (h : Kept m p s) :
    Kept m p (runReduce fa fb s w) := by
  unfold runReduce
  dsimp only
  apply checked_kept
  · assumption
  · intro _ _
    refine Kept.ite (fun _ => ?_) (fun _ => ?_)
    · apply withDest_kept
      · assumption
      · intro _ _
        apply fetched_kept
        · assumption
        · intro _ _
          apply shaped_kept
          · assumption
          · intro _ _
            apply withOperand_kept
            · assumption
            · intro _ _ _
              apply withOperand_kept
              · assumption
              · intro _ _ _
                apply reduceTwo_kept
                assumption
    · apply fetched_kept
      · assumption
      · intro _ _
        apply shaped_kept
        · assumption
        · intro _ _
          apply withOperand_kept
          · assumption
          · intro _ _ _
            apply reduceOne_kept
            assumption

theorem execReduce_kept
    {work : Nat} {a : Sys2Proof.Fetch} {b : Sys2Proof.Fetch} {s : State} (h : Kept m p s) :
    ∃ t, execReduce work a b s = .next t ∧ Kept m p t := by
  unfold execReduce
  apply act_kept
  · assumption
  · intro _ _
    apply runWork_kept
    · assumption
    · intro _ _ _ _
      apply runReduce_kept
      assumption

theorem execReduceScorer_kept
    {work : Nat} {status : Nat} {result : List Sys2Proof.Byte} {s : State} (h : Kept m p s) :
    ∃ t, execReduceScorer work status result s = .next t ∧ Kept m p t := by
  unfold execReduceScorer
  apply act_kept
  · assumption
  · intro _ _
    apply runWork_kept
    · assumption
    · intro _ _ _ _
      refine Kept.ite (fun _ => ?_) (fun _ => ?_)
      · apply finish_kept
        · assumption
        · exact effectsWf_nil
      · assumption

end Sys2Proof.Laws
end

