-- ==== Sys2Proof/Laws/KeptNvImage.lean ====
section
/-! SUPPORT. Every operation and meaning of Machine/NvImage.lean keeps the form. -/

namespace Sys2Proof.Laws

open Sys2Proof Sys2Proof.Machine Sys2Proof.Safety

variable {m : Model} {p : List Instr}

theorem selectEntry_kept
    {s : State} {e : FieldEntry} (h : Kept m p s) :
    Kept m p (selectEntry s e) := by
  unfold selectEntry
  refine Kept.ite (fun _ => ?_) (fun _ => ?_)
  · apply writeWord_kept
    assumption
  · assumption

theorem forceEntry_kept
    {s : State} {e : FieldEntry} (h : Kept m p s) :
    Kept m p (forceEntry s e) := by
  unfold forceEntry
  dsimp only
  apply Kept.fold
  · intro _ _ _
    apply regSet_kept
    assumption
  · apply selectEntry_kept
    assumption

theorem applyEntry_kept
    {s : State} {e : Nat × FieldEntry} (h : Kept m p s) :
    Kept m p (applyEntry s e) := by
  unfold applyEntry
  dsimp only
  refine Kept.ite (fun _ => ?_) (fun _ => ?_)
  · apply Kept.fold
    · intro _ _ _
      apply regSet_kept
      assumption
    · apply selectEntry_kept
      assumption
  · apply event_kept
    apply selectEntry_kept
    assumption

theorem clearSelectors_kept
    {s : State} (h : Kept m p s) :
    Kept m p (clearSelectors s) := by
  unfold clearSelectors
  refine Kept.upd ?_ ?_ beds_of plan_of tiles_of lodged_of work_of steps_of captures_of
  · assumption
  · exact fun k => fieldsFit_filter k.form.regs

theorem setPartitions_kept
    {s : State} {b : List Sys2Proof.Byte} (h : Kept m p s) :
    Kept m p (setPartitions s b) := by
  unfold setPartitions
  dsimp only
  apply Kept.fold
  · intro _ _ _
    apply regSet_kept
    apply regSet_kept
    apply regSet_kept
    apply regSet_kept
    assumption
  · assumption

theorem fieldsFit_zero {r : Regs} {q : (Fld × Nat) × Nat → Prop} [DecidablePred q] (h : fieldsFit r) :
    fieldsFit { r with cells := r.cells.map fun c => if q c then (c.1, 0) else c } := by
  intro c hc
  cases hc with
  | inl hc =>
    obtain ⟨d, hd, rfl⟩ := List.mem_map.1 hc
    split
    · exact Nat.two_pow_pos _
    · exact h d (.inl hd)
  | inr hc => exact h c (.inr hc)

theorem validateParts_kept {s : State} (h : Kept m p s) : Kept m p (validateParts s) := by
  unfold validateParts
  refine Kept.upd (s := if partsWell s then s else _) ?_ (fun k => fieldsFit_zero k.form.regs) beds_of plan_of tiles_of lodged_of
    work_of steps_of captures_of
  refine Kept.ite (fun _ => h) fun _ => note_kept ?_
  exact Kept.upd h (fun k => fieldsFit_filter k.form.regs) beds_of plan_of tiles_of lodged_of work_of steps_of captures_of

theorem snapshotFields_kept {s : State} (h : Kept m p s) : Kept m p (snapshotFields s) :=
  Kept.upd h (fun k c hc => k.form.regs c (.inl (hc.elim id id))) beds_of plan_of tiles_of lodged_of work_of steps_of captures_of

theorem useImage_kept
    {s : State} {slot : Nat} {b : List Sys2Proof.Byte} (h : Kept m p s) :
    Kept m p (useImage s slot b) := by
  unfold useImage
  dsimp only
  apply snapshotFields_kept
  apply validateParts_kept
  apply setPartitions_kept
  apply snapshotFields_kept
  refine Kept.upd ?_ regs_of beds_of plan_of tiles_of lodged_of work_of steps_of captures_of
  apply clearSelectors_kept
  apply Kept.fold
  · intro _ _ _
    split
    · assumption
    · apply applyEntry_kept
      assumption
  · assumption

theorem useDefaults_kept
    {s : State} (h : Kept m p s) :
    Kept m p (useDefaults s) := by
  unfold useDefaults
  apply snapshotFields_kept
  apply validateParts_kept
  apply snapshotFields_kept
  apply event_kept
  refine Kept.upd ?_ regs_of beds_of plan_of tiles_of lodged_of work_of steps_of captures_of
  assumption

theorem loadImage_kept
    {s : State} {okA : Bool} {okB : Bool} (h : Kept m p s) :
    Kept m p (loadImage s okA okB) := by
  unfold loadImage
  split
  · apply useImage_kept
    assumption
  · apply useDefaults_kept
    assumption

theorem writeSlot_kept
    {s : State} {b : List Sys2Proof.Byte} (h : Kept m p s) :
    Kept m p (writeSlot s b) := by
  unfold writeSlot
  refine Kept.ite (fun _ => ?_) (fun _ => ?_)
  · refine Kept.upd ?_ regs_of beds_of plan_of tiles_of lodged_of work_of steps_of captures_of
    assumption
  · refine Kept.upd ?_ regs_of beds_of plan_of tiles_of lodged_of work_of steps_of captures_of
    assumption

theorem execNvWrite_kept
    {_path : Sys2Proof.Path} {img : Sys2Proof.Fetch} {sigOk : Bool} {norOk : Bool} {s : State} (h : Kept m p s) :
    ∃ t, execNvWrite _path img sigOk norOk s = .next t ∧ Kept m p t := by
  unfold execNvWrite
  apply act_kept
  · assumption
  · intro _ _
    refine Kept.ite (fun _ => ?_) (fun _ => ?_)
    · apply sourced_kept
      · assumption
      · intro _ _ _
        dsimp only
        apply setReg_kept
        refine Kept.ite (fun _ => ?_) (fun _ => ?_)
        · apply writeSlot_kept
          assumption
        · assumption
    · assumption

end Sys2Proof.Laws
end

