-- ==== Sys2Proof/Laws/KeptObserve.lean ====
section
/-! SUPPORT. Every operation and meaning of Machine/Observe.lean keeps the form. -/

namespace Sys2Proof.Laws

open Sys2Proof Sys2Proof.Machine Sys2Proof.Safety

variable {m : Model} {p : List Instr}

theorem dumpSet_wf
    {s : State} {x : Subject} {sel : List Nat} (h : Kept m p s) :
    payloadsWf (dumpSet s x sel) := by
  unfold dumpSet
  refine payloadsWf_sortKey ?_
  refine payloadsWf_filter ?_
  exact tilesOf_wf (by assumption)

theorem writeTiles_kept
    {s : State} {w : Work} {ts : List Tile} (h : Kept m p s) :
    Kept m p (writeTiles s w ts) := by
  unfold writeTiles
  dsimp only
  apply concludeOut_kept
  · apply Kept.fold
    · intro _ _ _
      refine Kept.ite (fun _ => ?_) (fun _ => ?_)
      · assumption
      · apply demand_kept
        assumption
    · assumption
  · exact payloadsWf_nil
  · exact effectsWf_nil

theorem runDumpTiles_kept
    {s : State} {w : Work} (h : Kept m p s) :
    Kept m p (runDumpTiles s w) := by
  unfold runDumpTiles
  dsimp only
  apply withSubject_kept
  · assumption
  · intro _
    apply checked_kept
    · assumption
    · intro _ _
      refine Kept.ite (fun _ => ?_) (fun _ => ?_)
      · apply fail_kept
        assumption
      · refine Kept.ite (fun _ => ?_) (fun _ => ?_)
        · apply Kept.fold
          · intro _ _ _
            apply askShaped_kept
            assumption
          · assumption
        · apply shaped_kept
          · assumption
          · intro _ _
            apply writeTiles_kept
            assumption

theorem execDumpTiles_kept
    {work : Nat} {s : State} (h : Kept m p s) :
    ∃ t, execDumpTiles work s = .next t ∧ Kept m p t := by
  unfold execDumpTiles
  apply act_kept
  · assumption
  · intro _ _
    apply runWork_kept
    · assumption
    · intro _ _ _ _
      apply runDumpTiles_kept
      assumption

theorem runDumpTrace_kept
    {s : State} {w : Work} (h : Kept m p s) :
    Kept m p (runDumpTrace s w) := by
  unfold runDumpTrace
  dsimp only
  apply checked_kept
  · assumption
  · intro _ _
    apply shaped_kept
    · assumption
    · intro _ _
      apply concludeOut_kept
      · assumption
      · exact payloadsWf_nil
      · refine effectsWf_cons trivial ?_
        exact effectsWf_nil

theorem execDumpTrace_kept
    {work : Nat} {s : State} (h : Kept m p s) :
    ∃ t, execDumpTrace work s = .next t ∧ Kept m p t := by
  unfold execDumpTrace
  apply act_kept
  · assumption
  · intro _ _
    apply runWork_kept
    · assumption
    · intro _ _ _ _
      apply runDumpTrace_kept
      assumption

theorem runArm_kept
    {s : State} {w : Work} (h : Kept m p s) :
    Kept m p (runArm s w) := by
  unfold runArm
  apply withSubject_kept
  · assumption
  · intro _
    apply checked_kept
    · assumption
    · intro _ _
      apply conclude_kept
      · assumption
      · exact payloadsWf_nil
      · refine effectsWf_cons trivial ?_
        exact effectsWf_nil

theorem execDumpArm_kept
    {work : Nat} {s : State} (h : Kept m p s) :
    ∃ t, execDumpArm work s = .next t ∧ Kept m p t := by
  unfold execDumpArm
  apply act_kept
  · assumption
  · intro _ _
    apply runWork_kept
    · assumption
    · intro _ _ _ _
      apply runArm_kept
      assumption

theorem runDisarm_kept
    {s : State} {w : Work} (h : Kept m p s) :
    Kept m p (runDisarm s w) := by
  unfold runDisarm
  apply withSubject_kept
  · assumption
  · intro _
    apply checked_kept
    · assumption
    · intro _ _
      apply conclude_kept
      · assumption
      · exact payloadsWf_nil
      · refine effectsWf_cons trivial ?_
        exact effectsWf_nil

theorem execDumpDisarm_kept
    {work : Nat} {s : State} (h : Kept m p s) :
    ∃ t, execDumpDisarm work s = .next t ∧ Kept m p t := by
  unfold execDumpDisarm
  apply act_kept
  · assumption
  · intro _ _
    apply runWork_kept
    · assumption
    · intro _ _ _ _
      apply runDisarm_kept
      assumption

theorem frozen_wf
    {s : State} {t : Tile} (h : Kept m p s) (ht : cellsWf t.payload = true) :
    cellsWf (frozen s t).payload = true := by
  unfold frozen
  split
  · assumption
  · exact cellsOf_wf

theorem fire_kept {s : State} {name : Nat} {a : Arm} (h : Kept m p s) : Kept m p (fire s name a) := by
  unfold fire
  split
  · exact h
  · refine Kept.upd h regs_of beds_of plan_of tiles_of lodged_of work_of steps_of (fun k c hc => ?_)
    cases List.mem_append.1 hc with
    | inl hc => exact k.form.captures c hc
    | inr hc =>
      cases List.mem_singleton.1 hc
      exact payloadsWf_change (dumpSet_wf k) fun _ ht => frozen_wf k ht

theorem markEnd_kept
    {s : State} {w : Work} (h : Kept m p s) :
    Kept m p (markEnd s w) := by
  unfold markEnd
  dsimp only
  apply conclude_kept
  · apply Kept.fold
    · intro _ _ _
      apply fire_kept
      assumption
    · apply trace_kept
      assumption
  · exact payloadsWf_nil
  · exact effectsWf_nil

theorem runMark_kept
    {s : State} {w : Work} (h : Kept m p s) :
    Kept m p (runMark s w) := by
  unfold runMark
  dsimp only
  refine Kept.ite (fun _ => ?_) (fun _ => ?_)
  · apply checked_kept
    · assumption
    · intro _ _
      apply markEnd_kept
      assumption
  · apply withSubject_kept
    · assumption
    · intro _
      apply checked_kept
      · assumption
      · intro _ _
        apply checked_kept
        · assumption
        · intro _ _
          apply markEnd_kept
          assumption

theorem execMark_kept
    {work : Nat} {s : State} (h : Kept m p s) :
    ∃ t, execMark work s = .next t ∧ Kept m p t := by
  unfold execMark
  apply act_kept
  · assumption
  · intro _ _
    apply runWork_kept
    · assumption
    · intro _ _ _ _
      apply runMark_kept
      assumption

theorem dumpRecord_kept
    {s : State} {c : Capture} {flags : Nat} {t : Tile} {payload : List Sys2Proof.Byte} (h : Kept m p s) :
    Kept m p (dumpRecord s c flags t payload) := by
  unfold dumpRecord
  dsimp only
  refine Kept.ite (fun _ => ?_) (fun _ => ?_)
  · apply traceLost_kept
    assumption
  · apply putTrace_kept
    refine Kept.upd ?_ regs_of beds_of plan_of tiles_of lodged_of work_of steps_of captures_of
    apply flushLoss_kept
    assumption

theorem withCapture_kept {s : State} {c : Option Capture} (h : Kept m p s) (hc : ∀ x, c = some x → payloadsWf x.tiles) :
    Kept m p (withCapture s c) := by
  refine Kept.upd h regs_of beds_of plan_of tiles_of lodged_of work_of steps_of (fun k x hx => ?_)
  cases List.mem_append.1 hx with
  | inl hx => exact hc x (Option.mem_toList.1 hx)
  | inr hx => exact k.form.captures x (List.mem_of_mem_tail hx)

theorem captureNext_kept {s : State} {c : Capture} (h : Kept m p s) (hc : payloadsWf c.tiles) : Kept m p (captureNext s c) := by
  unfold captureNext
  split
  · exact withCapture_kept h fun _ e => by cases e
  · rename_i t rest e
    refine Kept.ite (fun _ => ?_) fun _ => Kept.ite (fun _ => askTile_kept h) fun _ => ?_
    · exact event_kept (withCapture_kept (dumpRecord_kept h) fun _ e => by cases e)
    · refine withCapture_kept (dumpRecord_kept h) fun x hx => ?_
      split at hx
      · cases hx
      · cases hx
        exact fun y hy => hc y (e ▸ List.mem_cons_of_mem _ hy)

theorem execDumpCapture_kept {s : State} (h : Kept m p s) : ∃ t, execDumpCapture s = .next t ∧ Kept m p t := by
  refine act_kept h fun s k => whenRunning_kept k fun s k => ?_
  split
  · exact k
  · rename_i c _ e
    exact Kept.ite (fun _ => k) fun _ => captureNext_kept k (k.form.captures c (e ▸ List.mem_cons_self ..))

theorem execCaptureTimeout_kept {arm : Nat} {s : State} (h : Kept m p s) :
    ∃ t, execCaptureTimeout arm s = .next t ∧ Kept m p t := by
  refine act_kept h fun s k => whenRunning_kept k fun s k => ?_
  split
  · exact k
  · rename_i c e
    have k : Kept m p { s with obs := { s.obs with captures := s.obs.captures.erase c } } :=
      Kept.upd k regs_of beds_of plan_of tiles_of lodged_of work_of steps_of
        (fun k x hx => k.form.captures x (List.mem_of_mem_erase hx))
    dsimp only
    split
    · exact k
    · exact dumpRecord_kept k

theorem execObsBudgetRefill_kept
    {s : State} (h : Kept m p s) :
    ∃ t, execObsBudgetRefill s = .next t ∧ Kept m p t := by
  unfold execObsBudgetRefill
  apply act_kept
  · assumption
  · intro _ _
    apply whenRunning_kept
    · assumption
    · intro _ _
      dsimp only
      refine Kept.upd ?_ regs_of beds_of plan_of tiles_of lodged_of work_of steps_of captures_of
      assumption

theorem execSnap_kept {path : Path} {s : State} (h : Kept m p s) : ∃ t, execSnap path s = .next t ∧ Kept m p t :=
  act_kept h fun _ k => whenRunning_kept k fun _ k => Kept.fold (fun _ _ k => regSet_kept k) _ k

theorem execCounterClear_kept
    {path : Sys2Proof.Path} {s : State} (h : Kept m p s) :
    ∃ t, execCounterClear path s = .next t ∧ Kept m p t := by
  unfold execCounterClear
  apply act_kept
  · assumption
  · intro _ _
    apply whenRunning_kept
    · assumption
    · intro _ _
      split
      · assumption
      · apply regSet_kept
        assumption

theorem execCounterSample_kept
    {s : State} (h : Kept m p s) :
    ∃ t, execCounterSample s = .next t ∧ Kept m p t := by
  unfold execCounterSample
  apply act_kept
  · assumption
  · intro _ _
    apply whenRunning_kept
    · assumption
    · intro _ _
      refine Kept.ite (fun _ => ?_) (fun _ => ?_)
      · assumption
      · dsimp only
        apply trace_kept
        assumption

end Sys2Proof.Laws
end

