-- ==== Sys2Proof/Laws/KeptPower.lean ====
section
/-! SUPPORT. Every operation and meaning of Machine/Power.lean keeps the form. -/

namespace Sys2Proof.Laws

open Sys2Proof Sys2Proof.Machine Sys2Proof.Safety

variable {m : Model} {p : List Instr}

-- flashPart_wf stands below

theorem bedsListed_fresh {k : Model} : bedsListed k ((List.range (bedCount k)).map Bed.fresh) := by
  unfold bedsListed
  rw [List.map_map]
  exact List.map_id _

theorem flashPart_wf {t : Tile} (ht : cellsWf t.payload = true) : cellsWf (flashPart t).payload = true := ht

theorem cutPower_kept {s : State} {st : PowerState} {vin : Nat} (h : Kept m p s) : Kept m p (cutPower s st vin) where
  model := h.model
  pending := h.pending
  form :=
    { regs := fun c hc => by
        cases hc with
        | inl hc => exact h.form.regs c (.inl (List.mem_filter.1 hc).1)
        | inr hc => cases hc
      beds := bedsListed_fresh
      plan := h.form.plan
      tiles := payloadsWf_change h.form.tiles fun _ ht => flashPart_wf ht
      lodged := payloadsWf_filter (payloadsWf_change h.form.lodged fun _ ht => flashPart_wf ht)
      work := worksWf_nil
      steps := h.form.steps
      captures := fun _ hc => by cases hc }

theorem flushDurable_kept
    {s : State} (h : Kept m p s) :
    Kept m p (flushDurable s) := by
  unfold flushDurable
  apply Kept.fold
  · intro _ _ _
    refine Kept.ite (fun _ => ?_) (fun _ => ?_)
    · apply updHeld_kept
      · assumption
      · exact fun t ht => ht
    · assumption
  · assumption

theorem sealAndStop_kept
    {s : State} {bankHolds : Bool} {st : PowerState} {vin : Nat} (h : Kept m p s) :
    Kept m p (sealAndStop s bankHolds st vin) := by
  unfold sealAndStop
  dsimp only
  apply cutPower_kept
  refine Kept.upd ?_ regs_of beds_of plan_of tiles_of lodged_of work_of steps_of captures_of
  refine Kept.ite (fun _ => ?_) (fun _ => ?_)
  · apply flushDurable_kept
    apply Kept.fold
    · intro _ _ _
      apply refuseAccess_kept
      assumption
    · assumption
  · apply Kept.fold
    · intro _ _ _
      apply refuseAccess_kept
      assumption
    · assumption

theorem inputFails_kept
    {s : State} {vin : Nat} {bankHolds : Bool} (h : Kept m p s) :
    Kept m p (inputFails s vin bankHolds) := by
  unfold inputFails
  split
  · apply sealAndStop_kept
    assumption
  · apply cutPower_kept
    assumption
  · apply cutPower_kept
    assumption
  · apply cutPower_kept
    assumption
  · refine Kept.upd ?_ regs_of beds_of plan_of tiles_of lodged_of work_of steps_of captures_of
    assumption
  · refine Kept.upd ?_ regs_of beds_of plan_of tiles_of lodged_of work_of steps_of captures_of
    assumption

theorem execPowerLoss_kept
    {vinMv : Nat} {bankHolds : Bool} {s : State} (h : Kept m p s) :
    ∃ t, execPowerLoss vinMv bankHolds s = .next t ∧ Kept m p t := by
  unfold execPowerLoss
  apply act_kept
  · assumption
  · intro _ _
    refine Kept.ite (fun _ => ?_) (fun _ => ?_)
    · apply inputFails_kept
      assumption
    · assumption

theorem execOverVoltage_kept
    {vinMv : Nat} {bankHolds : Bool} {s : State} (h : Kept m p s) :
    ∃ t, execOverVoltage vinMv bankHolds s = .next t ∧ Kept m p t := by
  unfold execOverVoltage
  apply act_kept
  · assumption
  · intro _ _
    refine Kept.ite (fun _ => ?_) (fun _ => ?_)
    · apply inputFails_kept
      assumption
    · assumption

theorem execInputBelow20v_kept
    {s : State} (h : Kept m p s) :
    ∃ t, execInputBelow20v s = .next t ∧ Kept m p t := by
  unfold execInputBelow20v
  apply act_kept
  · assumption
  · intro _ _
    dsimp only
    split
    · apply cutPower_kept
      apply takeFree_kept
      assumption
    · apply cutPower_kept
      apply takeFree_kept
      assumption
    · refine Kept.upd ?_ regs_of beds_of plan_of tiles_of lodged_of work_of steps_of captures_of
      apply takeFree_kept
      assumption
    · assumption

theorem execThermalCritical_kept
    {vinMv : Nat} {bankHolds : Bool} {s : State} (h : Kept m p s) :
    ∃ t, execThermalCritical vinMv bankHolds s = .next t ∧ Kept m p t := by
  unfold execThermalCritical
  apply act_kept
  · assumption
  · intro _ _
    refine Kept.ite (fun _ => ?_) (fun _ => ?_)
    · dsimp only
      refine Kept.ite (fun _ => ?_) (fun _ => ?_)
      · apply sealAndStop_kept
        apply event_kept
        assumption
      · apply cutPower_kept
        apply event_kept
        assumption
    · assumption

theorem execInsertion_kept
    {live : Bool} {s : State} (h : Kept m p s) :
    ∃ t, execInsertion live s = .next t ∧ Kept m p t := by
  unfold execInsertion
  apply act_kept
  · assumption
  · intro _ _
    refine Kept.ite (fun _ => ?_) (fun _ => ?_)
    · assumption
    · dsimp only
      refine Kept.upd ?_ regs_of beds_of plan_of tiles_of lodged_of work_of steps_of captures_of
      apply takeFree_kept
      assumption

theorem powerUp_kept
    {s : State} {x : Sys2Proof.StartInput} (h : Kept m p s) :
    Kept m p (powerUp s x) := by
  unfold powerUp
  dsimp only
  refine Kept.upd ?_ regs_of beds_of plan_of tiles_of lodged_of work_of steps_of captures_of
  apply takeFree_kept
  assumption

theorem lockPlls_kept
    {s : State} (h : Kept m p s) :
    Kept m p (lockPlls s) := by
  unfold lockPlls
  apply setReg_kept
  apply setReg_kept
  assumption

theorem drawSecrets_kept
    {s : State} (h : Kept m p s) :
    Kept m p (drawSecrets s) := by
  unfold drawSecrets
  dsimp only
  apply freshDebugNonce_kept
  apply freshNonce_kept
  refine Kept.upd ?_ regs_of beds_of plan_of tiles_of lodged_of work_of steps_of captures_of
  apply takeFree_kept
  assumption

theorem trainLinks_kept
    {s : State} (h : Kept m p s) :
    Kept m p (trainLinks s) := by
  unfold trainLinks
  apply Kept.fold
  · intro _ _ _
    refine Kept.ite (fun _ => ?_) (fun _ => ?_)
    · assumption
    · apply regSet_kept
      assumption
  · assumption

theorem prepare_kept
    {s : State} {x : Sys2Proof.StartInput} (h : Kept m p s) :
    Kept m p (prepare s x) := by
  unfold prepare
  dsimp only
  refine Kept.upd ?_ regs_of beds_of plan_of tiles_of lodged_of work_of steps_of captures_of
  apply setReg_kept
  apply setReg_kept
  refine Kept.upd ?_ regs_of beds_of plan_of tiles_of lodged_of work_of steps_of captures_of
  apply drawSecrets_kept
  apply loadImage_kept
  refine Kept.upd ?_ regs_of beds_of plan_of tiles_of lodged_of work_of steps_of captures_of
  apply trainLinks_kept
  assumption

theorem testPans_kept
    {s : State} {bad : List (Nat × Nat)} (h : Kept m p s) :
    Kept m p (testPans s bad) := by
  unfold testPans
  apply Kept.fold
  · intro _ _ _
    split
    · apply mapOut_kept
      assumption
    · refine Kept.upd ?_ regs_of beds_of plan_of tiles_of lodged_of work_of steps_of captures_of
      assumption
  · assumption

theorem mapPackages_kept
    {s : State} (h : Kept m p s) :
    Kept m p (mapPackages s) := by
  unfold mapPackages
  dsimp only
  apply regAdd_kept
  refine Kept.upd ?_ regs_of beds_of plan_of tiles_of lodged_of work_of steps_of captures_of
  assumption

theorem restoreStatus_kept
    {s : State} {source : Nat} {result : Nat} {step : Nat} (h : Kept m p s) :
    Kept m p (restoreStatus s source result step) := by
  unfold restoreStatus
  apply setReg_kept
  apply setReg_kept
  apply setReg_kept
  assumption

theorem rollBack_kept {s : State} {c : CkptStep} (h : Kept m p s) (hc : payloadsWf c.tiles) : Kept m p (rollBack s c) := by
  refine note_kept ?_
  exact Kept.upd (restoreStatus_kept (regAdd_kept h)) regs_of beds_of plan_of
    (fun _ => payloadsWf_change hc fun _ ht => flashPart_wf ht) lodged_of work_of steps_of captures_of

theorem noneRestored_kept
    {s : State} (h : Kept m p s) :
    Kept m p (noneRestored s) := by
  unfold noneRestored
  apply restoreStatus_kept
  refine Kept.upd ?_ regs_of beds_of plan_of ?_ lodged_of work_of steps_of captures_of
  · assumption
  · exact fun k => payloadsWf_nil

theorem mountStore_kept {s : State} {x : StartInput} (h : Kept m p s) : Kept m p (mountStore s x) := by
  unfold mountStore
  split
  · exact Kept.ite (fun _ => noneRestored_kept h) fun _ => restoreStatus_kept h
  · split
    · rename_i c e
      refine rollBack_kept h ?_
      cases List.mem_append.1 (mem_bestBy e) with
      | inl e =>
        split at e
        · exact (h.form.steps.1 c (Option.mem_toList.1 e)).1
        · cases e
      | inr e =>
        split at e
        · exact (h.form.steps.2 c (Option.mem_toList.1 e)).1
        · cases e
    · exact noneRestored_kept h

theorem failsCheck_kept
    {s : State} {n : Nat × Nat} (h : Kept m p s) :
    Kept m p (failsCheck s n) := by
  unfold failsCheck
  split
  · assumption
  · apply copyFailed_kept
    assumption

theorem absentTile_kept
    {s : State} {t : Tile} (h : Kept m p s) :
    Kept m p (absentTile s t) := by
  unfold absentTile
  refine Kept.ite (fun _ => ?_) (fun _ => ?_)
  · assumption
  · refine Kept.ite (fun _ => ?_) (fun _ => ?_)
    · apply draftLost_kept
      assumption
    · apply pagesAbsent_kept
      assumption

theorem readySubjects_kept
    {s : State} (h : Kept m p s) :
    Kept m p (readySubjects s) := by
  unfold readySubjects
  dsimp only
  refine Kept.upd ?_ regs_of beds_of plan_of tiles_of lodged_of work_of steps_of captures_of
  apply Kept.fold
  · intro _ _ _
    apply closeSubject_kept
    assumption
  · apply Kept.fold
    · intro _ _ _
      apply absentTile_kept
      assumption
    · assumption

theorem startConfig_kept
    {s : State} {x : Sys2Proof.StartInput} (h : Kept m p s) :
    Kept m p (startConfig s x) := by
  unfold startConfig
  dsimp only
  refine Kept.upd ?_ regs_of beds_of plan_of tiles_of lodged_of work_of steps_of captures_of
  assumption

theorem readProbes_kept
    {s : State} {x : Sys2Proof.StartInput} (h : Kept m p s) :
    Kept m p (readProbes s x) := by
  unfold readProbes
  dsimp only
  refine Kept.ite (fun _ => ?_) (fun _ => ?_)
  · refine Kept.upd ?_ regs_of beds_of plan_of tiles_of lodged_of work_of steps_of captures_of
    assumption
  · refine Kept.upd ?_ regs_of beds_of plan_of tiles_of lodged_of work_of steps_of captures_of
    assumption

theorem startPlan_kept {s : State} {x : StartInput} (h : Kept m p s) : Kept m p (startPlan s x) := by
  refine writeAgeing_kept ?_
  split
  · rename_i r e
    split at e
    · exact Kept.upd h regs_of (fun k => bedsListed_map (k.form.plan r e) fun _ => rfl) plan_of tiles_of lodged_of work_of
        steps_of captures_of
    · cases e
  · refine warn_kept (event_kept ?_)
    exact Kept.upd h regs_of (fun k => bedsListed_map k.form.beds fun _ => rfl) plan_of tiles_of lodged_of work_of steps_of
      captures_of

theorem calibrate_kept
    {s : State} {energy : Nat} (h : Kept m p s) :
    Kept m p (calibrate s energy) := by
  unfold calibrate
  dsimp only
  refine Kept.ite (fun _ => ?_) (fun _ => ?_)
  · apply warn_kept
    apply note_kept
    apply setReg_kept
    apply setReg_kept
    assumption
  · apply setReg_kept
    apply setReg_kept
    assumption

theorem alertNow_kept
    {s : State} (h : Kept m p s) :
    Kept m p (alertNow s) := by
  unfold alertNow
  apply alertCheck_kept
  refine Kept.upd ?_ regs_of beds_of plan_of tiles_of lodged_of work_of steps_of captures_of
  assumption

theorem becomeReady_kept
    {s : State} (h : Kept m p s) :
    Kept m p (becomeReady s) := by
  unfold becomeReady
  dsimp only
  apply raiseVector_kept
  apply alertNow_kept
  apply setReg_kept
  apply setReg_kept
  apply setReg_kept
  refine Kept.ite (fun _ => ?_) (fun _ => ?_)
  · apply setReg_kept
    apply trace_kept
    refine Kept.upd ?_ regs_of beds_of plan_of tiles_of lodged_of work_of steps_of captures_of
    assumption
  · apply trace_kept
    refine Kept.upd ?_ regs_of beds_of plan_of tiles_of lodged_of work_of steps_of captures_of
    assumption

theorem finishStart_kept
    {s : State} {x : Sys2Proof.StartInput} (h : Kept m p s) :
    Kept m p (finishStart s x) := by
  unfold finishStart
  dsimp only
  apply becomeReady_kept
  apply dirBuild_kept
  apply calibrate_kept
  apply startPlan_kept
  apply startConfig_kept
  apply readProbes_kept
  apply readySubjects_kept
  apply Kept.fold
  · intro _ _ _
    apply failsCheck_kept
    assumption
  · apply mountStore_kept
    apply mapPackages_kept
    apply testPans_kept
    assumption

theorem bankCheck_kept
    {s : State} (h : Kept m p s) :
    Kept m p (bankCheck s) := by
  unfold bankCheck
  split
  · assumption
  · refine Kept.ite (fun _ => ?_) (fun _ => ?_)
    · apply finishStart_kept
      assumption
    · assumption

theorem execPowerOnStart_kept
    {x : Sys2Proof.StartInput} {s : State} (h : Kept m p s) :
    ∃ t, execPowerOnStart x s = .next t ∧ Kept m p t := by
  unfold execPowerOnStart
  apply act_kept
  · assumption
  · intro _ _
    refine Kept.ite (fun _ => ?_) (fun _ => ?_)
    · dsimp only
      split
      · apply setReg_kept
        apply setReg_kept
        apply lockPlls_kept
        apply powerUp_kept
        assumption
      · apply bankCheck_kept
        apply prepare_kept
        refine Kept.upd ?_ regs_of beds_of plan_of tiles_of lodged_of work_of steps_of captures_of
        apply lockPlls_kept
        apply powerUp_kept
        assumption
    · assumption

theorem execHoldupCharged_kept
    {energy : Nat} {bankMv : Nat} {s : State} (h : Kept m p s) :
    ∃ t, execHoldupCharged energy bankMv s = .next t ∧ Kept m p t := by
  unfold execHoldupCharged
  apply act_kept
  · assumption
  · intro _ _
    refine Kept.ite (fun _ => ?_) (fun _ => ?_)
    · apply bankCheck_kept
      refine Kept.upd ?_ regs_of beds_of plan_of tiles_of lodged_of work_of steps_of captures_of
      assumption
    · assumption

theorem execFirmwareWrite_kept
    {svn : Nat} {img : List Sys2Proof.Byte} {sigOk : Bool} {s : State} (h : Kept m p s) :
    ∃ t, execFirmwareWrite svn img sigOk s = .next t ∧ Kept m p t := by
  unfold execFirmwareWrite
  apply act_kept
  · assumption
  · intro _ _
    refine Kept.ite (fun _ => ?_) (fun _ => ?_)
    · refine Kept.upd ?_ regs_of beds_of plan_of tiles_of lodged_of work_of steps_of captures_of
      assumption
    · assumption

theorem setPerst_kept
    {s : State} {p1 : Sys2Proof.PortId} {asserted : Bool} (h : Kept m p s) :
    Kept m p (setPerst s p1 asserted) := by
  unfold setPerst
  split
  · refine Kept.upd ?_ regs_of beds_of plan_of tiles_of lodged_of work_of steps_of captures_of
    assumption
  · refine Kept.upd ?_ regs_of beds_of plan_of tiles_of lodged_of work_of steps_of captures_of
    assumption

theorem resetFunctions_kept
    {s : State} {p1 : Sys2Proof.PortId} (h : Kept m p s) :
    Kept m p (resetFunctions s p1) := by
  unfold resetFunctions
  dsimp only
  refine Kept.upd ?_ regs_of beds_of plan_of tiles_of lodged_of work_of steps_of captures_of
  assumption

theorem execPortWarmReset_kept
    {p1 : Sys2Proof.PortId} {s : State} (h : Kept m p s) :
    ∃ t, execPortWarmReset p1 s = .next t ∧ Kept m p t := by
  unfold execPortWarmReset
  apply act_kept
  · assumption
  · intro _ _
    refine Kept.ite (fun _ => ?_) (fun _ => ?_)
    · assumption
    · dsimp only
      refine Kept.ite (fun _ => ?_) (fun _ => ?_)
      · apply resetFunctions_kept
        apply portFails_kept
        apply setPerst_kept
        assumption
      · apply setPerst_kept
        assumption

theorem execPerstDeassert_kept
    {p1 : Sys2Proof.PortId} {s : State} (h : Kept m p s) :
    ∃ t, execPerstDeassert p1 s = .next t ∧ Kept m p t := by
  unfold execPerstDeassert
  apply act_kept
  · assumption
  · intro _ _
    refine Kept.ite (fun _ => ?_) (fun _ => ?_)
    · assumption
    · dsimp only
      refine Kept.ite (fun _ => ?_) (fun _ => ?_)
      · apply regSet_kept
        apply setPerst_kept
        assumption
      · apply setPerst_kept
        assumption

theorem warmFields_kept {s : State} (h : Kept m p s) : Kept m p (warmFields s) := by
  refine Kept.upd h (fun k c hc => ?_) beds_of plan_of tiles_of lodged_of work_of steps_of captures_of
  cases hc with
  | inl hc =>
    cases List.mem_append.1 hc with
    | inl hc => exact k.form.regs c (.inl (List.mem_filter.1 hc).1)
    | inr hc => exact k.form.regs c (.inr (List.mem_filter.1 hc).1)
  | inr hc => exact k.form.regs c (.inr hc)

theorem dropAllWork_kept
    {s : State} (h : Kept m p s) :
    Kept m p (dropAllWork s) := by
  unfold dropAllWork
  dsimp only
  apply Kept.fold
  · intro _ _ _
    apply closeSubject_kept
    assumption
  · refine Kept.upd ?_ regs_of beds_of plan_of tiles_of lodged_of ?_ steps_of captures_of
    · apply Kept.fold
      · intro _ _ _
        apply abandon_kept
        assumption
      · refine Kept.upd ?_ regs_of beds_of plan_of tiles_of lodged_of ?_ steps_of captures_of
        · assumption
        · intro _
          refine worksWf_change ?_ (fun _ h => h)
          exact work_of (by assumption)
    · (intro w hw; simp)

theorem warmReset_kept
    {s : State} (h : Kept m p s) :
    Kept m p (warmReset s) := by
  unfold warmReset
  dsimp only
  apply drainCheck_kept
  refine Kept.ite (fun _ => ?_) (fun _ => ?_)
  · apply setReg_kept
    refine Kept.upd ?_ regs_of beds_of plan_of tiles_of lodged_of work_of steps_of captures_of
    apply warmFields_kept
    apply resetFunctions_kept
    apply resetFunctions_kept
    apply dropAllWork_kept
    apply Kept.fold
    · intro _ _ _
      apply refuseAccess_kept
      assumption
    · refine Kept.upd ?_ regs_of beds_of plan_of tiles_of lodged_of work_of steps_of captures_of
      assumption
  · apply nameBuddy_kept
    apply setReg_kept
    refine Kept.upd ?_ regs_of beds_of plan_of tiles_of lodged_of work_of steps_of captures_of
    apply warmFields_kept
    apply resetFunctions_kept
    apply resetFunctions_kept
    apply dropAllWork_kept
    apply Kept.fold
    · intro _ _ _
      apply refuseAccess_kept
      assumption
    · refine Kept.upd ?_ regs_of beds_of plan_of tiles_of lodged_of work_of steps_of captures_of
      assumption

theorem execDeviceWarmReset_kept
    {s : State} (h : Kept m p s) :
    ∃ t, execDeviceWarmReset s = .next t ∧ Kept m p t := by
  unfold execDeviceWarmReset
  apply act_kept
  · assumption
  · intro _ _
    refine Kept.ite (fun _ => ?_) (fun _ => ?_)
    · assumption
    · dsimp only
      refine Kept.ite (fun _ => ?_) (fun _ => ?_)
      · refine Kept.upd ?_ regs_of beds_of plan_of tiles_of lodged_of work_of steps_of captures_of
        apply setPerst_kept
        apply setPerst_kept
        assumption
      · refine Kept.ite (fun _ => ?_) (fun _ => ?_)
        · apply warmReset_kept
          apply setPerst_kept
          apply setPerst_kept
          assumption
        · apply setPerst_kept
          apply setPerst_kept
          assumption

theorem quiesceEnd_kept
    {s : State} (h : Kept m p s) :
    Kept m p (quiesceEnd s) := by
  unfold quiesceEnd
  dsimp only
  refine Kept.ite (fun _ => ?_) (fun _ => ?_)
  · apply warmReset_kept
    apply setReg_kept
    refine Kept.upd ?_ regs_of beds_of plan_of tiles_of lodged_of work_of steps_of captures_of
    refine Kept.ite (fun _ => ?_) (fun _ => ?_)
    · apply flushDurable_kept
      apply Kept.fold
      · intro _ _ _
        apply disableLedger_kept
        assumption
      · assumption
    · apply Kept.fold
      · intro _ _ _
        apply disableLedger_kept
        assumption
      · assumption
  · apply setReg_kept
    refine Kept.upd ?_ regs_of beds_of plan_of tiles_of lodged_of work_of steps_of captures_of
    refine Kept.ite (fun _ => ?_) (fun _ => ?_)
    · apply flushDurable_kept
      apply Kept.fold
      · intro _ _ _
        apply disableLedger_kept
        assumption
      · assumption
    · apply Kept.fold
      · intro _ _ _
        apply disableLedger_kept
        assumption
      · assumption

theorem quiesceCheck_kept
    {s : State} (h : Kept m p s) :
    Kept m p (quiesceCheck s) := by
  unfold quiesceCheck
  refine Kept.ite (fun _ => ?_) (fun _ => ?_)
  · apply quiesceEnd_kept
    assumption
  · assumption

theorem execQuiesce_kept
    {_path : Sys2Proof.Path} {s : State} (h : Kept m p s) :
    ∃ t, execQuiesce _path s = .next t ∧ Kept m p t := by
  unfold execQuiesce
  apply act_kept
  · assumption
  · intro _ _
    apply whenRunning_kept
    · assumption
    · intro _ _
      refine Kept.ite (fun _ => ?_) (fun _ => ?_)
      · assumption
      · dsimp only
        apply quiesceCheck_kept
        refine Kept.upd ?_ regs_of beds_of plan_of tiles_of lodged_of work_of steps_of captures_of
        apply Kept.fold
        · intro _ _ _
          apply drainLedger_kept
          assumption
        · assumption

theorem execQuiesceTimeout_kept
    {s : State} (h : Kept m p s) :
    ∃ t, execQuiesceTimeout s = .next t ∧ Kept m p t := by
  unfold execQuiesceTimeout
  apply act_kept
  · assumption
  · intro _ _
    apply whenRunning_kept
    · assumption
    · intro _ _
      refine Kept.ite (fun _ => ?_) (fun _ => ?_)
      · dsimp only
        apply quiesceCheck_kept
        apply drainCheck_kept
        apply Kept.fold
        · intro _ _ _
          apply fail_kept
          apply dropSteps_kept
          assumption
        · assumption
      · assumption

theorem execCompletionWrite_kept
    {work : Nat} {s : State} (h : Kept m p s) :
    ∃ t, execCompletionWrite work s = .next t ∧ Kept m p t := by
  unfold execCompletionWrite
  apply act_kept
  · assumption
  · intro _ _
    refine Kept.ite (fun _ => ?_) (fun _ => ?_)
    · split
      · assumption
      · refine Kept.ite (fun _ => ?_) (fun _ => ?_)
        · apply quiesceCheck_kept
          apply drainCheck_kept
          apply writeCompletion_kept
          · assumption
          · exact Kept.effects (by assumption) (by assumption)
        · assumption
    · assumption

end Sys2Proof.Laws
end

