-- ==== Sys2Proof/Laws/KeptPublish.lean ====
section
/-! SUPPORT. Every operation and meaning of Machine/Publish.lean keeps the form. -/

namespace Sys2Proof.Laws

open Sys2Proof Sys2Proof.Machine Sys2Proof.Safety

variable {m : Model} {p : List Instr}

theorem createEffects_wf
    {w : Work} {x : Subject} :
    effectsWf (createEffects w x) := by
  unfold createEffects
  dsimp only
  refine effectsWf_cons trivial ?_
  refine effectsWf_map (fun _ _ => trivial)

theorem runCreate_kept
    {s : State} {w : Work} (h : Kept m p s) :
    Kept m p (runCreate s w) := by
  unfold runCreate
  apply withSubject_kept
  · assumption
  · intro _
    apply checked_kept
    · assumption
    · intro _ _
      split
      · refine issueHandle_wait ?_ _ (by assumption)
        assumption
      · dsimp only
        refine Kept.ite (fun _ => ?_) (fun _ => ?_)
        · refine issueHandle_ok ?_ _ _ (by assumption)
          assumption
        · apply finish_kept
          · apply placeEntry_kept
            refine issueHandle_ok ?_ _ _ (by assumption)
            assumption
          · apply createEffects_wf
      · apply fail_kept
        assumption

theorem execPublishCreate_kept
    {work : Nat} {s : State} (h : Kept m p s) :
    ∃ t, execPublishCreate work s = .next t ∧ Kept m p t := by
  unfold execPublishCreate
  apply act_kept
  · assumption
  · intro _ _
    apply runWork_kept
    · assumption
    · intro _ _ _ _
      apply runCreate_kept
      assumption

theorem regionTile_wf {s : State} {x : Subject} {off : Nat} {b : List Byte} {n : Nat} (h : Kept m p s) :
    cellsWf (regionTile s x off b n).payload = true := cellWrite_wf (cellsWf_old h)

theorem partTiles_wf
    {s : State} {x : Subject} {off : Nat} {len : Nat} (h : Kept m p s) :
    payloadsWf (partTiles s x off len) := by
  unfold partTiles
  refine payloadsWf_filterMap (fun _ _ _ _ => ?_)
  exact Kept.tile (by assumption) (by assumption)

theorem versionEnd_kept
    {s : State} {w : Work} {x : Subject} {b : List Sys2Proof.Byte} (h : Kept m p s) :
    Kept m p (versionEnd s w x b) := by
  unfold versionEnd
  dsimp only
  refine Kept.ite (fun _ => ?_) (fun _ => ?_)
  · apply failChk_kept
    assumption
  · refine Kept.ite (fun _ => ?_) (fun _ => ?_)
    · apply Kept.fold
      · intro _ _ _
        apply requestTile_kept
        assumption
      · assumption
    · apply conclude_kept
      · assumption
      · refine payloadsWf_map (fun _ _ => ?_)
        apply regionTile_wf (m := m) (p := p)
        assumption
      · refine effectsWf_cons trivial ?_
        exact effectsWf_nil

theorem runVersion_kept
    {src : Sys2Proof.Fetch} {s : State} {w : Work} (h : Kept m p s) :
    Kept m p (runVersion src s w) := by
  unfold runVersion
  apply withSubject_kept
  · assumption
  · intro _
    dsimp only
    apply checked_kept
    · assumption
    · intro _ _
      refine Kept.ite (fun _ => ?_) (fun _ => ?_)
      · apply finish_kept
        · assumption
        · exact effectsWf_nil
      · apply checked_kept
        · assumption
        · intro _ _
          apply withOperand_kept
          · assumption
          · intro _ _ _
            apply versionEnd_kept
            assumption

theorem execPublishVersion_kept
    {work : Nat} {src : Sys2Proof.Fetch} {s : State} (h : Kept m p s) :
    ∃ t, execPublishVersion work src s = .next t ∧ Kept m p t := by
  unfold execPublishVersion
  apply act_kept
  · assumption
  · intro _ _
    apply runWork_kept
    · assumption
    · intro _ _ _ _
      apply durably_kept
      · assumption
      · intro _
        apply runVersion_kept
        assumption

theorem sharePage_kept {x r : Subject} {page layer : Nat} {a : State × List Nat × List (Nat × Nat)} (h : Kept m p a.1) :
    Kept m p (sharePage x r page a layer).1 := by
  unfold sharePage
  split
  · exact h
  · exact scratchLayer_kept h writePage_wf.1

theorem sharePages_kept {s : State} {x r : Subject} {n : Nat} (h : Kept m p s) : Kept m p (sharePages s x r n).1 := by
  refine Kept.foldPair (fun _ _ k => Kept.foldPair (fun _ _ k => sharePage_kept k) k) ?_
  exact Kept.upd h regs_of beds_of plan_of tiles_of lodged_of work_of steps_of captures_of

theorem hashTiles_wf
    {r : Subject} :
    payloadsWf (hashTiles r) := by
  unfold hashTiles
  refine payloadsWf_map (fun _ _ => ?_)
  exact cellsOf_wf

-- the tiles that a publication waits for are only asked for

theorem shareEnd_kept {s : State} {w : Work} {x r : Subject} (h : Kept m p s) : Kept m p (shareEnd s w x r) := by
  unfold shareEnd
  dsimp only
  split
  · exact h
  · rename_i y _
    have ht : payloadsWf (headTiles y ++ hashTiles y ++ logTiles y (32 * y.firstPage) y.log.length ++
        (sharePages s x r r.count).2.2.dedup.filterMap fun e => tileOf (sharePages s x r r.count).1 e.1 e.2) :=
      payloadsWf_append (payloadsWf_append (payloadsWf_append headTiles_wf hashTiles_wf) logTiles_wf)
        (payloadsWf_filterMap fun _ _ _ e => (sharePages_kept h).tile e)
    refine Kept.ite (fun _ => fail_kept h) fun _ => Kept.ite (fun _ => h) fun _ =>
      Kept.ite (fun _ => fail_kept (regAdd_kept (event_kept h))) fun _ => ?_
    split
    · exact fail_kept h
    · have k := createSubject_kept h ht _ (by assumption)
      exact done_kept (insertBlocks_kept (Kept.ite (fun _ => placeEntry_kept k) fun _ => k))

theorem runShare_kept
    {s : State} {w : Work} (h : Kept m p s) :
    Kept m p (runShare s w) := by
  unfold runShare
  apply withSubject_kept
  · assumption
  · intro _
    dsimp only
    apply checked_kept
    · assumption
    · intro _ _
      refine Kept.ite (fun _ => ?_) (fun _ => ?_)
      · apply Kept.fold
        · intro _ _ _
          apply requestTile_kept
          assumption
        · assumption
      · refine Kept.ite (fun _ => ?_) (fun _ => ?_)
        · apply fail_kept
          apply Kept.fold
          · intro _ _ _
            apply dropMalformed_kept
            assumption
          · assumption
        · split
          · refine issueHandle_wait ?_ _ (by assumption)
            assumption
          · apply shareEnd_kept
            refine issueHandle_ok ?_ _ _ (by assumption)
            assumption
          · apply fail_kept
            assumption

theorem execPublishPrefix_kept
    {work : Nat} {s : State} (h : Kept m p s) :
    ∃ t, execPublishPrefix work s = .next t ∧ Kept m p t := by
  unfold execPublishPrefix
  apply act_kept
  · assumption
  · intro _ _
    apply runWork_kept
    · assumption
    · intro _ _ _ _
      apply durably_kept
      · assumption
      · intro _
        apply runShare_kept
        assumption

end Sys2Proof.Laws
end

