-- ==== Sys2Proof/Laws/KeptRegisters.lean ====
section
/-! SUPPORT. Every operation and meaning of Machine/Registers.lean keeps the form. -/

namespace Sys2Proof.Laws

open Sys2Proof Sys2Proof.Machine Sys2Proof.Safety

variable {m : Model} {p : List Instr}

theorem readQsamp_kept
    {s : State} {p1 : Sys2Proof.Path} {off : Nat} {width : Nat} (h : Kept m p s) :
    Kept m p (readQsamp s p1 off width).1 := by
  unfold readQsamp
  dsimp only
  split
  · split
    · assumption
    · assumption
  · dsimp only
    refine Kept.upd ?_ regs_of beds_of plan_of tiles_of lodged_of work_of steps_of captures_of
    assumption

theorem readBar_kept
    {s : State} {p1 : Sys2Proof.Path} {off : Nat} {width : Nat} (h : Kept m p s) :
    Kept m p (readBar s p1 off width).1 := by
  unfold readBar
  dsimp only
  split
  · apply readQsamp_kept
    assumption
  · apply readWord_kept
    assumption

theorem setVector_kept
    {s : State} {p1 : Nat} {n : Nat} {e : Nat × Nat × Nat} (h : Kept m p s) :
    Kept m p (setVector s p1 n e) := by
  unfold setVector
  dsimp only
  refine Kept.ite (fun _ => ?_) (fun _ => ?_)
  · apply emit_kept
    refine Kept.upd ?_ regs_of beds_of plan_of tiles_of lodged_of work_of steps_of captures_of
    assumption
  · refine Kept.upd ?_ regs_of beds_of plan_of tiles_of lodged_of work_of steps_of captures_of
    assumption

theorem writeBar2_kept
    {s : State} {p1 : Nat} {off : Nat} {width : Nat} {value : Nat} (h : Kept m p s) :
    Kept m p (writeBar2 s p1 off width value) := by
  unfold writeBar2
  refine Kept.ite (fun _ => ?_) (fun _ => ?_)
  · dsimp only
    apply setVector_kept
    assumption
  · assumption

theorem readAccess_kept
    {s : State} {p1 : Sys2Proof.Path} {off : Nat} {width : Nat} {out : Nat → Out} (h : Kept m p s) :
    Kept m p (readAccess s p1 off width out) := by
  unfold readAccess
  refine Kept.ite (fun _ => ?_) (fun _ => ?_)
  · assumption
  · refine Kept.ite (fun _ => ?_) (fun _ => ?_)
    · dsimp only
      apply emit_kept
      apply readBar_kept
      assumption
    · apply emit_kept
      apply takeFree_kept
      assumption

theorem writeAccess_kept
    {s : State} {p1 : Sys2Proof.Path} {off : Nat} {width : Nat} {value : Nat} (h : Kept m p s) :
    Kept m p (writeAccess s p1 off width value) := by
  unfold writeAccess
  refine Kept.ite (fun _ => ?_) (fun _ => ?_)
  · apply writeWord_kept
    assumption
  · assumption

theorem execSeal_kept
    {_path : Sys2Proof.Path} {s : State} (h : Kept m p s) :
    ∃ t, execSeal _path s = .next t ∧ Kept m p t := by
  unfold execSeal
  apply act_kept
  · assumption
  · intro _ _
    refine Kept.ite (fun _ => ?_) (fun _ => ?_)
    · apply setReg_kept
      assumption
    · assumption

theorem execRegisterWrite_kept
    {path : Sys2Proof.Path} {off : Nat} {width : Nat} {value : Nat} {s : State} (h : Kept m p s) :
    ∃ t, execRegisterWrite path off width value s = .next t ∧ Kept m p t := by
  unfold execRegisterWrite
  apply act_kept
  · assumption
  · intro _ _
    refine Kept.ite (fun _ => ?_) (fun _ => ?_)
    · apply writeAccess_kept
      assumption
    · split
      · apply writeBar2_kept
        assumption
      · assumption

theorem execWideRegisterRead_kept
    {path : Sys2Proof.Path} {off : Nat} {s : State} (h : Kept m p s) :
    ∃ t, execWideRegisterRead path off s = .next t ∧ Kept m p t := by
  unfold execWideRegisterRead
  apply act_kept
  · assumption
  · intro _ _
    refine Kept.ite (fun _ => ?_) (fun _ => ?_)
    · apply readAccess_kept
      assumption
    · split
      · apply emit_kept
        assumption
      · assumption

theorem execQsampRead_kept
    {path : Sys2Proof.Path} {s : State} (h : Kept m p s) :
    ∃ t, execQsampRead path s = .next t ∧ Kept m p t := by
  unfold execQsampRead
  apply act_kept
  · assumption
  · intro _ _
    apply readAccess_kept
    assumption

theorem execBar0MctpMessage_kept
    {write : Bool} {off : Nat} {width : Nat} {value : Nat} {s : State} (h : Kept m p s) :
    ∃ t, execBar0MctpMessage write off width value s = .next t ∧ Kept m p t := by
  unfold execBar0MctpMessage
  apply act_kept
  · assumption
  · intro _ _
    refine Kept.ite (fun _ => ?_) (fun _ => ?_)
    · refine Kept.ite (fun _ => ?_) (fun _ => ?_)
      · apply writeAccess_kept
        assumption
      · apply readAccess_kept
        assumption
    · assumption

end Sys2Proof.Laws
end

