-- ==== Sys2Proof/Laws/Kv.lean ====
section
/-! SUPPORT. What can be said of a computed error whatever the device's rounding is. -/

namespace Sys2Proof.Laws

open Sys2Proof Sys2Proof.Machine

/-- A drift stays within its bound. -/
theorem drift_bounds {n : Nat} {key : List Nat} {e : Int} (h : 0 ≤ e) : -e ≤ drift n key e ∧ drift n key e ≤ e := by
  unfold drift
  split
  · omega
  · omega

/-- The computed error of two rows is within its share of the exact one (R164, R165). -/
theorem computedDiff_bounds {xs ys : List Int} {diff norm : Nat} (h : diff ≠ 0) (hn : 2 ^ 200 ≤ norm) :
    diff ≤ computedDiff xs ys diff norm + diff / 2 ^ 16 + 1 ∧ computedDiff xs ys diff norm ≤ diff + diff / 2 ^ 16 + 1 := by
  unfold computedDiff
  rw [if_neg h, if_neg (Nat.not_lt.mpr hn)]
  have b := drift_bounds (n := 0) (key := (xs ++ ys).map keyNat) (e := diff / 2 ^ 16 + 1) (by omega)
  dsimp only
  omega

/-- Rows that are equal have no computed error. -/
theorem computedDiff_zero {xs ys : List Int} {norm : Nat} : computedDiff xs ys 0 norm = 0 := by
  simp [computedDiff, drift]

end Sys2Proof.Laws
end

