-- ==== Sys2Proof/Laws/State.lean ====
section
/-! SUPPORT. What each plain update of the state leaves alone, one rule for each field. -/

namespace Sys2Proof.Laws

open Sys2Proof Sys2Proof.Machine Sys2Proof.Safety

/-! ### A command's fresh state -/

@[simp] theorem fresh_model (s : State) : (fresh s).model = s.model := rfl
@[simp] theorem fresh_regs (s : State) : (fresh s).regs = s.regs := rfl
@[simp] theorem fresh_power (s : State) : (fresh s).power = s.power := rfl
@[simp] theorem fresh_nv (s : State) : (fresh s).nv = s.nv := rfl
@[simp] theorem fresh_sec (s : State) : (fresh s).sec = s.sec := rfl
@[simp] theorem fresh_cxl (s : State) : (fresh s).cxl = s.cxl := rfl
@[simp] theorem fresh_ledg (s : State) : (fresh s).ledg = s.ledg := rfl
@[simp] theorem fresh_work (s : State) : (fresh s).work = s.work := rfl
@[simp] theorem fresh_nextId (s : State) : (fresh s).nextId = s.nextId := rfl
@[simp] theorem fresh_units (s : State) : (fresh s).units = s.units := rfl
@[simp] theorem fresh_subjects (s : State) : (fresh s).subjects = s.subjects := rfl
@[simp] theorem fresh_tiles (s : State) : (fresh s).tiles = s.tiles := rfl
@[simp] theorem fresh_windows (s : State) : (fresh s).windows = s.windows := rfl
@[simp] theorem fresh_moving (s : State) : (fresh s).moving = s.moving := rfl
@[simp] theorem fresh_dir (s : State) : (fresh s).dir = s.dir := rfl
@[simp] theorem fresh_models (s : State) : (fresh s).models = s.models := rfl
@[simp] theorem fresh_vocs (s : State) : (fresh s).vocs = s.vocs := rfl
@[simp] theorem fresh_adm (s : State) : (fresh s).adm = s.adm := rfl
@[simp] theorem fresh_own (s : State) : (fresh s).own = s.own := rfl
@[simp] theorem fresh_dur (s : State) : (fresh s).dur = s.dur := rfl
@[simp] theorem fresh_flt (s : State) : (fresh s).flt = s.flt := rfl
@[simp] theorem fresh_beds (s : State) : (fresh s).beds = s.beds := rfl
@[simp] theorem fresh_obs (s : State) : (fresh s).obs = s.obs := rfl
@[simp] theorem fresh_time (s : State) : (fresh s).time = s.time := rfl
@[simp] theorem fresh_free (s : State) : (fresh s).free = s.free := rfl
@[simp] theorem fresh_pending (s : State) : (fresh s).pending = s.pending := rfl

/-! ### What is sent out -/

@[simp] theorem emit_model (s : State) (o : Out) : (emit s o).model = s.model := rfl
@[simp] theorem emit_regs (s : State) (o : Out) : (emit s o).regs = s.regs := rfl
@[simp] theorem emit_power (s : State) (o : Out) : (emit s o).power = s.power := rfl
@[simp] theorem emit_nv (s : State) (o : Out) : (emit s o).nv = s.nv := rfl
@[simp] theorem emit_sec (s : State) (o : Out) : (emit s o).sec = s.sec := rfl
@[simp] theorem emit_cxl (s : State) (o : Out) : (emit s o).cxl = s.cxl := rfl
@[simp] theorem emit_ledg (s : State) (o : Out) : (emit s o).ledg = s.ledg := rfl
@[simp] theorem emit_work (s : State) (o : Out) : (emit s o).work = s.work := rfl
@[simp] theorem emit_nextId (s : State) (o : Out) : (emit s o).nextId = s.nextId := rfl
@[simp] theorem emit_units (s : State) (o : Out) : (emit s o).units = s.units := rfl
@[simp] theorem emit_subjects (s : State) (o : Out) : (emit s o).subjects = s.subjects := rfl
@[simp] theorem emit_tiles (s : State) (o : Out) : (emit s o).tiles = s.tiles := rfl
@[simp] theorem emit_windows (s : State) (o : Out) : (emit s o).windows = s.windows := rfl
@[simp] theorem emit_moving (s : State) (o : Out) : (emit s o).moving = s.moving := rfl
@[simp] theorem emit_dir (s : State) (o : Out) : (emit s o).dir = s.dir := rfl
@[simp] theorem emit_models (s : State) (o : Out) : (emit s o).models = s.models := rfl
@[simp] theorem emit_vocs (s : State) (o : Out) : (emit s o).vocs = s.vocs := rfl
@[simp] theorem emit_adm (s : State) (o : Out) : (emit s o).adm = s.adm := rfl
@[simp] theorem emit_own (s : State) (o : Out) : (emit s o).own = s.own := rfl
@[simp] theorem emit_dur (s : State) (o : Out) : (emit s o).dur = s.dur := rfl
@[simp] theorem emit_flt (s : State) (o : Out) : (emit s o).flt = s.flt := rfl
@[simp] theorem emit_beds (s : State) (o : Out) : (emit s o).beds = s.beds := rfl
@[simp] theorem emit_obs (s : State) (o : Out) : (emit s o).obs = s.obs := rfl
@[simp] theorem emit_time (s : State) (o : Out) : (emit s o).time = s.time := rfl
@[simp] theorem emit_free (s : State) (o : Out) : (emit s o).free = s.free := rfl
@[simp] theorem emit_pending (s : State) (o : Out) : (emit s o).pending = s.pending := rfl

/-! ### Taking a free value -/

@[simp] theorem takeFree_model (s : State) : (takeFree s).model = s.model := rfl
@[simp] theorem takeFree_regs (s : State) : (takeFree s).regs = s.regs := rfl
@[simp] theorem takeFree_power (s : State) : (takeFree s).power = s.power := rfl
@[simp] theorem takeFree_nv (s : State) : (takeFree s).nv = s.nv := rfl
@[simp] theorem takeFree_sec (s : State) : (takeFree s).sec = s.sec := rfl
@[simp] theorem takeFree_cxl (s : State) : (takeFree s).cxl = s.cxl := rfl
@[simp] theorem takeFree_ledg (s : State) : (takeFree s).ledg = s.ledg := rfl
@[simp] theorem takeFree_work (s : State) : (takeFree s).work = s.work := rfl
@[simp] theorem takeFree_nextId (s : State) : (takeFree s).nextId = s.nextId := rfl
@[simp] theorem takeFree_units (s : State) : (takeFree s).units = s.units := rfl
@[simp] theorem takeFree_subjects (s : State) : (takeFree s).subjects = s.subjects := rfl
@[simp] theorem takeFree_tiles (s : State) : (takeFree s).tiles = s.tiles := rfl
@[simp] theorem takeFree_windows (s : State) : (takeFree s).windows = s.windows := rfl
@[simp] theorem takeFree_moving (s : State) : (takeFree s).moving = s.moving := rfl
@[simp] theorem takeFree_dir (s : State) : (takeFree s).dir = s.dir := rfl
@[simp] theorem takeFree_models (s : State) : (takeFree s).models = s.models := rfl
@[simp] theorem takeFree_vocs (s : State) : (takeFree s).vocs = s.vocs := rfl
@[simp] theorem takeFree_adm (s : State) : (takeFree s).adm = s.adm := rfl
@[simp] theorem takeFree_own (s : State) : (takeFree s).own = s.own := rfl
@[simp] theorem takeFree_dur (s : State) : (takeFree s).dur = s.dur := rfl
@[simp] theorem takeFree_flt (s : State) : (takeFree s).flt = s.flt := rfl
@[simp] theorem takeFree_beds (s : State) : (takeFree s).beds = s.beds := rfl
@[simp] theorem takeFree_obs (s : State) : (takeFree s).obs = s.obs := rfl
@[simp] theorem takeFree_time (s : State) : (takeFree s).time = s.time := rfl
@[simp] theorem takeFree_out (s : State) : (takeFree s).out = s.out := rfl
@[simp] theorem takeFree_pending (s : State) : (takeFree s).pending = s.pending := rfl

/-! ### Writing a register field -/

@[simp] theorem regSet_model (s : State) (f : Fld) (i v : Nat) : (regSet s f i v).model = s.model := rfl
@[simp] theorem regSet_power (s : State) (f : Fld) (i v : Nat) : (regSet s f i v).power = s.power := rfl
@[simp] theorem regSet_nv (s : State) (f : Fld) (i v : Nat) : (regSet s f i v).nv = s.nv := rfl
@[simp] theorem regSet_sec (s : State) (f : Fld) (i v : Nat) : (regSet s f i v).sec = s.sec := rfl
@[simp] theorem regSet_cxl (s : State) (f : Fld) (i v : Nat) : (regSet s f i v).cxl = s.cxl := rfl
@[simp] theorem regSet_ledg (s : State) (f : Fld) (i v : Nat) : (regSet s f i v).ledg = s.ledg := rfl
@[simp] theorem regSet_work (s : State) (f : Fld) (i v : Nat) : (regSet s f i v).work = s.work := rfl
@[simp] theorem regSet_nextId (s : State) (f : Fld) (i v : Nat) : (regSet s f i v).nextId = s.nextId := rfl
@[simp] theorem regSet_units (s : State) (f : Fld) (i v : Nat) : (regSet s f i v).units = s.units := rfl
@[simp] theorem regSet_subjects (s : State) (f : Fld) (i v : Nat) : (regSet s f i v).subjects = s.subjects := rfl
@[simp] theorem regSet_tiles (s : State) (f : Fld) (i v : Nat) : (regSet s f i v).tiles = s.tiles := rfl
@[simp] theorem regSet_windows (s : State) (f : Fld) (i v : Nat) : (regSet s f i v).windows = s.windows := rfl
@[simp] theorem regSet_moving (s : State) (f : Fld) (i v : Nat) : (regSet s f i v).moving = s.moving := rfl
@[simp] theorem regSet_dir (s : State) (f : Fld) (i v : Nat) : (regSet s f i v).dir = s.dir := rfl
@[simp] theorem regSet_models (s : State) (f : Fld) (i v : Nat) : (regSet s f i v).models = s.models := rfl
@[simp] theorem regSet_vocs (s : State) (f : Fld) (i v : Nat) : (regSet s f i v).vocs = s.vocs := rfl
@[simp] theorem regSet_adm (s : State) (f : Fld) (i v : Nat) : (regSet s f i v).adm = s.adm := rfl
@[simp] theorem regSet_own (s : State) (f : Fld) (i v : Nat) : (regSet s f i v).own = s.own := rfl
@[simp] theorem regSet_dur (s : State) (f : Fld) (i v : Nat) : (regSet s f i v).dur = s.dur := rfl
@[simp] theorem regSet_flt (s : State) (f : Fld) (i v : Nat) : (regSet s f i v).flt = s.flt := rfl
@[simp] theorem regSet_beds (s : State) (f : Fld) (i v : Nat) : (regSet s f i v).beds = s.beds := rfl
@[simp] theorem regSet_obs (s : State) (f : Fld) (i v : Nat) : (regSet s f i v).obs = s.obs := rfl
@[simp] theorem regSet_time (s : State) (f : Fld) (i v : Nat) : (regSet s f i v).time = s.time := rfl
@[simp] theorem regSet_free (s : State) (f : Fld) (i v : Nat) : (regSet s f i v).free = s.free := rfl
@[simp] theorem regSet_out (s : State) (f : Fld) (i v : Nat) : (regSet s f i v).out = s.out := rfl
@[simp] theorem regSet_pending (s : State) (f : Fld) (i v : Nat) : (regSet s f i v).pending = s.pending := rfl

/-! ### Writing a register field that has one entry -/

@[simp] theorem setReg_model (s : State) (f : Fld) (v : Nat) : (setReg s f v).model = s.model := rfl
@[simp] theorem setReg_power (s : State) (f : Fld) (v : Nat) : (setReg s f v).power = s.power := rfl
@[simp] theorem setReg_nv (s : State) (f : Fld) (v : Nat) : (setReg s f v).nv = s.nv := rfl
@[simp] theorem setReg_sec (s : State) (f : Fld) (v : Nat) : (setReg s f v).sec = s.sec := rfl
@[simp] theorem setReg_cxl (s : State) (f : Fld) (v : Nat) : (setReg s f v).cxl = s.cxl := rfl
@[simp] theorem setReg_ledg (s : State) (f : Fld) (v : Nat) : (setReg s f v).ledg = s.ledg := rfl
@[simp] theorem setReg_work (s : State) (f : Fld) (v : Nat) : (setReg s f v).work = s.work := rfl
@[simp] theorem setReg_nextId (s : State) (f : Fld) (v : Nat) : (setReg s f v).nextId = s.nextId := rfl
@[simp] theorem setReg_units (s : State) (f : Fld) (v : Nat) : (setReg s f v).units = s.units := rfl
@[simp] theorem setReg_subjects (s : State) (f : Fld) (v : Nat) : (setReg s f v).subjects = s.subjects := rfl
@[simp] theorem setReg_tiles (s : State) (f : Fld) (v : Nat) : (setReg s f v).tiles = s.tiles := rfl
@[simp] theorem setReg_windows (s : State) (f : Fld) (v : Nat) : (setReg s f v).windows = s.windows := rfl
@[simp] theorem setReg_moving (s : State) (f : Fld) (v : Nat) : (setReg s f v).moving = s.moving := rfl
@[simp] theorem setReg_dir (s : State) (f : Fld) (v : Nat) : (setReg s f v).dir = s.dir := rfl
@[simp] theorem setReg_models (s : State) (f : Fld) (v : Nat) : (setReg s f v).models = s.models := rfl
@[simp] theorem setReg_vocs (s : State) (f : Fld) (v : Nat) : (setReg s f v).vocs = s.vocs := rfl
@[simp] theorem setReg_adm (s : State) (f : Fld) (v : Nat) : (setReg s f v).adm = s.adm := rfl
@[simp] theorem setReg_own (s : State) (f : Fld) (v : Nat) : (setReg s f v).own = s.own := rfl
@[simp] theorem setReg_dur (s : State) (f : Fld) (v : Nat) : (setReg s f v).dur = s.dur := rfl
@[simp] theorem setReg_flt (s : State) (f : Fld) (v : Nat) : (setReg s f v).flt = s.flt := rfl
@[simp] theorem setReg_beds (s : State) (f : Fld) (v : Nat) : (setReg s f v).beds = s.beds := rfl
@[simp] theorem setReg_obs (s : State) (f : Fld) (v : Nat) : (setReg s f v).obs = s.obs := rfl
@[simp] theorem setReg_time (s : State) (f : Fld) (v : Nat) : (setReg s f v).time = s.time := rfl
@[simp] theorem setReg_free (s : State) (f : Fld) (v : Nat) : (setReg s f v).free = s.free := rfl
@[simp] theorem setReg_out (s : State) (f : Fld) (v : Nat) : (setReg s f v).out = s.out := rfl
@[simp] theorem setReg_pending (s : State) (f : Fld) (v : Nat) : (setReg s f v).pending = s.pending := rfl

/-! ### A counter -/

@[simp] theorem regAdd_model (s : State) (f : Fld) (i n w : Nat) : (regAdd s f i n w).model = s.model := rfl
@[simp] theorem regAdd_power (s : State) (f : Fld) (i n w : Nat) : (regAdd s f i n w).power = s.power := rfl
@[simp] theorem regAdd_nv (s : State) (f : Fld) (i n w : Nat) : (regAdd s f i n w).nv = s.nv := rfl
@[simp] theorem regAdd_sec (s : State) (f : Fld) (i n w : Nat) : (regAdd s f i n w).sec = s.sec := rfl
@[simp] theorem regAdd_cxl (s : State) (f : Fld) (i n w : Nat) : (regAdd s f i n w).cxl = s.cxl := rfl
@[simp] theorem regAdd_ledg (s : State) (f : Fld) (i n w : Nat) : (regAdd s f i n w).ledg = s.ledg := rfl
@[simp] theorem regAdd_work (s : State) (f : Fld) (i n w : Nat) : (regAdd s f i n w).work = s.work := rfl
@[simp] theorem regAdd_nextId (s : State) (f : Fld) (i n w : Nat) : (regAdd s f i n w).nextId = s.nextId := rfl
@[simp] theorem regAdd_units (s : State) (f : Fld) (i n w : Nat) : (regAdd s f i n w).units = s.units := rfl
@[simp] theorem regAdd_subjects (s : State) (f : Fld) (i n w : Nat) : (regAdd s f i n w).subjects = s.subjects := rfl
@[simp] theorem regAdd_tiles (s : State) (f : Fld) (i n w : Nat) : (regAdd s f i n w).tiles = s.tiles := rfl
@[simp] theorem regAdd_windows (s : State) (f : Fld) (i n w : Nat) : (regAdd s f i n w).windows = s.windows := rfl
@[simp] theorem regAdd_moving (s : State) (f : Fld) (i n w : Nat) : (regAdd s f i n w).moving = s.moving := rfl
@[simp] theorem regAdd_dir (s : State) (f : Fld) (i n w : Nat) : (regAdd s f i n w).dir = s.dir := rfl
@[simp] theorem regAdd_models (s : State) (f : Fld) (i n w : Nat) : (regAdd s f i n w).models = s.models := rfl
@[simp] theorem regAdd_vocs (s : State) (f : Fld) (i n w : Nat) : (regAdd s f i n w).vocs = s.vocs := rfl
@[simp] theorem regAdd_adm (s : State) (f : Fld) (i n w : Nat) : (regAdd s f i n w).adm = s.adm := rfl
@[simp] theorem regAdd_own (s : State) (f : Fld) (i n w : Nat) : (regAdd s f i n w).own = s.own := rfl
@[simp] theorem regAdd_dur (s : State) (f : Fld) (i n w : Nat) : (regAdd s f i n w).dur = s.dur := rfl
@[simp] theorem regAdd_flt (s : State) (f : Fld) (i n w : Nat) : (regAdd s f i n w).flt = s.flt := rfl
@[simp] theorem regAdd_beds (s : State) (f : Fld) (i n w : Nat) : (regAdd s f i n w).beds = s.beds := rfl
@[simp] theorem regAdd_obs (s : State) (f : Fld) (i n w : Nat) : (regAdd s f i n w).obs = s.obs := rfl
@[simp] theorem regAdd_time (s : State) (f : Fld) (i n w : Nat) : (regAdd s f i n w).time = s.time := rfl
@[simp] theorem regAdd_free (s : State) (f : Fld) (i n w : Nat) : (regAdd s f i n w).free = s.free := rfl
@[simp] theorem regAdd_out (s : State) (f : Fld) (i n w : Nat) : (regAdd s f i n w).out = s.out := rfl
@[simp] theorem regAdd_pending (s : State) (f : Fld) (i n w : Nat) : (regAdd s f i n w).pending = s.pending := rfl

/-! ### Changing a subject -/

@[simp] theorem updSubj_model (s : State) (h : Nat) (f : Subject → Subject) : (updSubj s h f).model = s.model := rfl
@[simp] theorem updSubj_regs (s : State) (h : Nat) (f : Subject → Subject) : (updSubj s h f).regs = s.regs := rfl
@[simp] theorem updSubj_power (s : State) (h : Nat) (f : Subject → Subject) : (updSubj s h f).power = s.power := rfl
@[simp] theorem updSubj_nv (s : State) (h : Nat) (f : Subject → Subject) : (updSubj s h f).nv = s.nv := rfl
@[simp] theorem updSubj_sec (s : State) (h : Nat) (f : Subject → Subject) : (updSubj s h f).sec = s.sec := rfl
@[simp] theorem updSubj_cxl (s : State) (h : Nat) (f : Subject → Subject) : (updSubj s h f).cxl = s.cxl := rfl
@[simp] theorem updSubj_ledg (s : State) (h : Nat) (f : Subject → Subject) : (updSubj s h f).ledg = s.ledg := rfl
@[simp] theorem updSubj_work (s : State) (h : Nat) (f : Subject → Subject) : (updSubj s h f).work = s.work := rfl
@[simp] theorem updSubj_nextId (s : State) (h : Nat) (f : Subject → Subject) : (updSubj s h f).nextId = s.nextId := rfl
@[simp] theorem updSubj_units (s : State) (h : Nat) (f : Subject → Subject) : (updSubj s h f).units = s.units := rfl
@[simp] theorem updSubj_tiles (s : State) (h : Nat) (f : Subject → Subject) : (updSubj s h f).tiles = s.tiles := rfl
@[simp] theorem updSubj_windows (s : State) (h : Nat) (f : Subject → Subject) : (updSubj s h f).windows = s.windows := rfl
@[simp] theorem updSubj_moving (s : State) (h : Nat) (f : Subject → Subject) : (updSubj s h f).moving = s.moving := rfl
@[simp] theorem updSubj_dir (s : State) (h : Nat) (f : Subject → Subject) : (updSubj s h f).dir = s.dir := rfl
@[simp] theorem updSubj_models (s : State) (h : Nat) (f : Subject → Subject) : (updSubj s h f).models = s.models := rfl
@[simp] theorem updSubj_vocs (s : State) (h : Nat) (f : Subject → Subject) : (updSubj s h f).vocs = s.vocs := rfl
@[simp] theorem updSubj_adm (s : State) (h : Nat) (f : Subject → Subject) : (updSubj s h f).adm = s.adm := rfl
@[simp] theorem updSubj_own (s : State) (h : Nat) (f : Subject → Subject) : (updSubj s h f).own = s.own := rfl
@[simp] theorem updSubj_dur (s : State) (h : Nat) (f : Subject → Subject) : (updSubj s h f).dur = s.dur := rfl
@[simp] theorem updSubj_flt (s : State) (h : Nat) (f : Subject → Subject) : (updSubj s h f).flt = s.flt := rfl
@[simp] theorem updSubj_beds (s : State) (h : Nat) (f : Subject → Subject) : (updSubj s h f).beds = s.beds := rfl
@[simp] theorem updSubj_obs (s : State) (h : Nat) (f : Subject → Subject) : (updSubj s h f).obs = s.obs := rfl
@[simp] theorem updSubj_time (s : State) (h : Nat) (f : Subject → Subject) : (updSubj s h f).time = s.time := rfl
@[simp] theorem updSubj_free (s : State) (h : Nat) (f : Subject → Subject) : (updSubj s h f).free = s.free := rfl
@[simp] theorem updSubj_out (s : State) (h : Nat) (f : Subject → Subject) : (updSubj s h f).out = s.out := rfl
@[simp] theorem updSubj_pending (s : State) (h : Nat) (f : Subject → Subject) : (updSubj s h f).pending = s.pending := rfl

/-! ### Replacing a tile -/

@[simp] theorem putTile_model (s : State) (t : Tile) : (putTile s t).model = s.model := rfl
@[simp] theorem putTile_regs (s : State) (t : Tile) : (putTile s t).regs = s.regs := rfl
@[simp] theorem putTile_power (s : State) (t : Tile) : (putTile s t).power = s.power := rfl
@[simp] theorem putTile_nv (s : State) (t : Tile) : (putTile s t).nv = s.nv := rfl
@[simp] theorem putTile_sec (s : State) (t : Tile) : (putTile s t).sec = s.sec := rfl
@[simp] theorem putTile_cxl (s : State) (t : Tile) : (putTile s t).cxl = s.cxl := rfl
@[simp] theorem putTile_ledg (s : State) (t : Tile) : (putTile s t).ledg = s.ledg := rfl
@[simp] theorem putTile_work (s : State) (t : Tile) : (putTile s t).work = s.work := rfl
@[simp] theorem putTile_nextId (s : State) (t : Tile) : (putTile s t).nextId = s.nextId := rfl
@[simp] theorem putTile_units (s : State) (t : Tile) : (putTile s t).units = s.units := rfl
@[simp] theorem putTile_subjects (s : State) (t : Tile) : (putTile s t).subjects = s.subjects := rfl
@[simp] theorem putTile_windows (s : State) (t : Tile) : (putTile s t).windows = s.windows := rfl
@[simp] theorem putTile_moving (s : State) (t : Tile) : (putTile s t).moving = s.moving := rfl
@[simp] theorem putTile_dir (s : State) (t : Tile) : (putTile s t).dir = s.dir := rfl
@[simp] theorem putTile_models (s : State) (t : Tile) : (putTile s t).models = s.models := rfl
@[simp] theorem putTile_vocs (s : State) (t : Tile) : (putTile s t).vocs = s.vocs := rfl
@[simp] theorem putTile_adm (s : State) (t : Tile) : (putTile s t).adm = s.adm := rfl
@[simp] theorem putTile_own (s : State) (t : Tile) : (putTile s t).own = s.own := rfl
@[simp] theorem putTile_flt (s : State) (t : Tile) : (putTile s t).flt = s.flt := rfl
@[simp] theorem putTile_beds (s : State) (t : Tile) : (putTile s t).beds = s.beds := rfl
@[simp] theorem putTile_obs (s : State) (t : Tile) : (putTile s t).obs = s.obs := rfl
@[simp] theorem putTile_time (s : State) (t : Tile) : (putTile s t).time = s.time := rfl
@[simp] theorem putTile_free (s : State) (t : Tile) : (putTile s t).free = s.free := rfl
@[simp] theorem putTile_out (s : State) (t : Tile) : (putTile s t).out = s.out := rfl
@[simp] theorem putTile_pending (s : State) (t : Tile) : (putTile s t).pending = s.pending := rfl

/-! ### Changing a tile -/

@[simp] theorem updTile_model (s : State) (h n : Nat) (f : Tile → Tile) : (updTile s h n f).model = s.model := rfl
@[simp] theorem updTile_regs (s : State) (h n : Nat) (f : Tile → Tile) : (updTile s h n f).regs = s.regs := rfl
@[simp] theorem updTile_power (s : State) (h n : Nat) (f : Tile → Tile) : (updTile s h n f).power = s.power := rfl
@[simp] theorem updTile_nv (s : State) (h n : Nat) (f : Tile → Tile) : (updTile s h n f).nv = s.nv := rfl
@[simp] theorem updTile_sec (s : State) (h n : Nat) (f : Tile → Tile) : (updTile s h n f).sec = s.sec := rfl
@[simp] theorem updTile_cxl (s : State) (h n : Nat) (f : Tile → Tile) : (updTile s h n f).cxl = s.cxl := rfl
@[simp] theorem updTile_ledg (s : State) (h n : Nat) (f : Tile → Tile) : (updTile s h n f).ledg = s.ledg := rfl
@[simp] theorem updTile_work (s : State) (h n : Nat) (f : Tile → Tile) : (updTile s h n f).work = s.work := rfl
@[simp] theorem updTile_nextId (s : State) (h n : Nat) (f : Tile → Tile) : (updTile s h n f).nextId = s.nextId := rfl
@[simp] theorem updTile_units (s : State) (h n : Nat) (f : Tile → Tile) : (updTile s h n f).units = s.units := rfl
@[simp] theorem updTile_subjects (s : State) (h n : Nat) (f : Tile → Tile) : (updTile s h n f).subjects = s.subjects := rfl
@[simp] theorem updTile_windows (s : State) (h n : Nat) (f : Tile → Tile) : (updTile s h n f).windows = s.windows := rfl
@[simp] theorem updTile_moving (s : State) (h n : Nat) (f : Tile → Tile) : (updTile s h n f).moving = s.moving := rfl
@[simp] theorem updTile_dir (s : State) (h n : Nat) (f : Tile → Tile) : (updTile s h n f).dir = s.dir := rfl
@[simp] theorem updTile_models (s : State) (h n : Nat) (f : Tile → Tile) : (updTile s h n f).models = s.models := rfl
@[simp] theorem updTile_vocs (s : State) (h n : Nat) (f : Tile → Tile) : (updTile s h n f).vocs = s.vocs := rfl
@[simp] theorem updTile_adm (s : State) (h n : Nat) (f : Tile → Tile) : (updTile s h n f).adm = s.adm := rfl
@[simp] theorem updTile_own (s : State) (h n : Nat) (f : Tile → Tile) : (updTile s h n f).own = s.own := rfl
@[simp] theorem updTile_dur (s : State) (h n : Nat) (f : Tile → Tile) : (updTile s h n f).dur = s.dur := rfl
@[simp] theorem updTile_flt (s : State) (h n : Nat) (f : Tile → Tile) : (updTile s h n f).flt = s.flt := rfl
@[simp] theorem updTile_beds (s : State) (h n : Nat) (f : Tile → Tile) : (updTile s h n f).beds = s.beds := rfl
@[simp] theorem updTile_obs (s : State) (h n : Nat) (f : Tile → Tile) : (updTile s h n f).obs = s.obs := rfl
@[simp] theorem updTile_time (s : State) (h n : Nat) (f : Tile → Tile) : (updTile s h n f).time = s.time := rfl
@[simp] theorem updTile_free (s : State) (h n : Nat) (f : Tile → Tile) : (updTile s h n f).free = s.free := rfl
@[simp] theorem updTile_out (s : State) (h n : Nat) (f : Tile → Tile) : (updTile s h n f).out = s.out := rfl
@[simp] theorem updTile_pending (s : State) (h n : Nat) (f : Tile → Tile) : (updTile s h n f).pending = s.pending := rfl

/-! ### Changing a work -/

@[simp] theorem updWork_model (s : State) (id : Nat) (f : Work → Work) : (updWork s id f).model = s.model := rfl
@[simp] theorem updWork_regs (s : State) (id : Nat) (f : Work → Work) : (updWork s id f).regs = s.regs := rfl
@[simp] theorem updWork_power (s : State) (id : Nat) (f : Work → Work) : (updWork s id f).power = s.power := rfl
@[simp] theorem updWork_nv (s : State) (id : Nat) (f : Work → Work) : (updWork s id f).nv = s.nv := rfl
@[simp] theorem updWork_sec (s : State) (id : Nat) (f : Work → Work) : (updWork s id f).sec = s.sec := rfl
@[simp] theorem updWork_cxl (s : State) (id : Nat) (f : Work → Work) : (updWork s id f).cxl = s.cxl := rfl
@[simp] theorem updWork_ledg (s : State) (id : Nat) (f : Work → Work) : (updWork s id f).ledg = s.ledg := rfl
@[simp] theorem updWork_nextId (s : State) (id : Nat) (f : Work → Work) : (updWork s id f).nextId = s.nextId := rfl
@[simp] theorem updWork_units (s : State) (id : Nat) (f : Work → Work) : (updWork s id f).units = s.units := rfl
@[simp] theorem updWork_subjects (s : State) (id : Nat) (f : Work → Work) : (updWork s id f).subjects = s.subjects := rfl
@[simp] theorem updWork_tiles (s : State) (id : Nat) (f : Work → Work) : (updWork s id f).tiles = s.tiles := rfl
@[simp] theorem updWork_windows (s : State) (id : Nat) (f : Work → Work) : (updWork s id f).windows = s.windows := rfl
@[simp] theorem updWork_moving (s : State) (id : Nat) (f : Work → Work) : (updWork s id f).moving = s.moving := rfl
@[simp] theorem updWork_dir (s : State) (id : Nat) (f : Work → Work) : (updWork s id f).dir = s.dir := rfl
@[simp] theorem updWork_models (s : State) (id : Nat) (f : Work → Work) : (updWork s id f).models = s.models := rfl
@[simp] theorem updWork_vocs (s : State) (id : Nat) (f : Work → Work) : (updWork s id f).vocs = s.vocs := rfl
@[simp] theorem updWork_adm (s : State) (id : Nat) (f : Work → Work) : (updWork s id f).adm = s.adm := rfl
@[simp] theorem updWork_own (s : State) (id : Nat) (f : Work → Work) : (updWork s id f).own = s.own := rfl
@[simp] theorem updWork_dur (s : State) (id : Nat) (f : Work → Work) : (updWork s id f).dur = s.dur := rfl
@[simp] theorem updWork_flt (s : State) (id : Nat) (f : Work → Work) : (updWork s id f).flt = s.flt := rfl
@[simp] theorem updWork_beds (s : State) (id : Nat) (f : Work → Work) : (updWork s id f).beds = s.beds := rfl
@[simp] theorem updWork_obs (s : State) (id : Nat) (f : Work → Work) : (updWork s id f).obs = s.obs := rfl
@[simp] theorem updWork_time (s : State) (id : Nat) (f : Work → Work) : (updWork s id f).time = s.time := rfl
@[simp] theorem updWork_free (s : State) (id : Nat) (f : Work → Work) : (updWork s id f).free = s.free := rfl
@[simp] theorem updWork_out (s : State) (id : Nat) (f : Work → Work) : (updWork s id f).out = s.out := rfl
@[simp] theorem updWork_pending (s : State) (id : Nat) (f : Work → Work) : (updWork s id f).pending = s.pending := rfl

/-! ### Gathering an effect -/

@[simp] theorem addEff_model (s : State) (id : Nat) (e : Effect) : (addEff s id e).model = s.model := rfl
@[simp] theorem addEff_regs (s : State) (id : Nat) (e : Effect) : (addEff s id e).regs = s.regs := rfl
@[simp] theorem addEff_power (s : State) (id : Nat) (e : Effect) : (addEff s id e).power = s.power := rfl
@[simp] theorem addEff_nv (s : State) (id : Nat) (e : Effect) : (addEff s id e).nv = s.nv := rfl
@[simp] theorem addEff_sec (s : State) (id : Nat) (e : Effect) : (addEff s id e).sec = s.sec := rfl
@[simp] theorem addEff_cxl (s : State) (id : Nat) (e : Effect) : (addEff s id e).cxl = s.cxl := rfl
@[simp] theorem addEff_ledg (s : State) (id : Nat) (e : Effect) : (addEff s id e).ledg = s.ledg := rfl
@[simp] theorem addEff_nextId (s : State) (id : Nat) (e : Effect) : (addEff s id e).nextId = s.nextId := rfl
@[simp] theorem addEff_units (s : State) (id : Nat) (e : Effect) : (addEff s id e).units = s.units := rfl
@[simp] theorem addEff_subjects (s : State) (id : Nat) (e : Effect) : (addEff s id e).subjects = s.subjects := rfl
@[simp] theorem addEff_tiles (s : State) (id : Nat) (e : Effect) : (addEff s id e).tiles = s.tiles := rfl
@[simp] theorem addEff_windows (s : State) (id : Nat) (e : Effect) : (addEff s id e).windows = s.windows := rfl
@[simp] theorem addEff_moving (s : State) (id : Nat) (e : Effect) : (addEff s id e).moving = s.moving := rfl
@[simp] theorem addEff_dir (s : State) (id : Nat) (e : Effect) : (addEff s id e).dir = s.dir := rfl
@[simp] theorem addEff_models (s : State) (id : Nat) (e : Effect) : (addEff s id e).models = s.models := rfl
@[simp] theorem addEff_vocs (s : State) (id : Nat) (e : Effect) : (addEff s id e).vocs = s.vocs := rfl
@[simp] theorem addEff_adm (s : State) (id : Nat) (e : Effect) : (addEff s id e).adm = s.adm := rfl
@[simp] theorem addEff_own (s : State) (id : Nat) (e : Effect) : (addEff s id e).own = s.own := rfl
@[simp] theorem addEff_dur (s : State) (id : Nat) (e : Effect) : (addEff s id e).dur = s.dur := rfl
@[simp] theorem addEff_flt (s : State) (id : Nat) (e : Effect) : (addEff s id e).flt = s.flt := rfl
@[simp] theorem addEff_beds (s : State) (id : Nat) (e : Effect) : (addEff s id e).beds = s.beds := rfl
@[simp] theorem addEff_obs (s : State) (id : Nat) (e : Effect) : (addEff s id e).obs = s.obs := rfl
@[simp] theorem addEff_time (s : State) (id : Nat) (e : Effect) : (addEff s id e).time = s.time := rfl
@[simp] theorem addEff_free (s : State) (id : Nat) (e : Effect) : (addEff s id e).free = s.free := rfl
@[simp] theorem addEff_out (s : State) (id : Nat) (e : Effect) : (addEff s id e).out = s.out := rfl
@[simp] theorem addEff_pending (s : State) (id : Nat) (e : Effect) : (addEff s id e).pending = s.pending := rfl

/-! ### Ending a work -/

@[simp] theorem finish_model (s : State) (id status : Nat) (result : List Byte) (effects : List Effect) : (finish s id status result effects).model = s.model := rfl
@[simp] theorem finish_regs (s : State) (id status : Nat) (result : List Byte) (effects : List Effect) : (finish s id status result effects).regs = s.regs := rfl
@[simp] theorem finish_power (s : State) (id status : Nat) (result : List Byte) (effects : List Effect) : (finish s id status result effects).power = s.power := rfl
@[simp] theorem finish_nv (s : State) (id status : Nat) (result : List Byte) (effects : List Effect) : (finish s id status result effects).nv = s.nv := rfl
@[simp] theorem finish_sec (s : State) (id status : Nat) (result : List Byte) (effects : List Effect) : (finish s id status result effects).sec = s.sec := rfl
@[simp] theorem finish_cxl (s : State) (id status : Nat) (result : List Byte) (effects : List Effect) : (finish s id status result effects).cxl = s.cxl := rfl
@[simp] theorem finish_ledg (s : State) (id status : Nat) (result : List Byte) (effects : List Effect) : (finish s id status result effects).ledg = s.ledg := rfl
@[simp] theorem finish_nextId (s : State) (id status : Nat) (result : List Byte) (effects : List Effect) : (finish s id status result effects).nextId = s.nextId := rfl
@[simp] theorem finish_units (s : State) (id status : Nat) (result : List Byte) (effects : List Effect) : (finish s id status result effects).units = s.units := rfl
@[simp] theorem finish_subjects (s : State) (id status : Nat) (result : List Byte) (effects : List Effect) : (finish s id status result effects).subjects = s.subjects := rfl
@[simp] theorem finish_tiles (s : State) (id status : Nat) (result : List Byte) (effects : List Effect) : (finish s id status result effects).tiles = s.tiles := rfl
@[simp] theorem finish_windows (s : State) (id status : Nat) (result : List Byte) (effects : List Effect) : (finish s id status result effects).windows = s.windows := rfl
@[simp] theorem finish_moving (s : State) (id status : Nat) (result : List Byte) (effects : List Effect) : (finish s id status result effects).moving = s.moving := rfl
@[simp] theorem finish_dir (s : State) (id status : Nat) (result : List Byte) (effects : List Effect) : (finish s id status result effects).dir = s.dir := rfl
@[simp] theorem finish_models (s : State) (id status : Nat) (result : List Byte) (effects : List Effect) : (finish s id status result effects).models = s.models := rfl
@[simp] theorem finish_vocs (s : State) (id status : Nat) (result : List Byte) (effects : List Effect) : (finish s id status result effects).vocs = s.vocs := rfl
@[simp] theorem finish_adm (s : State) (id status : Nat) (result : List Byte) (effects : List Effect) : (finish s id status result effects).adm = s.adm := rfl
@[simp] theorem finish_own (s : State) (id status : Nat) (result : List Byte) (effects : List Effect) : (finish s id status result effects).own = s.own := rfl
@[simp] theorem finish_dur (s : State) (id status : Nat) (result : List Byte) (effects : List Effect) : (finish s id status result effects).dur = s.dur := rfl
@[simp] theorem finish_flt (s : State) (id status : Nat) (result : List Byte) (effects : List Effect) : (finish s id status result effects).flt = s.flt := rfl
@[simp] theorem finish_beds (s : State) (id status : Nat) (result : List Byte) (effects : List Effect) : (finish s id status result effects).beds = s.beds := rfl
@[simp] theorem finish_obs (s : State) (id status : Nat) (result : List Byte) (effects : List Effect) : (finish s id status result effects).obs = s.obs := rfl
@[simp] theorem finish_time (s : State) (id status : Nat) (result : List Byte) (effects : List Effect) : (finish s id status result effects).time = s.time := rfl
@[simp] theorem finish_free (s : State) (id status : Nat) (result : List Byte) (effects : List Effect) : (finish s id status result effects).free = s.free := rfl
@[simp] theorem finish_out (s : State) (id status : Nat) (result : List Byte) (effects : List Effect) : (finish s id status result effects).out = s.out := rfl
@[simp] theorem finish_pending (s : State) (id status : Nat) (result : List Byte) (effects : List Effect) : (finish s id status result effects).pending = s.pending := rfl

/-! ### Ending a work without effect -/

@[simp] theorem fail_model (s : State) (id status : Nat) : (fail s id status).model = s.model := rfl
@[simp] theorem fail_regs (s : State) (id status : Nat) : (fail s id status).regs = s.regs := rfl
@[simp] theorem fail_power (s : State) (id status : Nat) : (fail s id status).power = s.power := rfl
@[simp] theorem fail_nv (s : State) (id status : Nat) : (fail s id status).nv = s.nv := rfl
@[simp] theorem fail_sec (s : State) (id status : Nat) : (fail s id status).sec = s.sec := rfl
@[simp] theorem fail_cxl (s : State) (id status : Nat) : (fail s id status).cxl = s.cxl := rfl
@[simp] theorem fail_ledg (s : State) (id status : Nat) : (fail s id status).ledg = s.ledg := rfl
@[simp] theorem fail_nextId (s : State) (id status : Nat) : (fail s id status).nextId = s.nextId := rfl
@[simp] theorem fail_units (s : State) (id status : Nat) : (fail s id status).units = s.units := rfl
@[simp] theorem fail_subjects (s : State) (id status : Nat) : (fail s id status).subjects = s.subjects := rfl
@[simp] theorem fail_tiles (s : State) (id status : Nat) : (fail s id status).tiles = s.tiles := rfl
@[simp] theorem fail_windows (s : State) (id status : Nat) : (fail s id status).windows = s.windows := rfl
@[simp] theorem fail_moving (s : State) (id status : Nat) : (fail s id status).moving = s.moving := rfl
@[simp] theorem fail_dir (s : State) (id status : Nat) : (fail s id status).dir = s.dir := rfl
@[simp] theorem fail_models (s : State) (id status : Nat) : (fail s id status).models = s.models := rfl
@[simp] theorem fail_vocs (s : State) (id status : Nat) : (fail s id status).vocs = s.vocs := rfl
@[simp] theorem fail_adm (s : State) (id status : Nat) : (fail s id status).adm = s.adm := rfl
@[simp] theorem fail_own (s : State) (id status : Nat) : (fail s id status).own = s.own := rfl
@[simp] theorem fail_dur (s : State) (id status : Nat) : (fail s id status).dur = s.dur := rfl
@[simp] theorem fail_flt (s : State) (id status : Nat) : (fail s id status).flt = s.flt := rfl
@[simp] theorem fail_beds (s : State) (id status : Nat) : (fail s id status).beds = s.beds := rfl
@[simp] theorem fail_obs (s : State) (id status : Nat) : (fail s id status).obs = s.obs := rfl
@[simp] theorem fail_time (s : State) (id status : Nat) : (fail s id status).time = s.time := rfl
@[simp] theorem fail_free (s : State) (id status : Nat) : (fail s id status).free = s.free := rfl
@[simp] theorem fail_out (s : State) (id status : Nat) : (fail s id status).out = s.out := rfl
@[simp] theorem fail_pending (s : State) (id status : Nat) : (fail s id status).pending = s.pending := rfl

/-! ### Changing a bed -/

@[simp] theorem updBed_model (s : State) (b : Nat) (f : Bed → Bed) : (updBed s b f).model = s.model := rfl
@[simp] theorem updBed_regs (s : State) (b : Nat) (f : Bed → Bed) : (updBed s b f).regs = s.regs := rfl
@[simp] theorem updBed_power (s : State) (b : Nat) (f : Bed → Bed) : (updBed s b f).power = s.power := rfl
@[simp] theorem updBed_nv (s : State) (b : Nat) (f : Bed → Bed) : (updBed s b f).nv = s.nv := rfl
@[simp] theorem updBed_sec (s : State) (b : Nat) (f : Bed → Bed) : (updBed s b f).sec = s.sec := rfl
@[simp] theorem updBed_cxl (s : State) (b : Nat) (f : Bed → Bed) : (updBed s b f).cxl = s.cxl := rfl
@[simp] theorem updBed_ledg (s : State) (b : Nat) (f : Bed → Bed) : (updBed s b f).ledg = s.ledg := rfl
@[simp] theorem updBed_work (s : State) (b : Nat) (f : Bed → Bed) : (updBed s b f).work = s.work := rfl
@[simp] theorem updBed_nextId (s : State) (b : Nat) (f : Bed → Bed) : (updBed s b f).nextId = s.nextId := rfl
@[simp] theorem updBed_units (s : State) (b : Nat) (f : Bed → Bed) : (updBed s b f).units = s.units := rfl
@[simp] theorem updBed_subjects (s : State) (b : Nat) (f : Bed → Bed) : (updBed s b f).subjects = s.subjects := rfl
@[simp] theorem updBed_tiles (s : State) (b : Nat) (f : Bed → Bed) : (updBed s b f).tiles = s.tiles := rfl
@[simp] theorem updBed_windows (s : State) (b : Nat) (f : Bed → Bed) : (updBed s b f).windows = s.windows := rfl
@[simp] theorem updBed_moving (s : State) (b : Nat) (f : Bed → Bed) : (updBed s b f).moving = s.moving := rfl
@[simp] theorem updBed_dir (s : State) (b : Nat) (f : Bed → Bed) : (updBed s b f).dir = s.dir := rfl
@[simp] theorem updBed_models (s : State) (b : Nat) (f : Bed → Bed) : (updBed s b f).models = s.models := rfl
@[simp] theorem updBed_vocs (s : State) (b : Nat) (f : Bed → Bed) : (updBed s b f).vocs = s.vocs := rfl
@[simp] theorem updBed_adm (s : State) (b : Nat) (f : Bed → Bed) : (updBed s b f).adm = s.adm := rfl
@[simp] theorem updBed_own (s : State) (b : Nat) (f : Bed → Bed) : (updBed s b f).own = s.own := rfl
@[simp] theorem updBed_dur (s : State) (b : Nat) (f : Bed → Bed) : (updBed s b f).dur = s.dur := rfl
@[simp] theorem updBed_flt (s : State) (b : Nat) (f : Bed → Bed) : (updBed s b f).flt = s.flt := rfl
@[simp] theorem updBed_obs (s : State) (b : Nat) (f : Bed → Bed) : (updBed s b f).obs = s.obs := rfl
@[simp] theorem updBed_time (s : State) (b : Nat) (f : Bed → Bed) : (updBed s b f).time = s.time := rfl
@[simp] theorem updBed_free (s : State) (b : Nat) (f : Bed → Bed) : (updBed s b f).free = s.free := rfl
@[simp] theorem updBed_out (s : State) (b : Nat) (f : Bed → Bed) : (updBed s b f).out = s.out := rfl
@[simp] theorem updBed_pending (s : State) (b : Nat) (f : Bed → Bed) : (updBed s b f).pending = s.pending := rfl

/-! ### Reading a fresh state -/

@[simp] theorem fresh_out (s : State) : (fresh s).out = [] := rfl
@[simp] theorem regGet_fresh (s : State) (f : Fld) (i : Nat) : regGet (fresh s) f i = regGet s f i := rfl
@[simp] theorem reg_fresh (s : State) (f : Fld) : reg (fresh s) f = reg s f := rfl
@[simp] theorem running_fresh (s : State) : running (fresh s) = running s := rfl
@[simp] theorem powered_fresh (s : State) : powered (fresh s) = powered s := rfl
@[simp] theorem inFailed_fresh (s : State) : inFailed (fresh s) = inFailed s := rfl
@[simp] theorem workOf_fresh (s : State) (id : Nat) : workOf (fresh s) id = workOf s id := rfl
@[simp] theorem tileOf_fresh (s : State) (h n : Nat) : tileOf (fresh s) h n = tileOf s h n := rfl
@[simp] theorem subjOf_fresh (s : State) (h : Nat) : subjOf (fresh s) h = subjOf s h := rfl
@[simp] theorem subjAny_fresh (s : State) (h : Nat) : subjAny (fresh s) h = subjAny s h := rfl
@[simp] theorem slotState_fresh (s : State) (k : Nat) : slotState (fresh s) k = slotState s k := rfl
@[simp] theorem slotActive_fresh (s : State) (k : Nat) : slotActive (fresh s) k = slotActive s k := rfl
@[simp] theorem emit_out (s : State) (o : Out) : (emit s o).out = s.out ++ [o] := rfl
@[simp] theorem takeFree_free (s : State) : (takeFree s).free = s.free + 1 := rfl

/-- A meaning runs on the fresh state and answers a next state. -/
theorem act_fresh (s : State) (f : State → State) : act s f = .next (f (fresh s)) := rfl

end Sys2Proof.Laws
end

