-- ==== Sys2Proof/Laws/Work.lean ====
section
/-! SUPPORT. How a command reaches its effect: one rule for each guard that the meanings share. A meaning's proof cites these and
unfolds none of the guards. -/

namespace Sys2Proof.Laws

open Sys2Proof Sys2Proof.Machine Sys2Proof.Safety

/-- A work that can run now runs its effect. -/
theorem run_begun {s : State} {id : Nat} {w : Work} {ok : Work → Bool} {f : State → Work → State}
    (h : canRun s id w = true) (hok : ok w = true) : runWork id ok f (fresh s) = f (begun s w) w := by
  simp only [canRun, Bool.and_eq_true, beq_iff_eq, Bool.not_eq_true'] at h
  obtain ⟨⟨⟨⟨hr, hw⟩, hs⟩, hp⟩, hg⟩ := h
  have hr' : running (fresh s) = true := hr
  have hw' : workOf (fresh s) id = some w := hw
  have hp' : behindPark (fresh s) w = false := hp
  unfold startable at hg
  unfold begun runWork
  simp only [hr', hw', hok, hs, hp', Bool.not_true, Bool.or_false, Bool.false_eq_true, if_false]
  split at hg
  · rename_i l hl
    simp [startWork, hl]
  · rename_i k hk
    have := of_decide_eq_true hg
    simp [hk, Nat.not_lt.mpr this]
  · cases hg

/-- Checks that all pass run what follows. -/
theorem checked_pass {s : State} {w : Work} {l : List Chk} {f : State → State} (h : passes l = true) :
    checked s w l f = f s := by
  unfold passes at h
  unfold checked
  split
  · rename_i c hc
    rw [hc] at h
    cases h
  · rfl

/-- The first check that fails ends the work. -/
theorem checked_fail {s : State} {w : Work} {l : List Chk} {f : State → State} {c : Chk} (h : firstFail l = some c) :
    checked s w l f = failChk s w c := by
  unfold checked
  rw [h]

/-- A subject that is held here for the tenant reaches the effect. -/
theorem withSubject_held {s : State} {w : Work} {x : Subject} {f : Subject → State}
    (h : heldFor s w.hdr.keySlot (subjectOf w) = some x) : withSubject s w f = f x := by
  unfold withSubject
  rw [h]

/-- A subject that is not held here for the tenant ends the work with NOT_OWNER (R58). -/
theorem withSubject_absent {s : State} {w : Work} {f : Subject → State}
    (h : heldFor s w.hdr.keySlot (subjectOf w) = none) : withSubject s w f = fail s w.id stNotOwner := by
  unfold withSubject
  rw [h]

/-- Work that writes durable versions runs below the durable-pending bound. -/
theorem durably_run {s : State} {w : Work} {f : State → Work → State} (h : ddFull s = false) : durably f s w = f s w := by
  unfold durably
  simp [h]

/-- A device that serves runs the command. -/
theorem whenRunning_run {s : State} {f : State → State} (h : running s = true) : whenRunning f (fresh s) = f (fresh s) := by
  have h' : running (fresh s) = true := h
  unfold whenRunning
  simp [h']

/-- Nothing to move may always start. -/
@[simp] theorem mayMove_none {s : State} {w : Work} {dir : Nat} : mayMove s w dir 0 = true := rfl

/-- Transfers that may start run what they move for (R291). -/
theorem shaped_open {s : State} {w : Work} {i o : Nat} {f : State → State}
    (hi : mayMove s w 0 i = true) (ho : mayMove s w 1 o = true) : shaped s w i o f = f (moved s w i o) := by
  unfold shaped
  simp [hi, ho]

/-- Work that only reads at the device's ports runs when that may start. -/
theorem shaped_in {s : State} {w : Work} {i : Nat} {f : State → State} (hi : mayMove s w 0 i = true) :
    shaped s w i 0 f = f (moved s w i 0) := shaped_open hi rfl

/-- Work that only writes at the device's ports runs when that may start. -/
theorem shaped_out {s : State} {w : Work} {o : Nat} {f : State → State} (ho : mayMove s w 1 o = true) :
    shaped s w 0 o f = f (moved s w 0 o) := shaped_open rfl ho

/-- Work at whose shapers nothing moves runs. -/
theorem shaped_none {s : State} {w : Work} {f : State → State} : shaped s w 0 0 f = f (moved s w 0 0) := shaped_open rfl rfl

/-- Work that reads no lodged tile fetches none. -/
@[simp] theorem fetched_nil {s : State} {w : Work} {f : State → State} : fetched s w [] f = f s := rfl

/-- Work whose destination can take its operand goes on (R339, R573). -/
theorem withDest_ready {s : State} {w : Work} {a : Addr} {len : Nat} {f : State → State}
    (h : Safety.destReady s a len = true) : withDest s w a len f = f s := by
  unfold withDest
  cases a with
  | state off =>
    have hall : ∀ x ∈ (partFrames off len).map (shownAt s), ∀ t, x ≠ .lost t ∧ x ≠ .lodged t := by
      intro x hx t
      obtain ⟨o, ho, rfl⟩ := List.mem_map.mp hx
      have := List.all_eq_true.mp h o ho
      constructor <;> intro he <;> simp [he] at this
    have h1 : lostIn ((partFrames off len).map (shownAt s)) = 0 := by
      unfold lostIn
      rw [List.findSome?_eq_none_iff.mpr]
      · rfl
      · intro x hx
        cases x <;> first | rfl | exact absurd rfl (hall _ hx _).1
    have h2 : (((partFrames off len).map (shownAt s)).filterMap fun x => match x with
        | .lodged t => some t
        | _ => none) = [] := by
      refine List.filterMap_eq_nil_iff.mpr fun x hx => ?_
      cases x <;> first | rfl | exact absurd rfl (hall _ hx _).2
    dsimp only
    rw [if_neg (by simp [h1])]
    exact congrArg (fetched s w · f) h2
  | _ => rfl

/-- An operand that could be read reaches the effect. -/
theorem withOperand_read {s t : State} {w : Work} {a : Addr} {len : Nat} {resident : Bool} {src : Fetch} {b : List Byte}
    {f : State → List Byte → State} (h : readAddr s a len resident src = (t, .ok b)) :
    withOperand s w a len resident src f = f t b := by
  unfold withOperand
  rw [h]

/-- A source that could be read reaches its effect. -/
theorem sourced_read {s t : State} {a n : Nat} {src : Fetch} {b : List Byte} {f : State → Option (List Byte) → State}
    (h : readSource s a n src = (t, some b)) : sourced s a n src f = f t (some b) := by
  unfold sourced
  rw [h]
  unfold readSource at h
  split at h
  · cases h
  · split at h
    · rename_i r e
      simp [e]
    · cases h

/-- A peer message that this device takes reaches its effect. -/
theorem receivePeer_taken {s t : State} {pbr org type : Nat} {msg m : List Byte} {f : State → Nat → List Byte → State}
    (h : peerIn s pbr msg type = some (t, org, m)) : receivePeer pbr msg type f s = f t org m := by
  unfold peerIn at h
  unfold receivePeer
  split at h
  · cases h
  · rename_i i hi
    simp only [hi]
    dsimp only at h
    split at h
    · rename_i hc
      simp only [Bool.and_eq_true, beq_iff_eq] at hc
      simp only [hc.1, Bool.not_true, Bool.false_eq_true, if_false, hc.2, ne_eq, not_true]
      cases h
      rfl
    · cases h

/-- A stream record that this device takes reaches its effect. -/
theorem receiveStream_taken {s t : State} {pbr org type : Nat} {rec r : List Byte} {f : State → Nat → List Byte → State}
    (h : streamIn s pbr rec type = some (t, org, r)) : receiveStream pbr rec type f s = f t org r := by
  unfold streamIn at h
  unfold receiveStream
  split at h
  · cases h
  · rename_i i hi
    simp only [hi]
    dsimp only at h
    split at h
    · rename_i hc
      simp only [Bool.and_eq_true, beq_iff_eq] at hc
      simp only [hc.1, Bool.not_true, Bool.false_eq_true, if_false, hc.2, ne_eq, not_true]
      cases h
      rfl
    · cases h

end Sys2Proof.Laws
end

