-- ==== Sys2Proof/WellFormed.lean ====
section
/-! DEFINITION. Which commands can reach the block at all: operands that its pins, links and tables can carry. A command
that is not well formed has no sender; the meanings do not need this check. -/

namespace Sys2Proof

/-- A register access: 4 or 8 bytes, aligned, inside BAR0 (R5, R551). -/
def accessOk (off width : Nat) : Bool := (width == 4 || width == 8) && off % width == 0 && decide (off + width ≤ 2 ^ 26)

/-- A value fits in a number of bits. -/
def fits (v k : Nat) : Bool := decide (v < 2 ^ k)

/-- A bed and a place in it (R3, R16). -/
def placeOk (bed pos : Nat) : Bool := decide (bed < 16) && decide (pos < 16)

/-- What a fetch of at most `n` bytes returns. -/
def fetchOk (n : Nat) : Fetch → Bool
  | .poison => true
  | .data b => decide (b.length ≤ n)

/-- A whole line of 64 bytes, or a poisoned one (R299). -/
def lineOk : Fetch → Bool
  | .poison => true
  | .data b => b.length == 64

/-- An extent lies in the State Range's 65,536 windows (R90, R306). -/
def extentOk (e : ExtentArg) : Bool := decide (0 < e.count) && decide (e.first + e.count ≤ 65536)

/-- The operands of a command can reach the block. -/
def Instr.wf : Instr → Bool
  | .registerWrite _ off width value => accessOk off width && fits value (8 * width)
  | .bar0MctpMessage _ off width value => accessOk off width && fits value (8 * width)
  | .wideRegisterRead _ off => off % 4 == 0 && decide (off < 2 ^ 26)
  | .powerLoss v _ | .overVoltage v _ | .thermalCritical v _ => fits v 16
  | .nvWrite _ img _ _ => fetchOk 1048576 img
  | .bitstreamLoad _ img _ => fetchOk 67108864 img
  | .panFault b p | .stepOverrun b p | .tileStepBegin b p _ _ | .stepEnd b p _ | .tileRequest b p _ _ _ => placeOk b p
  | .panMessage b p tb tp _ _ => placeOk b p && placeOk tb tp
  | .tileArrival _ _ _ img | .tileReply _ img => img.length == 16448
  | .ledgerTailUpdate l line _ | .consumedLineUpdate l line => decide (l < 4096) && fetchOk 64 line
  | .claim _ m | .refuse _ m | .query _ m | .answer _ m | .release _ m | .grant _ m _ | .tileReq _ m _ => m.length == 64
  | .streamLog _ r | .streamOwn _ r | .streamLease _ r | .streamAck _ r | .streamFetch _ r | .streamRefuse _ r =>
    r.length == 128
  | .hostLoad _ a _ => fits a 64
  | .hostStore _ a _ b => fits a 64 && lineOk b
  | .releaseDynamicCapacity h e | .extentReleaseTimeout h e | .fmDynamicCapacityAdd h e | .fmDynamicCapacityRelease h e =>
    decide (h < 32) && extentOk e
  | .addDynamicCapacityResponse h l => decide (h < 32) && l.all extentOk
  | .harrowWalk b _ | .droopTrip b | .stretchRelease b | .bedStop b | .holdRelease b | .thermalHold b => decide (b < 16)
  | _ => true

end Sys2Proof
end

