-- ==== Sys2Proof/Tests/Slice0.lean ====
section
/-! SUPPORT. The model's own tests: ill-formed commands, small states, and for every statement with hypotheses a state and operands
that meet them together. -/

namespace Sys2Proof.Tests

set_option Elab.async false

open Sys2Proof Sys2Proof.Machine Sys2Proof.Safety

/-- What is there is what reading it with a stand-in gives. -/
theorem some_getD {α : Type} {o : Option α} {d : α} (h : o.isSome = true) : o = some (o.getD d) := by
  cases o with
  | none => cases h
  | some x => rfl

/-! ### Small states -/

/-- What a start finds when nothing is wrong. -/
def startInput : StartInput :=
  { compat := false, mbAddr := 0, fwA := true, fwB := false, nvA := false, nvB := false, badPans := [], sealOk := true,
    slotA := false, slotB := false, cfgOk := true, prevOk := true, ageOk := false, stress := 0, energy := 1500, bankMv := 55000, badTiles := [] }

/-- A key slot of tenant 9 whose key is installed and that consents to observation. -/
def slot3 : KeySlot := { slot := 3, state := 1, data := { tenant := 9, key := zeros 64, policy := 1 }, held := none }

/-- A device that serves: origin 1, enough hold-up energy, key slot 3 active. -/
def up : State :=
  { setReg (setReg (setReg State.reset .sysOriginId 1) .durHoldupEnergy 1500) .sysBootStage 9 with
    power := { State.reset.power with state := .running, perstA := false, perstB := false }
    sec := { State.reset.sec with slots := [slot3] } }

/-- The header of a descriptor of key slot 3. -/
def hdrOf (op : Nat) : Hdr :=
  { opcode := op, order := 0, notify := false, keySlot := 3, deadline := 0, epoch := 0, tag := 0, clean := true }

/-- Work number 5, in flight, with the operands given. -/
def flyingOps (op : Nat) (ops : List Byte) : Work :=
  { id := 5, ledger := 0, slot := 0, hdr := hdrOf op, ops := ops ++ zeros (64 - ops.length), acceptTime := 0, startTime := 0, policy := 1,
    globals := [], tokens := 0, place := .flight 0xFFFF, waits := [], behind := 0, suspendedAt := [], shares := [], final := false,
    expired := false, transfers := [], shaping := [],
    layer := 0, tally := [], status := none, result := [], effects := [] }

/-- The same, for subject 7 and the mode given. -/
def flying (op mode : Nat) : Work := flyingOps op (leBytes 8 7 ++ [byte mode])

/-- A device with one work. -/
def withWork (w : Work) : State := { up with work := [w] }

/-- An ACTIVE session of key slot 3: one layer, one head, dimension 32. -/
def session7 : Subject :=
  { Subject.blank 0 7 3 .session with layers := 1, kvHeads := 1, ratio := 1, dim := 32, own := ownedHere up 1 }

/-- The same session, PARKED. -/
def parked7 : Subject := { session7 with state := 2 }

/-- The session's HEAD, TEXT_STATE and directory-record tiles in T2 and T4. -/
def heads7 : List Tile :=
  [0, 1, 0x100].map fun n =>
    { blankTile 7 n 3 with
      kind := if n = 0 then 1 else if n = 1 then 2 else 3, version := 1, key := zeros 64, floor := 1, recFloor := 1, durable := true
      copies := [{ tier := 2, place := 0, version := 1 }, { tier := 2, place := 4, version := 1 }, { tier := 4, place := 0, version := 1 }] }

/-- A device with that session and one work. -/
def onSubject (w : Work) : State := { withWork w with subjects := [session7], tiles := heads7 }

/-- The same with the session PARKED. -/
def onParked (w : Work) : State := { withWork w with subjects := [parked7], tiles := heads7 }

/-- A unit of one leaf with two pans on bed 0. -/
def unit1 : UnitEnt := { id := 1, parent := 0xFFFF, type := 1, dispatch := 0, depth := 4, bed := 0, resident := false, ways := 0, constMask := 0 }

/-- A container with that unit. -/
def box : Container :=
  { id := 1, svn := 0, tool := 0, part := false, digest := [], units := [unit1]
    pans := [{ bed := 0, pos := 0, unit := 1, image := 0 }, { bed := 0, pos := 1, unit := 1, image := 0 }], scorers := [], images := []
    consts := [], routes := [], folds := [] }

/-- A device with that configuration. -/
def sown : State := { up with units := { up.units with active := some { full := box, part := none } } }

/-- A near-memory fill, waiting in the unit's queue, and in flight on its leaf. -/
def queuedWork : Work := { flying 0x20 0 with place := .queued 1 }
def leafWork : Work := { flying 0x20 0 with place := .flight 1 }

def queued1 : State := { sown with work := [queuedWork] }
def inflight1 : State := { sown with work := [leafWork] }
def stepEnt1 : StepEnt := { bed := 0, pos := 0, work := 5, start := 0, set := 0 }
def stepping1 : State := { inflight1 with units := { sown.units with steps := [stepEnt1] } }
def awaiting1 : State :=
  { sown with units := { sown.units with slots := [{ bed := 0, pos := 0, slot := 2, handle := 77, number := 0x2000, version := 1, absent := false, ready := false }] } }

/-- The same unit, resident. -/
def resident1 : State :=
  { up with units := { up.units with
    active := some { full := { box with units := [{ unit1 with resident := true }] }, part := none }, current := [(1, 0, 0)] } }

/-- A buffer tile that lies in T2. -/
def storedTile : Tile :=
  { blankTile 77 0x2000 3 with kind := 10, version := 1, key := zeros 64, copies := [{ tier := 2, place := 0, version := 1 }] }
def lowTile : State := { inflight1 with tiles := [storedTile] }

/-- Ledger 0 ACTIVE, with 16 slots, of a type (0 descriptors, 1 completions). -/
def ledgerUp (type : Nat) : State :=
  regSet (regSet (regSet up .ldgStatusState 0 1) .ldgCfgType 0 type) .ldgCfgSizeLog2 0 4

/-- An ended work of descriptor ledger 0, whose completion ledger 1 receives. -/
def endedWork : Work := { flying 0x31 0 with place := .ended, status := some 0 }
def cqState : State :=
  { regSet (regSet (regSet (regSet up .ldgCfgCq 0 1) .ldgStatusState 1 1) .ldgCfgType 1 1) .ldgCfgSizeLog2 1 4 with work := [endedWork] }

/-- Descriptors of the session. -/
def openWork : Work := flyingOps 0x08 (leBytes 2 1 ++ [1, 1] ++ leBytes 2 32 ++ [0, 0])
def parkOf7 : Work := flyingOps 0x01 (leBytes 8 7)
def placeWork : Work := flyingOps 0x03 (leBytes 8 7 ++ [0, 2])
def placeHost : State := onSubject placeWork
def viewed7 : State := { onSubject (flying 0x03 2) with windows := [(0, .view 7 0)] }

/-- A vocabulary of four tokens. -/
def voc4 : Voc :=
  { entry := 0, id := 12, unigram := false, byteFallback := false, endToken := 3, unkToken := 0, byteBase := 0, norm := 0, fold := 0
    spaceMark := 0, tokens := [([0x61], false), ([0x62], false), ([0x63], false), ([], true)], merges := [], scores := [], specials := []
    split := [], matrix := [], digest := zeros 32, size := 4096 }

def openWith : Work := flyingOps 0x08 (leBytes 2 1 ++ [1, 1] ++ leBytes 2 32 ++ [0, 0] ++ leBytes 4 12)
def openHost : State := { withWork openWith with vocs := [voc4], nv := { up.nv with leaseEnd := 65536 } }
def openNumbered : State := { fresh openHost with nv := { openHost.nv with serial := 1 } }
def opened1 : Subject := openedSession openNumbered openWith 0x10000000001 0 0
def openStaged : State := (createSubject openNumbered 5 opened1 (openTiles opened1)).getD up

/-- Register fields set one after another. -/
def regs (s : State) (l : List (Fld × Nat × Nat)) : State := l.foldl (fun s e => regSet s e.1 e.2.1 e.2.2) s

/-- A ledger that may be enabled: its addresses lie in an entry of the address map, and its completion ledger is ACTIVE. -/
def ledgerReady : State :=
  regs up [(.cxlAmapValid, 0, 1), (.cxlAmapBase, 0, 0), (.cxlAmapSize, 0, 16), (.ldgCfgCq, 0, 1), (.ldgStatusState, 1, 1), (.ldgCfgType, 1, 1),
    (.ldgBaseAddr, 0, 0x1000), (.ldgLineAddrAddr, 0, 0x8000), (.ldgCfgSizeLog2, 0, 4)]

/-- A durable tile whose version is only in T2. -/
def dirtyTile : Tile :=
  { blankTile 7 0x1000 3 with kind := 4, version := 2, floor := 2, durable := true, key := zeros 64, copies := [{ tier := 2, place := 0, version := 2 }] }

/-- A buffer tile in T3 range 2, a range of one tile above its mark, being spilled. -/
def t3Tile : Tile :=
  { blankTile 77 0x2000 3 with kind := 10, version := 1, key := zeros 64, copies := [{ tier := 3, place := 2, version := 1 }] }
def crowded : State := { regs up [(.stoT3SizeSize, 2, 1), (.stoT3CtrlValid, 2, 1), (.stoT3StatusState, 2, 1)] with tiles := [t3Tile] }
def spilling : State := { crowded with moving := { up.moving with spilling := [(3, 2)] } }

/-- A buffer region bound to window 0, its first tile in T1, held by host 0 through an extent. -/
def nearTile : Tile :=
  { blankTile 77 0 3 with kind := 10, version := 1, key := zeros 64, copies := [{ tier := 1, place := 0, version := 1 }] }
def buffer77 : Subject := { Subject.blank 1 77 3 .buffer with windows := 1 }
def hosted : State :=
  { regs up [(.cxlHostMapValid, 0, 1), (.cxlHostMapPbrId, 0, 11), (.cxlPortStatusLink, 0, 2)] with
    subjects := [buffer77], tiles := [nearTile], windows := [(0, .region 77 0)]
    cxl := { up.cxl with hdm := [(0, 0)], extents := [{ host := 0, first := 0, count := 1, tag := 0, phase := 1 }] } }

/-- The buffer with another tile in its window. -/
def shownTile (t : Tile) : State := { hosted with tiles := [t] }

/-- The same tile in T2, being promoted. -/
def promoting1 : State :=
  { hosted with tiles := [{ nearTile with copies := [{ tier := 2, place := 0, version := 1 }] }], moving := { up.moving with promoting := [(77, 0)] } }

/-- The tile raised to T1, and an image of it as another device sends it. -/
def raisedTile : State := (raiseDemand (fresh lowTile) 77 0x2000 (homeOf (fresh lowTile) 77)).1

/-- An Informational record of a start, written once. -/
def logged : State := event up 0x0A02 0 0xFFFF 0 0 []

/-- Window 5, its host mapped, and the phases of its extent. -/
def window5 : ExtentArg := { first := 5, count := 1, tag := 0 }
def hosted2 : State := regs up [(.cxlHostMapValid, 0, 1), (.cxlHostMapPbrId, 0, 11), (.stoRangeWindows, 0, 64)]
def extended (l : List Extent) : State := { hosted2 with cxl := { up.cxl with extents := l } }
def offered2 : State := extended [extentOf 0 0 window5]
def held2 : State := extended [extentOf 0 1 window5]
def returning2 : State := extended [extentOf 0 2 window5]

/-- A secured session of an operator on the management bus; one whose handshake is open; IDE keys delivered over port A. -/
def operatorChan : SpdmChan :=
  { ch := .mb, version := 0x14, caps := true, algs := true, sessions := [{ id := 1, secured := true, operator := some 0 }] }
def handshakeChan : SpdmChan := { operatorChan with sessions := [{ id := 1, secured := false, operator := none }] }
def production : State := setReg up .secLifecycleState 1
def operatorHost : State :=
  { production with power := { up.power with kelgor := some { svn := 0, image := [] } }, sec := { up.sec with spdm := [operatorChan] } }
def handshakeHost : State := { up with sec := { up.sec with spdm := [handshakeChan] } }
def keyed : State :=
  { up with sec := { up.sec with spdm := [{ operatorChan with ch := .a }] }, cxl := { up.cxl with ideKeys := [(0, 64)] } }

/-- The TAP out of reset. -/
def tapUp : State := { up with power := { up.power with tapReset := false } }

/-- A port in recovery from a fault; bed 0 as it is after reset. -/
def recoveringPort : State := { up with flt := { up.flt with recovering := [(6, 0)] } }
def bed0 : Bed := (bedRec up 0).getD { no := 0, rail := 0, factoryRail := 0, floor := 0, droop := 0, aboveSince := 0, stopped := false, stoppedAt := 0, held := false, hot := false, holds := [], throttled := false, coreThrottled := false, t1Refresh := [], t2Refresh := [], scrub := 0, roShift := 0, slackMin := 0, tempMax := 0, heldSince := 0, heldTime := 0 }

/-- The machine after reset has the form. -/
theorem reset_formed : Formed State.reset where
  regs := by intro c hc; rcases hc with hc | hc <;> cases hc
  beds := by unfold bedsListed; decide +kernel
  plan := by intro l hl; cases hl
  tiles := by intro t ht; cases ht
  lodged := by intro t ht; cases ht
  work := by intro w hw; cases hw
  steps := by constructor <;> (intro k hk; cases hk)
  captures := by intro c hc; cases hc

/-- A leaf to which context 3 is being switched. -/
def switching1 : State := { sown with units := { sown.units with switching := [(1, 3)] } }

/-- An event record; a latched nonce; a work whose mode byte stands at an offset of its own. -/
def event0 : Event :=
  { reason := 1, cls := 0, severity := 0, count := 1, keySlot := 0xFFFF, handle := 0, location := 0, arg := [], seq := 0, time := 0 }
def latchedNonce : State := { up with regs := { up.regs with latch := [(0, 0xA00038, 5)] } }
def moded (e : Nat × Nat × Nat) : Work := flyingOps e.1 (leBytes 8 7 ++ zeros (e.2.1 - 8) ++ [byte e.2.2])

/-- Registers that place an image of `n` bytes at 0x1000 of the fabric, which an entry of the address map covers. -/
def mapped (s : State) (addr len : Fld) (n : Nat) : State :=
  regs s [(.cxlAmapValid, 0, 1), (.cxlAmapSize, 0, 16), (addr, 0, 0x1000), (len, 0, n)]

/-- What a read of that image leaves. -/
def fetched (s : State) (addr len : Fld) (img : List Byte) : State := (readSource (fresh s) (reg s addr) (reg s len) (.data img)).1

/-- An image of the parameters: no section but an empty one. -/
def nvBody : List Byte := zeros 64
def nvImage : List Byte :=
  leBytes 4 0x564E4250 ++ leBytes 2 1 ++ [8, 0] ++ leBytes 8 1 ++ leBytes 4 0 ++ [0, 0, 0, 0] ++ leBytes 2 0 ++ zeros 2 ++ leBytes 4 64 ++
    shake 64 nvBody ++ zeros 32 ++ nvBody ++ zeros 3309
def nvHost : State :=
  { mapped up .sysNvAddrAddr .sysNvLenLen 3501 with nv := { up.nv with signers := [(0, zeros 32)] } }
def nvRead : State := fetched nvHost .sysNvAddrAddr .sysNvLenLen nvImage

/-- A container with one leaf unit of one pan. -/
def tinyBody : List Byte :=
  [1, 0, 1, 0] ++ leBytes 4 192 ++ leBytes 4 32 ++ zeros 4 ++ [2, 0, 1, 0] ++ leBytes 4 256 ++ leBytes 4 8 ++ zeros 4 ++
    [3, 0, 1, 0] ++ leBytes 4 320 ++ leBytes 4 0 ++ zeros 4 ++ [4, 0, 1, 0] ++ leBytes 4 384 ++ leBytes 4 36 ++ zeros 4 ++
    (leBytes 2 1 ++ leBytes 2 0xFFFF ++ [1, 0] ++ leBytes 2 4 ++ [0, 0, 1] ++ zeros 21) ++ zeros 32 ++
    ([0, 0] ++ leBytes 2 1 ++ zeros 4) ++ zeros 120 ++ (zeros 4 ++ leBytes 4 4 ++ zeros 28) ++ zeros 28
def tinyContainer : List Byte :=
  leBytes 4 0x53424250 ++ leBytes 2 2 ++ [8, 0] ++ leBytes 8 1 ++ leBytes 8 0 ++ leBytes 2 4 ++ leBytes 2 0 ++ leBytes 4 tinyBody.length ++
    shake 64 tinyBody ++ zeros 32 ++ tinyBody ++ zeros 3309
def loadHost (n : Nat) : State :=
  { mapped up .panBsAddrAddr .panBsLenLen n with nv := { up.nv with bsSigners := [(0, zeros 32)] } }
def loadRead (n : Nat) : State :=
  fetched (setReg { loadHost n with units := { up.units with staged := none } } .panBsStatusState 1) .panBsAddrAddr .panBsLenLen tinyContainer

/-- An image of the stored tile whose payload begins with the bytes that bring the CRC of the header to 0, and is 0 after them. -/
def tileHead : List Byte := headerBytes storedTile
def tileImage : List Byte := tileHead ++ zeros 8 ++ (leBytes 8 (crc64 tileHead)).reverse ++ zeros 16376

theorem crc_zeros (n : Nat) : (zeros n).foldl crcByte 0 = 0 := by
  induction n with
  | zero => rfl
  | succ n ih =>
    have e : crcByte 0 0 = 0 := by decide +kernel
    rw [zeros, List.replicate_succ, List.foldl_cons, e]
    exact ih

theorem zeros_length (n : Nat) : (zeros n).length = n := List.length_replicate

/-- The part of a string that is laid out between two others. -/
theorem slice_mid (a b c : List Byte) : slice (a ++ (b ++ c)) a.length b.length = b := by
  simp [slice, zeros]

theorem tile_crc : crc64 (slice tileImage 0 56 ++ slice tileImage 64 payloadBytes) = 0 := by
  have hl : tileHead.length = 56 := by decide +kernel
  have e1 : slice tileImage 0 56 = tileHead := by
    have h := slice_mid [] tileHead (zeros 8 ++ (leBytes 8 (crc64 tileHead)).reverse ++ zeros 16376)
    rw [hl] at h
    simpa only [tileImage, List.append_assoc, List.nil_append, List.length_nil] using h
  have e2 : slice tileImage 64 payloadBytes = (leBytes 8 (crc64 tileHead)).reverse ++ zeros 16376 := by
    have ht : (tileHead ++ zeros 8).length = 64 := by rw [List.length_append, zeros_length, hl]
    have hr : ((leBytes 8 (crc64 tileHead)).reverse ++ zeros 16376).length = payloadBytes := by
      rw [List.length_append, zeros_length, List.length_reverse]; rfl
    have h := slice_mid (tileHead ++ zeros 8) ((leBytes 8 (crc64 tileHead)).reverse ++ zeros 16376) []
    rw [ht, hr, List.append_nil, ← List.append_assoc] at h
    exact h
  rw [e1, e2, ← List.append_assoc, crc64, List.foldl_append]
  have e3 : (tileHead ++ (leBytes 8 (crc64 tileHead)).reverse).foldl crcByte 0 = 0 := by decide +kernel
  rw [e3, crc_zeros]

theorem tile_passes : imagePasses storedTile tileImage = true := by
  unfold imagePasses
  rw [tile_crc]
  decide +kernel

/-! ### Keys and values -/

/-- The work in a step of the leaf, with a deadline. -/
def lateWork : Work := { leafWork with hdr := { leafWork.hdr with deadline := 10 } }

/-- The session with 32 entries in its log. -/
def longSession : Subject := { session7 with log := List.replicate 32 3 }
def onLong (x : Subject) (w : Work) : State := { withWork w with subjects := [x], tiles := heads7 }

/-- KV_INGEST of one page of layer 0, from the fabric, with the mode given; rows in an MX format. -/
def ingestOps (mode : Nat) : Work := flyingOps 0x10 (leBytes 8 7 ++ leBytes 8 0x1000 ++ leBytes 4 0 ++ leBytes 2 0 ++ leBytes 2 1 ++ [byte mode, 0x16])
def mapAll (s : State) : State := regs s [(.cxlAmapValid, 0, 1), (.cxlAmapKind, 0, 1), (.cxlAmapAnySlot, 0, 1), (.cxlAmapSize, 0, 16)]
def fileWork : Work := ingestOps 0
def fileHost : State := mapAll (onLong longSession fileWork)
def partWork : Work := ingestOps 1
def partSession : Subject :=
  { longSession with maps := [{ LayerMap.empty with pages := [{ state := 1, valid := 31, region := none }], code := [0x2000], scale := [0x2001], summary := [0x2002], patch := [0x2003] }] }
def partHost : State := mapAll (onLong partSession partWork)
def registerWork : Work := flyingOps 0x10 (leBytes 8 7 ++ zeros 16 ++ [2, 0, 1] ++ zeros 5 ++ leBytes 4 9)
def clearWork : Work := flyingOps 0x10 (leBytes 8 7 ++ zeros 16 ++ [3])

/-- FAR_ATTN of one query over 32 positions of one layer, whose only page is FILED and holds zeros. -/
def farWork : Work :=
  flyingOps 0x11 (leBytes 8 7 ++ leBytes 8 0x1000 ++ leBytes 8 0x2000 ++ zeros 8 ++ leBytes 4 32 ++ zeros 12 ++ leBytes 2 0 ++ leBytes 2 1 ++
    leBytes 2 1 ++ zeros 6 ++ [0x10, 0x10])
def farSession : Subject :=
  { longSession with maps := [{ pages := [{ state := 2, valid := 32, region := none }], first := 0, code := [0x2000], scale := [0x2001], summary := [0x2002], patch := [] }] }
def pageTile (n kind format : Nat) (p : List Host.Cell) : Tile :=
  { blankTile 7 n 3 with kind := kind, format := format, count := 1, version := 1, key := zeros 64, copies := [{ tier := 2, place := 0, version := 1 }], payload := p }
def farTiles : List Tile :=
  [pageTile 0x2000 5 1 [], pageTile 0x2001 6 4 ((List.range 8 ++ (List.range 8).map (64 + ·)).map fun k => (k, 0x7F)), pageTile 0x2002 7 3 []]
def farHost : State := { mapAll (onLong farSession farWork) with tiles := heads7 ++ farTiles }
def farRead : State := (readAddr (tidyReady (begun farHost farWork)) (addrOf 0x1000) 128 false (.data (zeros 128))).1

/-! ### Models, drafts and text -/

/-- A model of one layer, one head and dimension 32 in one shard, and a device with a unit for it. -/
def modelImage : List Byte :=
  leBytes 4 0x444D4250 ++ leBytes 2 1 ++ [1, 0] ++ leBytes 8 6 ++ leBytes 8 5 ++ leBytes 4 12 ++ leBytes 2 0xFFFF ++ [1, 1] ++ leBytes 2 32 ++
    zeros 2 ++ leBytes 4 1 ++ leBytes 4 60 ++ leBytes 4 64 ++ leBytes 8 64 ++ zeros 264
def modelMapped : State := regs (mapped up .panMdlAddrAddr .panMdlLenLen 320) [(.panMdlUnitUnit, 0, 1)]
def modelHost : State :=
  { modelMapped with
    regs := { modelMapped.regs with applied := [((.panWeightAreaMib, 0), 16)] }
    units := { up.units with active := some { full := { box with units := [{ unit1 with type := 2 }] }, part := none } }
    nv := { up.nv with sets := [(5, zeros 32)] } }
def modelRead : State := fetched modelHost .panMdlAddrAddr .panMdlLenLen modelImage
def model0 : ModelSlot :=
  { slot := 0, state := 2, modelId := 6, setId := 5, keySlot := 0xFFFF, vocab := 12, unit := 1, layers := 1, kvHeads := 1, dim := 32,
    shards := 1, weights := [], image := [], tableDigest := zeros 32 }

/-- A session with a draft record; drafting is paused, so that DRAFT adds no node; a second record has an outstanding tree of no node. -/
def draft0 : Draft :=
  { Draft.empty with modelId := 6, nodeMax := 1, depthMax := 1, width := 1, window := 32, branch := [1], configured := true, paused := true }
def draft1 : Draft := { draft0 with base := some 0 }
def texting : Subject := { session7 with options := 6, vocab := 12 }
def drafting : Subject := { texting with draft := some draft0 }
def treed : Subject := { texting with draft := some draft1 }
def draftHost (w : Work) : State :=
  { mapAll (withWork w) with subjects := [if w.hdr.opcode = 0x13 then treed else drafting], tiles := heads7, vocs := [voc4], models := [model0] }
def configureWork : Work := flyingOps 0x12 (leBytes 8 7 ++ zeros 8 ++ [1, 0, 1, 1, 1, 0, 32, 0, 1])
def resetWork : Work := flyingOps 0x12 (leBytes 8 7 ++ zeros 8 ++ [2])
def draftWork : Work := flyingOps 0x12 (leBytes 8 7 ++ leBytes 8 0x1000)
def commitWork : Work := flyingOps 0x13 (leBytes 8 7 ++ zeros 8 ++ leBytes 4 0 ++ leBytes 4 1 ++ [0xFF])

def textHost (w : Work) : State := { mapAll (withWork w) with subjects := [texting], tiles := heads7, vocs := [voc4] }
def tokenWork : Work := flyingOps 0x18 (zeros 8 ++ leBytes 8 0x1000 ++ leBytes 8 0x2000 ++ leBytes 4 1 ++ leBytes 4 4 ++ leBytes 4 12)
def tokenHost : State := textHost tokenWork
def tokenRead : State := (readAddr (begun tokenHost tokenWork) (addrOf 0x1000) 1 false (.data [0x61])).1
def appendWork : Work := flyingOps 0x19 (leBytes 8 7 ++ zeros 16 ++ leBytes 2 1 ++ zeros 6 ++ leBytes 4 1)
def stopsWork : Work := flyingOps 0x19 (leBytes 8 7 ++ zeros 18 ++ [1])
def samplerWork : Work := flyingOps 0x19 (leBytes 8 7 ++ zeros 18 ++ [2])
def maskWork0 : Work := flyingOps 0x1A (leBytes 8 7 ++ leBytes 8 0x1000)
def maskWork1 : Work := flyingOps 0x1A (leBytes 8 7 ++ leBytes 8 0x1000 ++ zeros 4 ++ [1])
def maskWork3 : Work := flyingOps 0x1A (leBytes 8 7 ++ zeros 12 ++ [3])

/-- A grammar of one state that allows nothing. -/
def grammarHead : List Byte :=
  leBytes 4 0x52474250 ++ leBytes 2 1 ++ zeros 2 ++ leBytes 4 12 ++ leBytes 4 84 ++ leBytes 2 1 ++ leBytes 2 0 ++ leBytes 2 1 ++ zeros 2 ++
    leBytes 4 80 ++ leBytes 4 80
def grammarImage : List Byte := grammarHead ++ shake 32 (grammarHead ++ zeros 32 ++ zeros 20) ++ zeros 20
def grammarWork : Work := flyingOps 0x1A (leBytes 8 7 ++ leBytes 8 0x1000 ++ leBytes 4 84 ++ [2])
def grammarRead : State := (readAddr (begun (textHost grammarWork) grammarWork) (addrOf 0x1000) 84 false (.data grammarImage)).1

/-- A vocabulary of one token. -/
def vocBody : List Byte :=
  (leBytes 4 0 ++ [1] ++ zeros 3 ++ [0x61]) ++ zeros 55 ++ zeros 32
def vocHead : List Byte :=
  leBytes 4 0x43564250 ++ leBytes 2 1 ++ [0, 0] ++ leBytes 4 13 ++ leBytes 4 1 ++ leBytes 4 0xFFFFFFFF ++ leBytes 4 0xFFFFFFFF ++
    leBytes 4 0xFFFFFFFF ++ zeros 12 ++ leBytes 4 128 ++ leBytes 4 9 ++ leBytes 4 192 ++ zeros 4 ++ leBytes 4 192 ++ zeros 4 ++
    leBytes 4 192 ++ leBytes 4 32 ++ zeros 24
def vocImage : List Byte := vocHead ++ shake 32 vocBody ++ vocBody
def vocHost : State := mapped up .txtVocAddrAddr .txtVocLenLen 224
def vocRead : State := fetched vocHost .txtVocAddrAddr .txtVocLenLen vocImage

/-! ### Planner, near memory, observation -/

/-- A planner of no member, and one whose member is the session. -/
def planner0 : Planner :=
  { no := 0, budget := 32, maxEntries := 16, chunk := 512, pauseStep := 8, resumeHold := 16, itl := [0, 0, 0, 0], ttr := [0, 0, 0, 0],
    step := 0, manifest := none, due := [], meets := 0, members := [] }
def member7 : Member :=
  { handle := 7, near := 0x1000, kvTokens := 0, st := 0, order := 0, readySince := 0, lastPlaced := 0, streaming := false, pausedAt := 0, parkAt := none, retry := 0 }
def planWork : Work := flyingOps 0x38 (zeros 16 ++ leBytes 8 0x1000)
def planHost : State := { mapAll (withWork planWork) with adm := { up.adm with planners := [planner0] } }
def enrollWork : Work := flyingOps 0x38 ([0, 1] ++ zeros 14 ++ leBytes 8 7 ++ leBytes 8 0x1000)
def withdrawWork : Work := flyingOps 0x38 ([0, 2] ++ zeros 14 ++ leBytes 8 7)
def plannerWork : Work := flyingOps 0x38 ([0, 3, 0, 0] ++ leBytes 4 32 ++ leBytes 2 16)
def planned7 : State := { up with subjects := [session7], tiles := heads7 }

/-- Near-memory works on the fabric, and what their reads leave. -/
def nearHost (w : Work) : State := mapAll (withWork w)
def fillWork : Work := flyingOps 0x20 (leBytes 8 0x1000 ++ leBytes 8 64 ++ [1])
def copyWork : Work := flyingOps 0x21 (leBytes 8 0x1000 ++ leBytes 8 0x2000 ++ leBytes 8 64)
def readOf (s : State) (w : Work) (a n : Nat) : State := (readAddr (begun s w) (addrOf a) n false (.data (zeros 64))).1
def copyRead : State := readOf (nearHost copyWork) copyWork 0x1000 64
def compareWork : Work := flyingOps 0x22 (leBytes 8 0x1000 ++ leBytes 8 0x2000 ++ leBytes 8 64)
def compareRead1 : State := readOf (nearHost compareWork) compareWork 0x1000 64
def compareRead2 : State := (readAddr compareRead1 (addrOf 0x2000) 64 false (.data (zeros 64))).1
def reduceWork1 : Work := flyingOps 0x23 ([0x11, 0x10] ++ zeros 6 ++ leBytes 8 0x1000 ++ zeros 16 ++ leBytes 8 4)
def reduceRead1 : State := readOf (nearHost reduceWork1) reduceWork1 0x1000 16
def reduceWork2 : Work :=
  flyingOps 0x23 ([0x00, 0x10] ++ zeros 6 ++ leBytes 8 0x1000 ++ leBytes 8 0x2000 ++ leBytes 8 0x3000 ++ leBytes 8 4)
def reduceRead2 : State := readOf (nearHost reduceWork2) reduceWork2 0x1000 16
def reduceRead3 : State := (readAddr reduceRead2 (addrOf 0x2000) 16 false (.data (zeros 64))).1

/-- Dumps of a session's page and of an empty trace; an arm and a capture of it. -/
def dumpWork : Work := flyingOps 0x30 (leBytes 8 7 ++ leBytes 8 0x1000 ++ leBytes 8 16448 ++ [0, 5])
def dumpHost (w : Work) : State := { mapAll (onSubject w) with tiles := heads7 ++ farTiles }
def traceWork : Work := flyingOps 0x30 (zeros 8 ++ leBytes 8 0x1000 ++ leBytes 8 64 ++ [1])
def traceHost : State := regs (mapAll (withWork traceWork)) [(.ldgCfgAnySlot, 0, 1)]
def armWork : Work := flyingOps 0x30 (leBytes 8 7 ++ zeros 16 ++ [2, 0, 0, 2])
def disarmWork : Work := flyingOps 0x30 (leBytes 8 7 ++ zeros 16 ++ [3, 0, 0, 2])
def arm2 : Arm := { no := 2, slot := 3, handle := 7, name := 0, left := 1, sel := [0, 0, 0, 0, 0, 0] }
def capture2 : Capture := { arm := 2, handle := 77, slot := 3, name := 0, fired := 0, tiles := [storedTile] }

/-! ### Ownership -/

/-- The peer of origin 2 answers at PBR 22. -/
def peered (s : State) : State := regs s [(.cxlPeerMapValid, 0, 1), (.cxlPeerMapPbrId, 0, 22), (.cxlPeerMapOrigin, 0, 2)]
def offerWork : Work := flyingOps 0x04 (leBytes 8 7 ++ leBytes 3 2)
def offerHost : State := peered (onParked offerWork)
def acceptWork : Work := flyingOps 0x05 (leBytes 8 9 ++ leBytes 3 2 ++ [0] ++ leBytes 4 1)
def acceptHost : State := peered (withWork acceptWork)
def createWork : Work := flyingOps 0x06 (leBytes 8 7 ++ [0, 0, 1, 0])
def createHost : State :=
  { regs (onSubject createWork) [(.stoRangeWindows, 0, 64)] with nv := { up.nv with leaseEnd := 65536 } }
def buffer7 : Subject := { Subject.blank 0 7 3 .buffer with windows := 1, own := ownedHere up 1 }
def versionWork : Work := flyingOps 0x06 (leBytes 8 7 ++ [1, 0, 0, 0] ++ leBytes 4 64 ++ zeros 8 ++ leBytes 8 0x1000)
def versionHost : State := { mapAll (withWork versionWork) with subjects := [buffer7] }
def versionRead : State := readOf versionHost versionWork 0x1000 64
def prefixWork : Work := flyingOps 0x06 (leBytes 8 7 ++ [2, 0, 0, 0] ++ leBytes 4 1)
def filed7 : Subject := farSession
def prefixHost : State :=
  { withWork prefixWork with subjects := [filed7], tiles := heads7 ++ farTiles, nv := { up.nv with leaseEnd := 65536 } }

/-- Session 7 offered to origin 2, its trace after a grant, and an open claim for subject 9. -/
def offered7 : Subject := { parked7 with own := { parked7.own with state := 1, target := 2 } }
def claimHost : State := { peered up with subjects := [offered7], tiles := heads7 }
def claim9 : Claim := { handle := 9, offerer := 2, epoch := 1, work := 5, window := 0, keySlot := 3 }
def waitingClaim : Work := { acceptWork with tally := [1] }
def claimed : State := { peered (withWork waitingClaim) with own := { up.own with claims := [claim9] } }
def trace7 : Trace := { handle := 7, own := { offered7.own with granted := true }, since := 0, subject := offered7 }
def tracing : State := { peered up with own := { up.own with traces := [trace7], queries := [7] } }

/-- Messages of origin 2. -/
def claimMsg : List Byte := peerBytes 0x01 2 1 7 3 0 0 0
def grantMsg : List Byte := peerBytes 0x02 2 1 9 0 0 0 0
def refuseMsg : List Byte := peerBytes 0x03 2 1 9 stNotOwner 0 0 0
def queryMsg : List Byte := peerBytes 0x04 2 0 7 0 0 0 0
def queryMsg9 : List Byte := peerBytes 0x04 2 1 9 0 0 0 0
def answerMsg : List Byte := peerBytes 0x05 2 1 7 1 0 0 0
def tileReqMsg : List Byte := peerBytes 0x06 2 1 77 0x2000 0x8000 0 0
def releaseMsg : List Byte := peerBytes 0x07 2 1 77 0x2000 0 0 0

/-- A tile that origin 2 holds for this device, the request for it, and a tile that this device holds for another. -/
def farTile : Tile := { storedTile with lodged := some 2, copies := [] }
def asked77 : TileReq := { handle := 77, number := 0x2000, version := 1, origin := 2, reply := 0x8000, repeated := true, keep := false, tier := 0, range := 0 }
def lodging : State :=
  { peered up with tiles := [farTile], own := { up.own with lodged := [storedTile], requests := [asked77] } }

/-! ### Envelopes and tokens -/

theorem slice_length (b : List Byte) (o n : Nat) : (slice b o n).length = n := by
  simp [slice, zeros]

theorem slice_all (b : List Byte) : slice b 0 b.length = b := by
  simpa using slice_mid [] b []

/-- What a read of a source in the fabric answers when the whole source is supplied. -/
theorem readSource_data {s : State} {a n p : Nat} {b : List Byte} (hr : sourceReach s (addrOf a) n = true) (ha : addrOf a = .fabric p)
    (hl : b.length = n) : readSource s a n (.data b) = (countPort s 0x0C p n, some b) := by
  subst hl
  rw [ha] at hr
  simp [readSource, ha, hr, readAddr, slice_all]

/-- An envelope whose encapsulation key is the one of SVN 0. -/
def envHead (magic slot tenant : Nat) : List Byte := leBytes 4 magic ++ leBytes 2 1 ++ leBytes 2 slot ++ leBytes 8 tenant ++ zeros 32
def sealedFor (h : List Byte) : List Byte := h ++ (slice (Config.encapId 0) 0 16 ++ zeros 1200)
def envelope : List Byte := sealedFor (envHead 0x454B4250 5 8)
def setEnvelope : List Byte := sealedFor (envHead 0x45534250 0 4)
def sealedKey : List Byte := zeros 96

theorem sealed_length (m k t : Nat) : (sealedFor (envHead m k t)).length = 1264 := by
  rw [sealedFor, List.length_append, List.length_append, slice_length, zeros_length]
  rfl

theorem sealed_key (m k t : Nat) : slice (sealedFor (envHead m k t)) 48 16 = slice (Config.encapId 0) 0 16 := by
  have h := slice_mid (envHead m k t) (slice (Config.encapId 0) 0 16) (zeros 1200)
  rw [slice_length] at h
  exact h

theorem sealed_present {s : State} {m k t : Nat} {i : List Byte} (h : s.power.kelgor = some { svn := 0, image := i }) :
    encapPresent s (slice (sealedFor (envHead m k t)) 48 16) = true := by
  simp [encapPresent, h, sealed_key]

def sealedHost (addr len : Fld) (n : Nat) : State :=
  { mapped production addr len n with power := { up.power with kelgor := some { svn := 0, image := [] } } }
def installHost : State := sealedHost .secEnvAddrAddr .secEnvLenLen 1264
def installRead : State := countPort (regSet (fresh installHost) .secSlotCtrlInstall 0 1) 0x0C 0x1000 1264
def joinHost : State := sealedHost .secSetAddrAddr .secSetLenLen 1264
def joinRead : State := countPort (setReg (fresh joinHost) .secSetCtrlJoin 1) 0x0C 0x1000 1264

theorem install_passes {s : State} {i : List Byte} (h : s.power.kelgor = some { svn := 0, image := i }) (hp : inProduction s = true)
    (hn : reg s .secNonceNonce = 0) (ht : slotTakes s 5 (keyData envelope sealedKey) = true) (hf : tenantFree s 5 8 = true) :
    installError s (some envelope) (some sealedKey) = 0 := by
  have h1 : envelope.length = 1264 := sealed_length ..
  have h2 : encapPresent s (slice envelope 48 16) = true := sealed_present h
  have h3 : field envelope 0 4 = 0x454B4250 := by decide +kernel
  have h4 : field envelope 4 2 = 1 := by decide +kernel
  have h5 : field envelope 6 2 = 5 := by decide +kernel
  have h6 : field envelope 8 8 = 8 := by decide +kernel
  have h7 : field envelope 16 32 = 0 := by decide +kernel
  have h8 : (decide (field sealedKey 64 4 < 2) && slice sealedKey 68 28 == zeros 28) = true := by decide +kernel
  simp only [installError, Option.getD_some, h1, h2, h3, h4, h5, h6, h7, h8, hp, hn, ht, hf]
  rfl

theorem join_passes {s : State} {i : List Byte} (h : s.power.kelgor = some { svn := 0, image := i }) (hp : inProduction s = true)
    (hn : reg s .secNonceNonce = 0) (hs : s.nv.sets = []) : joinError s (some setEnvelope) (some (zeros 96)) = 0 := by
  have h1 : setEnvelope.length = 1264 := sealed_length ..
  have h2 : encapPresent s (slice setEnvelope 48 16) = true := sealed_present h
  have h3 : field setEnvelope 0 4 = 0x45534250 := by decide +kernel
  have h4 : field setEnvelope 4 2 = 1 := by decide +kernel
  have h5 : field setEnvelope 6 2 = 0 := by decide +kernel
  have h6 : field setEnvelope 8 8 = 4 := by decide +kernel
  have h7 : field setEnvelope 16 32 = 0 := by decide +kernel
  have h8 : (slice (zeros 96) 32 64 == zeros 64) = true := by decide +kernel
  simp only [joinError, Option.getD_some, h1, h2, h3, h4, h5, h6, h7, h8, hp, hn, hs]
  rfl

/-- A debug token of this device, signed by key 0. -/
def tokenHead : List Byte := leBytes 4 0x54444250 ++ leBytes 2 1 ++ [0, 0]
def debugToken : List Byte := tokenHead ++ (slice Config.deviceId 0 16 ++ zeros 3349)
def tokenHostD : State :=
  { mapped production .secTokenAddrAddr .secTokenLenLen 3373 with nv := { up.nv with signers := [(0, zeros 32)] } }
def tokenReadD : State := countPort (setReg (fresh tokenHostD) .secDebugPresent 1) 0x0C 0x1000 3373

theorem token_length : debugToken.length = 3373 := by
  rw [debugToken, List.length_append, List.length_append, slice_length, zeros_length]
  rfl

theorem token_past {k n : Nat} (h : 24 ≤ k) : slice debugToken k n = slice (zeros 3349) (k - 24) n := by
  have e : debugToken.drop k = (zeros 3349).drop (k - 24) := by
    rw [debugToken, ← List.append_assoc, List.drop_append,
      List.drop_eq_nil_of_le (by rw [List.length_append, slice_length]; exact h), List.nil_append, List.length_append, slice_length]
    rfl
  rw [slice, e, slice]

theorem token_passes {s : State} (hs : s.nv.signers = [(0, zeros 32)]) (hn : reg s .secDebugNonceNonce = 0) : tokenPasses s debugToken = true := by
  have h1 := token_length
  have h2 : field debugToken 0 4 = 0x54444250 := by decide +kernel
  have h3 : field debugToken 4 2 = 1 := by decide +kernel
  have h4 : field debugToken 6 1 = 0 := by decide +kernel
  have h5 : field debugToken 7 1 = 0 := by decide +kernel
  have h6 : slice debugToken 8 16 = slice Config.deviceId 0 16 := by
    have h := slice_mid tokenHead (slice Config.deviceId 0 16) (zeros 3349)
    rw [slice_length] at h
    exact h
  have h7 : field debugToken 24 32 = 0 := by rw [field, token_past (by decide)]; decide +kernel
  have h8 : field debugToken 56 4 = 0 := by rw [field, token_past (by decide)]; decide +kernel
  have h9 : field debugToken 60 4 = 0 := by rw [field, token_past (by decide)]; decide +kernel
  simp only [tokenPasses, h1, h2, h3, h4, h5, h6, h7, h8, h9, hn, hs, aget]
  simp

def tokenHostR : State := mapped up .secTokenAddrAddr .secTokenLenLen 8
def tokenReadR : State := countPort (setReg (fresh tokenHostR) .secLcCtrlReturn 1) 0x0C 0x1000 8
def claimHostO : State := mapped production .secTokenAddrAddr .secTokenLenLen 1952
def claimReadO : State := countPort (setReg (fresh claimHostO) .secClaimClaim 1) 0x0C 0x1000 1952

/-! ### Durability -/

def noMap : MapArg := { heads := [], leaves := [], pages := [] }
def anyHost (s : State) : State := regs s [(.ldgCfgAnySlot, 0, 1)]
def restoreWork : Work := flyingOps 0x29 (leBytes 8 7)
def damaged7 : Subject := { session7 with state := 5 }
def stepOf7 : CkptStep := { step := 1, gen := 0, time := 0, lease := 0, subjects := [parked7], tiles := [], windows := [], traces := [], manifest := blankTile 0 0 0, pages := [] }
def damagedHost : State :=
  { anyHost (withWork restoreWork) with subjects := [damaged7], tiles := heads7, dur := { up.dur with slotA := some stepOf7 } }
def manifestOf (origin step : Nat) : List Byte :=
  leBytes 4 0x4D434250 ++ leBytes 2 1 ++ leBytes 2 0 ++ leBytes 3 origin ++ [8] ++ zeros 4 ++ leBytes 8 step ++ zeros 616
def manifest3 : List Byte := manifestOf 1 1
def manifest0 : List Byte := manifestOf 9 1
def takeoverWork : Work := { flyingOps 0x29 (zeros 8 ++ [1] ++ zeros 3 ++ leBytes 3 1 ++ [0] ++ leBytes 3 2) with tally := [1] }
def takeoverHost : State :=
  { anyHost (peered (withWork takeoverWork)) with dur := { up.dur with fetched := [(0x80000, manifest3)] } }

/-- The buddy is origin 2; records of a type, and one of REFUSE and one of FETCH for origin 9. -/
def buddyHost : State := regs (peered up) [(.durBuddyOrigin, 0, 2), (.durBuddyState, 0, 1)]
def recFrom (type origin code : Nat) : List Byte :=
  let a := [byte type] ++ zeros 3 ++ leBytes 3 origin ++ zeros 17 ++ leBytes 8 1
  let b := [byte code] ++ zeros 87
  a ++ leBytes 8 (crc64 (a ++ b)) ++ b
def recOf (type : Nat) : List Byte := recFrom type 2 0
def refuseRec : List Byte := recFrom 6 2 1
def fetchRec : List Byte := recFrom 5 9 3
def foster9 : Foster := { origin := 9, steps := [], records := [], heard := 0, served := false, pbr := 22, next := none }
def fosterHost : State := { peered up with dur := { up.dur with fosters := [foster9] }, time := 2 ^ 60 }

/-! ### Ill-formed commands: one for each check -/

theorem wf_access_width : (Instr.registerWrite .a 8 2 0).wf = false := by decide
theorem wf_access_aligned : (Instr.registerWrite .a 12 8 0).wf = false := by decide
theorem wf_access_inside : (Instr.bar0MctpMessage true 0x4000000 4 0).wf = false := by decide
theorem wf_access_value : (Instr.registerWrite .a 8 4 0x100000000).wf = false := by decide
theorem wf_wide_aligned : (Instr.wideRegisterRead .a 2).wf = false := by decide
theorem wf_wide_inside : (Instr.wideRegisterRead .a 0x4000000).wf = false := by decide
theorem wf_input_voltage : (Instr.powerLoss 65536 true).wf = false := by decide
theorem wf_nv_image : (Instr.nvWrite .a (.data (zeros 1048577)) true true).wf = false := by
  simp [Instr.wf, fetchOk, zeros_length]
theorem wf_container : (Instr.bitstreamLoad .a (.data (zeros 67108865)) true).wf = false := by
  simp [Instr.wf, fetchOk, zeros_length]
theorem wf_bed : (Instr.panFault 16 0).wf = false := by decide
theorem wf_position : (Instr.stepOverrun 0 16).wf = false := by decide
theorem wf_message_target : (Instr.panMessage 0 0 0 16 false []).wf = false := by decide
theorem wf_tile_image : (Instr.tileReply 0 []).wf = false := by decide
theorem wf_ledger : (Instr.ledgerTailUpdate 4096 .poison []).wf = false := by decide
theorem wf_ledger_line : (Instr.consumedLineUpdate 0 (.data (zeros 65))).wf = false := by decide
theorem wf_message : (Instr.claim 22 (zeros 63)).wf = false := by decide
theorem wf_record : (Instr.streamLog 22 (zeros 127)).wf = false := by decide +kernel
theorem wf_load_address : (Instr.hostLoad 11 (2 ^ 64) false).wf = false := by decide
theorem wf_store_length : (Instr.hostStore 11 0 false (.data (zeros 63))).wf = false := by decide
theorem wf_extent_host : (Instr.releaseDynamicCapacity 32 window5).wf = false := by decide
theorem wf_extent_empty : (Instr.extentReleaseTimeout 0 { first := 0, count := 0, tag := 0 }).wf = false := by decide
theorem wf_extent_inside : (Instr.addDynamicCapacityResponse 0 [{ first := 65535, count := 2, tag := 0 }]).wf = false := by decide
theorem wf_droop_bed : (Instr.droopTrip 16).wf = false := by decide

/-! ### The worked examples of the spec, and single steps -/

/-- The half-group of the worked example of 06_formats.md, its second half padding. -/
def exampleGroup : List Int := ([0x3F666666, 0xC02CCCCD, 0x3E19999A, 0x3FB33333, 0xBECCCCCD, 0x40533333, 0x00000000, 0xBF8CCCCD, 0x3F19999A, 0xBD4CCCCD, 0x400CCCCD, 0xBF4CCCCD, 0x3FF33333, 0x3E99999A, 0xC0666666, 0x3F333333] ++ List.replicate 16 0).map fpVal

/-- The squared length of the example, and of its distance from its codes. -/
def exampleNorm : Nat := 23087256172332520833892724030489655275469954908618210440129138303738243077982676642193997824
def exampleDiff : Nat := 234259160006184035315102848667968395142504722217991591724402861256347189836458001489199104

/-- What encodeGroup makes of the example, whatever the device's rounding makes of the error: the codes, and an error within its bound. -/
theorem example_encoded (thr : Nat) (P : GroupOut → Prop)
    (h : ∀ d, exampleDiff ≤
        d + exampleDiff / 2 ^ 16 + 1 →
      d ≤ exampleDiff +
        exampleDiff / 2 ^ 16 + 1 →
      P (if thr * thr * exampleNorm < d * 1000000 then
          patchedGroup exampleGroup false
        else
          { codes := packHalf ([3, 14, 0, 4, 9, 7, 0, 12, 2, 0, 6, 11, 5, 1, 15, 2] ++ List.replicate 16 0)
            subs := [byte (50 + 128 * (errorClass d exampleNorm % 2)),
              byte (0 + 128 * (errorClass d exampleNorm / 2))]
            patch := none, overflow := false })) : P (encodeGroup exampleGroup [] thr false) := by
  unfold encodeGroup
  dsimp only
  split
  · rename_i s0 c0 s1 c1 h0 h1
    obtain ⟨rfl, rfl⟩ : s0 = 50 ∧ c0 = [3, 14, 0, 4, 9, 7, 0, 12, 2, 0, 6, 11, 5, 1, 15, 2] := by
      have e := h0.symm.trans (by decide +kernel : _ = some (50, [3, 14, 0, 4, 9, 7, 0, 12, 2, 0, 6, 11, 5, 1, 15, 2]))
      simpa using e
    obtain ⟨rfl, rfl⟩ : s1 = 0 ∧ c1 = List.replicate 16 0 := by
      have e := h1.symm.trans (by decide +kernel : _ = some (0, List.replicate 16 0))
      simpa using e
    have hn : norm2 exampleGroup = exampleNorm := by
      decide +kernel
    generalize hd : norm2 (List.map _ (List.range 32)) = d0
    have hd' : d0 = exampleDiff := by
      rw [← hd]; decide +kernel
    subst hd'
    rw [hn]
    simp only [Bool.false_eq_true, false_or]
    exact h _ (Laws.computedDiff_bounds (by decide +kernel) (by decide +kernel)).1 (Laws.computedDiff_bounds (by decide +kernel) (by decide +kernel)).2
  · rename_i hno
    exfalso
    exact hno 50 [3, 14, 0, 4, 9, 7, 0, 12, 2, 0, 6, 11, 5, 1, 15, 2] 0 (List.replicate 16 0) (by decide +kernel) (by decide +kernel)

/-- 06_formats.md, worked example, as a value group: codes, sub-scales with class 2. -/
theorem test_value_group : encodeGroup exampleGroup [] 120 false =
    { codes := [0xE3, 0x40, 0x79, 0xC0, 0x02, 0xB6, 0x15, 0x2F] ++ zeros 8, subs := [0x32, 0x80], patch := none, overflow := false } := by
  refine example_encoded 120 (fun g => g =
    { codes := [0xE3, 0x40, 0x79, 0xC0, 0x02, 0xB6, 0x15, 0x2F] ++ zeros 8, subs := [0x32, 0x80], patch := none, overflow := false }) fun d h1 h2 => ?_
  have hq : errorClass d exampleNorm = 2 := by
    unfold errorClass
    unfold exampleDiff at h1 h2
    unfold exampleNorm
    rw [if_neg (by omega), if_neg (by omega), if_pos (by omega)]
  rw [if_neg (by unfold exampleDiff at h1 h2; unfold exampleNorm; omega), hq]
  decide +kernel

/-- 06_formats.md, worked example, as a key group: it is patched, with scale byte 0x79, and elements 0 and 14 as given. -/
theorem test_key_group : (encodeGroup exampleGroup [] 80 false).codes = zeros 16 ∧ (encodeGroup exampleGroup [] 80 false).subs = [0x7F, 0x7F] ∧
    ((encodeGroup exampleGroup [] 80 false).patch.map fun g => (g.getD 32 0, g.getD 0 0, g.getD 14 0)) = some (0x79, 0x66, 0xF6) := by
  refine example_encoded 80 (fun g => g.codes = zeros 16 ∧ g.subs = [0x7F, 0x7F] ∧
    (g.patch.map fun g => (g.getD 32 0, g.getD 0 0, g.getD 14 0)) = some (0x79, 0x66, 0xF6)) fun d h1 h2 => ?_
  rw [if_pos (by unfold exampleDiff at h1 h2; unfold exampleNorm; omega)]
  decide +kernel

/-- 06_formats.md, worked example, lowering of the value group. -/
theorem test_lowered_group : lowerGroup ([0xE3, 0x40, 0x79, 0xC0, 0x02, 0xB6, 0x15, 0x2F] ++ zeros 8) (0x32, 0x80) =
    [0x0C, 0x86, 0x90, 0x31] ++ zeros 4 := by
  decide +kernel

/-- 08_drafting.md, worked example: two accepted nodes from 256, then rejections. -/
theorem test_acceptance_average : nextAverage 256 2 = 288 ∧ nextAverage 288 0 = 252 ∧ nextAverage 252 0 = 221 ∧ nextAverage 115 0 = 101 := by
  decide +kernel

/-- 09_text_grammar.md, worked example: the texts of its tokens and its two stop strings. -/
def cafe : Voc :=
  { voc4 with tokens := [([0x43, 0x61, 0x66, 0xC3], false), ([0xA9, 0x20, 0x66, 0x69, 0x6E, 0x65, 0x0A], false),
      ([0x51, 0x3A, 0x20, 0x6E, 0x65, 0x78, 0x74], false), ([0x20, 0x73, 0x74, 0x65, 0x70], false)] }
def cafeText : TextState := { session7.text with stops := [[0x0A, 0x51, 0x3A], [0x45, 0x4E, 0x44]], includeStop := false }
def cafeFirst : Run := appendSampled cafe cafeText 2040 false false false [(1, 0), (1, 1)]
def cafeSecond (incl : Bool) : Run := appendSampled cafe cafeFirst.text 2042 incl false false [(1, 2), (1, 3)]

/-- The first descriptor: 10 bytes emitted, the newline held, no stop. -/
theorem test_stop_held : cafeFirst.out = [0x43, 0x61, 0x66, 0xC3, 0xA9, 0x20, 0x66, 0x69, 0x6E, 0x65] ∧ cafeFirst.text.hold = [0x0A] ∧
    cafeFirst.text.pend = [] ∧ cafeFirst.stop = none ∧ textFlags cafeFirst = 8 := by
  decide +kernel

/-- The second: one token appended, at 2,042, nothing emitted, STOP_OFFSET 2, TEXT_FLAGS 3; with INCL 1 the stop string is. -/
theorem test_stop_found : (cafeSecond false).entries.length = 1 ∧ (cafeSecond false).out = [] ∧ (cafeSecond false).stop = some (2042, 2) ∧
    textFlags (cafeSecond false) = 3 ∧ (cafeSecond true).out = [0x0A, 0x51, 0x3A] := by
  decide +kernel

/-- R65's CRC of one byte 1, first register, most significant bit first: the polynomial itself. -/
theorem test_crc_polynomial : crc64 [1] = 0x42F0E1EBA9EA3693 := by decide +kernel

/-- R550: a field stores as many bits as it has. -/
theorem test_field_width : regGet (regSet up .ldgStatusState 5 7) .ldgStatusState 5 = 7 % 2 ^ fldBits .ldgStatusState := by decide +kernel

/-- R5: the reset state answers on the SYS block alone. -/
theorem test_before_ready : answers State.reset 0x100000 = false ∧ exec (.registerWrite .a 0x100000 8 1) State.reset = .next State.reset := by
  exact ⟨by decide +kernel, by rfl⟩

/-- No word of the opcode table has bits, so none spells a command. -/
theorem test_decode_none : decodeTableWord 16 0x1234 = none := by rfl

/-! ### A state and operands for the hypotheses of every statement -/

theorem witness_EveryStepKeepsTheForm_nonempty : ∃ s t, Formed s ∧ step s = .next t :=
  ⟨State.reset, idle State.reset, reset_formed, rfl⟩

theorem witness_EmptyQueueLetsTimePass_idle : ∃ s : State, s.pending = [] :=
  ⟨State.reset, by decide +kernel⟩

theorem witness_EveryCommandAnswers_formed : ∃ s : State, Formed s :=
  ⟨State.reset, reset_formed⟩

theorem witness_PayloadWritesAreRead_zeroTaken : ∃ (c : List Host.Cell) (a k : Nat) (b : List Byte), cellsWf c = true ∧ (k < a ∨ a + b.length ≤ k) :=
  ⟨[(0, 7), (16383, 1)], 0, 16383, [0, 5], by decide +kernel⟩

theorem witness_PayloadFormIsCanonical_same : ∃ c d : List Host.Cell, cellsWf c = true ∧ cellsWf d = true ∧ ∀ k, cellGet c k = cellGet d k :=
  ⟨[(3, 7)], cellsOf [0, 0, 0, 7], by decide +kernel, by decide +kernel, fun _ => rfl⟩

theorem witness_RegisterWritesSetOneField_other : ∃ (f g : Fld) (i j : Nat), (g, j) ≠ (f, i) :=
  ⟨.sysOriginId, .sysOriginId, 0, 1, by decide⟩

theorem witness_RegisterCommandsTouchRegistersOnly_write : ∃ (s t : State) (q : Path) (f : Fld), exec (.registerWrite .a 0x2000 8 5) s = .next t ∧ q ≠ .a ∧ (fldSpec f).sel = .perPath :=
  ⟨up, writeWord (fresh up) .a 0x2000 8 5, .b, .ldgSelLedger, by rfl, by decide, by decide +kernel⟩

theorem witness_SealedFieldsStay_sealed : ∃ (s t : State) (f : Fld), isSealed s = true ∧ (fldSpec f).acc = .rwl ∧ exec (.registerWrite .a 0x2000 8 5) s = .next t :=
  ⟨setReg up .sysLockSeal 1, writeWord (fresh (setReg up .sysLockSeal 1)) .a 0x2000 8 5, .cxlHostMapPbrId, by decide +kernel,
    by decide +kernel, by rfl⟩

theorem witness_WideRegistersLatchAndStage_low : accessOk 0xA00038 8 = true ∧ answers up 0xA00038 = true ∧ wordsAt 0xA00038 = 4 ∧ wordOf 0xA00038 = 0 ∧ wordOf 0xA00050 = 3 ∧
    wordsAt (0xA00050 - 8 * wordOf 0xA00050) = 4 :=
  by decide +kernel

theorem witness_WideRegistersLatchAndStage_latched : ∃ e, 0 < wordOf 0xA00040 ∧ wordsAt (0xA00040 - 8 * wordOf 0xA00040) = 4 ∧
    latchedNonce.regs.latch.find? (fun e => e.1 == pathNo .a && e.2.1 == 0xA00040 - 8 * wordOf 0xA00040) = some e :=
  ⟨(0, 0xA00038, 5), by decide +kernel⟩

theorem witness_OwnershipRecordLayout_widest : ∃ o : OwnRec, o.epoch < 2 ^ 32 ∧ o.owner < 2 ^ 24 ∧ o.state < 256 ∧ o.target < 2 ^ 24 ∧ o.since < 2 ^ 64 :=
  ⟨{ epoch := 2 ^ 32 - 1, owner := 2 ^ 24 - 1, state := 2, target := 2 ^ 24 - 1, granted := true, since := 2 ^ 64 - 1 }, by decide +kernel⟩

theorem witness_CompletionLayout_long : ∃ (s : State) (w : Work) (cq status : Nat), compatLedger s cq = false ∧ w.hdr.tag < 2 ^ 64 ∧ w.ledger < 4096 ∧ w.slot < 65536 ∧
    status < 256 :=
  ⟨up, { flying 0x31 0 with ledger := 4095, slot := 65535 }, 4095, 255, by decide +kernel⟩

theorem witness_EventLogsKeepTheirRule_logged : ∃ (s : State) (x : Event), running s = true ∧ x ∈ logOf s.flt 2 ∧ x.reason = 0x0A02 ∧ x.location = 0 ∧ x.keySlot = 0xFFFF ∧
    s.time < x.time + 1000000 :=
  ⟨logged, (logOf logged.flt 2).getD 0 event0, by decide +kernel⟩

theorem witness_EventLogsKeepTheirRule_full : ∃ s : State, 16384 ≤ (logOf s.flt 3).length ∧ ∀ x ∈ logOf s.flt 3, x.reason ≠ 0x0A05 :=
  ⟨{ up with flt := { up.flt with log3 := List.replicate 16384 event0 } }, by
    rw [show logOf { up.flt with log3 := List.replicate 16384 event0 } 3 = List.replicate 16384 event0 from rfl, List.length_replicate], by
    intro x hx
    rw [List.eq_of_mem_replicate hx]
    decide⟩

theorem witness_UnknownHandlesAreNotOwned_absent : ∀ e ∈ [(0x01, 0), (0x02, 0), (0x02, 1), (0x02, 2), (0x03, 0), (0x03, 1), (0x03, 2), (0x03, 3), (0x04, 0), (0x06, 0), (0x06, 1), (0x06, 2), (0x13, 0)],
    canRun (withWork (flying e.1 e.2)) 5 (flying e.1 e.2) = true ∧ ddFull (begun (withWork (flying e.1 e.2)) (flying e.1 e.2)) = false ∧
      heldFor (begun (withWork (flying e.1 e.2)) (flying e.1 e.2)) 3 (subjectOf (flying e.1 e.2)) = none ∧ isMode e.1 8 e.2 (flying e.1 e.2) = true :=
  by decide +kernel

theorem witness_UnknownHandlesAreNotOwned_absentModes : ∀ e ∈ [(0x10, 24, 0), (0x10, 24, 1), (0x10, 24, 2), (0x10, 24, 3), (0x12, 16, 0), (0x12, 16, 1), (0x12, 16, 2), (0x19, 26, 0), (0x19, 26, 1),
      (0x19, 26, 2), (0x1A, 20, 0), (0x1A, 20, 1), (0x1A, 20, 2), (0x1A, 20, 3), (0x30, 24, 0), (0x30, 24, 2), (0x30, 24, 3)],
    canRun (withWork (moded e)) 5 (moded e) = true ∧ ddFull (begun (withWork (moded e)) (moded e)) = false ∧
      heldFor (begun (withWork (moded e)) (moded e)) 3 (subjectOf (moded e)) = none ∧ isMode e.1 e.2.1 e.2.2 (moded e) = true :=
  by decide +kernel

theorem witness_VersionsAreFresh_stride : ∃ (s : State) (old : Tile), old = (tileOf s 7 0x1000).getD (blankTile 7 0x1000 3) ∧ old.recFloor < max old.floor (vfloorOf s 7) + 1 :=
  ⟨{ up with tiles := [dirtyTile] }, dirtyTile, by decide +kernel⟩

theorem witness_FailedCopiesAreDropped_twin : ∃ (s : State) (t : Tile) (d : TileCopy), tileOf s 7 0 = some t ∧ ({ tier := 2, place := 0, version := t.version } : TileCopy) ∈ t.copies ∧
    d ∈ t.copies ∧ d.tier = 2 ∧ d.version = t.version ∧ d.place = 4 :=
  ⟨{ up with tiles := heads7 }, heads7.getD 0 storedTile, { tier := 2, place := 4, version := 1 }, by decide +kernel⟩

theorem witness_FailedCopiesAreDropped_lower : ∃ (s : State) (t : Tile), tileOf s 7 0 = some t ∧ ({ tier := 4, place := 0, version := t.version } : TileCopy) ∈ t.copies ∧
    (∀ d ∈ t.copies, d ≠ ({ tier := 4, place := 0, version := t.version } : TileCopy) → d.tier = 4 → d.version ≠ t.version) ∧
    ∃ d ∈ t.copies, d ≠ ({ tier := 4, place := 0, version := t.version } : TileCopy) ∧ d.version = t.version :=
  ⟨{ up with tiles := heads7 }, heads7.getD 0 storedTile, by decide +kernel⟩

theorem witness_FailedCopiesAreDropped_lost : ∃ (s : State) (t : Tile) (x : Subject), tileOf s 7 0x1000 = some t ∧ ({ tier := 2, place := 0, version := t.version } : TileCopy) ∈ t.copies ∧
    (∀ d ∈ t.copies, d ≠ ({ tier := 2, place := 0, version := t.version } : TileCopy) → d.version ≠ t.version) ∧ t.durable = true ∧ subjAny s 7 = some x :=
  ⟨{ up with tiles := [dirtyTile], subjects := [session7] }, dirtyTile, session7, by decide +kernel⟩

theorem witness_QueryIsAnswered_held : ∃ (t : State) (m : List Byte) (x : Subject), peerIn (fresh claimHost) 22 queryMsg 0x04 = some (t, 2, m) ∧ subjAny t (field m 8 8) = some x ∧
    field m 4 4 + 1 ≤ x.own.epoch :=
  ⟨fresh claimHost, queryMsg, offered7, by decide +kernel⟩

theorem witness_QueryIsAnswered_waiting : ∃ (t : State) (m : List Byte) (c : Claim), peerIn (fresh claimed) 22 queryMsg9 0x04 = some (t, 2, m) ∧ subjAny t (field m 8 8) = none ∧
    traceOf t (field m 8 8) = none ∧ claimOf t (field m 8 8) = some c ∧ c.epoch = field m 4 4 :=
  ⟨fresh claimed, queryMsg9, claim9, by decide +kernel⟩

theorem witness_QueryIsAnswered_none : ∃ (t : State) (m : List Byte), peerIn (fresh claimHost) 22 queryMsg9 0x04 = some (t, 2, m) ∧ subjAny t (field m 8 8) = none ∧
    traceOf t (field m 8 8) = none ∧ claimOf t (field m 8 8) = none :=
  ⟨fresh claimHost, queryMsg9, by decide +kernel⟩

theorem witness_PowerLossKeepsFlashOnly_loss : ∃ (s t : State) (v : Nat), s.power.state = .running ∧ v < 44000 ∧ exec (.powerLoss v false) s = .next t :=
  ⟨onSubject parkOf7, sealAndStop (fresh (onSubject parkOf7)) false .off 43999, 43999, by rfl, by decide, by rfl⟩

theorem witness_BeforeReadyTheDeviceRefuses_starting : State.reset.power.state = .starting ∧ accessOk 0 8 = true ∧ accessOk 0x100000 8 = true :=
  by decide +kernel

theorem witness_LedgerControlKeepsItsStates_states : running up = true ∧ entryOf up .a .ldgStatusState 0 = some 0 ∧ regGet up .ldgStatusState 0 = 0 ∧ up.power.quiescing = false ∧
    enableError (fresh up) 0 ≠ 0 ∧ regGet (ledgerUp 0) .ldgStatusState 0 = 1 ∧
    ∀ k ∈ [2, 3], running (regSet up .ldgStatusState 0 k) = true ∧ entryOf (regSet up .ldgStatusState 0 k) .a .ldgStatusState 0 = some 0 ∧
      regGet (regSet up .ldgStatusState 0 k) .ldgStatusState 0 = k :=
  by decide +kernel

theorem witness_RevocationNeedsAnActiveSlot_idleSlot : running operatorHost = true ∧ spdmChan operatorHost .mb = some operatorChan ∧ operatorChan.algs = true ∧
    (operatorChan.sessions.any fun x => x.id == 1 && x.secured && x.operator.isSome) = true ∧ slotActive operatorHost 4095 = false :=
  by decide +kernel

theorem witness_RevocationNeedsAnActiveSlot_zeroed : slotRec { up with sec := { up.sec with slots := [{ slot3 with state := 3 }] } } 3 = some { slot3 with state := 3 } ∧
    running { up with sec := { up.sec with slots := [{ slot3 with state := 3 }] } } = true :=
  by decide +kernel

theorem witness_PowerCommandsComplete_powerOnStart :
    ∃ (s : State) (x : StartInput) (k : FwImage), s.power.inserted ∧ s.power.state = .off ∧ chooseKelgor (lockPlls (powerUp (fresh s) x)) x = some k :=
  ⟨{ State.reset with power := { State.reset.power with state := .off } }, startInput, { svn := 0, image := [] }, by decide +kernel⟩

theorem witness_PowerCommandsComplete_holdupCharged :
    ∃ (s : State) (_energy bankMv : Nat) (x : StartInput), s.power.state = .starting ∧ s.power.waitBank = some x ∧ 55000 ≤ bankMv :=
  ⟨{ State.reset with power := { State.reset.power with waitBank := some startInput } }, 0, 55000, startInput, by decide +kernel⟩

theorem witness_PowerCommandsComplete_powerLoss :
    ∃ (s : State) (vinMv : Nat) (_bankHolds : Bool), s.power.state = .running ∧ vinMv < 44000 :=
  ⟨up, 43999, true, by decide +kernel⟩

theorem witness_PowerCommandsComplete_overVoltage :
    ∃ (s : State) (vinMv : Nat) (_bankHolds : Bool), s.power.state = .running ∧ 61000 < vinMv :=
  ⟨up, 61001, true, by decide +kernel⟩

theorem witness_PowerCommandsComplete_inputBelow20v :
    ∃ (s : State), (s.power.state = .thermalOff ∨ s.power.state = .failed) :=
  ⟨{ up with power := { up.power with state := .failed } }, by decide +kernel⟩

theorem witness_PowerCommandsComplete_insertion :
    ∃ (s : State) (_live : Bool), s.power.inserted = false :=
  ⟨{ State.reset with power := { State.reset.power with inserted := false } }, true, by decide +kernel⟩

theorem witness_PowerCommandsComplete_portWarmReset :
    ∃ (s : State) (_p : PortId), running s ∧ s.power.perstA = false ∧ s.power.perstB = false :=
  ⟨up, .a, by decide +kernel⟩

theorem witness_PowerCommandsComplete_perstDeassert :
    ∃ (s : State) (p : PortId), running s ∧ perst s p ∧ 3 ≤ reg s .sysBootStage :=
  ⟨{ setReg up .sysBootStage 3 with power := { up.power with perstA := true } }, .a, by decide +kernel⟩

theorem witness_PowerCommandsComplete_deviceWarmReset :
    ∃ (s : State), running s ∧ (s.power.perstA && s.power.perstB) = false ∧ s.power.quiescing = false :=
  ⟨up, by decide +kernel⟩

theorem witness_PowerCommandsComplete_quiesce :
    ∃ (s : State) (_path : Path), running s ∧ s.power.quiescing = false :=
  ⟨up, .a, by decide +kernel⟩

theorem witness_PowerCommandsComplete_quiesceTimeout :
    ∃ (s : State), running s ∧ s.power.quiescing :=
  ⟨{ up with power := { up.power with quiescing := true } }, by decide +kernel⟩

theorem witness_PowerCommandsComplete_nvWrite :
    ∃ (s : State) (_path : Path) (img : Fetch) (t : State) (b : List Byte), running s ∧ readSource (fresh s) (reg s .sysNvAddrAddr) (reg s .sysNvLenLen) img = (t, some b) ∧ updateError t (some b) true true = 0 :=
  ⟨nvHost, .a, .data nvImage, nvRead, nvImage, by decide +kernel⟩

theorem witness_PowerCommandsComplete_firmwareWrite :
    ∃ (s : State) (_svn : Nat) (img : List Byte), s.power.state = .starting ∧ reg s .sysBootError = 1 ∧ img.length ≤ 8388608 :=
  ⟨setReg State.reset .sysBootError 1, 7, [0x4B], by decide +kernel⟩

theorem witness_PowerCommandsComplete_thermalCritical :
    ∃ (s : State) (vinMv : Nat) (_bankHolds : Bool), running s ∧ 44000 ≤ vinMv :=
  ⟨up, 56000, true, by decide +kernel⟩

theorem witness_CompletionIsWritten_completionWrite :
    ∃ (s : State) (t : State) (w : Work) (cq : Nat), running s ∧ workOf s w.id = some w ∧ w.place = .ended ∧ cq = regGet s .ldgCfgCq w.ledger ∧ cqLost (fresh s) cq = false ∧ cqReceives (fresh s) cq ∧ compatWaits (fresh s) w = false ∧ (createdIndices w).any (revealBusy (fresh s)) = false ∧ releaseLines (fresh s) (changedNames (fresh s) (revised (fresh s) w).2.2) = (t, true) ∧ (readyFor t cq).head?.map (·.id) = some w.id ∧ cqRoom t cq ∧ regGet t .ldgCfgLoc cq = 0 :=
  ⟨cqState, fresh cqState, endedWork, 1, by decide +kernel⟩

theorem witness_RegisterCommandsComplete_seal :
    ∃ (s : State) (_path : Path), powered s :=
  ⟨up, .a, by decide +kernel⟩

theorem witness_RegisterCommandsComplete_registerWrite :
    ∃ (s : State) (_path : Path) (off width _value : Nat), accessOk off width ∧ answers s off :=
  ⟨up, .a, 0x2000, 8, 5, by decide +kernel⟩

theorem witness_RegisterCommandsComplete_wideRegisterRead :
    ∃ (s : State) (_path : Path) (off : Nat), accessOk off 8 ∧ answers s off :=
  ⟨up, .a, 0x2000, by decide +kernel⟩

theorem witness_RegisterCommandsComplete_qsampRead :
    ∃ (s : State) (_path : Path), answers s qsampOff :=
  ⟨up, .b, by decide +kernel⟩

theorem witness_RegisterCommandsComplete_bar0MctpWrite :
    ∃ (s : State) (off width _value : Nat), busServes s ∧ accessOk off width ∧ answers s off :=
  ⟨setReg up .sysBootStage 9, 0x2000, 4, 5, by decide +kernel⟩

theorem witness_RegisterCommandsComplete_bar0MctpRead :
    ∃ (s : State) (off width : Nat), busServes s ∧ accessOk off width ∧ answers s off :=
  ⟨setReg up .sysBootStage 9, 0x2000, 4, by decide +kernel⟩

theorem witness_BitstreamCommandsComplete_bitstreamLoad :
    ∃ (s : State) (_path : Path) (img : Fetch) (t : State) (b : List Byte), running s ∧ s.units.drain = none ∧ 192 ≤ reg s .panBsLenLen ∧ reg s .panBsLenLen ≤ 67108864 ∧ readSource (setReg { (fresh s) with units := { s.units with staged := none } } .panBsStatusState 1) (reg s .panBsAddrAddr) (reg s .panBsLenLen) img = (t, some b) ∧ containerError t (some b) true = 0 :=
  ⟨loadHost tinyContainer.length, .a, .data tinyContainer, loadRead tinyContainer.length, tinyContainer, by decide +kernel⟩

theorem witness_BitstreamCommandsComplete_activate :
    ∃ (s : State) (_path : Path) (_badPans : List (Nat × Nat)) (c : Container) (t : UnitConfig), running s ∧ s.units.drain = none ∧ s.units.staged = some c ∧ targetOf (fresh s) c = some t ∧ positionsFree t :=
  ⟨{ up with units := { up.units with staged := some box } }, .a, [], box, { full := box, part := none }, by decide +kernel⟩

theorem witness_BitstreamCommandsComplete_bitstreamDrainTimeout :
    ∃ (s : State) (_badPans : List (Nat × Nat)) (t : UnitConfig) (back : Bool) (us : List Nat) (bad : List (Nat × Nat)), running s ∧ s.units.drain = some (t, back, us, bad) :=
  ⟨{ up with units := { up.units with drain := some ({ full := box, part := none }, false, [1], []) } }, [(0, 3)], { full := box, part := none }, false, [1], [], by decide +kernel⟩

theorem witness_BitstreamCommandsComplete_rollback :
    ∃ (s : State) (_path : Path) (_badPans : List (Nat × Nat)) (c : UnitConfig), running s ∧ s.units.drain = none ∧ s.units.previous = some c ∧ reg s .panBsSvnMinValue ≤ configSvn c :=
  ⟨{ up with units := { up.units with previous := some { full := box, part := none } } }, .a, [], { full := box, part := none }, by decide +kernel⟩

theorem witness_PanCommandsComplete_panFault :
    ∃ (s : State) (bed pos : Nat), running s ∧ (leafOfPan s bed pos).isSome :=
  ⟨sown, 0, 0, by decide +kernel⟩

theorem witness_PanCommandsComplete_stepOverrun :
    ∃ (s : State) (bed pos : Nat), running s ∧ (s.units.steps.any (fun e => e.bed == bed && e.pos == pos)) ∧ panHalted s bed pos = false ∧ (leafOfPan s bed pos).isSome :=
  ⟨stepping1, 0, 0, by decide +kernel⟩

theorem witness_PanCommandsComplete_tileStepBegin :
    ∃ (s : State) (w : Work) (bed pos leaf : Nat) (_last writes : Bool), running s ∧ panHalted s bed pos = false ∧ (writes && ddFull (fresh s)) = false ∧ ((panWorks s bed pos).any (fun y => y.id == w.id)) ∧ workOf s w.id = some w ∧ (s.units.steps.any (fun e => e.bed == bed && e.pos == pos) = false) ∧ (s.units.slots.any (fun e => e.bed == bed && e.pos == pos && setOf e.slot == turnAt (fresh s) bed pos && !e.ready) = false) ∧ leafOfPan s bed pos = some leaf ∧ serving s leaf ∧ (s.units.switching.any (fun e => e.1 == holder s leaf) = false) :=
  ⟨inflight1, leafWork, 0, 0, 1, true, true, by decide +kernel⟩

theorem witness_PanCommandsComplete_tileArrivalSlot :
    ∃ (s : State) (bed pos slot handle number : Nat) (_image : List Byte), running s ∧ (s.units.slots.any (fun e => e.bed == bed && e.pos == pos && e.slot == slot && e.handle == handle && e.number == number && !e.ready)) :=
  ⟨awaiting1, 0, 0, 2, 77, 0x2000, [], by decide +kernel⟩

theorem witness_PanCommandsComplete_tileArrivalT1 :
    ∃ (s : State) (t : State) (handle number : Nat) (tile : Tile) (image : List Byte), running s ∧ tileOf s handle number = some tile ∧ tile.version ≠ 0 ∧ 2 ≤ (masterPlace tile).1 ∧ imagePasses tile image ∧ raiseDemand (fresh s) handle number (homeOf s handle) = (t, true) :=
  ⟨lowTile, fresh raisedTile, 77, 0x2000, storedTile, tileImage, by
    refine ⟨by decide +kernel, by decide +kernel, by decide +kernel, by decide +kernel, tile_passes, by decide +kernel⟩⟩

theorem witness_PanCommandsComplete_stepEnd :
    ∃ (s : State) (w : Work) (bed pos leaf : Nat) (e : StepEnt), running s ∧ (s.units.steps.find? (fun e => e.bed == bed && e.pos == pos && !panHalted s bed pos) = some e) ∧ workOf s e.work = some w ∧ w.id = e.work ∧ unfinished w ∧ leafOfPan s bed pos = some leaf ∧ slotActive s w.hdr.keySlot ∧ w.hdr.deadline = 0 :=
  ⟨stepping1, leafWork, 0, 0, 1, stepEnt1, by decide +kernel⟩

theorem witness_PanCommandsComplete_tileRequest :
    ∃ (s : State) (w : Work) (bed pos handle number slot : Nat) (tile : Tile), running s ∧ panWork s bed pos = some w ∧ slot < 8 ∧ panHalted s bed pos = false ∧ tileOf s handle number = some tile ∧ tile.keySlot = w.hdr.keySlot ∧ tile.version ≠ 0 ∧ masterTier tile ≠ 0 ∧ tile.lodged = none ∧ keyChecked (fresh s) handle number = (fresh s) :=
  ⟨lowTile, leafWork, 0, 0, 77, 0x2000, 2, storedTile, by decide +kernel⟩

theorem witness_PanCommandsComplete_panMessage :
    ∃ (s : State) (bed pos toBed toPos a b : Nat) (_body : List Byte), running s ∧ leafOfPan s bed pos = some a ∧ leafOfPan s toBed toPos = some b ∧ rootOf s a = rootOf s b ∧ panHalted s bed pos = false ∧ bed = toBed :=
  ⟨sown, 0, 0, 0, 1, 1, 1, [7], by decide +kernel⟩

theorem witness_PanCommandsComplete_dispatchHeldRelease :
    ∃ (s : State) (_utype : Nat), running s :=
  ⟨up, 0, by decide +kernel⟩

theorem witness_ContextCommandsComplete_contextSwitchDone :
    ∃ (s : State) (r : State) (leaf c k : Nat), running s ∧ k = holder s leaf ∧ aget s.units.switching k = some c ∧ r = reloadImage (fresh s) k c :=
  ⟨switching1, reloadImage (fresh switching1) 1 3, 1, 3, 1, by
    refine ⟨by decide +kernel, by decide +kernel, by decide +kernel, rfl⟩⟩

theorem witness_ContextCommandsComplete_contextSliceExpiry :
    ∃ (s : State) (leaf : Nat), running s ∧ isResident s leaf = false ∧ (currentOf s leaf).isSome :=
  ⟨{ sown with units := { sown.units with current := [(1, 0, 0)] } }, 1, by decide +kernel⟩

theorem witness_ContextCommandsComplete_residentSliceExpiry :
    ∃ (s : State) (unit : Nat), running s ∧ isResident s unit ∧ (currentOf s (rootOf s unit)).isSome :=
  ⟨resident1, 1, by decide +kernel⟩

theorem witness_ContextCommandsComplete_descriptorWindowRead :
    ∃ (s : State) (w : Work) (leaf at_ : Nat), running s ∧ workOf (fresh s) w.id = some w ∧ serving (fresh s) leaf ∧ (s.units.switching.any (fun e => e.1 == holder (fresh s) leaf) = false) ∧ ((waitingFor (fresh s) leaf).any (fun x => x.id == w.id)) ∧ isOp 0x11 w = false ∧ currentOf (fresh s) (holder (fresh s) leaf) = some (contextOf (fresh s) w, at_) ∧ ((leastBy (choiceKey (fresh s)) ((waitingFor (fresh s) leaf).filter fun x => contextOf (fresh s) x == contextOf (fresh s) w)).map (·.id) = some w.id) :=
  ⟨{ queued1 with units := { queued1.units with current := [(1, 0, 0)] } }, queuedWork, 1, 0, by decide +kernel⟩

theorem witness_ContextCommandsComplete_descriptorWindowReadFirst :
    ∃ (s : State) (t : State) (w : Work) (leaf : Nat), running s ∧ workOf (fresh s) w.id = some w ∧ serving (fresh s) leaf ∧ (s.units.switching.any (fun e => e.1 == holder (fresh s) leaf) = false) ∧ ((waitingFor (fresh s) leaf).any (fun x => x.id == w.id)) ∧ isOp 0x11 w = false ∧ currentOf (fresh s) (holder (fresh s) leaf) = none ∧ (leastBy (choiceKey (fresh s)) (waitingFor (fresh s) leaf)).map (·.id) = some w.id ∧ residentPlace (fresh s) (holder (fresh s) leaf) = some t :=
  ⟨queued1, fresh queued1, queuedWork, 1, by decide +kernel⟩

theorem witness_LedgerCommandsComplete_ledgerTailUpdate :
    ∃ (s : State) (ledger : Nat) (line : Fetch) (_descs : List Fetch) (b : List Byte), running s ∧ ledgerActive (fresh s) ledger 0 ∧ ledgerFetch (fresh s) ledger (regGet s .ldgLineAddrAddr ledger) 64 line = .data b :=
  ⟨ledgerUp 0, 0, .data (zeros 64), [], zeros 64, by decide +kernel⟩

theorem witness_LedgerCommandsComplete_consumedLineUpdate :
    ∃ (s : State) (ledger : Nat) (line : Fetch) (b : List Byte), running s ∧ ledger < 4096 ∧ cqReceives (fresh s) ledger ∧ ledgerFetch (fresh s) ledger (regGet s .ldgLineAddrAddr ledger) 64 line = .data b :=
  ⟨ledgerUp 1, 0, .data (zeros 64), zeros 64, by decide +kernel⟩

theorem witness_LedgerCommandsComplete_readyLinePoll :
    ∃ (s : State) (addr : Nat) (_b : List Byte), running s ∧ addr / 64 ∈ s.ledg.readyPolled :=
  ⟨{ up with ledg := { up.ledg with readyPolled := [3] } }, 200, zeros 64, by decide +kernel⟩

theorem witness_LedgerCommandsComplete_readyWordUpdate :
    ∃ (s : State) (addr _word : Nat), running s ∧ addr / 64 ∈ s.ledg.readyWatched ∧ addr % 8 = 0 :=
  ⟨{ up with ledg := { up.ledg with readyWatched := [3] } }, 200, 7, by decide +kernel⟩

theorem witness_LedgerCommandsComplete_ledgerEnable :
    ∃ (s : State) (path : Path) (_line l : Nat), running s ∧ entryOf (fresh s) path .ldgStatusState 0 = some l ∧ ledgerDisabled (fresh s) l ∧ s.power.quiescing = false ∧ enableError (fresh s) l = 0 ∧ regGet (activated (fresh s) l) .ldgCfgLoc l = 0 ∧ regGet (activated (fresh s) l) .ldgCfgType l = 0 :=
  ⟨ledgerReady, .a, 0, 0, by decide +kernel⟩

theorem witness_LedgerCommandsComplete_ledgerDisable :
    ∃ (s : State) (path : Path) (l : Nat), running s ∧ entryOf (fresh s) path .ldgStatusState 0 = some l ∧ regGet (fresh s) .ldgStatusState l = 1 :=
  ⟨ledgerUp 0, .a, 0, by decide +kernel⟩

theorem witness_LedgerCommandsComplete_ledgerDrainEnd :
    ∃ (s : State) (ledger : Nat), running s ∧ ledger < 4096 ∧ regGet (fresh s) .ldgStatusState ledger = 2 ∧ ledgerEmpty (fresh s) ledger :=
  ⟨regSet up .ldgStatusState 0 2, 0, by decide +kernel⟩

theorem witness_LedgerCommandsComplete_cqFullTimeout :
    ∃ (s : State) (ledger : Nat), running s ∧ ledger < 4096 ∧ cqReceives (fresh s) ledger ∧ cqRoom (fresh s) ledger = false ∧ ledger ∉ s.ledg.stalled ∧ (s.work.any (fun w => w.place == .ended && regGet (fresh s) .ldgCfgCq w.ledger == ledger)) :=
  ⟨{ regSet cqState .ldgHeadCount 1 16 with work := [endedWork] }, 1, by decide +kernel⟩

theorem witness_LedgerCommandsComplete_interruptCoalTimeout :
    ∃ (s : State) (group : Nat), running s ∧ regGet (fresh s) .ldgGrpCoalTime group ≠ 0 ∧ (aget s.ledg.coal group).isSome :=
  ⟨{ regSet up .ldgGrpCoalTime 0 5 with ledg := { up.ledg with coal := [(0, 1)] } }, 0, by decide +kernel⟩

theorem witness_LedgerCommandsComplete_unknownOpcode :
    ∃ (s : State) (ledger : Nat) (desc : List Byte), running s ∧ ledgerActive (fresh s) ledger 0 ∧ field desc 0 1 ∉ opcodes :=
  ⟨ledgerUp 0, 0, 0x7F :: zeros 127, by decide +kernel⟩

theorem witness_SluiceAndSessionWorkComplete_sluiceSession :
    ∃ (s : State) (id : Nat) (w : Work), canRun s id w ∧ isMode 0x07 8 0 w :=
  ⟨withWork (flying 0x07 0), 5, flying 0x07 0, by decide +kernel⟩

theorem witness_SluiceAndSessionWorkComplete_sluicePublish :
    ∃ (s : State) (id : Nat) (w : Work), canRun s id w ∧ isMode 0x07 8 1 w :=
  ⟨withWork (flying 0x07 1), 5, flying 0x07 1, by decide +kernel⟩

theorem witness_SluiceAndSessionWorkComplete_sluiceGlobal :
    ∃ (s : State) (id : Nat) (w : Work), canRun s id w ∧ isMode 0x07 8 2 w :=
  ⟨withWork (flying 0x07 2), 5, flying 0x07 2, by decide +kernel⟩

theorem witness_SluiceAndSessionWorkComplete_sessionOpen :
    ∃ (s : State) (t : State) (u : State) (id : Nat) (w : Work) (h i b : Nat), canRun s id w ∧ isOp 0x08 w ∧ ddFull (begun s w) = false ∧ passes (openChks (begun s w) w) ∧ issueHandle (begun s w) = .ok t h ∧ freeIndex (begun s w) = some i ∧ bucketBusy t h = false ∧ chooseBed (begun s w) w.hdr.keySlot (homeBeds (begun s w)) = some b ∧ createSubject t w.id (openedSession t w h i b) (openTiles (openedSession t w h i b)) = some u :=
  ⟨openHost, openNumbered, openStaged, 5, openWith, 0x10000000001, 0, 0, by
    refine ⟨by decide +kernel, by decide +kernel, by decide +kernel, by decide +kernel, rfl, by decide +kernel, by decide +kernel, by decide +kernel, some_getD ?_⟩
    decide +kernel⟩

theorem witness_SluiceAndSessionWorkComplete_sessionClose :
    ∃ (s : State) (t : State) (id : Nat) (w : Work) (x : Subject), canRun s id w ∧ isOp 0x09 w ∧ subjAny (begun s w) (subjectOf w) = some x ∧ earlierOpen (begun s w) w = false ∧ (releaseLines (begun s w) ((tilesOf (begun s w) x.handle).map fun t => (t.handle, t.number)) = (t, true)) :=
  ⟨onSubject (flying 0x09 0), fresh (onSubject (flying 0x09 0)), 5, flying 0x09 0, session7, by decide +kernel⟩

theorem witness_SluiceAndSessionWorkComplete_park :
    ∃ (s : State) (id : Nat) (w : Work) (x : Subject) (src : Fetch), canRun s id w ∧ isOp 0x01 w ∧ ddFull (begun s w) = false ∧ heldFor (begun s w) w.hdr.keySlot (subjectOf w) = some x ∧ passes (parkChks x) ∧ x.state ≠ 2 ∧ passes [chk (!w.tally.isEmpty || parkFields x w) stBad] ∧ ends (parkTail (parkWith (begun s w) w x src) w.id x.handle (bit (opr w 20 1) 0)) w.id stDone :=
  ⟨onSubject parkOf7, 5, parkOf7, session7, .data [], by decide +kernel⟩

theorem witness_SluiceAndSessionWorkComplete_reviveWorking :
    ∃ (s : State) (id : Nat) (w : Work) (x : Subject) (bad : List (Nat × Nat)), canRun s id w ∧ isFirstMode 0x02 8 3 w ∧ heldFor (begun s w) w.hdr.keySlot (subjectOf w) = some x ∧ passes (reviveChks x w) ∧ x.state = 2 ∧ (ends (reviveSet bad (updSubj (updWork (begun s w) w.id fun z => { z with tally := [1] }) x.handle fun y => { y with state := 3 }) w x false) w.id stDone) :=
  ⟨onParked (flying 0x02 0), 5, flying 0x02 0, parked7, [], by decide +kernel⟩

theorem witness_SluiceAndSessionWorkComplete_reviveFull :
    ∃ (s : State) (id : Nat) (w : Work) (x : Subject) (bad : List (Nat × Nat)), canRun s id w ∧ isMode 0x02 8 1 w ∧ heldFor (begun s w) w.hdr.keySlot (subjectOf w) = some x ∧ passes (reviveChks x w) ∧ x.state = 2 ∧ (ends (reviveSet bad (updSubj (updWork (begun s w) w.id fun z => { z with tally := [1] }) x.handle fun y => { y with state := 3 }) w x true) w.id stDone) :=
  ⟨onParked (flying 0x02 1), 5, flying 0x02 1, parked7, [], by decide +kernel⟩

theorem witness_SluiceAndSessionWorkComplete_reviveHint :
    ∃ (s : State) (id : Nat) (w : Work) (x : Subject), canRun s id w ∧ isMode 0x02 8 2 w ∧ heldFor (begun s w) w.hdr.keySlot (subjectOf w) = some x ∧ passes [chk (x.state != 5) stPoisoned, chk (reviveFields w) stBad] :=
  ⟨onParked (flying 0x02 2), 5, flying 0x02 2, parked7, by decide +kernel⟩

theorem witness_SluiceAndSessionWorkComplete_movePlace :
    ∃ (s : State) (t : State) (id : Nat) (w : Work) (x : Subject) (a b : Nat) (bad : List (Nat × Nat)), canRun s id w ∧ isFirstMode 0x03 8 4 w ∧ heldFor (begun s w) w.hdr.keySlot (subjectOf w) = some x ∧ passes (placeChks x w) ∧ ((subjAny (readFails (begun s w) bad (placeNames (begun s w) x w)) x.handle).any (fun y => y.state == 5) = false) ∧ placeLoop w (opr w 9 1) (opr w 24 1) (placeNames (begun s w) x w) (readFails (begun s w) bad (placeNames (begun s w) x w)) 0 0 = (t, a, b, .placed) :=
  ⟨placeHost, fresh placeHost, 5, placeWork, session7, 0, 0, [(9, 9)], by decide +kernel⟩

theorem witness_SluiceAndSessionWorkComplete_moveView :
    ∃ (s : State) (id : Nat) (w : Work) (x : Subject), canRun s id w ∧ isMode 0x03 8 1 w ∧ heldFor (begun s w) w.hdr.keySlot (subjectOf w) = some x ∧ passes (viewChks (begun s w) w x) :=
  ⟨onSubject (flying 0x03 1), 5, flying 0x03 1, session7, by decide +kernel⟩

theorem witness_SluiceAndSessionWorkComplete_moveUnview :
    ∃ (s : State) (t : State) (id : Nat) (w : Work) (x : Subject), canRun s id w ∧ isMode 0x03 8 2 w ∧ heldFor (begun s w) w.hdr.keySlot (subjectOf w) = some x ∧ passes (unviewChks (begun s w) w x) ∧ releaseWindow (begun s w) (opr w 16 8 / 2 ^ 30) = (t, true) :=
  ⟨viewed7, fresh viewed7, 5, flying 0x03 2, session7, by decide +kernel⟩

theorem witness_SluiceAndSessionWorkComplete_moveAttach :
    ∃ (s : State) (t : State) (id : Nat) (w : Work) (x : Subject), canRun s id w ∧ isMode 0x03 8 3 w ∧ ddFull (begun s w) = false ∧ heldFor (begun s w) w.hdr.keySlot (subjectOf w) = some x ∧ passes (attachChks w x ++ [chk (decide (attachNoted w ≤ attachLimit x w)) stConflict]) ∧ attachBusy (begun s w) w x = false ∧ layerBusy (begun s w) w x.handle (List.range x.layers) = false ∧ attachLodged (begun s w) x (attachFound (begun s w) w x).1 = [] ∧ attachBad (begun s w) x (attachFound (begun s w) w x).1 = [] ∧ mayMove (attachWaits (begun s w) w (attachFound (begun s w) w x).1.length) w 0 (attachBytes (begun s w) x (attachFound (begun s w) w x).1) ∧ t = moved (attachWaits (begun s w) w (attachFound (begun s w) w x).1.length) w (attachBytes (begun s w) x (attachFound (begun s w) w x).1) 0 ∧ ends (attachEnd (if (attachFound (begun s w) w x).2 then workEvent t w 0x0305 [(attachFound (begun s w) w x).1.length] else t) w x (attachFound (begun s w) w x).1) w.id stDone :=
  ⟨onSubject (flying 0x03 3), moved (attachWaits (fresh (onSubject (flying 0x03 3))) (flying 0x03 3) 0) (flying 0x03 3) 0 0, 5, flying 0x03 3, session7, by
    refine ⟨by decide +kernel, by decide +kernel, by decide +kernel, by decide +kernel, by decide +kernel, by decide +kernel, by decide +kernel,
      by decide +kernel, by decide +kernel, by decide +kernel, rfl, by decide +kernel⟩⟩

theorem witness_DirectoryAndStoreCommandsComplete_dirRebuild :
    ∃ (s : State) (bucket : Nat), running s ∧ bucket < buckets s.model ∧ bucket ∉ s.dir.rebuilding :=
  ⟨up, 17, by decide +kernel⟩

theorem witness_DirectoryAndStoreCommandsComplete_dirRebuildDone :
    ∃ (s : State) (bucket : Nat), running s ∧ bucket ∈ s.dir.rebuilding :=
  ⟨{ up with dir := { up.dir with rebuilding := [17] } }, 17, by decide +kernel⟩

theorem witness_DirectoryAndStoreCommandsComplete_writebackStart :
    ∃ (s : State) (t : Tile), running s ∧ nextWrite (fresh s) = some t ∧ reg s .durFlashState ≠ 3 ∧ scrubFirst (fresh s) = false :=
  ⟨{ up with tiles := [dirtyTile] }, dirtyTile, by decide +kernel⟩

theorem witness_DirectoryAndStoreCommandsComplete_writebackTileDone :
    ∃ (s : State) (handle number : Nat) (e : Nat × Nat × Nat) (t : Tile), running s ∧ (s.dur.writing.find? (fun e => e.1 == handle && e.2.1 == number) = some e) ∧ ((heldTiles (takeTurn { (fresh s) with dur := { s.dur with writing := s.dur.writing.filter fun x => x ≠ e } } flashWrites 0)).find? (fun t => t.handle == handle && t.number == number && t.version == e.2.2) = some t) :=
  ⟨{ up with tiles := [dirtyTile], dur := { up.dur with writing := [(7, 0x1000, 2)] } }, 7, 0x1000, (7, 0x1000, 2), dirtyTile, by decide +kernel⟩

theorem witness_DirectoryAndStoreCommandsComplete_spillStart :
    ∃ (s : State) (tier scope : Nat), running s ∧ scopeExists (fresh s) tier scope ∧ aboveMark (scopeLoad (fresh s) tier scope) (tierMarks (fresh s) tier).1 ∧ (tier, scope) ∉ s.moving.spilling :=
  ⟨crowded, 3, 2, by decide +kernel⟩

theorem witness_DirectoryAndStoreCommandsComplete_spillTileDone :
    ∃ (s : State) (r : State) (handle number : Nat) (t u : Tile), running s ∧ r = endSpills (fresh s) ∧ ((keptTiles r).find? (fun t => t.handle == handle && t.number == number) = some t) ∧ drains r t = false ∧ nextSpill r (scopeOf r t).1 (scopeOf r t).2 = some u ∧ u.handle = handle ∧ u.number = number ∧ spillTurn r (((spillTo r t).map (·.1)).getD 0) :=
  ⟨spilling, endSpills (fresh spilling), 77, 0x2000, t3Tile, t3Tile, by
    refine ⟨by decide +kernel, rfl, by decide +kernel, by decide +kernel, by decide +kernel, by decide +kernel, by decide +kernel, by decide +kernel⟩⟩

theorem witness_DirectoryAndStoreCommandsComplete_prefetchItem :
    ∃ (s : State) (source handle number : Nat) (t : Tile), running s ∧ (source = 1 ∨ (source, handle, number) ∈ s.moving.items) ∧ tileOf (fresh s) handle number = some t ∧ t.lodged = none ∧ readable (fresh s) t ∧ (source = 1 ∨ itemsAhead (fresh s) source (mediumOf (fresh s) t) = false ∨ eighth (fresh s) (mediumOf (fresh s) t) source) :=
  ⟨{ up with tiles := [dirtyTile], moving := { up.moving with items := [(5, 7, 0x1000)] } }, 5, 7, 0x1000, dirtyTile, by decide +kernel⟩

theorem witness_DirectoryAndStoreCommandsComplete_t3Grant :
    ∃ (s : State) (path : Path) (r : Nat), running s ∧ entryOf (fresh s) path .stoT3CtrlValid 0 = some r ∧ t3Grantable (fresh s) r :=
  ⟨regs up [(.stoT3SizeSize, 0, 4)], .a, 0, by decide +kernel⟩

theorem witness_DirectoryAndStoreCommandsComplete_t3Withdraw :
    ∃ (s : State) (path : Path) (r : Nat), running s ∧ entryOf (fresh s) path .stoT3CtrlValid 0 = some r ∧ t3Used (fresh s) r = 0 :=
  ⟨up, .a, 0, by decide +kernel⟩

theorem witness_DirectoryAndStoreCommandsComplete_t3Drain :
    ∃ (s : State) (path : Path) (r : Nat), running s ∧ entryOf (fresh s) path .stoT3CtrlValid 0 = some r ∧ regGet (fresh s) .stoT3StatusState r = 1 :=
  ⟨regs up [(.stoT3StatusState, 0, 1)], .a, 0, by decide +kernel⟩

theorem witness_DirectoryAndStoreCommandsComplete_t3Compute :
    ∃ (s : State) (path : Path) (r : Nat), running s ∧ entryOf (fresh s) path .stoT3CtrlValid 0 = some r ∧ t3Used (fresh s) r = 0 :=
  ⟨up, .a, 0, by decide +kernel⟩

theorem witness_DirectoryAndStoreCommandsComplete_t3RangeLost :
    ∃ (s : State) (range : Nat), running s ∧ range < 64 ∧ regGet (fresh s) .stoT3CtrlValid range = 1 ∧ regGet (fresh s) .stoT3StatusState range ≠ 3 :=
  ⟨spilling, 2, by decide +kernel⟩

theorem witness_HostAccessCommandsComplete_hostLoad :
    ∃ (s : State) (pbr addr h base f k n : Nat) (te : Bool) (t : Tile), running s ∧ hostOf (fresh s) pbr = some h ∧ portServes (fresh s) (regGet (fresh s) .cxlHostMapPort h) ∧ suspended (fresh s) h = false ∧ aget s.cxl.hdm h = some base ∧ base ≤ addr ∧ windowExists (fresh s) ((addr - base) / 64 * 64 / 2 ^ 30) ∧ extentCovers (fresh s) h ((addr - base) / 64 * 64 / 2 ^ 30) ∧ (h, (addr - base) / 64 * 64 / 2 ^ 30) ∉ s.cxl.te ∧ spanFrames ((addr - base) / 64 * 64) 64 = [f] ∧ tileAt (fresh s) f = some (k, n) ∧ tileOf (fresh s) k n = some t ∧ t.version ≠ 0 ∧ readable (fresh s) t ∧ t.lodged = none ∧ masterTier t = 1 ∧ t.verified :=
  ⟨hosted, 11, 0x1000, 0, 0, 0, 77, 0, true, nearTile, by decide +kernel⟩

theorem witness_HostAccessCommandsComplete_hostStore :
    ∃ (s : State) (pbr addr h base f k n : Nat) (te : Bool) (t : Tile) (_body : Fetch) (place : Nat), running s ∧ hostOf (fresh s) pbr = some h ∧ portServes (fresh s) (regGet (fresh s) .cxlHostMapPort h) ∧ suspended (fresh s) h = false ∧ aget s.cxl.hdm h = some base ∧ base ≤ addr ∧ windowExists (fresh s) ((addr - base) / 64 * 64 / 2 ^ 30) ∧ extentCovers (fresh s) h ((addr - base) / 64 * 64 / 2 ^ 30) ∧ (h, (addr - base) / 64 * 64 / 2 ^ 30) ∉ s.cxl.te ∧ spanFrames ((addr - base) / 64 * 64) 64 = [f] ∧ bindingOf (fresh s) (f / 2 ^ 30) = some (.region k place) ∧ tileAt (fresh s) f = some (k, n) ∧ tileOf (fresh s) k n = some t ∧ t.version ≠ 0 ∧ readable (fresh s) t ∧ t.lodged = none ∧ masterTier t = 1 ∧ t.verified :=
  ⟨hosted, 11, 0x1000, 0, 0, 0, 77, 0, true, nearTile, .data [1, 2], 0, by decide +kernel⟩

theorem witness_HostAccessCommandsComplete_peerUioAccess :
    ∃ (s : State) (pbr off len h : Nat) (_write : Option (List Byte)), running s ∧ 1 ≤ len ∧ len ≤ 512 ∧ pairHost (fresh s) pbr off len = some h :=
  ⟨regs hosted [(.cxlHostMapPairValid, 0, 1), (.cxlHostMapPair, 0, 21)], 21, 0, 64, 0, none, by decide +kernel⟩

theorem witness_HostAccessCommandsComplete_tilePromotionDone :
    ∃ (s : State) (handle number : Nat), running s ∧ (handle, number) ∈ s.moving.promoting :=
  ⟨promoting1, 77, 0, by decide +kernel⟩

theorem witness_HostAccessCommandsComplete_biResponse :
    ∃ (s : State) (host line : Nat), running s ∧ (host, line) ∈ s.cxl.biPending :=
  ⟨{ up with cxl := { up.cxl with biPending := [(0, 4)] } }, 0, 4, by decide +kernel⟩

theorem witness_HostAccessCommandsComplete_biTimeout :
    ∃ (s : State) (host : Nat), running s ∧ (s.cxl.biPending.any (fun e => e.1 == host)) :=
  ⟨{ up with cxl := { up.cxl with biPending := [(0, 4)] } }, 0, by decide +kernel⟩

theorem witness_HostAccessCommandsComplete_hostResume :
    ∃ (s : State) (path : Path) (h : Nat), running s ∧ entryOf (fresh s) path .cxlHostStatusSuspended 0 = some h :=
  ⟨up, .a, 0, by decide +kernel⟩

theorem witness_IngestAndFarAttentionComplete_kvIngestFile :
    ∃ (s : State) (id : Nat) (w : Work) (x : Subject) (src : Fetch), canRun s id w ∧ isFirstMode 0x10 24 4 w ∧ ddFull (begun s w) = false ∧ heldFor (begun s w) w.hdr.keySlot (subjectOf w) = some x ∧ passes (fileChks x w) ∧ ends (ingestWith (begun s w) w x src 0) w.id stDone :=
  ⟨fileHost, 5, fileWork, longSession, .data (zeros 1088), by decide +kernel⟩

theorem witness_IngestAndFarAttentionComplete_kvIngestComplete :
    ∃ (s : State) (id : Nat) (w : Work) (x : Subject) (src : Fetch), canRun s id w ∧ isMode 0x10 24 1 w ∧ ddFull (begun s w) = false ∧ heldFor (begun s w) w.hdr.keySlot (subjectOf w) = some x ∧ passes (completeChks x w) ∧ ends (ingestWith (begun s w) w x src (completeValid x w)) w.id stDone :=
  ⟨partHost, 5, partWork, partSession, .data (zeros 1088), by decide +kernel⟩

theorem witness_IngestAndFarAttentionComplete_kvIngestRegister :
    ∃ (s : State) (id : Nat) (w : Work) (x : Subject), canRun s id w ∧ isMode 0x10 24 2 w ∧ ddFull (begun s w) = false ∧ heldFor (begun s w) w.hdr.keySlot (subjectOf w) = some x ∧ globalsBusy (begun s w) w x.handle = false ∧ passes (registerChks x w) ∧ ends (conclude (begun s w) w stDone [] (headTiles x) [.globals x.handle (registered x w)]) w.id stDone :=
  ⟨onSubject registerWork, 5, registerWork, session7, by decide +kernel⟩

theorem witness_IngestAndFarAttentionComplete_kvIngestClear :
    ∃ (s : State) (id : Nat) (w : Work) (x : Subject), canRun s id w ∧ isMode 0x10 24 3 w ∧ ddFull (begun s w) = false ∧ heldFor (begun s w) w.hdr.keySlot (subjectOf w) = some x ∧ globalsBusy (begun s w) w x.handle = false ∧ passes (clearChks x w) ∧ ends (conclude (begun s w) w stDone [] (headTiles x) [.globals x.handle []]) w.id stDone :=
  ⟨onSubject clearWork, 5, clearWork, session7, by decide +kernel⟩

theorem witness_IngestAndFarAttentionComplete_farAttn :
    ∃ (s : State) (id : Nat) (w : Work) (x : Subject) (queries : List Fetch) (bad : List (Nat × Nat)), canRun s id w ∧ isOp 0x11 w ∧ subjAny (begun s w) (subjectOf w) = some x ∧ x.keySlot = w.hdr.keySlot ∧ passes (farRunChks (begun s w) w x) ∧ layerReady (tidyReady (begun s w)) w w.layer ∧ ends (runLayers (farLayers w) (tidyReady (begun s w)) w.id queries bad) w.id stDone :=
  ⟨farHost, 5, farWork, farSession, [.data (zeros 128)], [], by decide +kernel⟩

theorem witness_DraftAndModelCommandsComplete_modelLoad :
    ∃ (s : State) (t : State) (path : Path) (img : Fetch) (k : Nat) (b table : List Byte), running s ∧ entryOf (fresh s) path .panMdlCtrlLoad 0 = some k ∧ modelOf (fresh s) k = none ∧ regGet (fresh s) .panMdlLenLen k ≠ 0 ∧ readSource (fresh s) (regGet (fresh s) .panMdlAddrAddr k) (regGet (fresh s) .panMdlLenLen k) img = (t, some b) ∧ modelError t (some b) (regGet (fresh s) .panMdlUnitUnit k) (some table) true = 0 :=
  ⟨modelHost, modelRead, .a, .data modelImage, 0, modelImage, zeros 48, by decide +kernel⟩

theorem witness_DraftAndModelCommandsComplete_modelUnload :
    ∃ (s : State) (path : Path) (k : Nat) (m : ModelSlot), running s ∧ entryOf (fresh s) path .panMdlCtrlUnload 0 = some k ∧ modelOf (fresh s) k = some m ∧ m.state = 2 :=
  ⟨{ up with models := [model0] }, .a, 0, model0, by decide +kernel⟩

theorem witness_DraftAndModelCommandsComplete_modelUnloadDone :
    ∃ (s : State) (slot : Nat) (m : ModelSlot), running s ∧ modelOf (fresh s) slot = some m ∧ m.state = 3 ∧ ((s.work.any fun w => inFlight w && draftSlot (fresh s) w == some slot) = false) :=
  ⟨{ up with models := [{ model0 with state := 3 }] }, 0, { model0 with state := 3 }, by decide +kernel⟩

theorem witness_DraftAndModelCommandsComplete_draftConfigure :
    ∃ (s : State) (id : Nat) (w : Work) (x : Subject) (m : ModelSlot) (nums : List Nat), canRun s id w ∧ isMode 0x12 16 1 w ∧ ddFull (begun s w) = false ∧ heldFor (begun s w) w.hdr.keySlot (subjectOf w) = some x ∧ passes (configureChks (begun s w) w x) ∧ usableModel (begun s w) (opr w 17 1) w.hdr.keySlot = some m ∧ takeNumbers (begun s w) x.handle 1 = some nums ∧ ends (endDraft (begun s w) w x stDone (configuredDraft w x m.modelId).1 [] [] (dropAll (if (configuredDraft w x m.modelId).2 then draftTiles (begun s w) x.handle else treeTiles (begun s w) x.handle)) .none [] nums) w.id stDone :=
  ⟨draftHost configureWork, 5, configureWork, drafting, model0, [0x2000], by decide +kernel⟩

theorem witness_DraftAndModelCommandsComplete_draftReset :
    ∃ (s : State) (id : Nat) (w : Work) (x : Subject) (d : Draft), canRun s id w ∧ isMode 0x12 16 2 w ∧ ddFull (begun s w) = false ∧ heldFor (begun s w) w.hdr.keySlot (subjectOf w) = some x ∧ passes (resetChks w x) ∧ x.draft = some d ∧ ends (endDraft (begun s w) w x stDone (resetKv d) [] [] (dropAll (draftTiles (begun s w) x.handle)) .none [] []) w.id stDone :=
  ⟨draftHost resetWork, 5, resetWork, drafting, draft0, by decide +kernel⟩

theorem witness_DraftAndModelCommandsComplete_draft :
    ∃ (s : State) (t : State) (id : Nat) (w : Work) (x : Subject) (d : Draft) (m : ModelSlot) (v : Voc) (hit : List (Nat × Nat × Nat × Bool)), canRun s id w ∧ isFirstMode 0x12 16 3 w ∧ ddFull (begun s w) = false ∧ heldFor (begun s w) w.hdr.keySlot (subjectOf w) = some x ∧ passes (draftRunChks (begun s w) w x) ∧ x.draft = some d ∧ draftModel (begun s w) w x = some m ∧ vocById (begun s w) x.vocab = some v ∧ (if needsPass w d m then readWeights (begun s w) w m hit else some (begun s w)) = some t ∧ ends (draftEnd t w x v m d) w.id stDone :=
  ⟨draftHost draftWork, fresh (draftHost draftWork), 5, draftWork, drafting, draft0, model0, voc4, [], by decide +kernel⟩

theorem witness_DraftAndModelCommandsComplete_verifyCommit :
    ∃ (s : State) (id : Nat) (w : Work) (x : Subject) (v : Voc) (d : Draft), canRun s id w ∧ isOp 0x13 w ∧ ddFull (begun s w) = false ∧ heldFor (begun s w) w.hdr.keySlot (subjectOf w) = some x ∧ passes (commitChks (begun s w) w x) ∧ vocById (begun s w) x.vocab = some v ∧ x.draft = some d ∧ ends (commitEnd (begun s w) w x v d) w.id stDone :=
  ⟨draftHost commitWork, 5, commitWork, treed, voc4, draft1, by decide +kernel⟩

theorem witness_TextCommandsComplete_vocabularyLoad :
    ∃ (s : State) (t : State) (path : Path) (img : Fetch) (k : Nat) (b : List Byte), running s ∧ entryOf (fresh s) path .txtVocCtrlLoad 0 = some k ∧ vocAt (fresh s) k = none ∧ regGet (fresh s) .txtVocLenLen k ≠ 0 ∧ readSource (fresh s) (regGet (fresh s) .txtVocAddrAddr k) (regGet (fresh s) .txtVocLenLen k) img = (t, some b) ∧ vocError t (some b) = 0 :=
  ⟨vocHost, vocRead, .a, .data vocImage, 0, vocImage, by decide +kernel⟩

theorem witness_TextCommandsComplete_vocabularyUnload :
    ∃ (s : State) (path : Path) (k : Nat) (v : Voc), running s ∧ entryOf (fresh s) path .txtVocCtrlUnload 0 = some k ∧ vocAt (fresh s) k = some v ∧ (s.subjects.any (fun x => x.kind != .buffer && x.vocab == v.id) = false) :=
  ⟨{ up with vocs := [voc4] }, .a, 0, voc4, by decide +kernel⟩

theorem witness_TextCommandsComplete_tokenize :
    ∃ (s : State) (t : State) (id : Nat) (w : Work) (src : Fetch) (v : Voc) (f : List (Nat × List Nat)) (b : List Byte) (toks : List Nat) (r : Nat), canRun s id w ∧ isOp 0x18 w ∧ bit (opr w 37 1) 0 = false ∧ subjectOf w = 0 ∧ vocById (begun s w) (opr w 32 4) = some v ∧ foldTable (begun s w) v = some f ∧ tokenizeFields w ∧ reachFault (begun s w) w.hdr.keySlot (addrOf (opr w 8 8)) (opr w 24 4) false = none ∧ reachFault (begun s w) w.hdr.keySlot (addrOf (opr w 16 8)) (4 * opr w 28 4) true = none ∧ opr w 16 8 ≠ 0 ∧ readAddr (begun s w) (addrOf (opr w 8 8)) (opr w 24 4) false src = (t, .ok b) ∧ tokens v f (bit (opr w 37 1) 1) b = (some toks, r) ∧ ends (tokenizeEnd t w none toks r) w.id stDone :=
  ⟨tokenHost, tokenRead, 5, tokenWork, .data [0x61], voc4, [], [0x61], [0], 0, by decide +kernel⟩

theorem witness_TextCommandsComplete_appendTokens :
    ∃ (s : State) (id : Nat) (w : Work) (x : Subject) (_src : Fetch) (v : Voc), canRun s id w ∧ isFirstMode 0x19 26 3 w ∧ ddFull (begun s w) = false ∧ heldFor (begun s w) w.hdr.keySlot (subjectOf w) = some x ∧ passes (appendChks (begun s w) w x) ∧ vocById (begun s w) x.vocab = some v ∧ opr w 16 8 = 0 ∧ ends (appendWith (begun s w) w x v (some (unpackNats 4 (opr w 24 2) w.ops 32))) w.id stDone :=
  ⟨textHost appendWork, 5, appendWork, texting, .data [], voc4, by decide +kernel⟩

theorem witness_TextCommandsComplete_setStops :
    ∃ (s : State) (id : Nat) (w : Work) (x : Subject) (_src : Fetch), canRun s id w ∧ isMode 0x19 26 1 w ∧ ddFull (begun s w) = false ∧ heldFor (begun s w) w.hdr.keySlot (subjectOf w) = some x ∧ passes (textChks (begun s w) x true ++ [chk (setFields w 16 true) stBad]) ∧ opr w 24 2 = 0 ∧ ends (setText (begun s w) w x (withStops w x.text [])) w.id stDone :=
  ⟨textHost stopsWork, 5, stopsWork, texting, .data [], by decide +kernel⟩

theorem witness_TextCommandsComplete_setSampler :
    ∃ (s : State) (id : Nat) (w : Work) (x : Subject) (_src : Fetch), canRun s id w ∧ isMode 0x19 26 2 w ∧ ddFull (begun s w) = false ∧ heldFor (begun s w) w.hdr.keySlot (subjectOf w) = some x ∧ passes (textChks (begun s w) x true ++ [chk (setFields w 256 false) stBad]) ∧ opr w 24 2 = 0 ∧ ends (setText (begun s w) w x { x.text with sampler := slice [] 0 256 }) w.id stDone :=
  ⟨textHost samplerWork, 5, samplerWork, texting, .data [], by decide +kernel⟩

theorem witness_TextCommandsComplete_maskStep :
    ∃ (s : State) (id : Nat) (w : Work) (x : Subject) (v : Voc), canRun s id w ∧ isFirstMode 0x1A 20 4 w ∧ heldFor (begun s w) w.hdr.keySlot (subjectOf w) = some x ∧ passes (textChks (begun s w) x false ++ [chk (maskFields w) stBad]) ∧ vocById (begun s w) x.vocab = some v ∧ passes (maskOutChks false (begun s w) w x v) ∧ ends (maskEnd (begun s w) w x v []) w.id stDone :=
  ⟨textHost maskWork0, 5, maskWork0, texting, voc4, by decide +kernel⟩

theorem witness_TextCommandsComplete_maskTree :
    ∃ (s : State) (id : Nat) (w : Work) (x : Subject) (v : Voc), canRun s id w ∧ isMode 0x1A 20 1 w ∧ heldFor (begun s w) w.hdr.keySlot (subjectOf w) = some x ∧ passes (textChks (begun s w) x false ++ [chk (maskFields w) stBad]) ∧ vocById (begun s w) x.vocab = some v ∧ passes (maskOutChks true (begun s w) w x v) ∧ (ends (maskEnd (begun s w) w x v ((List.range (maskNodes x).length).map fun i => pathTo (maskNodes x) (maskNodes x).length i)) w.id stDone) :=
  ⟨{ textHost maskWork1 with subjects := [treed] }, 5, maskWork1, treed, voc4, by decide +kernel⟩

theorem witness_TextCommandsComplete_maskConfigure :
    ∃ (s : State) (t : State) (id : Nat) (w : Work) (x : Subject) (src : Fetch) (g : List Byte), canRun s id w ∧ isMode 0x1A 20 2 w ∧ ddFull (begun s w) = false ∧ heldFor (begun s w) w.hdr.keySlot (subjectOf w) = some x ∧ passes (textChks (begun s w) x true ++ [chk (maskFields w) stBad, reachChk (begun s w) w (addrOf (opr w 8 8)) (opr w 16 4) false]) ∧ readAddr (begun s w) (addrOf (opr w 8 8)) (opr w 16 4) false src = (t, .ok g) ∧ passes [chk (grammarOk g (opr w 16 4) x.vocab) stBad] ∧ ends (setGrammar t w x { x.text with active := true, dead := false, gstate := field g 18 2, stack := [], image := g, policy := if opr w 22 1 = 0 then 1 else opr w 22 1 }) w.id stDone :=
  ⟨textHost grammarWork, grammarRead, 5, grammarWork, texting, .data grammarImage, grammarImage, by decide +kernel⟩

theorem witness_TextCommandsComplete_maskClear :
    ∃ (s : State) (id : Nat) (w : Work) (x : Subject), canRun s id w ∧ isMode 0x1A 20 3 w ∧ ddFull (begun s w) = false ∧ heldFor (begun s w) w.hdr.keySlot (subjectOf w) = some x ∧ passes (textChks (begun s w) x true ++ [chk (maskFields w) stBad]) ∧ ends (setGrammar (begun s w) w x { x.text with active := false, dead := false, image := [] }) w.id stDone :=
  ⟨textHost maskWork3, 5, maskWork3, texting, by decide +kernel⟩

theorem witness_PlannerAndTrafficCommandsComplete_plan :
    ∃ (s : State) (id : Nat) (w : Work) (p : Planner), canRun s id w ∧ isFirstMode 0x38 1 4 w ∧ plannerNo (noteReady (begun s w)) (opr w 0 1) = some p ∧ passes (planChks (noteReady (begun s w)) w p) ∧ ends (planStep (noteReady (begun s w)) w p) w.id stDone :=
  ⟨planHost, 5, planWork, planner0, by decide +kernel⟩

theorem witness_PlannerAndTrafficCommandsComplete_enroll :
    ∃ (s : State) (id : Nat) (w : Work) (x : Subject) (p : Planner), canRun s id w ∧ isMode 0x38 1 1 w ∧ heldFor (begun s w) w.hdr.keySlot (opr w 16 8) = some x ∧ plannerNo (begun s w) (opr w 0 1) = some p ∧ passes (enrollChks (begun s w) w x) ∧ underPause (begun s w) p x.priority = false :=
  ⟨{ onSubject enrollWork with adm := { up.adm with planners := [planner0] } }, 5, enrollWork, session7, planner0, by decide +kernel⟩

theorem witness_PlannerAndTrafficCommandsComplete_withdraw :
    ∃ (s : State) (id : Nat) (w : Work) (x : Subject) (p : Planner) (m : Member), canRun s id w ∧ isMode 0x38 1 2 w ∧ heldFor (begun s w) w.hdr.keySlot (opr w 16 8) = some x ∧ x.state ≠ 5 ∧ plannerOf (begun s w) (opr w 16 8) = some p ∧ p.no = opr w 0 1 ∧ reservedClear w [(0, 2), (16, 8)] ∧ (p.members.find? (fun m => m.handle == opr w 16 8) = some m) ∧ m.st = 0 :=
  ⟨{ onSubject withdrawWork with adm := { up.adm with planners := [{ planner0 with members := [member7] }] } }, 5, withdrawWork, session7, { planner0 with members := [member7] }, member7, by decide +kernel⟩

theorem witness_PlannerAndTrafficCommandsComplete_stepPlanConfigure :
    ∃ (s : State) (id : Nat) (w : Work), canRun s id w ∧ isMode 0x38 1 3 w ∧ passes (planConfigureChks (begun s w) w) :=
  ⟨withWork plannerWork, 5, plannerWork, by decide +kernel⟩

theorem witness_PlannerAndTrafficCommandsComplete_plannerParkDone :
    ∃ (s : State) (x : Subject) (handle n : Nat) (m : Member) (_src : Fetch), running s ∧ memberOf (fresh s) handle = some m ∧ subjAny (fresh s) handle = some x ∧ m.st = 1 ∧ m.parkAt = some n ∧ slotActive (fresh s) x.keySlot ∧ parkWaits (fresh s) handle n = false ∧ ddFull (fresh s) = false :=
  ⟨{ planned7 with adm := { up.adm with planners := [{ planner0 with members := [{ member7 with st := 1, parkAt := some 5 }] }] } }, session7, 7, 5, { member7 with st := 1, parkAt := some 5 }, .data [], by decide +kernel⟩

theorem witness_PlannerAndTrafficCommandsComplete_plannerReviveDone :
    ∃ (s : State) (x : Subject) (handle : Nat) (m : Member), running s ∧ memberOf (fresh s) handle = some m ∧ subjAny (fresh s) handle = some x ∧ m.st = 3 ∧ slotActive (fresh s) x.keySlot :=
  ⟨{ planned7 with adm := { up.adm with planners := [{ planner0 with members := [{ member7 with st := 3 }] }] } }, session7, 7, { member7 with st := 3 }, by decide +kernel⟩

theorem witness_PlannerAndTrafficCommandsComplete_deadlineExpiry :
    ∃ (s : State) (w : Work) (work : Nat), running s ∧ workOf (fresh s) work = some w ∧ w.hdr.deadline ≠ 0 ∧ unfinished w ∧ w.final = false ∧ stepping (fresh s) w = false :=
  ⟨withWork { flying 0x31 0 with hdr := { hdrOf 0x31 with deadline := 10 } }, { flying 0x31 0 with hdr := { hdrOf 0x31 with deadline := 10 } }, 5, by decide +kernel⟩

theorem witness_PlannerAndTrafficCommandsComplete_deadlineInStep :
    ∃ (s : State) (w : Work) (work : Nat), running s ∧ workOf (fresh s) work = some w ∧ w.hdr.deadline ≠ 0 ∧ unfinished w ∧ w.final = false ∧ stepping (fresh s) w :=
  ⟨{ stepping1 with work := [lateWork] }, lateWork, 5, by decide +kernel⟩

theorem witness_PlannerAndTrafficCommandsComplete_shaperRefill :
    ∃ (s : State), running s :=
  ⟨up, by decide +kernel⟩

theorem witness_PlannerAndTrafficCommandsComplete_meterCommit :
    ∃ (s : State) (path : Path) (k : Nat), running s ∧ entryOf (fresh s) path .admMtrCirCir 0 = some k :=
  ⟨up, .a, 0, by decide +kernel⟩

theorem witness_PlannerAndTrafficCommandsComplete_clrMax :
    ∃ (s : State) (path : Path) (q : Nat), running s ∧ entryOf (fresh s) path .admQmaxDepth 0 = some q :=
  ⟨up, .a, 0, by decide +kernel⟩

theorem witness_NearMemoryCommandsComplete_fill :
    ∃ (s : State) (t : State) (id : Nat) (w : Work), canRun s id w ∧ isOp 0x20 w ∧ passes (fillChks (begun s w) w) ∧ destReady (begun s w) (addrOf (opr w 0 8)) (opr w 8 8) ∧ mayMove (begun s w) w 1 (portBytes (addrOf (opr w 0 8)) (opr w 8 8)) ∧ t = moved (begun s w) w 0 (portBytes (addrOf (opr w 0 8)) (opr w 8 8)) ∧ ends (concludeOut t w stDone [] [] [] (addrOf (opr w 0 8)) (patternBytes (slice w.ops 16 8) (opr w 8 8))) w.id stDone :=
  ⟨nearHost fillWork, begun (nearHost fillWork) fillWork, 5, fillWork, by decide +kernel⟩

theorem witness_NearMemoryCommandsComplete_copy :
    ∃ (s : State) (t : State) (id : Nat) (w : Work) (v : State) (src : Fetch) (b : List Byte), canRun s id w ∧ isOp 0x21 w ∧ passes (copyChks (begun s w) w) ∧ destReady (begun s w) (addrOf (opr w 8 8)) (opr w 16 8) ∧ lodgedRead (begun s w) (residentOnly w 24) (addrOf (opr w 0 8)) (opr w 16 8) = [] ∧ mayMove (begun s w) w 0 (moveBytes (begun s w) (addrOf (opr w 0 8)) (opr w 16 8)) ∧ mayMove (begun s w) w 1 (portBytes (addrOf (opr w 8 8)) (opr w 16 8)) ∧ t = moved (begun s w) w (moveBytes (begun s w) (addrOf (opr w 0 8)) (opr w 16 8)) (portBytes (addrOf (opr w 8 8)) (opr w 16 8)) ∧ readAddr t (addrOf (opr w 0 8)) (opr w 16 8) (residentOnly w 24) src = (v, .ok b) ∧ ends (concludeOut v w stDone [] [] [] (addrOf (opr w 8 8)) b) w.id stDone :=
  ⟨nearHost copyWork, begun (nearHost copyWork) copyWork, 5, copyWork, copyRead, .data (zeros 64), zeros 64, by decide +kernel⟩

theorem witness_NearMemoryCommandsComplete_compare :
    ∃ (s : State) (t : State) (u : State) (id : Nat) (w : Work) (v : State) (fa fb : Fetch) (a b : List Byte), canRun s id w ∧ isOp 0x22 w ∧ passes (compareChks (begun s w) w) ∧ lodgedRead (begun s w) (residentOnly w 24) (addrOf (opr w 0 8)) (opr w 16 8) = [] ∧ lodgedRead (begun s w) (residentOnly w 24) (addrOf (opr w 8 8)) (opr w 16 8) = [] ∧ mayMove (begun s w) w 0 (moveBytes (begun s w) (addrOf (opr w 0 8)) (opr w 16 8) + moveBytes (begun s w) (addrOf (opr w 8 8)) (opr w 16 8)) ∧ t = moved (begun s w) w (moveBytes (begun s w) (addrOf (opr w 0 8)) (opr w 16 8) + moveBytes (begun s w) (addrOf (opr w 8 8)) (opr w 16 8)) 0 ∧ readAddr t (addrOf (opr w 0 8)) (opr w 16 8) (residentOnly w 24) fa = (v, .ok a) ∧ readAddr v (addrOf (opr w 8 8)) (opr w 16 8) (residentOnly w 24) fb = (u, .ok b) :=
  ⟨nearHost compareWork, begun (nearHost compareWork) compareWork, compareRead2, 5, compareWork, compareRead1, .data (zeros 64), .data (zeros 64), zeros 64, zeros 64, by decide +kernel⟩

theorem witness_NearMemoryCommandsComplete_reduceOne :
    ∃ (s : State) (t : State) (id : Nat) (w : Work) (v : State) (fa _fb : Fetch) (a : List Byte), canRun s id w ∧ (isOp 0x23 w && decide (opr w 0 1 < 0x80)) = true ∧ passes (reduceChks (begun s w) w) ∧ elementwise (opr w 0 1) = false ∧ lodgedRead (begun s w) (residentOnly w 2) (addrOf (opr w 8 8)) (reduceLen w) = [] ∧ mayMove (begun s w) w 0 (moveBytes (begun s w) (addrOf (opr w 8 8)) (reduceLen w)) ∧ t = moved (begun s w) w (moveBytes (begun s w) (addrOf (opr w 8 8)) (reduceLen w)) 0 ∧ readAddr t (addrOf (opr w 8 8)) (reduceLen w) (residentOnly w 2) fa = (v, .ok a) ∧ ends (reduceOne v w a) w.id stDone :=
  ⟨nearHost reduceWork1, begun (nearHost reduceWork1) reduceWork1, 5, reduceWork1, reduceRead1, .data (zeros 64), .data [], zeros 16, by decide +kernel⟩

theorem witness_NearMemoryCommandsComplete_reduceTwo :
    ∃ (s : State) (t : State) (id : Nat) (w : Work) (v y : State) (fa fb : Fetch) (a b : List Byte), canRun s id w ∧ (isOp 0x23 w && decide (opr w 0 1 < 0x80)) = true ∧ passes (reduceChks (begun s w) w) ∧ elementwise (opr w 0 1) ∧ destReady (begun s w) (addrOf (opr w 24 8)) (reduceLen w) ∧ lodgedRead (begun s w) (residentOnly w 2) (addrOf (opr w 8 8)) (reduceLen w) = [] ∧ lodgedRead (begun s w) (residentOnly w 2) (addrOf (opr w 16 8)) (reduceLen w) = [] ∧ mayMove (begun s w) w 0 (moveBytes (begun s w) (addrOf (opr w 8 8)) (reduceLen w) + moveBytes (begun s w) (addrOf (opr w 16 8)) (reduceLen w)) ∧ mayMove (begun s w) w 1 (portBytes (addrOf (opr w 24 8)) (reduceLen w)) ∧ t = moved (begun s w) w (moveBytes (begun s w) (addrOf (opr w 8 8)) (reduceLen w) + moveBytes (begun s w) (addrOf (opr w 16 8)) (reduceLen w)) (portBytes (addrOf (opr w 24 8)) (reduceLen w)) ∧ readAddr t (addrOf (opr w 8 8)) (reduceLen w) (residentOnly w 2) fa = (v, .ok a) ∧ readAddr v (addrOf (opr w 16 8)) (reduceLen w) (residentOnly w 2) fb = (y, .ok b) ∧ ends (reduceTwo y w a b) w.id stDone :=
  ⟨nearHost reduceWork2, begun (nearHost reduceWork2) reduceWork2, 5, reduceWork2, reduceRead2, reduceRead3, .data (zeros 64), .data (zeros 64), zeros 16, zeros 16, by decide +kernel⟩

theorem witness_NearMemoryCommandsComplete_reduceScorer :
    ∃ (s : State) (id : Nat) (w : Work) (status : Nat) (_result : List Byte), canRun s id w ∧ (isOp 0x23 w && decide (0x80 ≤ opr w 0 1)) = true ∧ status ≤ 0x0F :=
  ⟨withWork (flyingOps 0x23 [0x80]), 5, flyingOps 0x23 [0x80], 0, [], by decide +kernel⟩

theorem witness_ObservationCommandsComplete_mark :
    ∃ (s : State) (id : Nat) (w : Work), canRun s id w ∧ isOp 0x31 w ∧ subjectOf w = 0 ∧ passes [chk (markFields w) stBad] ∧ ends (markEnd (begun s w) w) w.id stDone :=
  ⟨withWork (flyingOps 0x31 (zeros 8 ++ [9])), 5, flyingOps 0x31 (zeros 8 ++ [9]), by decide +kernel⟩

theorem witness_ObservationCommandsComplete_dumpTiles :
    ∃ (s : State) (t : State) (id : Nat) (w : Work) (x : Subject), canRun s id w ∧ isFirstMode 0x30 24 4 w ∧ heldFor (begun s w) w.hdr.keySlot (subjectOf w) = some x ∧ passes (dumpTilesChks (begun s w) w) ∧ bit (opr w 26 1) 0 = false ∧ (((dumpSet (begun s w) x (selectionOf w)).take (opr w 16 8 / tileBytes)).filter (fun t => t.lodged.isSome && !dumpable w t) = []) ∧ mayMove (begun s w) w 0 (farBytes ((dumpSet (begun s w) x (selectionOf w)).take (opr w 16 8 / tileBytes))) ∧ mayMove (begun s w) w 1 (portBytes (addrOf (opr w 8 8)) (min (opr w 16 8) ((dumpSet (begun s w) x (selectionOf w)).length * tileBytes))) ∧ t = moved (begun s w) w (farBytes ((dumpSet (begun s w) x (selectionOf w)).take (opr w 16 8 / tileBytes))) (portBytes (addrOf (opr w 8 8)) (min (opr w 16 8) ((dumpSet (begun s w) x (selectionOf w)).length * tileBytes))) ∧ ends (writeTiles t w (dumpSet (begun s w) x (selectionOf w))) w.id stDone :=
  ⟨dumpHost dumpWork, begun (dumpHost dumpWork) dumpWork, 5, dumpWork, session7, by decide +kernel⟩

theorem witness_ObservationCommandsComplete_dumpTrace :
    ∃ (s : State) (t : State) (id : Nat) (w : Work) (rs : List TraceRec), canRun s id w ∧ isMode 0x30 24 1 w ∧ passes (dumpTraceChks (begun s w) w) ∧ rs = recordsFit (opr w 16 8) (begun s w).obs.ring ∧ mayMove (begun s w) w 1 (portBytes (addrOf (opr w 8 8)) (rs.flatMap (·.body)).length) ∧ t = moved (begun s w) w 0 (portBytes (addrOf (opr w 8 8)) (rs.flatMap (·.body)).length) ∧ (ends (concludeOut t w stDone (dumpResult rs.length (reg (begun s w) .obsTbufStatLost - (begun s w).obs.lostSeen) ((begun s w).obs.ring.length - rs.length)) [] [.traceTaken ((rs.getLast?.map fun r => r.seq + 1).getD 0) (reg (begun s w) .obsTbufStatLost)] (addrOf (opr w 8 8)) (rs.flatMap (·.body))) w.id stDone) :=
  ⟨traceHost, begun traceHost traceWork, 5, traceWork, [], by decide +kernel⟩

theorem witness_ObservationCommandsComplete_dumpArm :
    ∃ (s : State) (id : Nat) (w : Work) (x : Subject), canRun s id w ∧ isMode 0x30 24 2 w ∧ heldFor (begun s w) w.hdr.keySlot (subjectOf w) = some x ∧ passes (armChks (begun s w) w) ∧ ends (conclude (begun s w) w stDone (dumpResult 0 0 0) [] [.arm (opr w 27 1) (some (w.hdr.keySlot, subjectOf w, opr w 48 8, opr w 56 4, selectionOf w))]) w.id stDone :=
  ⟨onSubject armWork, 5, armWork, session7, by decide +kernel⟩

theorem witness_ObservationCommandsComplete_dumpDisarm :
    ∃ (s : State) (id : Nat) (w : Work) (x : Subject), canRun s id w ∧ isMode 0x30 24 3 w ∧ heldFor (begun s w) w.hdr.keySlot (subjectOf w) = some x ∧ passes (disarmChks (begun s w) w) ∧ ends (conclude (begun s w) w stDone (dumpResult 0 0 0) [] [.arm (opr w 27 1) none]) w.id stDone :=
  ⟨{ onSubject disarmWork with obs := { up.obs with arms := [arm2] } }, 5, disarmWork, session7, by decide +kernel⟩

theorem witness_ObservationCommandsComplete_dumpCapture :
    ∃ (s : State) (c : Capture) (rest : List Capture), running s ∧ s.obs.captures = c :: rest ∧ 0 < s.obs.level :=
  ⟨{ up with obs := { up.obs with captures := [capture2], level := 9 } }, capture2, [], by decide +kernel⟩

theorem witness_ObservationCommandsComplete_captureTimeout :
    ∃ (s : State) (arm : Nat) (c : Capture) (t : Tile) (rest : List Tile), running s ∧ (s.obs.captures.find? (fun c => c.arm == arm) = some c) ∧ c.tiles = t :: rest :=
  ⟨{ up with obs := { up.obs with captures := [capture2] } }, 2, capture2, storedTile, [], by decide +kernel⟩

theorem witness_ObservationCommandsComplete_obsBudgetRefill :
    ∃ (s : State), running s :=
  ⟨up, by decide +kernel⟩

theorem witness_ObservationCommandsComplete_snap :
    ∃ (s : State) (_path : Path), running s :=
  ⟨up, .a, by decide +kernel⟩

theorem witness_ObservationCommandsComplete_counterClear :
    ∃ (s : State) (path : Path) (k : Nat), running s ∧ entryOf (fresh s) path .obsCntCount 0 = some k :=
  ⟨up, .a, 0, by decide +kernel⟩

theorem witness_ObservationCommandsComplete_counterSample :
    ∃ (s : State), running s ∧ reg (fresh s) .obsSampCfgPeriod ≠ 0 :=
  ⟨regs up [(.obsSampCfgPeriod, 0, 5)], by decide +kernel⟩

theorem witness_OwnershipWorkComplete_handoverOffer :
    ∃ (s : State) (t : State) (v : State) (id : Nat) (w : Work) (x : Subject), canRun s id w ∧ isOp 0x04 w ∧ ddFull (begun s w) = false ∧ heldFor (begun s w) w.hdr.keySlot (subjectOf w) = some x ∧ passes (offerChks (begun s w) w x) ∧ w.tally = [] ∧ releaseLines (begun s w) (t1Masters (begun s w) x.handle) = (t, true) ∧ writeDown (t1Masters (begun s w) x.handle) t = (v, true) ∧ sendOwn v x.handle (offeredTo v x (opr w 8 3)) = (v, none) ∧ ends (offerEnd v w x (offeredTo v x (opr w 8 3))) w.id stDone :=
  ⟨offerHost, fresh offerHost, fresh offerHost, 5, offerWork, parked7, by decide +kernel⟩

theorem witness_OwnershipWorkComplete_handoverAccept :
    ∃ (s : State) (id : Nat) (w : Work), canRun s id w ∧ isOp 0x05 w ∧ w.tally = [] ∧ passes (acceptRunChks (begun s w) w) :=
  ⟨acceptHost, 5, acceptWork, by decide +kernel⟩

theorem witness_OwnershipWorkComplete_publishCreate :
    ∃ (s : State) (t : State) (id : Nat) (w : Work) (x : Subject) (h i : Nat), canRun s id w ∧ isFirstMode 0x06 8 3 w ∧ heldFor (begun s w) w.hdr.keySlot (subjectOf w) = some x ∧ passes (createChks (begun s w) w x) ∧ issueHandle (begun s w) = .ok t h ∧ freeIndex (begun s w) = some i ∧ bucketBusy t h = false :=
  ⟨createHost, { fresh createHost with nv := { createHost.nv with serial := 1 } }, 5, createWork, session7, 0x10000000001, 1, by
    refine ⟨by decide +kernel, by decide +kernel, by decide +kernel, by decide +kernel, rfl, by decide +kernel, by decide +kernel⟩⟩

theorem witness_OwnershipWorkComplete_publishVersion :
    ∃ (s : State) (t : State) (id : Nat) (w : Work) (x : Subject) (src : Fetch) (b : List Byte), canRun s id w ∧ isMode 0x06 8 1 w ∧ ddFull (begun s w) = false ∧ heldFor (begun s w) w.hdr.keySlot (subjectOf w) = some x ∧ passes (versionChks w x) ∧ opr w 16 8 = x.version ∧ passes [reachChk (begun s w) w (addrOf (opr w 24 8)) (opr w 12 4) false] ∧ readAddr (begun s w) (addrOf (opr w 24 8)) (opr w 12 4) false src = (t, .ok b) ∧ ends (versionEnd t w x b) w.id stDone :=
  ⟨versionHost, versionRead, 5, versionWork, buffer7, .data (zeros 64), zeros 64, by decide +kernel⟩

theorem witness_OwnershipWorkComplete_publishPrefix :
    ∃ (s : State) (t : State) (id : Nat) (w : Work) (x : Subject) (h i : Nat), canRun s id w ∧ isMode 0x06 8 2 w ∧ ddFull (begun s w) = false ∧ heldFor (begun s w) w.hdr.keySlot (subjectOf w) = some x ∧ passes (shareChks (begun s w) w x) ∧ shareLodged (begun s w) x (firstOwn x (opr w 12 4)) (opr w 12 4) = [] ∧ shareBad (begun s w) x (firstOwn x (opr w 12 4)) (opr w 12 4) = [] ∧ issueHandle (begun s w) = .ok t h ∧ freeIndex (begun s w) = some i ∧ ends (shareEnd t w x (sharedRegion t w x (firstOwn x (opr w 12 4)) h i)) w.id stDone :=
  ⟨prefixHost, { fresh prefixHost with nv := { prefixHost.nv with serial := 1 } }, 5, prefixWork, filed7, 0x10000000001, 1, by
    refine ⟨by decide +kernel, by decide +kernel, by decide +kernel, by decide +kernel, by decide +kernel, by decide +kernel, by decide +kernel, rfl, by decide +kernel, by decide +kernel⟩⟩

theorem witness_PeerMessagesAct_claim :
    ∃ (s : State) (t : State) (x : Subject) (pbr org : Nat) (msg m : List Byte), running s ∧ peerIn (fresh s) pbr msg 0x01 = some (t, org, m) ∧ subjOf t (msgHandle m) = some x ∧ slotActive t x.keySlot ∧ msgArg m = x.keySlot ∧ buddyAway t = false ∧ x.own.state = 1 ∧ x.own.target = org ∧ msgHandle m ∉ t.own.expired ∧ x.own.epoch = msgEpoch m :=
  ⟨claimHost, fresh claimHost, offered7, 22, 2, claimMsg, claimMsg, by decide +kernel⟩

theorem witness_PeerMessagesAct_grant :
    ∃ (s : State) (t : State) (w : Work) (pbr org i : Nat) (msg m : List Byte) (_map : MapArg) (c : Claim), running s ∧ peerIn (fresh s) pbr msg 0x02 = some (t, org, m) ∧ claimOf t (msgHandle m) = some c ∧ c.offerer = org ∧ c.epoch = msgEpoch m ∧ workOf t c.work = some w ∧ freeIndex t = some i ∧ w.tally = [1] :=
  ⟨claimed, fresh claimed, waitingClaim, 22, 2, 0, grantMsg, grantMsg, { heads := [], leaves := [], pages := [] }, claim9, by decide +kernel⟩

theorem witness_PeerMessagesAct_refuse :
    ∃ (s : State) (t : State) (w : Work) (pbr org : Nat) (msg m : List Byte) (c : Claim), running s ∧ peerIn (fresh s) pbr msg 0x03 = some (t, org, m) ∧ msgArg m % 256 = stNotOwner ∧ claimOf t (msgHandle m) = some c ∧ c.offerer = org ∧ workOf t c.work = some w ∧ w.tally = [1] :=
  ⟨claimed, fresh claimed, waitingClaim, 22, 2, refuseMsg, refuseMsg, claim9, by decide +kernel⟩

theorem witness_PeerMessagesAct_claimWindowExpiry :
    ∃ (s : State) (handle : Nat) (c : Claim), running s ∧ claimOf (fresh s) handle = some c :=
  ⟨claimed, 9, claim9, by decide +kernel⟩

theorem witness_PeerMessagesAct_offerTimeout :
    ∃ (s : State) (x : Subject) (handle : Nat), running s ∧ subjOf (fresh s) handle = some x ∧ x.own.state = 1 ∧ x.own.granted = false :=
  ⟨claimHost, offered7, 7, by decide +kernel⟩

theorem witness_PeerMessagesAct_ownershipAudit :
    ∃ (s : State), running s ∧ s.own.expired = [] :=
  ⟨up, by decide +kernel⟩

theorem witness_PeerMessagesAct_query :
    ∃ (s : State) (t : State) (pbr org : Nat) (msg m : List Byte), running s ∧ peerIn (fresh s) pbr msg 0x04 = some (t, org, m) :=
  ⟨claimHost, fresh claimHost, 22, 2, queryMsg, queryMsg, by decide +kernel⟩

theorem witness_PeerMessagesAct_answer :
    ∃ (s : State) (t : State) (pbr org : Nat) (msg m : List Byte) (r : Trace), running s ∧ peerIn (fresh s) pbr msg 0x05 = some (t, org, m) ∧ traceOf t (msgHandle m) = some r ∧ msgHandle m ∈ t.own.queries ∧ r.own.target = org ∧ r.own.epoch = msgEpoch m ∧ r.own.state = 1 ∧ msgArg m % 256 = 1 :=
  ⟨tracing, fresh tracing, 22, 2, answerMsg, answerMsg, trace7, by decide +kernel⟩

theorem witness_PeerMessagesAct_auditQueryTimeout :
    ∃ (s : State) (handle : Nat) (r : Trace), running s ∧ handle ∈ s.own.queries ∧ traceOf (fresh s) handle = some r :=
  ⟨tracing, 7, trace7, by decide +kernel⟩

theorem witness_PeerMessagesAct_tileReq :
    ∃ (s : State) (t : State) (pbr org : Nat) (msg m : List Byte) (tile : Tile), running s ∧ peerIn (fresh s) pbr msg 0x06 = some (t, org, m) ∧ lodgedHere t (msgHandle m) (msgArg m % 2 ^ 24) (msgVersion m) = some tile ∧ masterTier tile ≠ 0 :=
  ⟨lodging, fresh lodging, 22, 2, tileReqMsg, tileReqMsg, storedTile, by decide +kernel⟩

theorem witness_PeerMessagesAct_tileReply :
    ∃ (s : State) (off : Nat) (_image : List Byte) (r : TileReq) (t : Tile), running s ∧ (s.own.requests.find? (fun r => r.reply == off) = some r) ∧ tileOf (fresh s) r.handle r.number = some t ∧ t.version = r.version ∧ t.lodged.isSome ∧ r.keep = false ∧ slotActive (fresh s) t.keySlot :=
  ⟨lodging, 0x8000, [], asked77, farTile, by decide +kernel⟩

theorem witness_PeerMessagesAct_tileReqTimeout :
    ∃ (s : State) (handle number : Nat) (r : TileReq), running s ∧ (s.own.requests.find? (fun r => r.handle == handle && r.number == number) = some r) ∧ r.repeated :=
  ⟨{ up with own := { up.own with requests := [asked77] } }, 77, 0x2000, asked77, by decide +kernel⟩

theorem witness_PeerMessagesAct_release :
    ∃ (s : State) (t : State) (pbr org : Nat) (msg m : List Byte), running s ∧ peerIn (fresh s) pbr msg 0x07 = some (t, org, m) :=
  ⟨lodging, fresh lodging, 22, 2, releaseMsg, releaseMsg, by decide +kernel⟩

theorem witness_PeerMessagesAct_mapEpochWrite :
    ∃ (s : State) (_path : Path) (value : Nat), running s ∧ reg s .sysMapEpochCurrent < value ∧ value < 2 ^ 32 :=
  ⟨up, .a, 7, by decide +kernel⟩

theorem witness_PeerMessagesAct_epochGraceEnd :
    ∃ (s : State) (_epoch : Nat), running s :=
  ⟨up, 3, by decide +kernel⟩

theorem witness_MailboxCommandsComplete_identify :
    ∃ (s : State) (_p : PortId), running s :=
  ⟨up, .a, by decide +kernel⟩

theorem witness_MailboxCommandsComplete_getEventRecords :
    ∃ (s : State) (_ch : Path) (log : Nat) (l : List Event), running s ∧ log < 4 ∧ l = logOf s.flt log :=
  ⟨up, .a, 2, [], by decide +kernel⟩

theorem witness_MailboxCommandsComplete_clearEventRecords :
    ∃ (s : State) (_ch : Path) (log : Nat) (handles : List Nat), running s ∧ log < 4 ∧ handles ≠ [] ∧ handles.length ≤ (logOf s.flt log).length ∧ handles = (List.range handles.length).map (recordHandle (fresh s) log) :=
  ⟨logged, .a, 2, [1], by decide +kernel⟩

theorem witness_MailboxCommandsComplete_getEventInterruptPolicy :
    ∃ (s : State) (_p : PortId), running s :=
  ⟨up, .b, by decide +kernel⟩

theorem witness_MailboxCommandsComplete_setEventInterruptPolicy :
    ∃ (s : State) (_p : PortId) (settings : List Nat), running s ∧ settings.length = 4 ∧ (∀ x ∈ settings, x < 256) :=
  ⟨up, .b, [1, 1, 1, 255], by decide +kernel⟩

theorem witness_MailboxCommandsComplete_setTimestamp :
    ∃ (s : State) (_p : PortId) (_value : Nat), running s :=
  ⟨up, .a, 5, by decide +kernel⟩

theorem witness_MailboxCommandsComplete_fmDynamicCapacityAdd :
    ∃ (s : State) (host : Nat) (ext : ExtentArg), running s ∧ tspLocked (fresh s) host = false ∧ host < 32 ∧ regGet s .cxlHostMapValid host = 1 ∧ extentExists (fresh s) ext ∧ extentFits (fresh s) host ext ∧ extentLimits host (s.cxl.extents ++ [extentOf host 0 ext]) :=
  ⟨hosted2, 0, window5, by decide +kernel⟩

theorem witness_MailboxCommandsComplete_addDynamicCapacityResponse :
    ∃ (s : State) (host : Nat) (ext : ExtentArg) (e : Extent), running s ∧ tspLocked (fresh s) host = false ∧ offersOf (fresh s) host = [e] ∧ within e ext ∧ 1 ≤ ext.count ∧ (extentLimits host ((s.cxl.extents.filter fun y => !(y ∈ [e])) ++ [extentOf host 1 ext])) :=
  ⟨offered2, 0, window5, extentOf 0 0 window5, by decide +kernel⟩

theorem witness_MailboxCommandsComplete_releaseDynamicCapacity :
    ∃ (s : State) (host : Nat) (ext : ExtentArg) (e : Extent), running s ∧ tspLocked (fresh s) host = false ∧ (s.cxl.extents.find? (fun e => e.host == host && decide (e.phase ≤ 1) && decide (1 ≤ ext.count) && within e ext) = some e) ∧ e.phase = 1 ∧ (extentLimits host ((s.cxl.extents.filter fun y => y ≠ e) ++ splitAround e ext ++ [extentOf host 2 ext])) :=
  ⟨held2, 0, window5, extentOf 0 1 window5, by decide +kernel⟩

theorem witness_MailboxCommandsComplete_fmDynamicCapacityRelease :
    ∃ (s : State) (host : Nat) (ext : ExtentArg) (e : Extent), running s ∧ tspLocked (fresh s) host = false ∧ (s.cxl.extents.find? (fun e => e.host == host && decide (e.phase ≤ 1) && decide (1 ≤ ext.count) && within e ext) = some e) ∧ e.phase = 1 ∧ (extentLimits host ((s.cxl.extents.filter fun y => y ≠ e) ++ splitAround e ext ++ [extentOf host 2 ext])) :=
  ⟨held2, 0, window5, extentOf 0 1 window5, by decide +kernel⟩

theorem witness_MailboxCommandsComplete_extentReleaseTimeout :
    ∃ (s : State) (host : Nat) (ext : ExtentArg) (e : Extent), running s ∧ (s.cxl.extents.find? (fun e => e == extentOf host 2 ext) = some e) ∧ extentWaits (fresh s) e = [] :=
  ⟨returning2, 0, window5, extentOf 0 2 window5, by decide +kernel⟩

theorem witness_MailboxCommandsComplete_getDynamicCapacityConfiguration :
    ∃ (s : State) (_p : PortId), running s :=
  ⟨up, .a, by decide +kernel⟩

theorem witness_MailboxCommandsComplete_getDynamicCapacityExtentList :
    ∃ (s : State) (_p : PortId) (host _count start : Nat) (l : List Extent), running s ∧ (l = sortKey (·.first) (s.cxl.extents.filter fun e => e.host == host && decide (1 ≤ e.phase))) ∧ start ≤ l.length :=
  ⟨held2, .a, 0, 8, 0, [extentOf 0 1 window5], by decide +kernel⟩

theorem witness_MailboxCommandsComplete_hdmDecoderCommit :
    ∃ (s : State) (host _base : Nat), powered s ∧ host < 32 ∧ regGet s .cxlHostMapValid host = 1 :=
  ⟨hosted2, 0, 4096, by decide +kernel⟩

theorem witness_MailboxCommandsComplete_tspRequest :
    ∃ (s : State) (host : Nat), running s ∧ host < 32 ∧ regGet s .cxlHostMapValid host = 1 :=
  ⟨hosted2, 0, by decide +kernel⟩

theorem witness_MailboxCommandsComplete_ideKm :
    ∃ (s : State) (p : PortId) (session stream : Nat), running s ∧ ((spdmChan (fresh s) (portPath p)).any fun c => c.sessions.any fun x => x.id == session && x.secured) ∧ (portNo p, stream) ∈ s.cxl.ideKeys :=
  ⟨keyed, .a, 1, 64, by decide +kernel⟩

theorem witness_MailboxCommandsComplete_cdatRead :
    ∃ (s : State) (_p : PortId) (_entry : Nat), running s :=
  ⟨up, .a, 0, by decide +kernel⟩

theorem witness_LinkCommandsComplete_linkLeavesL0 :
    ∃ (s : State) (p : PortId), running s ∧ regGet s .cxlPortStatusLink (portNo p) = 2 :=
  ⟨hosted, .a, by decide +kernel⟩

theorem witness_LinkCommandsComplete_linkRecoveryTimeout :
    ∃ (s : State) (p : PortId), running s ∧ regGet s .cxlPortStatusLink (portNo p) = 3 ∧ portUp (fresh s) (portNo p) :=
  ⟨regs hosted [(.cxlPortStatusLink, 0, 3)], .a, by decide +kernel⟩

theorem witness_LinkCommandsComplete_ideIntegrityFailure :
    ∃ (s : State) (p : PortId), running s ∧ portUp (fresh s) (portNo p) :=
  ⟨hosted, .a, by decide +kernel⟩

theorem witness_LinkCommandsComplete_viralReceived :
    ∃ (s : State) (p : PortId), running s ∧ portUp (fresh s) (portNo p) :=
  ⟨hosted, .a, by decide +kernel⟩

theorem witness_LinkCommandsComplete_surpriseRemoval :
    ∃ (s : State) (p : PortId), running s ∧ portUp (fresh s) (portNo p) :=
  ⟨hosted, .a, by decide +kernel⟩

theorem witness_LinkCommandsComplete_cacheResponseTimeout :
    ∃ (s : State) (p : PortId), running s ∧ portUp (fresh s) (portNo p) :=
  ⟨hosted, .a, by decide +kernel⟩

theorem witness_LinkCommandsComplete_portReferenceClockLoss :
    ∃ (s : State) (p : PortId), running s ∧ portUp (fresh s) (portNo p) :=
  ⟨hosted, .a, by decide +kernel⟩

theorem witness_LinkCommandsComplete_linkReturn :
    ∃ (s : State) (p : PortId) (width rate : Nat), running s ∧ perst s p = false ∧ (width = 2 ∨ width = 4 ∨ width = 8) ∧ 1 ≤ rate ∧ rate ≤ 4 :=
  ⟨up, .a, 8, 4, by decide +kernel⟩

theorem witness_FaultCommandsComplete_dramChannelFault :
    ∃ (s : State) (bed unit : Nat), running s ∧ bed < bedCount s.model ∧ unit < 4 ∧ 4 * bed + unit ∉ s.flt.channelsOut :=
  ⟨up, 0, 3, by decide +kernel⟩

theorem witness_FaultCommandsComplete_packageMigrationDone :
    ∃ (s : State) (package c : Nat), running s ∧ package ∈ s.flt.migrating ∧ (c = (s.flt.channelsOut.find? fun c => c / 4 == package).getD (4 * package)) :=
  ⟨{ up with flt := { up.flt with migrating := [2], channelsOut := [9] } }, 2, 9, by decide +kernel⟩

theorem witness_FaultCommandsComplete_flashDieFault :
    ∃ (s : State) (die : Nat), running s ∧ die < dieCount s.model ∧ die ∉ s.flt.diesOut ∧ s.flt.rebuilding = [] :=
  ⟨up, 0, by decide +kernel⟩

theorem witness_FaultCommandsComplete_dieRebuildDone :
    ∃ (s : State) (die : Nat) (move : Tile → Tile), running s ∧ die ∈ s.flt.rebuilding ∧ (move = fun t : Tile => { t with copies := updIf (fun c => c.tier == 4 && c.place == die) (fun c => { c with place := t4Place (fresh s) t }) t.copies }) :=
  ⟨{ up with flt := { up.flt with rebuilding := [1] } }, 1, _, by
    refine ⟨by decide +kernel, by decide +kernel, rfl⟩⟩

theorem witness_FaultCommandsComplete_pllLossOfLock :
    ∃ (s : State), running s ∧ pllLocked (unlockPll (fresh s) (reg s .clkPllStatusActive)) (1 - reg s .clkPllStatusActive) :=
  ⟨regs up [(.clkPllStatusLockA, 0, 1), (.clkPllStatusLockB, 0, 1)], by decide +kernel⟩

theorem witness_FaultCommandsComplete_standbyPllLossOfLock :
    ∃ (s : State), running s :=
  ⟨up, by decide +kernel⟩

theorem witness_FaultCommandsComplete_bedFault :
    ∃ (s : State) (bed : Nat) (_clock : Bool), running s ∧ bed < bedCount s.model ∧ bed ∉ s.flt.bedsOut :=
  ⟨up, 15, true, by decide +kernel⟩

theorem witness_FaultCommandsComplete_blockFault :
    ∃ (s : State) (block : Nat), running s ∧ block < 5 ∧ block ∉ s.flt.failedOver :=
  ⟨up, 4, by decide +kernel⟩

theorem witness_FaultCommandsComplete_managementCoreFault :
    ∃ (s : State) (core : Nat), running s ∧ core < 4 ∧ core ∉ s.flt.coresOut ∧ (setLast (raiseClass { (fresh s) with flt := { s.flt with coresOut := insNat core s.flt.coresOut } } 0xA) 0xA (locate 7 0 core 0 0) 0).flt.coresOut.length < 4 :=
  ⟨up, 3, by decide +kernel⟩

theorem witness_FaultCommandsComplete_faultRecoveryDone :
    ∃ (s : State) (t : State) (v : State) (cls place _ns : Nat) (us free : List Nat), running s ∧ (cls, place) ∈ s.flt.recovering ∧ us = domainUnits (fresh s) cls place ∧ (t = { (fresh s) with flt := { s.flt with recovering := s.flt.recovering.filter fun e => e ≠ (cls, place) } }) ∧ (free = us.filter fun k => !(k ∈ (t.flt.recovering.flatMap fun e => domainUnits t e.1 e.2))) ∧ (v = { t with units := { t.units with states := (t.units.states.filter fun e => !(e.1 ∈ free && e.2 == 2)) ++ (((t.units.drain.map (·.2.2.1)).getD []).filter fun k => decide (k ∈ free)).map fun k => (k, 3) } }) :=
  ⟨recoveringPort, { fresh recoveringPort with flt := { recoveringPort.flt with recovering := [] } }, { fresh recoveringPort with flt := { recoveringPort.flt with recovering := [] } }, 6, 0, 70, [], [], by
    refine ⟨by decide +kernel, by decide +kernel, by decide +kernel, rfl, by decide +kernel, rfl⟩⟩

theorem witness_FaultCommandsComplete_faultControllerFailure :
    ∃ (s : State), running s :=
  ⟨up, by decide +kernel⟩

theorem witness_ClockCommandsComplete_droopTrip :
    ∃ (s : State) (bed : Nat), running s ∧ bedRuns (fresh s) bed ∧ ((bedRec s bed).any (fun b => decide (4 ≤ b.floor + b.droop)) = false) :=
  ⟨up, 0, by decide +kernel⟩

theorem witness_ClockCommandsComplete_stretchRelease :
    ∃ (s : State) (_bed : Nat), running s :=
  ⟨up, 0, by decide +kernel⟩

theorem witness_ClockCommandsComplete_bedStop :
    ∃ (s : State) (bed : Nat), running s ∧ reg s .clkStopCfgEnable = 1 ∧ bedRuns (fresh s) bed ∧ bedIdle (fresh s) bed :=
  ⟨setReg up .clkStopCfgEnable 1, 3, by decide +kernel⟩

theorem witness_ClockCommandsComplete_harrowWalk :
    ∃ (s : State) (bed p slack next : Nat) (walk : WalkArg) (b : Bed), running s ∧ bedRuns (fresh s) bed ∧ bedRec (fresh s) bed = some b ∧ worstPan (walk.slack.take 16) = some (p, slack, next) ∧ reg s .clkHrwCfgSlackLow ≤ slack ∧ reg s .clkHrwCfgSlackHigh < slack ∧ walk.high24 :=
  ⟨up, 0, 0, 60000, 65536, { slack := [60000], high24 := true }, bed0, by decide +kernel⟩

theorem witness_ClockCommandsComplete_neighbourLimit :
    ∃ (s : State) (x y railX railY tempX tempY : Nat), running s ∧ neighbours (fresh s) x y ∧ 110 < max railX railY - min railX railY ∧ max tempX tempY - min tempX tempY ≤ 28 :=
  ⟨up, 0, 1, 800, 600, 40, 40, by decide +kernel⟩

theorem witness_ClockCommandsComplete_holdRelease :
    ∃ (s : State) (bed : Nat), running s ∧ ((bedRec s bed).any fun b => (b.held || b.hot) && !heldForGood b) ∧ (8, bed) ∉ s.flt.recovering :=
  ⟨setBed up 2 fun b => { b with held := true }, 2, by decide +kernel⟩

theorem witness_ClockCommandsComplete_retentionProbe :
    ∃ (s : State) (bed unit r : Nat) (b : Bed), running s ∧ bedRec s bed = some b ∧ b.t1Refresh[unit]? = some r ∧ r < 2 :=
  ⟨up, 0, 15, 0, bed0, by decide +kernel⟩

theorem witness_ClockCommandsComplete_patrolScrub :
    ∃ (s : State) (_bed : Nat) (_halve _month : Bool), running s :=
  ⟨up, 0, true, false, by decide +kernel⟩

theorem witness_ClockCommandsComplete_ringOscillatorMeasure :
    ∃ (s : State) (bed _shift : Nat), running s ∧ bedRuns (fresh s) bed :=
  ⟨up, 1, 65535, by decide +kernel⟩

theorem witness_ClockCommandsComplete_ageingRecordWrite :
    ∃ (s : State), running s :=
  ⟨up, by decide +kernel⟩

theorem witness_ClockCommandsComplete_thermalThrottle :
    ∃ (s : State) (b : Nat), running s ∧ b < bedCount s.model :=
  ⟨up, 15, by decide +kernel⟩

theorem witness_ClockCommandsComplete_throttleRelease :
    ∃ (s : State) (_b : Nat), running s :=
  ⟨up, 0, by decide +kernel⟩

theorem witness_ClockCommandsComplete_thermalHold :
    ∃ (s : State) (bed : Nat), running s ∧ bed < bedCount s.model :=
  ⟨up, 15, by decide +kernel⟩

theorem witness_SlotAndSetCommandsComplete_install :
    ∃ (s : State) (t : State) (path : Path) (img : Fetch) (k : Nat) (b : List Byte) (payload : Option (List Byte)), running s ∧ isSealed (fresh s) = false ∧ entryOf (fresh s) path .secSlotCtrlInstall 0 = some k ∧ reg (regSet (fresh s) .secSlotCtrlInstall k 1) .secEnvLenLen = 1264 ∧ readSource (regSet (fresh s) .secSlotCtrlInstall k 1) (reg (regSet (fresh s) .secSlotCtrlInstall k 1) .secEnvAddrAddr) 1264 img = (t, some b) ∧ installError t (some b) payload = 0 :=
  ⟨installHost, installRead, .a, .data envelope, 0, envelope, some sealedKey, by
    have hk : installRead.power.kelgor = some { svn := 0, image := [] } := by decide +kernel
    refine ⟨by decide +kernel, by decide +kernel, by decide +kernel, by decide +kernel, readSource_data (by decide +kernel) (by decide +kernel) (sealed_length ..), ?_⟩
    exact install_passes hk (by decide +kernel) (by decide +kernel) (by decide +kernel) (by decide +kernel)⟩

theorem witness_SlotAndSetCommandsComplete_installKey :
    ∃ (s : State) (t : State) (ch : Path) (session : Nat) (c : SpdmChan) (env : List Byte) (payload : Option (List Byte)), running s ∧ spdmChan (fresh s) ch = some c ∧ c.algs ∧ (c.sessions.any fun x => x.id == session && x.secured && x.operator.isSome) ∧ installError (fresh s) (some env) payload = 0 ∧ t = applyInstall (fresh s) (field env 6 2) (keyData env (payload.getD [])) :=
  ⟨operatorHost, applyInstall (fresh operatorHost) 5 (keyData envelope sealedKey), .mb, 1, operatorChan, envelope, some sealedKey, by
    have hk : (fresh operatorHost).power.kelgor = some { svn := 0, image := [] } := by decide +kernel
    refine ⟨by decide +kernel, by decide +kernel, by decide +kernel, by decide +kernel, ?_, rfl⟩
    exact install_passes hk (by decide +kernel) (by decide +kernel) (by decide +kernel) (by decide +kernel)⟩

theorem witness_SlotAndSetCommandsComplete_revoke :
    ∃ (s : State) (path : Path) (k : Nat), running s ∧ isSealed (fresh s) = false ∧ entryOf (fresh s) path .secSlotCtrlRevoke 0 = some k ∧ slotActive (fresh s) k :=
  ⟨regs up [(.secSlotSelSlot, 0, 3)], .a, 3, by decide +kernel⟩

theorem witness_SlotAndSetCommandsComplete_revokeSlot :
    ∃ (s : State) (ch : Path) (session slot : Nat) (c : SpdmChan), running s ∧ spdmChan (fresh s) ch = some c ∧ c.algs ∧ (c.sessions.any fun x => x.id == session && x.secured && x.operator.isSome) ∧ slotActive (fresh s) slot :=
  ⟨operatorHost, .mb, 1, 3, operatorChan, by decide +kernel⟩

theorem witness_SlotAndSetCommandsComplete_slotEmptied :
    ∃ (s : State) (slot : Nat) (x : KeySlot), running s ∧ slotRec (fresh s) slot = some x ∧ x.state = 3 ∧ x.held = none :=
  ⟨{ up with sec := { up.sec with slots := [{ slot3 with state := 3 }] } }, 3, { slot3 with state := 3 }, by decide +kernel⟩

theorem witness_SlotAndSetCommandsComplete_join :
    ∃ (s : State) (t : State) (_path : Path) (img : Fetch) (b p : List Byte), running s ∧ isSealed (fresh s) = false ∧ readSource (setReg (fresh s) .secSetCtrlJoin 1) (reg (setReg (fresh s) .secSetCtrlJoin 1) .secSetAddrAddr) (reg (setReg (fresh s) .secSetCtrlJoin 1) .secSetLenLen) img = (t, some b) ∧ reg (setReg (fresh s) .secSetCtrlJoin 1) .secSetLenLen = 1264 ∧ joinError t (some b) (some p) = 0 :=
  ⟨joinHost, joinRead, .a, .data setEnvelope, setEnvelope, zeros 96, by
    have hk : joinRead.power.kelgor = some { svn := 0, image := [] } := by decide +kernel
    refine ⟨by decide +kernel, by decide +kernel, readSource_data (by decide +kernel) (by decide +kernel) (sealed_length ..), by decide +kernel, ?_⟩
    exact join_passes hk (by decide +kernel) (by decide +kernel) (by decide +kernel)⟩

theorem witness_SlotAndSetCommandsComplete_joinSet :
    ∃ (s : State) (ch : Path) (session : Nat) (c : SpdmChan) (env p : List Byte), running s ∧ spdmChan (fresh s) ch = some c ∧ c.algs ∧ (c.sessions.any fun x => x.id == session && x.secured && x.operator.isSome) ∧ joinError (fresh s) (some env) (some p) = 0 :=
  ⟨operatorHost, .mb, 1, operatorChan, setEnvelope, zeros 96, by
    have hk : (fresh operatorHost).power.kelgor = some { svn := 0, image := [] } := by decide +kernel
    refine ⟨by decide +kernel, by decide +kernel, by decide +kernel, by decide +kernel, ?_⟩
    exact join_passes hk (by decide +kernel) (by decide +kernel) (by decide +kernel)⟩

theorem witness_SlotAndSetCommandsComplete_leave :
    ∃ (s : State) (_path : Path) (setId : Nat), running s ∧ isSealed (fresh s) = false ∧ setId % 2 ^ 64 ≠ 0 :=
  ⟨up, .a, 7, by decide +kernel⟩

theorem witness_SlotAndSetCommandsComplete_leaveSet :
    ∃ (s : State) (ch : Path) (session _setId : Nat) (c : SpdmChan), running s ∧ spdmChan (fresh s) ch = some c ∧ c.algs ∧ (c.sessions.any fun x => x.id == session && x.secured && x.operator.isSome) :=
  ⟨operatorHost, .mb, 1, 7, operatorChan, by decide +kernel⟩

theorem witness_SlotAndSetCommandsComplete_retire :
    ∃ (s : State) (t : State) (_path : Path) (img : Fetch) (b : List Byte), running s ∧ isSealed (fresh s) = false ∧ readSource (setReg (fresh s) .secLcCtrlReturn 1) (reg (setReg (fresh s) .secLcCtrlReturn 1) .secTokenAddrAddr) (reg (setReg (fresh s) .secLcCtrlReturn 1) .secTokenLenLen) img = (t, some b) ∧ reg t .secLifecycleState ≠ 2 :=
  ⟨tokenHostR, tokenReadR, .a, .data (zeros 8), zeros 8, by decide +kernel⟩

theorem witness_SlotAndSetCommandsComplete_ownerClaim :
    ∃ (s : State) (t : State) (_path : Path) (img : Fetch) (b : List Byte), running s ∧ isSealed (fresh s) = false ∧ readSource (setReg (fresh s) .secClaimClaim 1) (reg (setReg (fresh s) .secClaimClaim 1) .secTokenAddrAddr) (reg (setReg (fresh s) .secClaimClaim 1) .secTokenLenLen) img = (t, some b) ∧ t.nv.signers = [] ∧ inProduction t ∧ b.length = 1952 :=
  ⟨claimHostO, claimReadO, .a, .data (zeros 1952), zeros 1952, by
    refine ⟨by decide +kernel, by decide +kernel, readSource_data (by decide +kernel) (by decide +kernel) (zeros_length _), by decide +kernel, by decide +kernel, zeros_length _⟩⟩

theorem witness_SlotAndSetCommandsComplete_debugPresent :
    ∃ (s : State) (t : State) (_path : Path) (img : Fetch) (b : List Byte), running s ∧ isSealed (fresh s) = false ∧ readSource (setReg (fresh s) .secDebugPresent 1) (reg (setReg (fresh s) .secDebugPresent 1) .secTokenAddrAddr) (reg (setReg (fresh s) .secDebugPresent 1) .secTokenLenLen) img = (t, some b) ∧ inProduction t ∧ tokenPasses t b :=
  ⟨tokenHostD, tokenReadD, .a, .data debugToken, debugToken, by
    refine ⟨by decide +kernel, by decide +kernel, readSource_data (by decide +kernel) (by decide +kernel) (token_length), by decide +kernel, ?_⟩
    exact token_passes (by decide +kernel) (by decide +kernel)⟩

theorem witness_SlotAndSetCommandsComplete_debugClose :
    ∃ (s : State) (_path : Path), running s :=
  ⟨up, .a, by decide +kernel⟩

theorem witness_SpdmCommandsComplete_getVersion :
    ∃ (s : State) (_ch : Path), powered s :=
  ⟨up, .mb, by decide +kernel⟩

theorem witness_SpdmCommandsComplete_getCapabilities :
    ∃ (s : State) (ch : Path) (version : Nat) (c : SpdmChan), running s ∧ spdmChan (fresh s) ch = some c ∧ (version = 0x12 ∨ version = 0x13 ∨ version = 0x14) :=
  ⟨operatorHost, .mb, 0x14, operatorChan, by decide +kernel⟩

theorem witness_SpdmCommandsComplete_negotiateAlgorithms :
    ∃ (s : State) (ch : Path) (c : SpdmChan), running s ∧ spdmChan (fresh s) ch = some c ∧ c.caps :=
  ⟨operatorHost, .mb, operatorChan, by decide +kernel⟩

theorem witness_SpdmCommandsComplete_getDigests :
    ∃ (s : State) (ch : Path) (c : SpdmChan), running s ∧ spdmChan (fresh s) ch = some c ∧ c.algs :=
  ⟨operatorHost, .mb, operatorChan, by decide +kernel⟩

theorem witness_SpdmCommandsComplete_getCertificate :
    ∃ (s : State) (ch : Path) (_off _len : Nat) (c : SpdmChan), running s ∧ spdmChan (fresh s) ch = some c ∧ c.algs :=
  ⟨operatorHost, .mb, 0, 64, operatorChan, by decide +kernel⟩

theorem witness_SpdmCommandsComplete_challenge :
    ∃ (s : State) (ch : Path) (_nonce : List Byte) (c : SpdmChan), running s ∧ spdmChan (fresh s) ch = some c ∧ c.algs :=
  ⟨operatorHost, .mb, zeros 32, operatorChan, by decide +kernel⟩

theorem witness_SpdmCommandsComplete_getMeasurements :
    ∃ (s : State) (ch : Path) (index : Nat) (_nonce : List Byte) (c : SpdmChan), running s ∧ spdmChan (fresh s) ch = some c ∧ c.algs ∧ 1 ≤ index ∧ index ≤ 12 :=
  ⟨operatorHost, .mb, 12, zeros 32, operatorChan, by decide +kernel⟩

theorem witness_SpdmCommandsComplete_keyExchange :
    ∃ (s : State) (ch : Path) (session : Nat) (c : SpdmChan), running s ∧ spdmChan (fresh s) ch = some c ∧ c.algs ∧ (∀ x ∈ c.sessions, x.id ≠ session) ∧ c.sessions.length < 4 :=
  ⟨operatorHost, .mb, 2, operatorChan, by decide +kernel⟩

theorem witness_SpdmCommandsComplete_finish :
    ∃ (s : State) (ch : Path) (session : Nat) (c : SpdmChan) (_op : Option Nat), running s ∧ spdmChan (fresh s) ch = some c ∧ c.algs ∧ (c.sessions.any fun x => x.id == session && !x.secured) :=
  ⟨handshakeHost, .mb, 1, handshakeChan, none, by decide +kernel⟩

theorem witness_SpdmCommandsComplete_endSession :
    ∃ (s : State) (ch : Path) (session : Nat) (c : SpdmChan), running s ∧ spdmChan (fresh s) ch = some c ∧ c.algs ∧ (c.sessions.any fun x => x.id == session && x.secured) :=
  ⟨operatorHost, .mb, 1, operatorChan, by decide +kernel⟩

theorem witness_SpdmCommandsComplete_getSlotEvidence :
    ∃ (s : State) (ch : Path) (slot : Nat) (_nonce : List Byte) (c : SpdmChan), running s ∧ spdmChan (fresh s) ch = some c ∧ c.algs ∧ slot < 4096 :=
  ⟨operatorHost, .mb, 4095, zeros 32, operatorChan, by decide +kernel⟩

theorem witness_TapAndBusCommandsComplete_bypass :
    ∃ (s : State) (_bitIn : Bool), tapServes (fresh s) :=
  ⟨tapUp, true, by decide +kernel⟩

theorem witness_TapAndBusCommandsComplete_samplePreload :
    ∃ (s : State) (_cells : List Bool), tapServes (fresh s) :=
  ⟨tapUp, [true], by decide +kernel⟩

theorem witness_TapAndBusCommandsComplete_extest :
    ∃ (s : State) (_cells : List Bool), tapServes (fresh s) :=
  ⟨tapUp, [true], by decide +kernel⟩

theorem witness_TapAndBusCommandsComplete_idcode :
    ∃ (s : State), tapServes (fresh s) :=
  ⟨tapUp, by decide +kernel⟩

theorem witness_TapAndBusCommandsComplete_jtagDebugAccess :
    ∃ (s : State) (_req : JtagReq), tapServes (fresh s) ∧ s.power.state ≠ .thermalOff :=
  ⟨tapUp, .haltCore 0, by decide +kernel⟩

theorem witness_TapAndBusCommandsComplete_entdaa :
    ∃ (s : State) (_addr : Nat), busServes (fresh s) ∧ (busMode (fresh s) .i3c).power.bus = .i3c ∧ (busMode (fresh s) .i3c).power.dynAddr = none :=
  ⟨up, 9, by decide +kernel⟩

theorem witness_TapAndBusCommandsComplete_setdasa :
    ∃ (s : State) (_addr : Nat), busServes (fresh s) ∧ (busMode (fresh s) .i3c).power.bus = .i3c :=
  ⟨up, 9, by decide +kernel⟩

theorem witness_CheckpointCommandsComplete_checkpoint :
    ∃ (s : State) (id : Nat) (w : Work), canRun s id w ∧ isOp 0x28 w ∧ w.tally = [] ∧ passes [chk (anySlot (begun s w) w && reservedClear w [(0, 1)] && decide (opr w 0 1 < 2)) stBad] :=
  ⟨regs (withWork (flyingOps 0x28 [1])) [(.ldgCfgAnySlot, 0, 1)], 5, flyingOps 0x28 [1], by decide +kernel⟩

theorem witness_CheckpointCommandsComplete_checkpointInterval :
    ∃ (s : State), running s ∧ reg s .durCkptCfgInterval ≠ 0 :=
  ⟨setReg up .durCkptCfgInterval 600, by decide +kernel⟩

theorem witness_CheckpointCommandsComplete_warningTrigger :
    ∃ (s : State) (trigger : Nat), running s ∧ trigger < 7 :=
  ⟨up, 6, by decide +kernel⟩

theorem witness_CheckpointCommandsComplete_checkpointStart :
    ∃ (s : State), running s ∧ s.dur.due ≠ 0 ∧ stepFits (fresh s) ∧ toAdopt (fresh s) = [] :=
  ⟨{ up with dur := { up.dur with due := 1 } }, by decide +kernel⟩

theorem witness_CheckpointCommandsComplete_restoreSession :
    ∃ (s : State) (id : Nat) (w : Work) (x : Subject) (okA okB _bA _bB : Bool) (map : MapArg) (recs : List (List Byte)) (c : CkptStep) (y : Subject), canRun s id w ∧ isFirstMode 0x29 8 2 w ∧ ddFull (begun s w) = false ∧ passes (restoreChks (begun s w) w) ∧ heldFor (begun s w) w.hdr.keySlot (opr w 0 8) = some x ∧ x.state = 5 ∧ ((pickStep (goodSlots (begun s w) okA okB) (opr w 24 8)).bind (fun c => (c.subjects.find? fun y => y.handle == opr w 0 8).map fun y => (c, y)) = some (c, y)) ∧ opr w 9 1 % 2 = 0 ∧ (begun s w).dur.fetches = [] ∧ (ends (restoreEnd (begun s w) w x (broughtBack y) ((c.tiles.filter fun t => t.handle == opr w 0 8).map fun t => { t with lastUse := tick (begun s w), copies := t.copies.filter fun k => k.tier == 4 }) recs c.step) w.id stDone) :=
  ⟨damagedHost, 5, restoreWork, damaged7, true, true, false, false, noMap, [], stepOf7, parked7, by decide +kernel⟩

theorem witness_CheckpointCommandsComplete_restoreTakeover :
    ∃ (s : State) (id : Nat) (w : Work) (okA okB : Bool) (_map : MapArg) (_tab : List TableArg) (_views : List ViewArg) (_recs : List (List Byte)) (m : List Byte), canRun s id w ∧ isMode 0x29 8 1 w ∧ ddFull (begun s w) = false ∧ passes (takeoverChks (begun s w) w) ∧ restoreBuddy (begun s w) w ≠ 0 ∧ (peerEntry (begun s w) (restoreBuddy (begun s w) w)).isSome ∧ w.tally = [1] ∧ (begun s w).dur.fetches = [] ∧ pickManifest (begun s w) okA okB (opr w 12 3) (opr w 24 8) = some m ∧ missingSlot (begun s w) m = none :=
  ⟨takeoverHost, 5, takeoverWork, true, false, noMap, [], [], [], manifest3, by decide +kernel⟩

theorem witness_CheckpointCommandsComplete_fetchReply :
    ∃ (s : State) (off : Nat) (_body : List Byte), running s ∧ (s.dur.fetches.any fun f => f.2.2 == off) :=
  ⟨{ up with dur := { up.dur with fetches := [(5, 0, 0x80000)] } }, 0x80000, [1], by decide +kernel⟩

theorem witness_CheckpointCommandsComplete_discard :
    ∃ (s : State) (_path : Path), running s ∧ s.nv.noStep :=
  ⟨{ up with nv := { up.nv with noStep := true } }, .a, by decide +kernel⟩

theorem witness_CheckpointCommandsComplete_flashScrubBad :
    ∃ (s : State) (handle number _corrected : Nat) (t : Tile), running s ∧ ((keptTiles (fresh s)).find? (fun t => t.handle == handle && t.number == number && hasCopy t 4) = some t) :=
  ⟨{ up with tiles := heads7 }, 7, 0, 0, heads7.getD 0 storedTile, by decide +kernel⟩

theorem witness_CheckpointCommandsComplete_flashScrubGood :
    ∃ (s : State) (handle number _corrected : Nat) (t : Tile), running s ∧ ((keptTiles (fresh s)).find? (fun t => t.handle == handle && t.number == number && hasCopy t 4) = some t) :=
  ⟨{ up with tiles := heads7 }, 7, 0, 0, heads7.getD 0 storedTile, by decide +kernel⟩

theorem witness_CheckpointCommandsComplete_flashBlockRetire :
    ∃ (s : State) (_spareLeft _used : Nat), running s :=
  ⟨up, 0, 3, by decide +kernel⟩

theorem witness_StreamCommandsComplete_streamLog :
    ∃ (s : State) (t : State) (pbr org : Nat) (rec r : List Byte), running s ∧ streamIn (fresh s) pbr rec 0x01 = some (t, org, r) :=
  ⟨buddyHost, fresh buddyHost, 22, 2, recOf 1, recOf 1, by decide +kernel⟩

theorem witness_StreamCommandsComplete_streamOwn :
    ∃ (s : State) (t : State) (pbr org : Nat) (rec r : List Byte), running s ∧ streamIn (fresh s) pbr rec 0x02 = some (t, org, r) :=
  ⟨buddyHost, fresh buddyHost, 22, 2, recOf 2, recOf 2, by decide +kernel⟩

theorem witness_StreamCommandsComplete_streamLease :
    ∃ (s : State) (t : State) (pbr org : Nat) (rec r : List Byte), running s ∧ streamIn (fresh s) pbr rec 0x03 = some (t, org, r) :=
  ⟨buddyHost, fresh buddyHost, 22, 2, recOf 3, recOf 3, by decide +kernel⟩

theorem witness_StreamCommandsComplete_streamAck :
    ∃ (s : State) (t : State) (pbr org q : Nat) (rec r : List Byte) (steps : List Nat), running s ∧ streamIn (fresh s) pbr rec 0x04 = some (t, org, r) ∧ org = buddy t ∧ buddy t ≠ 0 ∧ reg t .durBuddyState = 1 ∧ q = field r 24 8 ∧ (steps = (t.dur.ships.filter fun e => decide (e.1 ≤ q)).map (·.2)) :=
  ⟨buddyHost, fresh buddyHost, 22, 2, 1, recOf 4, recOf 4, [], by
    refine ⟨by decide +kernel, by decide +kernel, by decide +kernel, by decide +kernel, by decide +kernel, by decide +kernel, by decide +kernel⟩⟩

theorem witness_StreamCommandsComplete_streamFetch :
    ∃ (s : State) (t : State) (pbr org : Nat) (rec r b : List Byte) (f : Foster), running s ∧ streamIn (fresh s) pbr rec 0x05 = some (t, org, r) ∧ fosterOf t (field r 4 3) = some f ∧ f.heard + 1000000 * reg t .durBuddyCfgSilence ≤ t.time ∧ fetchedObject (putFoster t { f with served := f.served || f.pbr != pbr }) f (field r 40 1) (field r 48 8) = some b :=
  ⟨fosterHost, fresh fosterHost, 22, 2, fetchRec, fetchRec, [], foster9, by decide +kernel⟩

theorem witness_StreamCommandsComplete_streamRefuse :
    ∃ (s : State) (t : State) (pbr org : Nat) (rec r : List Byte), running s ∧ streamIn (fresh s) pbr rec 0x06 = some (t, org, r) ∧ field r 40 1 = 1 ∧ t.work = [] ∧ org = buddy t :=
  ⟨buddyHost, fresh buddyHost, 22, 2, refuseRec, refuseRec, by decide +kernel⟩

theorem witness_StreamCommandsComplete_shippedStep :
    ∃ (s : State) (pbr i org origin _seq : Nat) (manifest : List Byte) (f : Foster), running s ∧ peerOfPbr (fresh s) pbr = some i ∧ org = regGet s .cxlPeerMapOrigin i ∧ isManifest manifest ∧ fosterOf (fresh s) origin = some f ∧ f.served = false ∧ f.steps = [] ∧ manifestTiles manifest = 0 :=
  ⟨fosterHost, 22, 0, 2, 9, 4, manifest0, foster9, by decide +kernel⟩

theorem witness_StreamCommandsComplete_logRecordFlush :
    ∃ (s : State) (e : Nat × Nat × Nat × Nat) (l : List (Nat × Nat × Nat × Nat)), running s ∧ s.dur.logBuf = e :: l :=
  ⟨{ up with dur := { up.dur with logBuf := [(7, 0, 1, 0)] } }, (7, 0, 1, 0), [], by decide +kernel⟩

theorem witness_StreamCommandsComplete_buddyTimeout :
    ∃ (s : State), running s ∧ reg s .durBuddyState = 1 ∧ s.dur.ships ≠ [] :=
  ⟨{ buddyHost with dur := { up.dur with ships := [(1, 1)] } }, by decide +kernel⟩

theorem witness_StreamCommandsComplete_buddyRetry :
    ∃ (s : State), running s ∧ buddy s ≠ 0 ∧ 2 ≤ reg s .durBuddyState :=
  ⟨setReg buddyHost .durBuddyState 2, by decide +kernel⟩

theorem witness_StreamCommandsComplete_buddyOriginWrite :
    ∃ (s : State) (_path : Path) (_origin : Nat), running s :=
  ⟨up, .a, 2, by decide +kernel⟩

theorem witness_StreamCommandsComplete_fosterRelease :
    ∃ (s : State) (_path : Path) (_origin : Nat), running s :=
  ⟨fosterHost, .a, 9, by decide +kernel⟩

theorem witness_HostAccessesMeetTheTile_hosts : ∀ s ∈ [{ hosted with windows := [] }, { hosted with tiles := [] }, shownTile { nearTile with copies := [] },
      shownTile { nearTile with lodged := some 1 }, shownTile { nearTile with copies := [{ tier := 4, place := 0, version := 1 }] },
      shownTile { nearTile with copies := [{ tier := 2, place := 0, version := 1 }] },
      shownTile { nearTile with copies := [{ tier := 3, place := 0, version := 1 }] }, shownTile { nearTile with verified := false }],
    running s = true ∧ hostOf (fresh s) 11 = some 0 ∧ portServes (fresh s) (regGet (fresh s) .cxlHostMapPort 0) = true ∧
    suspended (fresh s) 0 = false ∧ aget s.cxl.hdm 0 = some 0 ∧ windowExists (fresh s) 0 = true ∧ extentCovers (fresh s) 0 0 = true ∧
    (0, 0) ∉ s.cxl.te ∧ spanFrames 0x1000 64 = [0] :=
  by decide +kernel

theorem witness_HostAccessesMeetTheTile_frames : tileAt (fresh { hosted with windows := [] }) 0 = none ∧ bindingOf (fresh { hosted with windows := [] }) 0 = none ∧
    bindingOf (fresh { hosted with tiles := [] }) 0 = some (.region 77 0) ∧
    subjAny { hosted with tiles := [] } 77 = some buffer77 ∧
    ((tileAt (fresh { hosted with tiles := [] }) 0).bind fun q => tileOf { hosted with tiles := [] } q.1 q.2).all (fun t => t.version == 0) = true ∧
    ∀ t ∈ [{ nearTile with copies := [] }, { nearTile with lodged := some 1 }, { nearTile with copies := [{ tier := 4, place := 0, version := 1 }] },
        { nearTile with copies := [{ tier := 2, place := 0, version := 1 }] }, { nearTile with copies := [{ tier := 3, place := 0, version := 1 }] },
        { nearTile with verified := false }],
      bindingOf (fresh (shownTile t)) 0 = some (.region 77 0) ∧ tileAt (fresh (shownTile t)) 0 = some (77, 0) ∧
      tileOf (shownTile t) 77 0 = some t ∧ t.version ≠ 0 ∧ readable (shownTile t) t = true ∧
      (t.lodged.isSome = true ∨ masterTier t = 4 ∨ masterTier t = 0 ∨ masterTier t = 2 ∨ masterTier t = 3 ∨ masterTier t = 1 ∧ t.verified = false) :=
  by decide +kernel

end Sys2Proof.Tests
end

section
/-! The scope statements: the form that every step keeps, how a command answers, and what register writes change. -/

namespace Sys2Proof.Laws

open Sys2Proof Sys2Proof.Machine Sys2Proof.Safety

/-! ### The form that every step keeps -/

/-- A state in the form is in it with its own model and whatever queue it has. -/
theorem Kept.of_formed {s : State} (h : Formed s) : Kept s.model s.pending s := ⟨rfl, rfl, h⟩

/-- The form speaks of no command that waits. -/
theorem formed_withPending {s : State} (h : Formed s) (q : List Instr) : Formed { s with pending := q } :=
  ⟨h.regs, h.beds, h.plan, h.tiles, h.lodged, h.work, h.steps, h.captures⟩

/-- Every command answers a next state, and keeps the model, the queue and the form: one arm for each arm of `exec`. -/
theorem exec_kept {m : Model} {p : List Instr} {s : State} (h : Kept m p s) (c : Instr) :
    ∃ t, exec c s = .next t ∧ Kept m p t :=
  match c with
  | .powerOnStart .. => execPowerOnStart_kept h
  | .holdupCharged .. => execHoldupCharged_kept h
  | .powerLoss .. => execPowerLoss_kept h
  | .overVoltage .. => execOverVoltage_kept h
  | .inputBelow20v => execInputBelow20v_kept h
  | .insertion .. => execInsertion_kept h
  | .portWarmReset .. => execPortWarmReset_kept h
  | .perstDeassert .. => execPerstDeassert_kept h
  | .deviceWarmReset => execDeviceWarmReset_kept h
  | .quiesce path => execQuiesce_kept (_path := path) h
  | .quiesceTimeout => execQuiesceTimeout_kept h
  | .nvWrite path .. => execNvWrite_kept (_path := path) h
  | .firmwareWrite .. => execFirmwareWrite_kept h
  | .seal path => execSeal_kept (_path := path) h
  | .registerWrite .. => execRegisterWrite_kept h
  | .wideRegisterRead .. => execWideRegisterRead_kept h
  | .qsampRead .. => execQsampRead_kept h
  | .bar0MctpMessage .. => execBar0MctpMessage_kept h
  | .bitstreamLoad path .. => execBitstreamLoad_kept (_path := path) h
  | .activate path .. => execActivate_kept (_path := path) h
  | .bitstreamDrainTimeout .. => execBitstreamDrainTimeout_kept h
  | .rollback path .. => execRollback_kept (_path := path) h
  | .panFault .. => execPanFault_kept h
  | .stepOverrun .. => execStepOverrun_kept h
  | .tileStepBegin .. => execTileStepBegin_kept h
  | .tileArrival .. => execTileArrival_kept h
  | .stepEnd .. => execStepEnd_kept h
  | .contextSwitchDone .. => execContextSwitchDone_kept h
  | .contextSliceExpiry .. => execContextSliceExpiry_kept h
  | .residentSliceExpiry .. => execResidentSliceExpiry_kept h
  | .descriptorWindowRead .. => execDescriptorWindowRead_kept h
  | .tileRequest .. => execTileRequest_kept h
  | .panMessage .. => execPanMessage_kept h
  | .dispatchHeldRelease .. => execDispatchHeldRelease_kept h
  | .ledgerTailUpdate .. => execLedgerTailUpdate_kept h
  | .consumedLineUpdate .. => execConsumedLineUpdate_kept h
  | .readyLinePoll .. => execReadyLinePoll_kept h
  | .ledgerEnable .. => execLedgerEnable_kept h
  | .ledgerDisable .. => execLedgerDisable_kept h
  | .ledgerDrainEnd .. => execLedgerDrainEnd_kept h
  | .completionWrite .. => execCompletionWrite_kept h
  | .cqFullTimeout .. => execCqFullTimeout_kept h
  | .interruptCoalTimeout .. => execInterruptCoalTimeout_kept h
  | .unknownOpcode .. => execUnknownOpcode_kept h
  | .park .. => execPark_kept h
  | .reviveWorking .. => execReviveWorking_kept h
  | .reviveFull .. => execReviveFull_kept h
  | .reviveHint .. => execReviveHint_kept h
  | .movePlace .. => execMovePlace_kept h
  | .moveView .. => execMoveView_kept h
  | .moveUnview .. => execMoveUnview_kept h
  | .moveAttach .. => execMoveAttach_kept h
  | .dirRebuild .. => execDirRebuild_kept h
  | .dirRebuildDone .. => execDirRebuildDone_kept h
  | .sessionOpen .. => execSessionOpen_kept h
  | .sessionClose .. => execSessionClose_kept h
  | .hostLoad .. => execHostLoad_kept h
  | .hostStore .. => execHostStore_kept h
  | .peerUioAccess .. => execPeerUioAccess_kept h
  | .tilePromotionDone .. => execTilePromotionDone_kept h
  | .biResponse .. => execBiResponse_kept h
  | .biTimeout .. => execBiTimeout_kept h
  | .hostResume .. => execHostResume_kept h
  | .writebackStart => execWritebackStart_kept h
  | .writebackTileDone .. => execWritebackTileDone_kept h
  | .spillStart .. => execSpillStart_kept h
  | .spillTileDone .. => execSpillTileDone_kept h
  | .prefetchItem .. => execPrefetchItem_kept h
  | .t3Grant .. => execT3Grant_kept h
  | .t3Withdraw .. => execT3Withdraw_kept h
  | .t3Drain .. => execT3Drain_kept h
  | .t3Compute .. => execT3Compute_kept h
  | .t3RangeLost .. => execT3RangeLost_kept h
  | .kvIngestFile .. => execKvIngestFile_kept h
  | .kvIngestComplete .. => execKvIngestComplete_kept h
  | .kvIngestRegister .. => execKvIngestRegister_kept h
  | .kvIngestClear .. => execKvIngestClear_kept h
  | .farAttn .. => execFarAttn_kept h
  | .readyWordUpdate .. => execReadyWordUpdate_kept h
  | .modelLoad .. => execModelLoad_kept h
  | .modelUnload .. => execModelUnload_kept h
  | .modelUnloadDone .. => execModelUnloadDone_kept h
  | .draft .. => execDraft_kept h
  | .draftConfigure .. => execDraftConfigure_kept h
  | .draftReset .. => execDraftReset_kept h
  | .verifyCommit .. => execVerifyCommit_kept h
  | .vocabularyLoad .. => execVocabularyLoad_kept h
  | .vocabularyUnload .. => execVocabularyUnload_kept h
  | .tokenize .. => execTokenize_kept h
  | .appendTokens .. => execAppendTokens_kept h
  | .setStops .. => execSetStops_kept h
  | .setSampler .. => execSetSampler_kept h
  | .maskStep .. => execMaskStep_kept h
  | .maskTree .. => execMaskTree_kept h
  | .maskConfigure .. => execMaskConfigure_kept h
  | .maskClear .. => execMaskClear_kept h
  | .plan .. => execPlan_kept h
  | .enroll .. => execEnroll_kept h
  | .withdraw .. => execWithdraw_kept h
  | .stepPlanConfigure .. => execStepPlanConfigure_kept h
  | .plannerParkDone .. => execPlannerParkDone_kept h
  | .plannerReviveDone .. => execPlannerReviveDone_kept h
  | .deadlineExpiry .. => execDeadlineExpiry_kept h
  | .shaperRefill => execShaperRefill_kept h
  | .meterCommit .. => execMeterCommit_kept h
  | .clrMax .. => execClrMax_kept h
  | .fill .. => execFill_kept h
  | .copy .. => execCopy_kept h
  | .compare .. => execCompare_kept h
  | .reduce .. => execReduce_kept h
  | .reduceScorer .. => execReduceScorer_kept h
  | .sluiceSession .. => execSluiceSession_kept h
  | .sluicePublish .. => execSluicePublish_kept h
  | .sluiceGlobal .. => execSluiceGlobal_kept h
  | .handoverOffer .. => execHandoverOffer_kept h
  | .handoverAccept .. => execHandoverAccept_kept h
  | .claim .. => execClaim_kept h
  | .grant .. => execGrant_kept h
  | .refuse .. => execRefuse_kept h
  | .claimWindowExpiry .. => execClaimWindowExpiry_kept h
  | .offerTimeout .. => execOfferTimeout_kept h
  | .ownershipAudit => execOwnershipAudit_kept h
  | .query .. => execQuery_kept h
  | .answer .. => execAnswer_kept h
  | .auditQueryTimeout .. => execAuditQueryTimeout_kept h
  | .tileReq .. => execTileReq_kept h
  | .tileReply .. => execTileReply_kept h
  | .tileReqTimeout .. => execTileReqTimeout_kept h
  | .release .. => execRelease_kept h
  | .publishCreate .. => execPublishCreate_kept h
  | .publishVersion .. => execPublishVersion_kept h
  | .publishPrefix .. => execPublishPrefix_kept h
  | .mapEpochWrite path .. => execMapEpochWrite_kept (_path := path) h
  | .epochGraceEnd .. => execEpochGraceEnd_kept h
  | .addDynamicCapacityResponse .. => execAddDynamicCapacityResponse_kept h
  | .releaseDynamicCapacity .. => execReleaseDynamicCapacity_kept h
  | .extentReleaseTimeout .. => execExtentReleaseTimeout_kept h
  | .fmDynamicCapacityAdd .. => execFmDynamicCapacityAdd_kept h
  | .fmDynamicCapacityRelease .. => execFmDynamicCapacityRelease_kept h
  | .getDynamicCapacityConfiguration .. => execGetDynamicCapacityConfiguration_kept h
  | .getDynamicCapacityExtentList .. => execGetDynamicCapacityExtentList_kept h
  | .identify .. => execIdentify_kept h
  | .getEventRecords .. => execGetEventRecords_kept h
  | .clearEventRecords .. => execClearEventRecords_kept h
  | .getEventInterruptPolicy .. => execGetEventInterruptPolicy_kept h
  | .setEventInterruptPolicy .. => execSetEventInterruptPolicy_kept h
  | .setTimestamp .. => execSetTimestamp_kept h
  | .tspRequest .. => execTspRequest_kept h
  | .ideKm .. => execIdeKm_kept h
  | .cdatRead q .. => execCdatRead_kept (_p := q) h
  | .linkLeavesL0 .. => execLinkLeavesL0_kept h
  | .linkRecoveryTimeout .. => execLinkRecoveryTimeout_kept h
  | .ideIntegrityFailure .. => execIdeIntegrityFailure_kept h
  | .viralReceived .. => execViralReceived_kept h
  | .surpriseRemoval .. => execSurpriseRemoval_kept h
  | .cacheResponseTimeout .. => execCacheResponseTimeout_kept h
  | .linkReturn .. => execLinkReturn_kept h
  | .install .. => execInstall_kept h
  | .installKey .. => execInstallKey_kept h
  | .revoke .. => execRevoke_kept h
  | .revokeSlot .. => execRevokeSlot_kept h
  | .slotEmptied .. => execSlotEmptied_kept h
  | .join path .. => execJoin_kept (_path := path) h
  | .joinSet .. => execJoinSet_kept h
  | .leave path .. => execLeave_kept (_path := path) h
  | .leaveSet .. => execLeaveSet_kept h
  | .getSlotEvidence .. => execGetSlotEvidence_kept h
  | .getVersion .. => execGetVersion_kept h
  | .getCapabilities .. => execGetCapabilities_kept h
  | .negotiateAlgorithms .. => execNegotiateAlgorithms_kept h
  | .getDigests .. => execGetDigests_kept h
  | .getCertificate .. => execGetCertificate_kept h
  | .challenge .. => execChallenge_kept h
  | .getMeasurements .. => execGetMeasurements_kept h
  | .keyExchange .. => execKeyExchange_kept h
  | .finish .. => execFinish_kept h
  | .endSession .. => execEndSession_kept h
  | .retire path .. => execRetire_kept (_path := path) h
  | .ownerClaim path .. => execOwnerClaim_kept (_path := path) h
  | .debugPresent path .. => execDebugPresent_kept (_path := path) h
  | .debugClose path => execDebugClose_kept (_path := path) h
  | .bypass .. => execBypass_kept h
  | .samplePreload .. => execSamplePreload_kept h
  | .extest .. => execExtest_kept h
  | .idcode => execIdcode_kept h
  | .jtagDebugAccess .. => execJtagDebugAccess_kept h
  | .entdaa .. => execEntdaa_kept h
  | .setdasa .. => execSetdasa_kept h
  | .checkpoint .. => execCheckpoint_kept h
  | .checkpointInterval => execCheckpointInterval_kept h
  | .warningTrigger .. => execWarningTrigger_kept h
  | .checkpointStart => execCheckpointStart_kept h
  | .restoreSession .. => execRestoreSession_kept h
  | .restoreTakeover .. => execRestoreTakeover_kept h
  | .streamLog .. => execStreamLog_kept h
  | .streamOwn .. => execStreamOwn_kept h
  | .streamLease .. => execStreamLease_kept h
  | .streamAck .. => execStreamAck_kept h
  | .streamFetch .. => execStreamFetch_kept h
  | .streamRefuse .. => execStreamRefuse_kept h
  | .fetchReply .. => execFetchReply_kept h
  | .logRecordFlush => execLogRecordFlush_kept h
  | .buddyTimeout => execBuddyTimeout_kept h
  | .buddyRetry => execBuddyRetry_kept h
  | .buddyOriginWrite path .. => execBuddyOriginWrite_kept (_path := path) h
  | .fosterRelease path .. => execFosterRelease_kept (_path := path) h
  | .discard path => execDiscard_kept (_path := path) h
  | .flashScrub .. => execFlashScrub_kept h
  | .flashBlockRetire .. => execFlashBlockRetire_kept h
  | .dramChannelFault .. => execDramChannelFault_kept h
  | .packageMigrationDone .. => execPackageMigrationDone_kept h
  | .flashDieFault .. => execFlashDieFault_kept h
  | .dieRebuildDone .. => execDieRebuildDone_kept h
  | .pllLossOfLock .. => execPllLossOfLock_kept h
  | .bedFault .. => execBedFault_kept h
  | .blockFault .. => execBlockFault_kept h
  | .managementCoreFault .. => execManagementCoreFault_kept h
  | .faultRecoveryDone .. => execFaultRecoveryDone_kept h
  | .droopTrip .. => execDroopTrip_kept h
  | .stretchRelease .. => execStretchRelease_kept h
  | .bedStop .. => execBedStop_kept h
  | .harrowWalk .. => execHarrowWalk_kept h
  | .neighbourLimit .. => execNeighbourLimit_kept h
  | .holdRelease .. => execHoldRelease_kept h
  | .retentionProbe .. => execRetentionProbe_kept h
  | .patrolScrub .. => execPatrolScrub_kept h
  | .ringOscillatorMeasure .. => execRingOscillatorMeasure_kept h
  | .ageingRecordWrite => execAgeingRecordWrite_kept h
  | .thermalThrottle .. => execThermalThrottle_kept h
  | .thermalHold .. => execThermalHold_kept h
  | .thermalCritical .. => execThermalCritical_kept h
  | .mark .. => execMark_kept h
  | .dumpTiles .. => execDumpTiles_kept h
  | .dumpTrace .. => execDumpTrace_kept h
  | .dumpArm .. => execDumpArm_kept h
  | .dumpDisarm .. => execDumpDisarm_kept h
  | .dumpCapture => execDumpCapture_kept h
  | .captureTimeout .. => execCaptureTimeout_kept h
  | .obsBudgetRefill => execObsBudgetRefill_kept h
  | .snap path => execSnap_kept (path := path) h
  | .counterClear .. => execCounterClear_kept h
  | .counterSample => execCounterSample_kept h
  | .shippedStep .. => execShippedStep_kept h
  | .portReferenceClockLoss .. => execPortReferenceClockLoss_kept h
  | .standbyPllLossOfLock => execStandbyPllLossOfLock_kept h
  | .faultControllerFailure => execFaultControllerFailure_kept h
  | .throttleRelease .. => execThrottleRelease_kept h
  | .tapReset .. => execTapReset_kept h
  | .hdmDecoderCommit .. => execHdmDecoderCommit_kept h

/-- A step keeps the form: an idle step, and a step that runs the command at the front of the queue. -/
theorem step_keeps_formed {s t : State} (h : Formed s) (e : step s = .next t) : Formed t := by
  unfold step at e
  split at e
  · cases e
    exact (idle_kept (Kept.of_formed h)).form
  · rename_i c q _
    obtain ⟨u, hu, k⟩ := exec_kept (Kept.of_formed (formed_withPending h q)) c
    cases hu.symm.trans e
    exact k.form

/-- Either model is in the form after reset: no register cell, tile, work, checkpoint slot or capture is held, and no ageing plan. -/
theorem formed_resetOf (m : Model) : Formed (State.resetOf m) where
  regs := by rintro c (hc | hc) <;> cases hc
  beds := bedsListed_fresh
  plan := by rintro r hr; cases hr
  tiles := payloadsWf_nil
  lodged := payloadsWf_nil
  work := worksWf_nil
  steps := ⟨slotWf_none, slotWf_none⟩
  captures := by intro c hc; cases hc

/-- Settles O2, by the step lemma over the idle step and over every command. -/
theorem everyStepKeepsTheForm : Obligations.EveryStepKeepsTheForm := by
  unfold Obligations.EveryStepKeepsTheForm
  exact fun _ _ => step_keeps_formed

/-- Settles O5: that a command whose event cannot happen answers too, and changes nothing, is assumption 9. -/
theorem everyCommandAnswers : Obligations.EveryCommandAnswers := by
  unfold Obligations.EveryCommandAnswers
  intro c s h
  obtain ⟨t, e, k⟩ := exec_kept (Kept.of_formed h) c
  exact ⟨t, e, k.pending, k.model⟩

/-- Settles O1, as the full part's case. -/
theorem resetHasTheForm : Obligations.ResetHasTheForm := formed_resetOf .full

/-! ### Entries of register fields -/

/-- Removing a key leaves every other key's value. -/
theorem aget_adel_other {κ β : Type} [DecidableEq κ] {x y : κ} (h : y ≠ x) : ∀ l : List (κ × β), aget (adel l x) y = aget l y
  | [] => rfl
  | (k, v) :: l => by
    have ih := aget_adel_other h l
    unfold adel at ih ⊢
    by_cases hk : k = x
    · subst hk
      simpa [aget, Ne.symm h] using ih
    · rw [List.filter_cons_of_pos (by simpa using hk)]
      simp only [aget, ih]

/-- An entry that is set reads the value modulo 2 to the field's width. -/
@[simp] theorem regGet_regSet_same (s : State) (f : Fld) (i v : Nat) : regGet (regSet s f i v) f i = v % 2 ^ fldBits f := by
  simp [regGet, regSet, aset, aget]

/-- Setting an entry leaves every other entry of any field. -/
theorem regGet_regSet_other (s : State) {f g : Fld} {i j : Nat} (v : Nat) (h : (g, j) ≠ (f, i)) :
    regGet (regSet s f i v) g j = regGet s g j := by
  simp only [regGet, regSet, aset, aget, if_neg h.symm, aget_adel_other h]

/-- Settles O8: what is stored is cut to the width, as the model reads it (assumption 151). -/
theorem registerWritesSetOneField : Obligations.RegisterWritesSetOneField := by
  unfold Obligations.RegisterWritesSetOneField
  exact fun s f g i j v => ⟨regGet_regSet_same s f i v, regGet_regSet_other s v, rfl⟩

/-! ### A register write that reaches the MSI-X table -/

/-- A device just reset, but serving. -/
def servingReset : State := { State.reset with power := { State.reset.power with state := .running } }

/-- The first offset past BAR0 on port A is the MSI-X table's, not a register's (R297). -/
theorem registerWrite_bar2_first :
    exec (.registerWrite .a bar2 8 1) servingReset = .next (writeBar2 (fresh servingReset) 0 0 8 1) := rfl

/-- It sets down vector 0 of port A, which `State.ledg` holds and no register does. -/
theorem writeBar2_first_msix : (writeBar2 (fresh servingReset) 0 0 8 1).ledg.msix = [((0, 0), (1, 0, 1))] := rfl

/-- Refutes O9: a REGISTER_WRITE to the MSI-X table of a port (offset 0x4000000, R297) changes the table, which is no register. -/
theorem not_registerCommandsTouchRegistersOnly : ¬ Obligations.RegisterCommandsTouchRegistersOnly := by
  unfold Obligations.RegisterCommandsTouchRegistersOnly
  intro h
  obtain ⟨only, -⟩ := h _ _ .a bar2 8 1 (.inl registerWrite_bar2_first)
  have msix := congrArg (fun t => t.ledg.msix) only
  exact absurd (writeBar2_first_msix.symm.trans msix) (by decide)

/-! ### While SEAL is 1 -/

/-- What SEAL guards from register writes: the fields of class RWL, and SEAL itself (R9, R555). -/
def sealGuarded (f : Fld) : Bool := (fldSpec f).acc == .rwl || f == .sysLockSeal

/-- Every entry of a guarded field reads in `t` as in `s`. -/
structure GuardedSame (s t : State) : Prop where
  same : ∀ f i, sealGuarded f = true → regGet t f i = regGet s f i

variable {s t : State}

theorem GuardedSame.refl (s : State) : GuardedSame s s := ⟨fun _ _ _ => rfl⟩

/-- States with the same model and register cells agree on guarded fields. -/
theorem GuardedSame.of_regs {u : State} (h : GuardedSame s t) (hm : u.model = t.model) (hc : u.regs.cells = t.regs.cells) :
    GuardedSame s u where
  same f i hf := by
    rw [← h.same f i hf]
    simp only [regGet, hm, hc]

/-- A staged word is no field's value yet (R552). -/
theorem GuardedSame.withStaged (h : GuardedSame s t) (l : List (Nat × Nat × Nat)) :
    GuardedSame s { t with regs := { t.regs with staged := l } } := h.of_regs rfl rfl

/-- SEAL is guarded itself. -/
theorem GuardedSame.isSealed (h : GuardedSame s t) (hs : isSealed s = true) : isSealed t = true := by
  have e := h.same .sysLockSeal 0 rfl
  simpa [Machine.isSealed, reg, e] using hs

/-- Setting a field that is not guarded. -/
theorem GuardedSame.regSet (h : GuardedSame s t) {f : Fld} {i v : Nat} (hf : sealGuarded f = false) :
    GuardedSame s (Machine.regSet t f i v) where
  same g j hg := by
    have hne : (g, j) ≠ (f, i) := by
      rintro ⟨⟩
      simp [hf] at hg
    rw [regGet_regSet_other t v hne, h.same g j hg]

/-- A counter that restarts is not guarded. -/
theorem GuardedSame.afterWrite (h : GuardedSame s t) {f : Fld} {i : Nat} : GuardedSame s (afterWrite t f i) := by
  unfold Machine.afterWrite
  split
  · exact h.regSet rfl
  · exact h.regSet rfl
  · exact h.regSet rfl
  · exact h

/-- SEAL has a row of its own, so whether any other field is guarded is a matter of its class. -/
theorem sealGuarded_of_acc {f : Fld} {a : Acc} (hrow : ¬ownRow f = true) (ha : (fldSpec f).acc = a) :
    sealGuarded f = (a == .rwl) := by
  have hne : f ≠ .sysLockSeal := by
    rintro rfl
    exact hrow rfl
  simp [sealGuarded, hne, ha]

/-- A write to a field changes no guarded field while SEAL is 1 (R8, R555). -/
theorem GuardedSame.writeField (h : GuardedSame s t) (hs : Machine.isSealed s = true) (f : Fld) (i v : Nat) :
    GuardedSame s (writeField t f i v) := by
  have hsealed := h.isSealed hs
  unfold Machine.writeField
  split
  · exact h
  next hrow =>
    split
    · exact h
    split
    next hacc =>
      split
      · exact (h.regSet (sealGuarded_of_acc hrow hacc)).afterWrite
      · exact h
    next hacc =>
      split
      · exact (h.regSet (sealGuarded_of_acc hrow hacc)).afterWrite
      · exact h
    next => simpa [hsealed] using h
    next hacc => exact h.regSet (sealGuarded_of_acc hrow hacc)
    next hacc => exact h.regSet (sealGuarded_of_acc hrow hacc)
    next hacc =>
      split
      · exact h.regSet (sealGuarded_of_acc hrow hacc)
      · exact h
    next => exact h

/-- So do writes to several fields one after the other. -/
theorem GuardedSame.foldl_writeField (hs : Machine.isSealed s = true) :
    ∀ (l : List (Fld × Nat × Nat)) {t : State}, GuardedSame s t →
      GuardedSame s (l.foldl (fun s e => Machine.writeField s e.1 e.2.1 e.2.2) t)
  | [], _, h => h
  | e :: l, _, h => foldl_writeField hs l (h.writeField hs e.1 e.2.1 e.2.2)

/-- Counting a denied write sets flags and counts only. -/
theorem GuardedSame.denied (h : GuardedSame s t) : GuardedSame s (denied t) :=
  (h.regSet (f := .sysLockDenied) rfl).regSet rfl

/-- A write of a register: its fields, then what a denied or a closed field flags and counts. -/
theorem GuardedSame.writeFields (h : GuardedSame s t) (hs : Machine.isSealed s = true) (p : Path) (off hi lo v : Nat) :
    GuardedSame s (writeFields t p off hi lo v) := by
  unfold Machine.writeFields
  extract_lets _ hit base written checked counted
  have hwritten : GuardedSame s written := h.foldl_writeField hs hit
  have hchecked : GuardedSame s checked := by
    unfold checked
    split
    · exact hwritten
    · exact h
  have hcounted : GuardedSame s counted := by
    unfold counted
    split
    · exact hchecked.denied
    · exact hchecked
  split
  · split
    · split
      · exact hcounted.regSet rfl
      · exact hcounted
    · exact (hcounted.regSet (f := .cxlErrConfigLocked) rfl).regSet rfl
  · exact hcounted

/-- A write of a word: staging touches no field, and the highest word writes the register. -/
theorem GuardedSame.writeWord (h : GuardedSame s t) (hs : Machine.isSealed s = true) (p : Path) (off width v : Nat) :
    GuardedSame s (writeWord t p off width v) := by
  unfold Machine.writeWord
  dsimp only
  split
  · exact h.writeFields hs ..
  · split
    · exact h.withStaged _
    · exact ((h.withStaged _).writeFields hs ..).withStaged _

theorem GuardedSame.writeAccess (h : GuardedSame s t) (hs : Machine.isSealed s = true) (p : Path) (off width v : Nat) :
    GuardedSame s (writeAccess t p off width v) := by
  unfold Machine.writeAccess
  split
  · exact h.writeWord hs ..
  · exact h

/-- Setting down a vector, and sending one that was pending, leaves the registers. -/
theorem setVector_regs (s : State) (p n : Nat) (e : Nat × Nat × Nat) :
    (setVector s p n e).model = s.model ∧ (setVector s p n e).regs = s.regs := by
  unfold setVector
  dsimp only
  split
  · exact ⟨rfl, rfl⟩
  · exact ⟨rfl, rfl⟩

/-- The MSI-X table is no register. -/
theorem writeBar2_regs (s : State) (p off width v : Nat) :
    (writeBar2 s p off width v).model = s.model ∧ (writeBar2 s p off width v).regs = s.regs := by
  unfold writeBar2
  split
  · exact setVector_regs ..
  · exact ⟨rfl, rfl⟩

/-- REGISTER_WRITE, inside BAR0 or of the MSI-X table, keeps the guarded fields while SEAL is 1. -/
theorem registerWrite_guardedSame (hs : isSealed s = true) {p : Path} {off width v : Nat}
    (e : exec (.registerWrite p off width v) s = .next t) : GuardedSame s t := by
  have h : GuardedSame s (fresh s) := (GuardedSame.refl s).of_regs rfl rfl
  cases e
  dsimp only
  split
  · exact h.writeAccess hs ..
  · split
    · obtain ⟨hm, hr⟩ := writeBar2_regs (fresh s) _ _ width v
      exact h.of_regs hm (congrArg Regs.cells hr)
    · exact h

/-- So does a write that the management bus carries. -/
theorem bar0MctpMessage_guardedSame (hs : isSealed s = true) {off width v : Nat}
    (e : exec (.bar0MctpMessage true off width v) s = .next t) : GuardedSame s t := by
  have h : GuardedSame s (fresh s) := (GuardedSame.refl s).of_regs rfl rfl
  cases e
  dsimp only
  split
  · exact h.writeAccess hs ..
  · exact h

/-- Settles O10, by what a write keeps of the guarded fields. -/
theorem sealedFieldsStay : Obligations.SealedFieldsStay := by
  unfold Obligations.SealedFieldsStay
  intro s t p off width v f i hs hacc e
  have h : GuardedSame s t := e.elim (registerWrite_guardedSame hs) (bar0MctpMessage_guardedSame hs)
  exact ⟨h.same f i (by simp [sealGuarded, hacc]), h.isSealed hs⟩

/-! ### Where the registers answer -/

/-- A register answers only on a device with converters on (R512). -/
theorem powered_of_answers {off : Nat} (h : Machine.answers s off = true) : powered s = true := by
  unfold Machine.answers at h
  exact (Bool.and_eq_true_iff.mp h).1

/-- A write is done where the register answers. -/
theorem writeAccess_answers {p : Path} {off width v : Nat} (h : Machine.answers s off = true) :
    writeAccess s p off width v = writeWord s p off width (v % 2 ^ (8 * width)) := if_pos h

/-- A read sends out its value where the register answers. -/
theorem readAccess_answers {p : Path} {off width : Nat} {out : Nat → Out} (h : Machine.answers s off = true) :
    readAccess s p off width out = emit (readBar s p off width).1 (out (readBar s p off width).2) := by
  simp [readAccess, powered_of_answers h, h]

/-- A message to BAR0 that the bus carries is a write or a read on the bus's own path (R553). -/
theorem exec_bar0MctpMessage {write : Bool} {off width v : Nat} (hb : busServes s = true) (ha : Machine.accessOk off width = true) :
    exec (.bar0MctpMessage write off width v) s =
      .next (if write then writeAccess (fresh s) .mb off width v
        else readAccess (fresh s) .mb off width fun n => .response (leBytes width n)) :=
  congrArg Host.Outcome.next (if_pos (Bool.and_eq_true_iff.mpr ⟨hb, ha⟩))

/-- Settles O25: each guard holds, so the command is its effect. -/
theorem registerCommandsComplete : Obligations.RegisterCommandsComplete := by
  unfold Obligations.RegisterCommandsComplete
  refine ⟨fun s path hp => ?sealing, fun s path off width v ha h => ?write, fun s path off ha h => ?wide, fun s path h => ?qsamp,
    fun s off width v hb ha h => ?busWrite, fun s off width hb ha h => ?busRead⟩
  case sealing => exact congrArg Host.Outcome.next (if_pos hp)
  case write => exact congrArg Host.Outcome.next ((if_pos ha).trans (writeAccess_answers h))
  case wide => exact congrArg Host.Outcome.next ((if_pos ha).trans (readAccess_answers h))
  case qsamp => exact congrArg Host.Outcome.next (readAccess_answers h)
  case busWrite => rw [exec_bar0MctpMessage hb ha, if_pos rfl, writeAccess_answers (s := fresh s) h]
  case busRead => rw [exec_bar0MctpMessage hb ha, if_neg Bool.false_ne_true, readAccess_answers (s := fresh s) h]

end Sys2Proof.Laws
end

section
/-! The statements about bitstream, pan and fault commands: where its checks pass, each is its own effect. -/

namespace Sys2Proof.Laws

open Sys2Proof Sys2Proof.Machine Sys2Proof.Safety

variable {s : State}

/-! ### What the shared guard leaves of a command -/

/-- A command that needs a running device is, on one, its effect on the fresh state. -/
theorem act_whenRunning {f : State → State} {t : State} (hr : running s = true) (e : f (fresh s) = t) :
    act s (whenRunning f) = .next t := by
  rw [act_fresh, whenRunning_run hr, e]

/-! ### Bitstreams -/

/-- A container that is read and passes every check is staged (R45, R46). -/
theorem loadContainer_passes {img : Fetch} {t : State} {b : List Byte}
    (hlo : 192 ≤ reg s .panBsLenLen) (hhi : reg s .panBsLenLen ≤ 67108864)
    (hread : readSource (setReg { s with units := { s.units with staged := none } } .panBsStatusState 1)
      (reg s .panBsAddrAddr) (reg s .panBsLenLen) img = (t, some b))
    (hok : containerError t (some b) true = 0) :
    loadContainer s img true =
      loadResult (bsStatus { t with units := { t.units with staged := some (containerOf b) } } 3 0) [0] := by
  have hlen : ¬(reg s .panBsLenLen < 192 ∨ 67108864 < reg s .panBsLenLen) := by omega
  unfold loadContainer
  refine (if_neg hlen).trans ((sourced_read hread).trans ?_)
  simp [hok]

/-- Settles O26: each command's checks pass, so it is its effect; a load goes on to stage what it has read. -/
theorem bitstreamCommandsComplete : Obligations.BitstreamCommandsComplete := by
  unfold Obligations.BitstreamCommandsComplete
  refine ⟨fun s path img t b hr hd hlo hhi hread hok => ?load, fun s path badPans c t hr hd hc ht hp => ?activate,
    fun s badPans t back us bad hr hd => ?drainTimeout, fun s path badPans c hr hd hc hsvn => ?rollback⟩
  case load =>
    refine act_whenRunning hr ?_
    simpa [hd] using loadContainer_passes (s := fresh s) hlo hhi hread hok
  case activate => exact act_whenRunning hr (by simp [hd, hc, ht, hp])
  case drainTimeout => exact act_whenRunning hr (by simp [hd])
  case rollback => exact act_whenRunning hr (by simp [hd, hc, Nat.not_lt.mpr hsvn])

/-! ### Pans -/

@[simp] theorem leafOfPan_fresh (s : State) (bed pos : Nat) : leafOfPan (fresh s) bed pos = leafOfPan s bed pos := rfl
@[simp] theorem rootOf_fresh (s : State) (u : Nat) : rootOf (fresh s) u = rootOf s u := rfl
@[simp] theorem holder_fresh (s : State) (l : Nat) : holder (fresh s) l = holder s l := rfl
@[simp] theorem panHalted_fresh (s : State) (bed pos : Nat) : panHalted (fresh s) bed pos = panHalted s bed pos := rfl
@[simp] theorem panWorks_fresh (s : State) (bed pos : Nat) : panWorks (fresh s) bed pos = panWorks s bed pos := rfl
@[simp] theorem panWork_fresh (s : State) (bed pos : Nat) : panWork (fresh s) bed pos = panWork s bed pos := rfl
@[simp] theorem serving_fresh (s : State) (l : Nat) : serving (fresh s) l = serving s l := rfl

/-- A tile asked into a slot from its master: the slot waits for the version, and the work for the transfer (R34, R448). -/
theorem askSlot_master {id : Nat} {e : SlotEnt} {t : Tile} (ht : tileOf s e.handle e.number = some t)
    (hv : t.version ≠ 0) (hm : masterTier t ≠ 0) (hl : t.lodged = none) :
    askSlot s id e =
      emit (updWork (putSlot s { e with version := t.version, absent := false, ready := false }) id fun y =>
        { y with transfers := y.transfers ++ (transferOf (masterPlace t).1 (masterPlace t).2).toList }) (.fetchTile e.handle e.number) := by
  simp [askSlot, ht, hv, hm, hl]

/-- A tile that passes enters T1 of its home bed from a tier below (R94, R446). -/
theorem arriveT1_passes {h n : Nat} {t : Tile} {image : List Byte} (ht : tileOf s h n = some t) (hv : t.version ≠ 0)
    (hm : 2 ≤ (masterPlace t).1) (hi : imagePasses t image = true) :
    arriveT1 s h n image = (raiseDemand s h n (homeOf s h)).1 := by
  have hbelow : ¬(masterPlace t).1 ≤ 1 := by omega
  simp [arriveT1, ht, hv, hbelow, hi]

/-! What the lookups of a tile step depend on, for states that differ from `s` elsewhere. -/

/-- A work is found among the works alone. -/
theorem workOf_of_work {t : State} {id : Nat} (h : t.work = s.work) : workOf t id = workOf s id := by
  simp only [workOf, h]

/-- Whether a key slot is ACTIVE is a matter of the slots alone. -/
theorem slotActive_of_sec {t : State} {k : Nat} (h : t.sec = s.sec) : slotActive t k = slotActive s k := by
  simp only [slotActive, slotState, slotRec, h]

/-- The leaf of a pan is a matter of the active configuration. -/
theorem leafOfPan_of_active {t : State} {bed pos : Nat} (h : t.units.active = s.units.active) :
    leafOfPan t bed pos = leafOfPan s bed pos := by
  simp only [leafOfPan, pansOf, h]

/-- So is what holds the current context of a leaf. -/
theorem holder_of_active {t : State} {leaf : Nat} (h : t.units.active = s.units.active) : holder t leaf = holder s leaf := by
  have hunits : unitsOf t = unitsOf s := by simp only [unitsOf, h]
  unfold holder isResident rootEnt unitEnt rootOf
  rw [hunits]

/-- Staging no tile needs no durable room. -/
@[simp] theorem newDurable_nil : newDurable s [] = 0 := rfl

/-- Staging no tile changes nothing. -/
@[simp] theorem stageAll_nil {id : Nat} : stageAll s id [] = some s := rfl

/-- Settles O27: each guard holds, so the command is its effect. A step that ends with no output stages nothing, and the boundary is all
that is left of it. -/
theorem panCommandsComplete : Obligations.PanCommandsComplete := by
  unfold Obligations.PanCommandsComplete
  refine ⟨fun s bed pos hr _ => ?panFault, fun s bed pos hr hstep hhalt _ => ?overrun,
    fun s w bed pos leaf last writes hr hhalt hroom hact hw hfree hin hleaf hserv hsw => ?stepBegin,
    fun s bed pos slot h n image hr _ => ?toSlot, fun s t h n tile image hr ht hv hm hi hraise => ?toT1,
    fun s w bed pos leaf e hr hstep hw hid hun hleaf hslot hdl => ?stepEnd,
    fun s w bed pos h n slot tile hr hw hslot hhalt ht hkey hv hm hl hchk => ?request,
    fun s bed pos toBed toPos a b body hr ha hb hroot hhalt hbed => ?message, fun s utype hr => ?release⟩
  case panFault => exact act_whenRunning hr rfl
  case overrun => exact act_whenRunning hr (if_pos (by simp [hstep, hhalt]))
  case stepBegin =>
    refine act_whenRunning hr ((if_neg ?_).trans ?_)
    · simp [hhalt, hroom, hact, hfree, hin, hleaf, hserv, hsw]
    · have hwork (t : State) (h : t.work = s.work) : workOf t w.id = some w := (workOf_of_work h).trans hw
      simp [hleaf, hwork]
  case toSlot => exact act_whenRunning hr rfl
  case toT1 => exact act_whenRunning hr ((arriveT1_passes (s := fresh s) ht hv hm hi).trans (congrArg Prod.fst hraise))
  case stepEnd =>
    refine act_whenRunning hr ?_
    have hwork (t : State) (h : t.work = s.work) : workOf t e.work = some w := (workOf_of_work h).trans hw
    have hactive (t : State) (h : t.sec = s.sec) : slotActive t w.hdr.keySlot = true := (slotActive_of_sec h).trans hslot
    have hpan (t : State) (h : t.units.active = s.units.active) : leafOfPan t bed pos = some leaf :=
      (leafOfPan_of_active h).trans hleaf
    have hhold (t : State) (h : t.units.active = s.units.active) : holder t leaf = holder s leaf := holder_of_active h
    simp [hstep, hwork, hpan, hid, hun, hactive, hdl, hhold]
  case request =>
    refine act_whenRunning hr ?_
    simp [hw, Nat.not_le.mpr hslot, hhalt, ht, hkey, hchk, askSlot_master, hv, hm, hl]
  case message =>
    subst hbed
    exact act_whenRunning hr (by simp [ha, hb, hroot, hhalt])
  case release => exact act_whenRunning hr rfl

/-! ### Faults -/

/-- Flagging a fault class writes registers only. -/
@[simp] theorem raiseClass_flt (s : State) (c : Nat) : (raiseClass s c).flt = s.flt := by
  simp only [raiseClass, regAdd_flt]
  split
  · rfl
  · exact setReg_flt ..

/-- Discarding work in flight takes no part out of service. -/
@[simp] theorem discardFlight_flt (s : State) (p : Work → Bool) : (discardFlight s p).flt = s.flt := by
  unfold discardFlight
  generalize s.work.filter _ = ws
  induction ws generalizing s with
  | nil => rfl
  | cons w ws ih => exact ih (fail (dropSteps s w.id) w.id stDiscarded)

/-- A fault that opens its domain leaves the flash dies that are being rebuilt as they were. -/
@[simp] theorem openDomain_rebuilding (s : State) (cls place : Nat) (p : Work → Bool) :
    (openDomain s cls place p).flt.rebuilding = s.flt.rebuilding := by
  simp [openDomain, clearUnits]

/-- Settles O43: each guard holds, so the fault is its effect. The first die to fail finds no other being rebuilt, so no stripe is lost. -/
theorem faultCommandsComplete : Obligations.FaultCommandsComplete := by
  unfold Obligations.FaultCommandsComplete
  refine ⟨fun s bed unit hr hbed hunit hc => ?channel, fun s u package c hr hp hc hu => ?migrated,
    fun s u die hr hdie hin hreb hu => ?die, fun s u die move hr hdie hmove hu => ?rebuilt,
    fun s u hr hu hlock => ?pll, fun s hr => ?standby, fun s bed clock hr hbed hin => ?bed,
    fun s block hr hlt hin => ?block, fun s u core hr hlt hin hu hleft => ?core,
    fun s t u v cls place ns us free hr hrec hus ht hfree hv hu => ?recovered, fun s hr => ?failed⟩
  case channel => exact act_whenRunning hr (by simp [Nat.not_le.mpr hbed, hunit, hc])
  case migrated =>
    subst hc hu
    exact act_whenRunning hr (if_pos hp)
  case die =>
    subst hu
    refine act_whenRunning hr ((if_neg ?_).trans ?_)
    · simp [Nat.not_le.mpr hdie, hin]
    · simp [hreb]
  case rebuilt =>
    subst hmove hu
    exact act_whenRunning hr (if_pos hdie)
  case pll =>
    subst hu
    exact act_whenRunning hr (if_pos hlock)
  case standby => exact act_whenRunning hr rfl
  case bed => exact act_whenRunning hr (if_pos ⟨hbed, hin⟩)
  case block =>
    exact act_whenRunning hr ((if_neg (Nat.not_le.mpr hlt)).trans (if_neg hin))
  case core =>
    subst hu
    refine act_whenRunning hr ((if_neg ?_).trans (if_neg (Nat.not_le.mpr hleft)))
    simp [Nat.not_le.mpr hlt, hin]
  case recovered =>
    subst hus ht hfree hv hu
    exact act_whenRunning hr (if_pos hrec)
  case failed => exact act_whenRunning hr rfl

end Sys2Proof.Laws
end

section
/-! The statements about payloads, versions and copies of tiles, and about descriptors for handles that are not held here. -/

namespace Sys2Proof.Laws

open Sys2Proof Sys2Proof.Machine Sys2Proof.Safety

/-! ### Reading payload cells -/

/-- Cells above `lo`: the first lies there and is not 0, and the others lie above it. -/
theorem cellsAbove_cons {lo k : Nat} {v : Byte} {c : List Host.Cell} :
    cellsAbove lo ((k, v) :: c) = true ↔ lo ≤ k ∧ v ≠ 0 ∧ cellsAbove (k + 1) c = true := by
  simp only [cellsAbove, Bool.and_eq_true, decide_eq_true_eq, and_assoc]

/-- Below its first cell a payload reads 0. -/
theorem cellGet_below {lo a : Nat} (ha : a < lo) : ∀ {c : List Host.Cell}, cellsAbove lo c = true → cellGet c a = 0
  | [], _ => rfl
  | (k, v) :: c, h => by
    obtain ⟨hk, -, -⟩ := cellsAbove_cons.mp h
    rw [cellGet, if_neg (by omega), if_pos (by omega)]

/-- A byte that is set is read back, and every other one is as before. -/
theorem cellGet_cellSet {a : Nat} {v : Byte} (j : Nat) : ∀ {c : List Host.Cell} {lo : Nat}, cellsAbove lo c = true →
    cellGet (cellSet c a v) j = if j = a then v else cellGet c j
  | [], _, _ => by
    unfold cellSet
    split <;> simp_all [cellGet]
  | (k, w) :: c, _, h => by
    obtain ⟨-, -, hc⟩ := cellsAbove_cons.mp h
    have hlow : j ≤ k → cellGet c j = 0 := fun hj => cellGet_below (by omega) hc
    rcases Nat.lt_trichotomy a k with hak | rfl | hka
    case inl =>
      rw [cellSet, if_pos hak]
      split <;> grind [cellGet]
    case inr.inl =>
      rw [cellSet, if_neg (Nat.lt_irrefl a), if_pos rfl]
      split <;> grind [cellGet]
    case inr.inr =>
      rw [cellSet, if_neg (by omega), if_neg (by omega)]
      have ih := cellGet_cellSet (a := a) (v := v) j hc
      grind [cellGet]

/-- Writing bytes leaves those outside their range. -/
theorem cellGet_cellWrite_outside {j : Nat} : ∀ {b : List Byte} {c : List Host.Cell} {a : Nat}, cellsWf c = true →
    j < a ∨ a + b.length ≤ j → cellGet (cellWrite c a b) j = cellGet c j
  | [], _, _, _, _ => rfl
  | v :: b, c, a, h, hj => by
    rw [List.length_cons] at hj
    calc cellGet (cellWrite (cellSet c a v) (a + 1) b) j
        = cellGet (cellSet c a v) j := cellGet_cellWrite_outside (cellSet_wf h) (by omega)
      _ = cellGet c j := by rw [cellGet_cellSet j h, if_neg (by omega)]

/-- Bytes that are written are read back: the first lies below the range of the others. -/
theorem cellRead_cellWrite : ∀ {b : List Byte} {c : List Host.Cell} {a : Nat}, cellsWf c = true →
    cellRead (cellWrite c a b) a b.length = b
  | [], _, _, _ => rfl
  | v :: b, c, a, h => by
    have hset : cellsWf (cellSet c a v) = true := cellSet_wf h
    have hfirst : cellGet (cellWrite (cellSet c a v) (a + 1) b) a = v := by
      rw [cellGet_cellWrite_outside hset (.inl (Nat.lt_succ_self a)), cellGet_cellSet a h, if_pos rfl]
    exact congrArg₂ List.cons hfirst (cellRead_cellWrite hset)

/-- Settles O6, by what one byte that is set changes of what is read. -/
theorem payloadWritesAreRead : Obligations.PayloadWritesAreRead := by
  unfold Obligations.PayloadWritesAreRead
  exact fun _ _ _ h => ⟨cellWrite_wf h, cellRead_cellWrite h, fun _ => cellGet_cellWrite_outside h⟩

/-- A payload with a cell reads differently, at that cell's offset, from one whose cells lie above it. -/
theorem cellGet_first_ne {k : Nat} {v : Byte} {c d : List Host.Cell} (hv : v ≠ 0) (hd : cellsAbove (k + 1) d = true) :
    cellGet ((k, v) :: c) k ≠ cellGet d k := by
  rw [cellGet, if_pos rfl, cellGet_below (Nat.lt_succ_self k) hd]
  exact hv

/-- Cells in canonical form are determined by what is read of them. -/
theorem eq_of_cellGet_eq : ∀ {c d : List Host.Cell} {lo : Nat}, cellsAbove lo c = true → cellsAbove lo d = true →
    (∀ j, cellGet c j = cellGet d j) → c = d
  | [], [], _, _, _, _ => rfl
  | [], (k, v) :: d, _, _, hd, h => absurd (h k).symm (cellGet_first_ne (cellsAbove_cons.mp hd).2.1 rfl)
  | (k, v) :: c, [], _, hc, _, h => absurd (h k) (cellGet_first_ne (cellsAbove_cons.mp hc).2.1 rfl)
  | (k, v) :: c, (l, w) :: d, _, hc, hd, h => by
    obtain ⟨-, hv, hc⟩ := cellsAbove_cons.mp hc
    obtain ⟨-, hw, hd⟩ := cellsAbove_cons.mp hd
    rcases Nat.lt_trichotomy k l with hkl | rfl | hlk
    case inl => exact absurd (h k) (cellGet_first_ne hv (cellsAbove_cons.mpr ⟨hkl, hw, hd⟩))
    case inr.inl =>
      have hvw : v = w := by simpa [cellGet] using h k
      have htail (j : Nat) : cellGet c j = cellGet d j := by
        rcases Nat.lt_or_ge k j with hkj | hjk
        · simpa [cellGet, Nat.ne_of_gt hkj, Nat.not_lt.mpr hkj.le] using h j
        · rw [cellGet_below (Nat.lt_succ_of_le hjk) hc, cellGet_below (Nat.lt_succ_of_le hjk) hd]
      rw [hvw, eq_of_cellGet_eq hc hd htail]
    case inr.inr => exact absurd (h l).symm (cellGet_first_ne hw (cellsAbove_cons.mpr ⟨hlk, hv, hc⟩))

/-- Settles O7: the first cells lie at one offset with one value, and so on down the lists. -/
theorem payloadFormIsCanonical : Obligations.PayloadFormIsCanonical := by
  unfold Obligations.PayloadFormIsCanonical
  exact fun _ _ => eq_of_cellGet_eq

/-! ### Descriptors for handles that are not held here -/

section
variable {s : State} {id : Nat} {w : Work} {ok : Work → Bool} {f : State → Work → State} {g : Subject → State}

/-- A work that can run and looks up its subject first ends NOT_OWNER where the subject is not held here for its tenant (R58). -/
theorem act_runWork_absent (hrun : canRun s id w = true)
    (habs : heldFor (begun s w) w.hdr.keySlot (subjectOf w) = none) (hok : ok w = true)
    (hf : f (begun s w) w = withSubject (begun s w) w g) :
    act s (runWork id ok f) = .next (fail (begun s w) w.id stNotOwner) := by
  rw [act_fresh, run_begun hrun hok, hf, withSubject_absent habs]

/-- So does one that writes durable versions, below the durable-pending bound. -/
theorem act_durably_absent (hrun : canRun s id w = true) (hdd : ddFull (begun s w) = false)
    (habs : heldFor (begun s w) w.hdr.keySlot (subjectOf w) = none) (hok : ok w = true)
    (hf : f (begun s w) w = withSubject (begun s w) w g) :
    act s (runWork id ok (durably f)) = .next (fail (begun s w) w.id stNotOwner) :=
  act_runWork_absent hrun habs hok ((durably_run hdd).trans hf)

end

/-- Settles O15: the meaning of each of these opcodes and modes looks up its subject before anything else. -/
theorem unknownHandlesAreNotOwned : Obligations.UnknownHandlesAreNotOwned := by
  unfold Obligations.UnknownHandlesAreNotOwned
  intro s id w src bad hit hrun hdd habs
  refine ⟨fun h => ?park, fun h => ?reviveWorking, fun h => ?reviveFull, fun h => ?reviveHint, fun h => ?movePlace,
    fun h => ?moveView, fun h => ?moveUnview, fun h => ?moveAttach, fun h => ?handoverOffer, fun h => ?publishCreate,
    fun h => ?publishVersion, fun h => ?publishPrefix, fun h => ?ingestFile, fun h => ?ingestComplete,
    fun h => ?ingestRegister, fun h => ?ingestClear, fun h => ?draftConfigure, fun h => ?draftReset, fun h => ?draft,
    fun h => ?verifyCommit, fun h => ?appendTokens, fun h => ?setStops, fun h => ?setSampler, fun h => ?maskStep,
    fun h => ?maskTree, fun h => ?maskConfigure, fun h => ?maskClear, fun h => ?dumpTiles, fun h => ?dumpArm,
    fun h => ?dumpDisarm⟩
  case reviveWorking | reviveFull | reviveHint | movePlace | moveView | moveUnview | publishCreate | maskStep | maskTree |
      dumpTiles | dumpArm | dumpDisarm => exact act_runWork_absent hrun habs h rfl
  all_goals exact act_durably_absent hrun hdd habs h rfl

/-! ### Finding a tile after the tiles have changed -/

/-- A tile is found among the tiles alone. -/
theorem tileOf_of_tiles {s t : State} (h : t.tiles = s.tiles) (k m : Nat) : tileOf t k m = tileOf s k m := by
  simp only [tileOf, h]

/-- A tile that is found has the name that it was looked up by. -/
theorem name_of_tileOf {s : State} {h n : Nat} {t : Tile} (ht : tileOf s h n = some t) : t.handle = h ∧ t.number = n := by
  simpa using List.find?_some ht

/-- A tile that is put in place is found by its name. -/
theorem tileOf_putTile_same {s : State} {t : Tile} : tileOf (putTile s t) t.handle t.number = some t :=
  List.find?_cons_of_pos (by simp)

/-- Putting a tile in place leaves those of other names. -/
theorem tileOf_putTile_other {s : State} {t : Tile} {k m : Nat} (hne : (k, m) ≠ (t.handle, t.number)) :
    tileOf (putTile s t) k m = tileOf s k m := by
  have hname : ¬(t.handle = k ∧ t.number = m) := fun e => hne (by rw [e.1, e.2])
  unfold tileOf putTile
  rw [List.find?_cons_of_neg (by simpa using hname), List.find?_filter]
  congr 1
  funext x
  grind

/-- A change of a tile that keeps its name is a change of what is found by that name. -/
theorem tileOf_updTile {s : State} {h n : Nat} {f : Tile → Tile} (hf : ∀ t, (f t).handle = t.handle ∧ (f t).number = t.number)
    (k m : Nat) : tileOf (updTile s h n f) k m =
      (tileOf s k m).map fun t => if t.handle == h && t.number == n then f t else t := by
  unfold tileOf updTile updIf
  rw [List.find?_map]
  congr 2
  funext t
  simp only [Function.comp_apply]
  split
  · rw [(hf t).1, (hf t).2]
  · rfl

/-- The tile that is changed is found changed. -/
theorem tileOf_updTile_same {s : State} {h n : Nat} {f : Tile → Tile} {t : Tile}
    (hf : ∀ t, (f t).handle = t.handle ∧ (f t).number = t.number) (ht : tileOf s h n = some t) :
    tileOf (updTile s h n f) h n = some (f t) := by
  obtain ⟨hh, hn⟩ := name_of_tileOf ht
  simp [tileOf_updTile hf, ht, hh, hn]

/-- Tiles of other names are found as they were. -/
theorem tileOf_updTile_other {s : State} {h n k m : Nat} {f : Tile → Tile}
    (hf : ∀ t, (f t).handle = t.handle ∧ (f t).number = t.number) (hne : (k, m) ≠ (h, n)) :
    tileOf (updTile s h n f) k m = tileOf s k m := by
  rw [tileOf_updTile hf]
  cases ht : tileOf s k m with
  | none => rfl
  | some t =>
    obtain ⟨rfl, rfl⟩ := name_of_tileOf ht
    have hname : ¬(t.handle = h ∧ t.number = n) := fun e => hne (by rw [e.1, e.2])
    simp [hname]

/-- A change of a tile depends on the tiles alone. -/
theorem updTile_tiles_of_tiles {s t : State} {h n : Nat} {f : Tile → Tile} (e : t.tiles = s.tiles) :
    (updTile t h n f).tiles = (updTile s h n f).tiles := congrArg (updIf _ f) e

/-! ### Versions -/

/-- The next version of a tile number is above the floor of its tile, or of one that was never written. -/
theorem nextVersion_eq (s : State) (h n slot : Nat) :
    nextVersion s h n = max ((tileOf s h n).getD (blankTile h n slot)).floor (vfloorOf s h) + 1 := by
  unfold nextVersion
  cases tileOf s h n <;> rfl

/-- Assigning a version puts the tile, or one that was never written, in place with its floors raised. -/
theorem assignVersion_eq {s : State} {h n slot : Nat} {old : Tile} (hold : old = (tileOf s h n).getD (blankTile h n slot)) :
    assignVersion s h n slot = putTile s { old with
      floor := nextVersion s h n
      recFloor := if old.recFloor < nextVersion s h n then nextVersion s h n + 255 else old.recFloor } := by
  subst hold
  unfold assignVersion
  cases tileOf s h n <;> rfl

/-- The tile that a version is assigned to has the name asked for. -/
theorem name_of_getD_blankTile (s : State) (h n slot : Nat) :
    ((tileOf s h n).getD (blankTile h n slot)).handle = h ∧ ((tileOf s h n).getD (blankTile h n slot)).number = n := by
  cases ht : tileOf s h n with
  | none => exact ⟨rfl, rfl⟩
  | some t => exact name_of_tileOf ht

/-- Settles O16: the tile that is put in place has the new version as its floor, and a subject's VFLOOR stays. -/
theorem versionsAreFresh : Obligations.VersionsAreFresh := by
  unfold Obligations.VersionsAreFresh
  intro s t h n slot v old hold hv ht
  have hnext : nextVersion s h n = v := by rw [nextVersion_eq s h n slot, ← hold, hv]
  obtain ⟨hh, hn⟩ : old.handle = h ∧ old.number = n := hold ▸ name_of_getD_blankTile s h n slot
  rw [assignVersion_eq hold, hnext] at ht
  have htile : tileOf t h n = some { old with floor := v, recFloor := if old.recFloor < v then v + 255 else old.recFloor } := by
    subst ht hh hn
    exact tileOf_putTile_same
  refine ⟨hnext, ?again, htile, fun k m hne => ?others, ?frame⟩
  case again =>
    have hbase : vfloorOf t h = vfloorOf s h := by rw [ht]; rfl
    rw [nextVersion_eq t h n slot, htile, hbase, Option.getD_some]
    dsimp only
    omega
  case others =>
    rw [ht]
    exact tileOf_putTile_other (by rwa [hh, hn])
  case frame => rw [ht]; rfl

/-! ### What the record of a fault leaves alone -/

@[simp] theorem raiseAt_tiles (s : State) (p n : Nat) : (raiseAt s p n).tiles = s.tiles := by
  unfold raiseAt
  split <;> rfl

@[simp] theorem raiseVector_tiles (s : State) (n : Nat) : (raiseVector s n).tiles = s.tiles :=
  (raiseAt_tiles ..).trans (raiseAt_tiles ..)

@[simp] theorem raiseAt_subjects (s : State) (p n : Nat) : (raiseAt s p n).subjects = s.subjects := by
  unfold raiseAt
  split <;> rfl

@[simp] theorem raiseVector_subjects (s : State) (n : Nat) : (raiseVector s n).subjects = s.subjects :=
  (raiseAt_subjects ..).trans (raiseAt_subjects ..)

@[simp] theorem eventAt_tiles (s : State) (sev reason cls slot handle loc : Nat) (arg : List Nat) :
    (eventAt s sev reason cls slot handle loc arg).tiles = s.tiles := by
  unfold eventAt
  dsimp only
  split <;> split <;> simp

@[simp] theorem eventAt_subjects (s : State) (sev reason cls slot handle loc : Nat) (arg : List Nat) :
    (eventAt s sev reason cls slot handle loc arg).subjects = s.subjects := by
  unfold eventAt
  dsimp only
  split <;> split <;> simp

@[simp] theorem event_tiles (s : State) (reason cls slot handle loc : Nat) (arg : List Nat) :
    (event s reason cls slot handle loc arg).tiles = s.tiles := by
  unfold event
  dsimp only
  split <;> simp

@[simp] theorem event_subjects (s : State) (reason cls slot handle loc : Nat) (arg : List Nat) :
    (event s reason cls slot handle loc arg).subjects = s.subjects := by
  unfold event
  dsimp only
  split <;> simp

@[simp] theorem absentEvents_tiles (s : State) (layer : Nat) (l : List (Subject × Nat)) :
    (absentEvents s layer l).tiles = s.tiles := by
  unfold absentEvents
  induction l generalizing s with
  | nil => rfl
  | cons e l ih => exact (ih _).trans (event_tiles ..)

@[simp] theorem absentEvents_subjects (s : State) (layer : Nat) (l : List (Subject × Nat)) :
    (absentEvents s layer l).subjects = s.subjects := by
  unfold absentEvents
  induction l generalizing s with
  | nil => rfl
  | cons e l ih => exact (ih _).trans (event_subjects ..)

@[simp] theorem raiseClass_tiles (s : State) (c : Nat) : (raiseClass s c).tiles = s.tiles := by
  unfold raiseClass
  dsimp only
  split <;> rfl

@[simp] theorem setLast_tiles (s : State) (c loc ns : Nat) : (setLast s c loc ns).tiles = s.tiles := rfl

/-! ### A tile without a good copy -/

/-- Pages that become ABSENT change subjects only. -/
@[simp] theorem pagesAbsent_tiles (s : State) (t : Tile) : (pagesAbsent s t).tiles = s.tiles := by
  unfold pagesAbsent
  split <;> rfl

@[simp] theorem draftLost_tiles (s : State) (t : Tile) : (draftLost s t).tiles = s.tiles := updSubj_tiles ..

/-- A tile with no copy left of the mapped version, here or with another device. -/
def withoutMapped (t : Tile) : Tile :=
  { t with copies := t.copies.filter (fun c => c.version != t.version), lodged := none }

/-- A tile none of whose copies has the mapped version has no copy to drop. -/
theorem withoutMapped_of_none {t : Tile} (h : ∀ c ∈ t.copies, c.version ≠ t.version) :
    withoutMapped t = { t with lodged := none } := by
  have hkept : t.copies.filter (fun c => c.version != t.version) = t.copies :=
    List.filter_eq_self.mpr fun c hc => bne_iff_ne.mpr (h c hc)
  rw [withoutMapped, hkept]

/-- Of the tiles, losing one changes that one only, whatever becomes of its subject and pages (R80). -/
theorem tileLost_tiles {s : State} {h n : Nat} {t : Tile} (ht : tileOf s h n = some t) :
    (tileLost s h n).tiles = (updTile s h n withoutMapped).tiles := by
  unfold tileLost
  simp only [ht]
  split
  case isTrue => exact (absentEvents_tiles ..).trans ((event_tiles ..).trans (pagesAbsent_tiles ..))
  case isFalse =>
    split
    case isTrue => exact (event_tiles ..).trans (draftLost_tiles ..)
    case isFalse =>
      split
      case isTrue => exact (event_tiles ..).trans (pagesAbsent_tiles ..)
      case isFalse => exact (absentEvents_tiles ..).trans (pagesAbsent_tiles ..)

/-- Losing a durable tile damages its subject, before its pages become ABSENT (R80). -/
theorem tileLost_durable_subjects {s : State} {h n : Nat} {t : Tile} (ht : tileOf s h n = some t) (hd : t.durable = true) :
    (tileLost s h n).subjects = (pagesAbsent (updSubj (updTile s h n withoutMapped) h damage) t).subjects := by
  unfold tileLost
  simp only [ht, hd, if_true]
  exact (absentEvents_subjects ..).trans (event_subjects ..)

/-- A change of all subjects that leaves their names is a change of what is found by a name. -/
theorem subjAny_of_map {s u : State} {g : Subject → Subject} (hu : u.subjects = s.subjects.map g)
    (hg : ∀ x, (g x).handle = x.handle) (h : Nat) : subjAny u h = (subjAny s h).map g := by
  unfold subjAny
  rw [hu, List.find?_map]
  congr 2
  funext x
  exact congrArg (· == h) (hg x)

/-- What a subject becomes where pages of a tile become ABSENT: its owner, a session that may reference it, or another subject (R80, R127). -/
def absentFor (t : Tile) (ps : List Nat) (y : Subject) : Subject :=
  if y.handle = t.handle then setMap y t.layer (absentIn (mapOf y t.layer) none ps)
  else if y.kind = .session then setMap y t.layer (absentIn (mapOf y t.layer) (some t.handle) ps)
  else y

/-- Only its maps change. -/
theorem absentFor_keeps (t : Tile) (ps : List Nat) (y : Subject) : (absentFor t ps y).handle = y.handle ∧
    (absentFor t ps y).state = y.state ∧ (absentFor t ps y).prior = y.prior := by
  unfold absentFor
  split
  · exact ⟨rfl, rfl, rfl⟩
  · split <;> exact ⟨rfl, rfl, rfl⟩

/-- Pages that become ABSENT leave a subject's state. -/
theorem subjAny_pagesAbsent {s : State} {t : Tile} {h : Nat} {x : Subject} (hx : subjAny (pagesAbsent s t) h = some x) :
    ∃ y, subjAny s h = some y ∧ x.state = y.state ∧ x.prior = y.prior := by
  cases howner : subjAny s t.handle with
  | none =>
    have hsame : pagesAbsent s t = s := by simp only [pagesAbsent, howner]
    exact ⟨x, hsame ▸ hx, rfl, rfl⟩
  | some o =>
    have hmap : (pagesAbsent s t).subjects = s.subjects.map (absentFor t (dependentPages o t)) := by
      simp only [pagesAbsent, howner]
      rfl
    rw [subjAny_of_map hmap fun y => (absentFor_keeps t _ y).1] at hx
    obtain ⟨y, hy, rfl⟩ := Option.map_eq_some_iff.mp hx
    exact ⟨y, hy, (absentFor_keeps t _ y).2⟩

/-- A damaged subject is DAMAGED, or goes on closing and would return to it (R80, R85). -/
theorem damage_state (x : Subject) : (damage x).state = 5 ∨ (damage x).state = 4 ∧ (damage x).prior = 5 := by
  unfold damage
  split
  case isTrue h => exact .inr ⟨h, rfl⟩
  case isFalse => exact .inl rfl

theorem damage_handle (x : Subject) : (damage x).handle = x.handle := by
  unfold damage
  split <;> rfl

/-- A subject that is found after it was damaged is a damaged one. -/
theorem subjAny_updSubj_damage {s : State} {h : Nat} {x : Subject} (hx : subjAny (updSubj s h damage) h = some x) :
    ∃ y, x = damage y := by
  have hname (y : Subject) : (if y.handle == h then damage y else y).handle = y.handle := by
    split
    · exact damage_handle y
    · rfl
  rw [subjAny_of_map (u := updSubj s h damage) rfl hname] at hx
  obtain ⟨y, hy, rfl⟩ := Option.map_eq_some_iff.mp hx
  exact ⟨y, if_pos (List.find?_some hy)⟩

/-- After a durable tile is lost its subject is DAMAGED, or would be where its closing does not succeed (R80, R85). -/
theorem tileLost_damages {s : State} {h n : Nat} {t : Tile} (ht : tileOf s h n = some t) (hd : t.durable = true)
    {x : Subject} (hx : subjAny (tileLost s h n) h = some x) : x.state = 5 ∨ x.state = 4 ∧ x.prior = 5 := by
  unfold subjAny at hx
  rw [tileLost_durable_subjects ht hd] at hx
  obtain ⟨y, hy, hstate, hprior⟩ := subjAny_pagesAbsent hx
  obtain ⟨z, rfl⟩ := subjAny_updSubj_damage hy
  rw [hstate, hprior]
  exact damage_state z

/-! ### A copy that fails its check -/

/-- A state in which the failure of a copy in a place of a tier is counted and flagged (R448, R556). -/
def copyFlagged (s : State) (tier place : Nat) : State :=
  setLast (raiseClass (regAdd s .fltCsumCntCount tier 1 64) 1) 1 (placeLoc tier place) 0

/-- Flagging a failed copy changes registers only. -/
@[simp] theorem copyFlagged_tiles (s : State) (tier place : Nat) : (copyFlagged s tier place).tiles = s.tiles := by
  simp [copyFlagged]

/-- A tile with the given copies. -/
def withCopies (l : List TileCopy) (t : Tile) : Tile := { t with copies := l }

theorem withCopies_name (l : List TileCopy) (t : Tile) :
    (withCopies l t).handle = t.handle ∧ (withCopies l t).number = t.number := ⟨rfl, rfl⟩

theorem withoutMapped_name (t : Tile) : (withoutMapped t).handle = t.handle ∧ (withoutMapped t).number = t.number := ⟨rfl, rfl⟩

/-- The tile of a failed copy, once that is flagged and the tile has the given copies. -/
theorem tileOf_flagged_withCopies {s : State} {h n tier place : Nat} {t : Tile} (ht : tileOf s h n = some t)
    (l : List TileCopy) : tileOf (updTile (copyFlagged s tier place) h n (withCopies l)) h n = some (withCopies l t) :=
  tileOf_updTile_same (withCopies_name l) ((tileOf_of_tiles (copyFlagged_tiles s tier place) h n).trans ht)

section
variable {s : State} {h n tier place : Nat} {t : Tile} {c : TileCopy}
  (ht : tileOf s h n = some t) (hc : c = { tier := tier, place := place, version := t.version }) (hmem : c ∈ t.copies)
include ht hc hmem

/-- With a twin in its tier the failed copy is written again (R80). -/
theorem copyDropped_twin (htwin : ∃ d ∈ t.copies, d ≠ c ∧ d.tier = tier ∧ d.version = t.version) :
    (copyDropped s h n tier place).tiles = (updTile s h n (withCopies (c :: t.copies.filter (· ≠ c)))).tiles := by
  have htwin' : ((t.copies.filter (· ≠ c)).any fun d => d.tier == tier && d.version == t.version) = true := by
    simpa [and_assoc] using htwin
  subst hc
  unfold copyDropped
  simp only [ht, if_pos hmem, htwin', if_true]
  exact (event_tiles ..).trans (updTile_tiles_of_tiles (copyFlagged_tiles s tier place))

/-- Without one, but with another copy of the version, it is dropped (R80). -/
theorem copyDropped_lower (htwin : ∀ d ∈ t.copies, d ≠ c → d.tier = tier → d.version ≠ t.version)
    (hleft : ∃ d ∈ t.copies, d ≠ c ∧ d.version = t.version) :
    (copyDropped s h n tier place).tiles = (updTile s h n (withCopies (t.copies.filter (· ≠ c)))).tiles := by
  have htwin' : ((t.copies.filter (· ≠ c)).any fun d => d.tier == tier && d.version == t.version) = false := by
    simpa using htwin
  have hleft' : ((t.copies.filter (· ≠ c)).any fun d => d.version == t.version) = true := by
    simpa [and_assoc] using hleft
  subst hc
  unfold copyDropped
  simp only [ht, if_pos hmem, htwin', hleft', if_true, Bool.false_eq_true, if_false]
  split
  case isTrue => exact (event_tiles ..).trans (updTile_tiles_of_tiles (copyFlagged_tiles s tier place))
  case isFalse => exact updTile_tiles_of_tiles (copyFlagged_tiles s tier place)

/-- With no copy of the version left it is dropped, and the tile is lost (R80). -/
theorem copyDropped_lost (hnone : ∀ d ∈ t.copies, d ≠ c → d.version ≠ t.version) :
    copyDropped s h n tier place =
      tileLost (updTile (copyFlagged s tier place) h n (withCopies (t.copies.filter (· ≠ c)))) h n := by
  have htwin' : ((t.copies.filter (· ≠ c)).any fun d => d.tier == tier && d.version == t.version) = false := by
    simpa using fun d hd hne _ => hnone d hd hne
  have hleft' : ((t.copies.filter (· ≠ c)).any fun d => d.version == t.version) = false := by
    simpa using hnone
  subst hc
  unfold copyDropped
  simp only [ht, if_pos hmem, htwin', hleft', Bool.false_eq_true, if_false]
  rfl

/-- Of the tiles, the failure changes the one of that name only, which is a case of what is left of its copies. -/
theorem copyDropped_other {k m : Nat} (hne : (k, m) ≠ (h, n)) : tileOf (copyDropped s h n tier place) k m = tileOf s k m := by
  have hchanged (l : List TileCopy) : tileOf (updTile s h n (withCopies l)) k m = tileOf s k m :=
    tileOf_updTile_other (withCopies_name l) hne
  by_cases htwin : ∃ d ∈ t.copies, d ≠ c ∧ d.tier = tier ∧ d.version = t.version
  case pos => exact (tileOf_of_tiles (copyDropped_twin ht hc hmem htwin) k m).trans (hchanged _)
  case neg =>
    by_cases hleft : ∃ d ∈ t.copies, d ≠ c ∧ d.version = t.version
    case pos =>
      have htwin' : ∀ d ∈ t.copies, d ≠ c → d.tier = tier → d.version ≠ t.version :=
        fun d hd hdc hdt hdv => htwin ⟨d, hd, hdc, hdt, hdv⟩
      exact (tileOf_of_tiles (copyDropped_lower ht hc hmem htwin' hleft) k m).trans (hchanged _)
    case neg =>
      have hnone : ∀ d ∈ t.copies, d ≠ c → d.version ≠ t.version := fun d hd hdc hdv => hleft ⟨d, hd, hdc, hdv⟩
      rw [copyDropped_lost ht hc hmem hnone, tileOf_of_tiles (tileLost_tiles (tileOf_flagged_withCopies ht _)),
        tileOf_updTile_other withoutMapped_name hne, tileOf_updTile_other (withCopies_name _) hne,
        tileOf_of_tiles (copyFlagged_tiles s tier place)]

/-- The tile of a failed copy with no copy of the version left keeps its other copies, and is lodged with no other device. -/
theorem tileOf_copyDropped_lost (hnone : ∀ d ∈ t.copies, d ≠ c → d.version ≠ t.version) :
    tileOf (copyDropped s h n tier place) h n = some { t with copies := t.copies.filter (· ≠ c), lodged := none } := by
  have hlost := tileOf_flagged_withCopies (tier := tier) (place := place) ht (t.copies.filter (· ≠ c))
  have hothers : ∀ d ∈ (withCopies (t.copies.filter (· ≠ c)) t).copies, d.version ≠ t.version := fun d hd =>
    hnone d (List.mem_filter.mp hd).1 (of_decide_eq_true (List.mem_filter.mp hd).2)
  rw [copyDropped_lost ht hc hmem hnone, tileOf_of_tiles (tileLost_tiles hlost),
    tileOf_updTile_same withoutMapped_name hlost, withoutMapped_of_none hothers]
  rfl

/-- The place of a failed copy is judged after its tile (R447). -/
theorem copyFailed_eq : copyFailed s h n tier place = placeFailed (copyDropped s h n tier place)
    (t.copies.any fun d => d.tier == tier && d.version == t.version && d.place != place) t tier place := by
  subst hc
  unfold copyFailed
  simp only [ht, if_pos hmem]

end

/-- Settles O17, by what is left of the tile's copies: a twin, a copy elsewhere, or none. -/
theorem failedCopiesAreDropped : Obligations.FailedCopiesAreDropped := by
  unfold Obligations.FailedCopiesAreDropped
  intro s u h n tier place t c ht hc hmem hu
  subst hu
  refine ⟨fun k m hne => copyDropped_other ht hc hmem hne, fun htwin => ?twin, fun htwin hleft => ?lower,
    fun hnone => ⟨tileOf_copyDropped_lost ht hc hmem hnone, fun hd x hx => ?damaged⟩, copyFailed_eq ht hc hmem,
    fun hflash => ?flash⟩
  case twin =>
    rw [tileOf_of_tiles (copyDropped_twin ht hc hmem htwin)]
    exact tileOf_updTile_same (withCopies_name _) ht
  case lower =>
    rw [tileOf_of_tiles (copyDropped_lower ht hc hmem htwin hleft)]
    exact tileOf_updTile_same (withCopies_name _) ht
  case damaged =>
    rw [copyDropped_lost ht hc hmem hnone] at hx
    exact tileLost_damages (tileOf_flagged_withCopies ht (t.copies.filter (· ≠ c))) hd hx
  case flash =>
    rw [copyFailed_eq ht hc hmem, hflash]
    rfl

end Sys2Proof.Laws
end

section
/-! The statements about accesses of hosts and peers: which checks an access passes, and what the tile that its frame shows makes of it. -/

namespace Sys2Proof.Laws

open Sys2Proof Sys2Proof.Machine Sys2Proof.Safety

variable {s : State}

/-! ### The checks on the host -/

/-- Host `h` behind `pbr` may reach the line at `off` of the State Range, which it names `addr`: its port serves, it is not suspended, its
decoder covers the address, and an extent of it covers a window that exists and that asks for no TE state (R300, R303, R306, R310, R311). -/
structure HostReaches (s : State) (pbr addr h off : Nat) : Prop where
  host : hostOf s pbr = some h
  port : portServes s (regGet s .cxlHostMapPort h) = true
  active : suspended s h = false
  decoder : ∃ base, aget s.cxl.hdm h = some base ∧ base ≤ addr ∧ (addr - base) / 64 * 64 = off
  window : windowExists s (off / 2 ^ 30) = true
  extent : extentCovers s h (off / 2 ^ 30) = true
  anyTe : (h, off / 2 ^ 30) ∉ s.cxl.te

/-- A load of a host at an offset of the State Range. -/
def lineLoad (h off : Nat) : Access := { host := h, peer := false, off := off, len := 64, write := none, tainted := false, got := [] }

/-- The same access as a store of what a host brings. -/
def storing (a : Access) (b : Fetch) : Access := { a with write := some (lineOf b).1, tainted := (lineOf b).2 }

/-- A request that passes every check on its host is routed by what its frame shows. -/
theorem hostAccess_reaches {pbr addr h off : Nat} {te tainted : Bool} {body : Option (List Byte)} (hh : HostReaches s pbr addr h off) :
    hostAccess s pbr addr te body tainted = routeAccess s { lineLoad h off with write := body, tainted := tainted } := by
  obtain ⟨hhost, hport, hactive, ⟨base, hbase, habove, rfl⟩, hwindow, hextent, hte⟩ := hh
  simp [-Nat.reducePow, hostAccess, lineLoad, hhost, hport, hactive, hbase, Nat.not_lt.mpr habove, hwindow, hextent, hte]

/-- A running device serves hosts and peers (R512). -/
theorem act_whenServing {body : Option (List Byte)} {f : State → State} {t : State} (hr : running s = true) (e : f (fresh s) = t) :
    act s (whenServing body f) = .next t := by
  rw [act_fresh, whenServing, if_pos ((running_fresh s).trans hr), e]

section
variable {pbr addr h off : Nat} {te : Bool} {b : Fetch} (hr : running s = true) (hh : HostReaches (fresh s) pbr addr h off)
include hr hh

theorem exec_hostLoad_reaches : exec (.hostLoad pbr addr te) s = .next (routeAccess (fresh s) (lineLoad h off)) :=
  act_whenServing hr (hostAccess_reaches hh)

theorem exec_hostStore_reaches : exec (.hostStore pbr addr te b) s = .next (routeAccess (fresh s) (storing (lineLoad h off) b)) :=
  match b with
  | .data _ => act_whenServing hr (hostAccess_reaches hh)
  | .poison => act_whenServing hr (hostAccess_reaches hh)

/-- Loads and stores of a line meet the same end where every access of its span, for which nothing has come to the port yet, meets it. -/
theorem exec_hostLoad_hostStore {g : Access → State}
    (hg : ∀ a : Access, a.off = off → a.len = 64 → a.got = [] → routeAccess (fresh s) a = g a) :
    exec (.hostLoad pbr addr te) s = .next (g (lineLoad h off)) ∧
      exec (.hostStore pbr addr te b) s = .next (g (storing (lineLoad h off) b)) :=
  ⟨(exec_hostLoad_reaches hr hh).trans (congrArg _ (hg _ rfl rfl rfl)),
    (exec_hostStore_reaches hr hh).trans (congrArg _ (hg _ rfl rfl rfl))⟩

end

/-! ### Routing by what the frame shows -/

/-- Reading a tile under its tenant's key changes nothing (R67). -/
theorem keyChecked_readable {k n : Nat} {t : Tile} (ht : tileOf s k n = some t) (hread : readable s t = true) : keyChecked s k n = s := by
  have hkey : keyOf s t.keySlot = t.key := beq_iff_eq.mp (Bool.and_eq_true_iff.mp hread).2
  simp [keyChecked, ht, hkey]

/-- Key slot and handle of the subject whose window shows a frame, as an event names them (R58). -/
def shownFor (s : State) (f : Nat) : Nat × Nat :=
  ((bindingOf s (f / 2 ^ 30)).bind fun b => subjAny s (boundTo b)).elim (0xFFFF, 0) fun x => (x.keySlot, x.handle)

/-- No subject is named where no window is bound. -/
theorem shownFor_unbound {f : Nat} (hb : bindingOf s (f / 2 ^ 30) = none) : shownFor s f = (0xFFFF, 0) := by
  rw [shownFor, hb]
  rfl

/-- The region that a window shows is named. -/
theorem shownFor_region {f k place : Nat} {x : Subject} (hb : bindingOf s (f / 2 ^ 30) = some (.region k place)) (hx : subjAny s k = some x) :
    shownFor s f = (x.keySlot, x.handle) := by
  have hx' : subjAny s (boundTo (.region k place)) = some x := hx
  rw [shownFor, hb, Option.bind_some, hx']
  rfl

/-- What is bound shows its subject read-only (R92). -/
def isView : Option Binding → Bool
  | some (.view _ _) => true
  | _ => false

/-- A region is shown by a window that is no VIEW. -/
theorem isView_region {w k place : Nat} (hb : bindingOf s w = some (.region k place)) : isView (bindingOf s w) = false := by
  rw [hb]
  rfl

theorem isView_unbound {w : Nat} (hb : bindingOf s w = none) : isView (bindingOf s w) = false := by
  rw [hb]
  rfl

/-- R92 refuses neither a load nor an access where no VIEW is bound. -/
theorem not_storing_view {a : Access} {b : Option Binding} (h : a.write = none ∨ isView b = false) :
    ¬(a.write.isSome = true ∧ isView b = true) := by
  obtain h | h := h <;> simp [h]

/-- What becomes of an access to a readable tile with a version: refused where no copy is to be had, served, or waiting (R93, R94). -/
def routeTile (s : State) (a : Access) (f : Nat) (t : Tile) : State :=
  if t.lodged.isSome ∨ masterTier t = 4 then refuseMedia s a 0x0303 t.keySlot t.handle [t.handle, t.number]
  else if masterTier t = 0 then refuseMedia s a (lostReason t) t.keySlot t.handle [t.layer, t.number]
  else if servable a t then serveAccess s a [(f, t)]
  else waitAccess (promote s t) a

section
variable {a : Access} {f : Nat} (hf : spanFrames a.off a.len = [f])
  (hview : a.write = none ∨ isView (bindingOf s (f / 2 ^ 30)) = false)
include hf hview

/-- An access to one frame that shows no written tile is refused as UNBACKED (R93). -/
theorem routeAccess_unbacked (ht : ((tileAt s f).bind fun q => tileOf s q.1 q.2).all (fun t => t.version == 0) = true) :
    routeAccess s a = refuseMedia s a 0x0301 (shownFor s f).1 (shownFor s f).2 [a.off] := by
  unfold routeAccess
  simp only [hf, List.map_cons, List.map_nil, List.any_cons, List.any_nil, Bool.or_false, List.find?_cons, ht]
  refine (if_neg (not_storing_view hview)).trans ?_
  simp [-Nat.reducePow, shownFor]

/-- An access to one frame goes by the tile that it shows. -/
theorem routeAccess_tile {k n : Nat} {t : Tile} (hat : tileAt s f = some (k, n)) (ht : tileOf s k n = some t) (hv : t.version ≠ 0)
    (hread : readable s t = true) : routeAccess s a = routeTile s a f t := by
  have hslot : slotActive s t.keySlot = true := (Bool.and_eq_true_iff.mp hread).1
  have hchecked : framesChecked s a.off a.len = s := by simp [framesChecked, hf, hat, keyChecked_readable ht hread]
  obtain ⟨rfl, rfl⟩ := name_of_tileOf ht
  unfold routeAccess routeTile
  simp only [hf, List.map_cons, List.map_nil, List.any_cons, List.any_nil, Bool.or_false, List.find?_singleton, hat, Option.bind_some, ht,
    Option.all_some, beq_eq_false_iff_ne.mpr hv, List.filterMap_cons, id, List.filterMap_nil, hslot, Bool.not_true, hchecked]
  refine (if_neg (not_storing_view hview)).trans ?_
  by_cases haway : t.lodged.isSome = true ∨ masterTier t = 4
  case pos => simp [haway]
  case neg =>
    obtain ⟨hhere, hstored⟩ := not_or.mp haway
    by_cases hlost : masterTier t = 0
    case pos => simp [hhere, hlost]
    case neg => cases servable a t <;> simp [hhere, hstored, hlost]

end

/-! ### The tile of a frame -/

section
variable {a : Access} {f : Nat} {t : Tile}

/-- A tile at a holder, or in T4 only, is NOT_RESIDENT (R93). -/
theorem routeTile_away (haway : t.lodged.isSome = true ∨ masterTier t = 4) :
    routeTile s a f t = refuseMedia s a 0x0303 t.keySlot t.handle [t.handle, t.number] := if_pos haway

section
variable (hhere : t.lodged = none)
include hhere

/-- A tile without a copy is lost (R80, R93). -/
theorem routeTile_lost (hlost : masterTier t = 0) :
    routeTile s a f t = refuseMedia s a (lostReason t) t.keySlot t.handle [t.layer, t.number] := by
  simp [routeTile, hhere, hlost]

/-- A verified tile in T1 is served (R94). -/
theorem routeTile_verified (hm : masterTier t = 1) (hver : t.verified = true) : routeTile s a f t = serveAccess s a [(f, t)] := by
  simp [routeTile, servable, hhere, hm, hver]

/-- A tile below T1, or in T1 and not verified, makes an access wait that no copy has come to the port for (R93, R94). -/
theorem routeTile_waits (hlow : masterTier t = 2 ∨ masterTier t = 3 ∨ masterTier t = 1 ∧ t.verified = false) (hgot : a.got = []) :
    routeTile s a f t = waitAccess (promote s t) a := by
  obtain hm | hm | ⟨hm, hver⟩ := hlow
  · simp [routeTile, servable, hhere, hm, hgot]
  · simp [routeTile, servable, hhere, hm, hgot]
  · simp [routeTile, servable, hhere, hm, hver, hgot]

end

end

/-- Settles O32: each command's checks pass, so it is its effect; a verified T1 tile is served where it is routed to. -/
theorem hostAccessCommandsComplete : Obligations.HostAccessCommandsComplete := by
  unfold Obligations.HostAccessCommandsComplete
  refine ⟨fun s pbr addr h base f k n te t hr hhost hport hact hbase habove hwin hext hte hf hat ht hv hread hhere hm hver => ?load,
    fun s pbr addr h base f k n te t b place hr hhost hport hact hbase habove hwin hext hte hf hb hat ht hv hread hhere hm hver => ?store,
    fun s pbr off len h write hr hlo hhi hpair => ?peer, fun s u handle number hr hin hu => ?promoted,
    fun s host line hr hin => ?response, fun s host hr hany => ?timeout, fun s path h hr hentry => ?resume⟩
  case load =>
    rw [exec_hostLoad_reaches hr ⟨hhost, hport, hact, ⟨base, hbase, habove, rfl⟩, hwin, hext, hte⟩,
      routeAccess_tile hf (.inl rfl) hat ht hv hread, routeTile_verified hhere hm hver]
    rfl
  case store =>
    rw [exec_hostStore_reaches hr ⟨hhost, hport, hact, ⟨base, hbase, habove, rfl⟩, hwin, hext, hte⟩,
      routeAccess_tile hf (.inr (isView_region hb)) hat ht hv hread, routeTile_verified hhere hm hver]
    rfl
  case peer =>
    have hlen : ¬(len = 0 ∨ 512 < len) := by omega
    exact act_whenServing hr ((if_neg hlen).trans (by rw [hpair]))
  case promoted =>
    subst hu
    exact act_whenRunning hr (if_neg (not_not.mpr hin))
  case response => exact act_whenRunning hr (if_pos hin)
  case timeout => exact act_whenRunning hr (if_pos hany)
  case resume => exact act_whenRunning hr (by rw [hentry])

/-- Settles O50, by what the frame shows: no written tile, or a tile that is elsewhere, lost, or not yet to be served. -/
theorem hostAccessesMeetTheTile : Obligations.HostAccessesMeetTheTile := by
  unfold Obligations.HostAccessesMeetTheTile
  rintro s pbr addr h base f k n te t b _ _ hr hhost hport hact hbase habove hwin hext hte hf rfl rfl
  have hh : HostReaches (fresh s) pbr addr h ((addr - base) / 64 * 64) :=
    ⟨hhost, hport, hact, ⟨base, hbase, habove, rfl⟩, hwin, hext, hte⟩
  have hspan (a : Access) (ho : a.off = (addr - base) / 64 * 64) (hl : a.len = 64) : spanFrames a.off a.len = [f] := by rw [ho, hl, hf]
  refine ⟨fun hb hat => ?unbound, fun x place hb hx hno => ?unwritten, fun place hb hat ht hv hread => ?tile⟩
  case unbound =>
    refine exec_hostLoad_hostStore hr hh (g := fun a => refuseMedia (fresh s) a 0x0301 0xFFFF 0 [a.off]) fun a ho hl _ => ?_
    have hnone : ((tileAt (fresh s) f).bind fun q => tileOf (fresh s) q.1 q.2).all (fun t => t.version == 0) = true := by rw [hat]; rfl
    rw [routeAccess_unbacked (hspan a ho hl) (.inr (isView_unbound hb)) hnone, shownFor_unbound hb]
  case unwritten =>
    refine exec_hostLoad_hostStore hr hh (g := fun a => refuseMedia (fresh s) a 0x0301 x.keySlot x.handle [a.off]) fun a ho hl _ => ?_
    rw [routeAccess_unbacked (hspan a ho hl) (.inr (isView_region hb)) hno, shownFor_region hb hx]
  case tile =>
    obtain ⟨rfl, rfl⟩ := name_of_tileOf ht
    have hroute (a : Access) (ho : a.off = (addr - base) / 64 * 64) (hl : a.len = 64) :
        routeAccess (fresh s) a = routeTile (fresh s) a f t :=
      routeAccess_tile (hspan a ho hl) (.inr (isView_region hb)) hat ht hv hread
    refine ⟨fun haway => ?away, fun hhere hlost => ?lost, fun hhere hlow => ?waits⟩
    case away =>
      exact exec_hostLoad_hostStore hr hh (g := fun a => refuseMedia (fresh s) a 0x0303 t.keySlot t.handle [t.handle, t.number])
        fun a ho hl _ => (hroute a ho hl).trans (routeTile_away haway)
    case lost =>
      exact exec_hostLoad_hostStore hr hh (g := fun a => refuseMedia (fresh s) a (lostReason t) t.keySlot t.handle [t.layer, t.number])
        fun a ho hl _ => (hroute a ho hl).trans (routeTile_lost hhere hlost)
    case waits =>
      exact exec_hostLoad_hostStore hr hh (g := waitAccess (promote (fresh s) t))
        fun a ho hl hgot => (hroute a ho hl).trans (routeTile_waits hhere hlow hgot)

end Sys2Proof.Laws
end

section
/-! The statement about directory, write-back, spill, prefetch and T3 commands: where its checks pass, each is its own effect. -/

namespace Sys2Proof.Laws

open Sys2Proof Sys2Proof.Machine Sys2Proof.Safety

variable {s : State}

/-- A T3 command acts on the range that its path selects. -/
theorem withRange_selected {path : Path} {r : Nat} {f : State → Nat → State} (h : entryOf s path .stoT3CtrlValid 0 = some r) :
    withRange path f s = f s r := by
  rw [withRange, h]

/-- A T3 command whose guard holds of the selected range is, on a running device, its effect on that range. -/
theorem act_onRange {path : Path} {r : Nat} {p : State → Nat → Prop} [DecidableRel p] {f : State → Nat → State}
    (hr : running s = true) (hsel : entryOf (fresh s) path .stoT3CtrlValid 0 = some r) (hp : p (fresh s) r) :
    act s (whenRunning (withRange path fun s r => if p s r then f s r else s)) = .next (f (fresh s) r) :=
  act_whenRunning hr ((withRange_selected hsel).trans (if_pos hp))

/-- A tile that lies here and is readable may be served. -/
theorem not_lodged_or_unreadable {t : Tile} (hhere : t.lodged = none) (hread : readable s t = true) :
    ¬(t.lodged.isSome = true ∨ (!readable s t) = true) := by
  simp [hhere, hread]

/-- A demand has its turn, and so does an item with none ahead of it or whose class is due its eighth (R108, R110). -/
theorem not_behind_items {source : Nat} {m : Nat × Nat} (h : source = 1 ∨ itemsAhead s source m = false ∨ eighth s m source = true) :
    ¬(source ≠ 1 ∧ itemsAhead s source m = true ∧ eighth s m source = false) := by
  rintro ⟨hsource, hahead, heighth⟩
  simp [hsource, hahead, heighth] at h

/-- Settles O31: each command's checks pass, so it is its effect; the T3 commands share the choice of their range. -/
theorem directoryAndStoreCommandsComplete : Obligations.DirectoryAndStoreCommandsComplete := by
  unfold Obligations.DirectoryAndStoreCommandsComplete
  refine ⟨fun s bucket hr hlt hnot => ?rebuild, fun s bucket hr hin => ?rebuildDone, fun s t hr hnext hflash hscrub => ?writeback,
    fun s u handle number e t hr he hu ht => ?writebackDone, fun s tier scope hr hscope habove hnot => ?spill,
    fun s r handle number t u hr hends ht hdrains hnext hh hn hturn => ?spillDone,
    fun s source handle number t hr hin ht hhere hread hturn => ?prefetch, fun s path r hr hsel hp => ?grant,
    fun s path r hr hsel hp => ?withdraw, fun s path r hr hsel hp => ?drain, fun s path r hr hsel hp => ?compute,
    fun s range hr hlt hvalid hstate => ?lost⟩
  case rebuild => exact act_whenRunning hr (if_pos ⟨hlt, hnot⟩)
  case rebuildDone => exact act_whenRunning hr (if_pos hin)
  case writeback =>
    have htakes : ¬(reg (fresh s) .durFlashState = 3 ∨ scrubFirst (fresh s) = true) := by simp [hflash, hscrub]
    refine act_whenRunning hr ?_
    simp only [hnext]
    exact if_neg htakes
  case writebackDone =>
    subst hu
    refine act_whenRunning hr ?_
    simp only [fresh_dur, he, ht, Option.elim_some]
  case spill => exact act_whenRunning hr (if_pos (by simp [hscope, habove, hnot]))
  case spillDone =>
    subst hends
    refine act_whenRunning hr ?_
    simp only [ht, hdrains, hnext]
    exact (if_neg Bool.false_ne_true).trans (if_pos ⟨hh, hn, hturn⟩)
  case prefetch =>
    refine act_whenRunning hr ((if_pos hin).trans ?_)
    simp only [ht]
    exact (if_neg (not_lodged_or_unreadable hhere hread)).trans (if_neg (not_behind_items hturn))
  case grant | withdraw | drain | compute => exact act_onRange hr hsel hp
  case lost => exact act_whenRunning hr (if_pos ⟨hlt, hvalid, hstate⟩)

end Sys2Proof.Laws
end

section
/-! The statement about KV_INGEST and FAR_ATTN: where its checks pass, each descriptor is its own effect. -/

namespace Sys2Proof.Laws

open Sys2Proof Sys2Proof.Machine Sys2Proof.Safety

/-! ### Descriptors that can run -/

section
variable {s t : State} {id : Nat} {w : Work} {ok : Work → Bool} {f : State → Work → State}

/-- A command for a work that can run answers with the work's effect. -/
theorem act_runWork (hrun : canRun s id w = true) (hok : ok w = true) (e : f (begun s w) w = t) :
    act s (runWork id ok f) = .next t := by
  rw [act_fresh, run_begun hrun hok, e]

/-- So does one for a work that writes durable versions, below the durable-pending bound (R421). -/
theorem act_durably (hrun : canRun s id w = true) (hok : ok w = true) (hdd : ddFull (begun s w) = false)
    (e : f (begun s w) w = t) : act s (runWork id ok (durably f)) = .next t :=
  act_runWork hrun hok ((durably_run hdd).trans e)

end

section
variable {s : State} {w : Work} {x : Subject}

/-- REGISTER and CLEAR reach their effect once no other work is about to change the registered positions (R185). -/
theorem globalsFree_checked {l : List Chk} {g : State → State} (hfree : globalsBusy s w x.handle = false)
    (hchks : passes l = true) : (if globalsBusy s w x.handle then s else checked s w l g) = g s :=
  (if_neg (Bool.eq_false_iff.mp hfree)).trans (checked_pass hchks)

/-- FAR_ATTN of a session of its tenant runs its layers, with its ready words watched, where its checks pass (R188, R197). -/
theorem runFar_passes {queries : List Fetch} {bad : List (Nat × Nat)} (hx : subjAny s (subjectOf w) = some x)
    (hslot : x.keySlot = w.hdr.keySlot) (hchks : passes (farRunChks s w x) = true) :
    runFar queries bad s w = runLayers (farLayers w) (tidyReady s) w.id queries bad := by
  simp only [runFar, hx, Option.bind_some, if_pos hslot]
  exact checked_pass hchks

end

/-- Settles O33: the session is found and the checks pass, so each descriptor is its effect; REGISTER and CLEAR also find no
other change of the registered positions under way. -/
theorem ingestAndFarAttentionComplete : Obligations.IngestAndFarAttentionComplete := by
  unfold Obligations.IngestAndFarAttentionComplete
  refine ⟨fun s u id w x src hrun hok hdd hx hchks hu _ => ?file, fun s u id w x src hrun hok hdd hx hchks hu _ => ?complete,
    fun s u id w x hrun hok hdd hx hfree hchks hu _ => ?register, fun s u id w x hrun hok hdd hx hfree hchks hu _ => ?clear,
    fun s u id w x queries bad hrun hok hx hslot hchks _ hu _ => ?farAttn⟩
  all_goals subst hu
  case file | complete => exact act_durably hrun hok hdd ((withSubject_held hx).trans (checked_pass hchks))
  case register | clear => exact act_durably hrun hok hdd ((withSubject_held hx).trans (globalsFree_checked hfree hchks))
  case farAttn => exact act_runWork hrun hok (runFar_passes hx hslot hchks)

end Sys2Proof.Laws
end

section
/-! The statement about drafter models and draft trees: where its checks pass, each command is its own effect. -/

namespace Sys2Proof.Laws

open Sys2Proof Sys2Proof.Machine Sys2Proof.Safety

/-! ### Drafter models -/

/-- An image that is read and passes every check makes an EMPTY slot READY, with no error (R210, R211). -/
theorem loadModel_passes {s t : State} {k : Nat} {img : Fetch} {b table : List Byte}
    (hempty : modelOf s k = none) (hlen : regGet s .panMdlLenLen k ≠ 0)
    (hread : readSource s (regGet s .panMdlAddrAddr k) (regGet s .panMdlLenLen k) img = (t, some b))
    (hok : modelError t (some b) (regGet s .panMdlUnitUnit k) (some table) true = 0) :
    loadModel s k img (some table) true =
      loadResult { regSet t .panMdlStatusError k 0 with models := t.models ++
        [slotOf (regSet t .panMdlStatusError k 0) k (regGet s .panMdlUnitUnit k) b table] } [k, 0] := by
  have hfree : ¬(modelOf s k).isSome = true := by simp [hempty]
  refine (if_neg hfree).trans ((sourced_read hread).trans ?_)
  simp only [if_neg hlen, hok, if_true, Option.getD_some, regSet_models]

/-! ### Draft trees -/

section
variable {s t : State} {w : Work} {x : Subject} {d : Draft} {m : ModelSlot} {v : Voc}

/-- CONFIGURE writes the draft record of a usable model, under the numbers that it takes (R220). -/
theorem runConfigure_passes {nums : List Nat} (hx : heldFor s w.hdr.keySlot (subjectOf w) = some x)
    (hchks : passes (configureChks s w x) = true) (hm : usableModel s (opr w 17 1) w.hdr.keySlot = some m)
    (hnums : takeNumbers s x.handle 1 = some nums) :
    runConfigure s w = endDraft s w x stDone (configuredDraft w x m.modelId).1 [] []
      (dropAll (if (configuredDraft w x m.modelId).2 then draftTiles s x.handle else treeTiles s x.handle)) .none [] nums := by
  refine (withSubject_held hx).trans ((checked_pass hchks).trans ?_)
  simp only [hnums, hm, Option.map_some, Option.getD_some]

/-- RESET of a session with a draft record frees all its drafter KV (R220). -/
theorem runReset_passes (hx : heldFor s w.hdr.keySlot (subjectOf w) = some x) (hchks : passes (resetChks w x) = true)
    (hd : x.draft = some d) :
    runReset s w = endDraft s w x stDone (resetKv d) [] [] (dropAll (draftTiles s x.handle)) .none [] [] := by
  refine (withSubject_held hx).trans ((checked_pass hchks).trans ?_)
  simp only [hd]

/-- DRAFT builds its tree once the pass that it needs, if any, has read its weights (R214, R222). -/
theorem runDraft_passes {hit : List (Nat × Nat × Nat × Bool)} (hx : heldFor s w.hdr.keySlot (subjectOf w) = some x)
    (hchks : passes (draftRunChks s w x) = true) (hd : x.draft = some d) (hm : draftModel s w x = some m)
    (hv : vocById s x.vocab = some v) (hpass : (if needsPass w d m then readWeights s w m hit else some s) = some t) :
    runDraft hit s w = draftEnd t w x v m d := by
  refine (withSubject_held hx).trans ((checked_pass hchks).trans ?_)
  simp only [hd, hm, hv, hpass]

/-- VERIFY_COMMIT commits its verdict on the outstanding tree (R228). -/
theorem runCommit_passes (hx : heldFor s w.hdr.keySlot (subjectOf w) = some x) (hchks : passes (commitChks s w x) = true)
    (hv : vocById s x.vocab = some v) (hd : x.draft = some d) : runCommit s w = commitEnd s w x v d := by
  refine (withSubject_held hx).trans ((checked_pass hchks).trans ?_)
  simp only [hv, hd, Option.getD_some]

end

/-- Settles O34: the slot or the session is found and the checks pass, so each command is its effect. -/
theorem draftAndModelCommandsComplete : Obligations.DraftAndModelCommandsComplete := by
  unfold Obligations.DraftAndModelCommandsComplete
  refine ⟨fun s t path img k b table hr hk hempty hlen hread hok => ?load, fun s path k m hr hk hm hready => ?unload,
    fun s slot m hr hm hstate hidle => ?unloadDone,
    fun s u id w x m nums hrun hok hdd hx hchks hm hnums hu _ => ?configure,
    fun s u id w x d hrun hok hdd hx hchks hd hu _ => ?reset,
    fun s t u id w x d m v hit hrun hok hdd hx hchks hd hm hv hpass hu _ => ?draft,
    fun s u id w x v d hrun hok hdd hx hchks hv hd hu _ => ?commit⟩
  case load =>
    refine act_whenRunning hr ?_
    simp only [hk]
    exact loadModel_passes hempty hlen hread hok
  case unload =>
    refine act_whenRunning hr ?_
    simp only [hk, Option.bind_some, hm]
    exact if_pos hready
  case unloadDone =>
    refine act_whenRunning hr ?_
    simp only [hm]
    exact if_neg (not_or.mpr ⟨not_not.mpr hstate, Bool.eq_false_iff.mp hidle⟩)
  all_goals subst hu
  case configure => exact act_durably hrun hok hdd (runConfigure_passes hx hchks hm hnums)
  case reset => exact act_durably hrun hok hdd (runReset_passes hx hchks hd)
  case draft => exact act_durably hrun hok hdd (runDraft_passes hx hchks hd hm hv hpass)
  case commit => exact act_durably hrun hok hdd (runCommit_passes hx hchks hv hd)

end Sys2Proof.Laws
end

section
/-! The statement about vocabularies, text and masks: where its checks pass, each command is its own effect. -/

namespace Sys2Proof.Laws

open Sys2Proof Sys2Proof.Machine Sys2Proof.Safety

/-! ### Vocabularies -/

/-- An image that is read and passes every check makes an EMPTY entry READY, with no error (R239). -/
theorem loadVoc_passes {s t : State} {k : Nat} {img : Fetch} {b : List Byte}
    (hempty : vocAt s k = none) (hlen : regGet s .txtVocLenLen k ≠ 0)
    (hread : readSource s (regGet s .txtVocAddrAddr k) (regGet s .txtVocLenLen k) img = (t, some b))
    (hok : vocError t (some b) = 0) :
    loadVoc s k img = loadResult { regSet t .txtVocStatusError k 0 with vocs := t.vocs ++ [vocOf k b] } [k, 0] := by
  have hfree : ¬(vocAt s k).isSome = true := by simp [hempty]
  refine (if_neg hfree).trans ((sourced_read hread).trans ?_)
  simp only [if_neg hlen, hok, if_true, Option.getD_some, regSet_vocs]

section
variable {s t : State} {w : Work} {x : Subject} {v : Voc} {src : Fetch}

/-! ### Operands that are reached -/

/-- The check on an operand that is reached holds. -/
theorem reachChk_reached {a : Addr} {len : Nat} {write : Bool} (h : reachFault s w.hdr.keySlot a len write = none) :
    reachChk s w a len write = chk true 0 := by
  simp only [reachChk, h]

/-- So does the check on one that may be absent, when it is reached wherever it is there. -/
theorem reachOpt_reached {a len : Nat} {write : Bool}
    (h : a ≠ 0 → reachFault s w.hdr.keySlot (addrOf a) len write = none) : reachOpt s w a len write = chk true 0 :=
  ite_eq_left_iff.mpr fun ha => reachChk_reached (h ha)

/-! ### Tokenizing and text -/

/-- TOKENIZE, of a session or of none, writes out or appends the tokens of its text (R246, R247). -/
theorem tokenizeFor_passes {y : Option Subject} {f : List (Nat × List Nat)} {b : List Byte} {toks : List Nat} {r : Nat}
    (hfields : tokenizeFields w = true) (hv : vocById s ((y.map (·.vocab)).getD (opr w 32 4)) = some v)
    (hf : foldTable s v = some f)
    (hin : reachFault s w.hdr.keySlot (addrOf (opr w 8 8)) (opr w 24 4) false = none)
    (hout : opr w 16 8 ≠ 0 → reachFault s w.hdr.keySlot (addrOf (opr w 16 8)) (4 * opr w 28 4) true = none)
    (hread : readAddr s (addrOf (opr w 8 8)) (opr w 24 4) false src = (t, .ok b))
    (htoks : tokens v f (bit (opr w 37 1) 1) b = (some toks, r)) :
    tokenizeFor s w src y = tokenizeEnd t w y toks r := by
  simp only [tokenizeFor, hv, Option.bind_some, hf, hfields, reachChk_reached hin, reachOpt_reached hout]
  refine (checked_pass rfl).trans ((withOperand_read hread).trans ?_)
  simp only [htoks]

/-- MODE APPEND with its tokens in the descriptor goes on to the checks on those tokens (R250, R255). -/
theorem runAppend_inline (hx : heldFor s w.hdr.keySlot (subjectOf w) = some x) (hchks : passes (appendChks s w x) = true)
    (hv : vocById s x.vocab = some v) (hinline : opr w 16 8 = 0) :
    runAppend src s w = appendWith s w x v (some (unpackNats 4 (opr w 24 2) w.ops 32)) := by
  refine (withSubject_held hx).trans ((checked_pass hchks).trans ?_)
  simp only [hv, if_pos hinline]

/-- A source of no bytes is not read. -/
theorem withSource_empty {len : Nat} {f : State → List Byte → State} (h : len = 0) : withSource s w len src f = f s [] :=
  if_pos h

/-- SET_STOPS of no entries leaves an empty stop set (R258). -/
theorem runSetStops_empty (hx : heldFor s w.hdr.keySlot (subjectOf w) = some x)
    (hchks : passes (textChks s x true ++ [chk (setFields w 16 true) stBad]) = true) (hn : opr w 24 2 = 0) :
    runSetStops src s w = setText s w x (withStops w x.text []) := by
  refine (withSubject_held hx).trans ((checked_pass hchks).trans ((withSource_empty (by omega)).trans (checked_pass ?_)))
  simp only [stopEntries, hn]
  rfl

/-- SET_SAMPLER of no bytes clears the sampler (R258). -/
theorem runSetSampler_empty (hx : heldFor s w.hdr.keySlot (subjectOf w) = some x)
    (hchks : passes (textChks s x true ++ [chk (setFields w 256 false) stBad]) = true) (hn : opr w 24 2 = 0) :
    runSetSampler src s w = setText s w x { x.text with sampler := slice [] 0 256 } :=
  (withSubject_held hx).trans ((checked_pass hchks).trans (withSource_empty hn))

/-! ### Masks -/

/-- STEP and TREE write the records of the session's configuration and of its tree's nodes (R264, R265). -/
theorem runMask_passes {tree : Bool} (hx : heldFor s w.hdr.keySlot (subjectOf w) = some x)
    (hchks : passes (textChks s x false ++ [chk (maskFields w) stBad]) = true) (hv : vocById s x.vocab = some v)
    (hout : passes (maskOutChks tree s w x v) = true) :
    runMask tree s w = maskEnd s w x v
      (if tree then (List.range (maskNodes x).length).map fun i => pathTo (maskNodes x) (maskNodes x).length i else []) := by
  refine (withSubject_held hx).trans ((checked_pass hchks).trans ?_)
  simp only [hv]
  exact checked_pass hout

/-- CONFIGURE installs an image that is read and passes every check (R259, R261). -/
theorem runMaskConfigure_passes {g : List Byte} (hx : heldFor s w.hdr.keySlot (subjectOf w) = some x)
    (hchks : passes (textChks s x true ++
      [chk (maskFields w) stBad, reachChk s w (addrOf (opr w 8 8)) (opr w 16 4) false]) = true)
    (hread : readAddr s (addrOf (opr w 8 8)) (opr w 16 4) false src = (t, .ok g))
    (hok : passes [chk (grammarOk g (opr w 16 4) x.vocab) stBad] = true) :
    runMaskConfigure src s w = setGrammar t w x
      { x.text with
        active := true, dead := false, gstate := field g 18 2, stack := [], image := g
        policy := if opr w 22 1 = 0 then 1 else opr w 22 1 } :=
  (withSubject_held hx).trans ((checked_pass hchks).trans ((withOperand_read hread).trans (checked_pass hok)))

end

/-- Settles O35: the entry or the session is found and the checks pass, so each command is its effect. -/
theorem textCommandsComplete : Obligations.TextCommandsComplete := by
  unfold Obligations.TextCommandsComplete
  refine ⟨fun s t path img k b hr hk hempty hlen hread hok => ?load, fun s path k v hr hk hv hunused => ?unload,
    fun s t u id w src v f b toks r hrun hok hlog hsubj hv hf hfields hin hout _ hread htoks hu _ => ?tokenize,
    fun s u id w x src v hrun hok hdd hx hchks hv hinline hu _ => ?append,
    fun s u id w x src hrun hok hdd hx hchks hn hu _ => ?stops,
    fun s u id w x src hrun hok hdd hx hchks hn hu _ => ?sampler,
    fun s u id w x v hrun hok hx hchks hv hout hu _ => ?step, fun s u id w x v hrun hok hx hchks hv hout hu _ => ?tree,
    fun s t u id w x src g hrun hok hdd hx hchks hread hg hu _ => ?configure,
    fun s u id w x hrun hok hdd hx hchks hu _ => ?clear⟩
  case load =>
    refine act_whenRunning hr ?_
    simp only [hk]
    exact loadVoc_passes hempty hlen hread hok
  case unload =>
    refine act_whenRunning hr ?_
    simp only [hk, Option.bind_some, hv]
    exact if_neg (Bool.eq_false_iff.mp hunused)
  all_goals subst hu
  case tokenize =>
    refine act_runWork hrun hok ((if_neg (Bool.eq_false_iff.mp hlog)).trans ((if_pos hsubj).trans ?_))
    exact tokenizeFor_passes hfields hv hf hin (fun _ => hout) hread htoks
  case append => exact act_durably hrun hok hdd (runAppend_inline hx hchks hv hinline)
  case stops => exact act_durably hrun hok hdd (runSetStops_empty hx hchks hn)
  case sampler => exact act_durably hrun hok hdd (runSetSampler_empty hx hchks hn)
  case step | tree => exact act_runWork hrun hok (runMask_passes hx hchks hv hout)
  case configure => exact act_durably hrun hok hdd (runMaskConfigure_passes hx hchks hread hg)
  case clear => exact act_durably hrun hok hdd ((withSubject_held hx).trans (checked_pass hchks))

end Sys2Proof.Laws
end

section
/-! The statement about planners, deadlines, shapers and meters: where its checks pass, each command is its own effect. -/

namespace Sys2Proof.Laws

open Sys2Proof Sys2Proof.Machine Sys2Proof.Safety

section
variable {s : State} {w : Work} {x : Subject} {p : Planner} {m : Member}

/-! ### Descriptors of a planner -/

/-- PLAN of a planner that exists steps it where its checks pass, once ready sessions are noted (R278). -/
theorem runPlan_passes (hp : plannerNo (noteReady s) (opr w 0 1) = some p) (hchks : passes (planChks (noteReady s) w p) = true) :
    runPlan s w = planStep (noteReady s) w p := by
  simp only [runPlan, hp]
  exact checked_pass hchks

/-- ENROLL of a session whose class is not under pause makes it a RUNNING member (R275, R283). -/
theorem runEnroll_unpaused (hx : heldFor s w.hdr.keySlot (opr w 16 8) = some x) (hp : plannerNo s (opr w 0 1) = some p)
    (hchks : passes (enrollChks s w x) = true) (hfree : underPause s p x.priority = false) :
    runEnroll s w = finish s w.id stDone [] [.member (opr w 0 1) (opr w 16 8) (opr w 32 4) 0 (opr w 24 8)] := by
  simp only [runEnroll, hx]
  refine (checked_pass hchks).trans ?_
  simp [hp, hfree]

/-- WITHDRAW of a RUNNING member takes the session from its planner (R276). -/
theorem runWithdraw_running (hx : heldFor s w.hdr.keySlot (opr w 16 8) = some x) (hwhole : x.state ≠ 5)
    (hp : plannerOf s (opr w 16 8) = some p) (hno : p.no = opr w 0 1) (hres : reservedClear w [(0, 2), (16, 8)] = true)
    (hm : p.members.find? (fun m => m.handle == opr w 16 8) = some m) (hst : m.st = 0) :
    runWithdraw s w = finish s w.id stDone [byte x.state] [.unmember (opr w 0 1) (opr w 16 8)] := by
  have hquiet : ¬((m.st = 1 ∧ m.parkAt.isSome = true) ∨ m.st = 3) := by omega
  simp only [runWithdraw, hx, hp, Option.bind_some, if_pos (And.intro hno hres), hm]
  exact (if_neg hwhole).trans (if_neg hquiet)

/-! ### Deadlines -/

/-- A deadline counts for an unfinished work that has one and whose last step has not begun (R287). -/
theorem deadline_counts (hd : w.hdr.deadline ≠ 0) (hlive : unfinished w = true) (hf : w.final = false) :
    ¬(w.hdr.deadline = 0 ∨ (!unfinished w) = true ∨ w.final = true) := by
  simp [hd, hlive, hf]

end

/-- Settles O36: the planner, member, work or entry is found and the checks pass, so each command is its effect. -/
theorem plannerAndTrafficCommandsComplete : Obligations.PlannerAndTrafficCommandsComplete := by
  unfold Obligations.PlannerAndTrafficCommandsComplete
  refine ⟨fun s u id w p hrun hok hp hchks hu _ => ?plan, fun s id w x p hrun hok hx hp hchks hfree => ?enroll,
    fun s id w x p m hrun hok hx hwhole hp hno hres hm hst => ?withdraw, fun s id w hrun hok hchks => ?configure,
    fun s x handle n m src hr hm hx hst hat hslot hturn hdd => ?parkDone,
    fun s x handle m hr hm hx hst hslot => ?reviveDone,
    fun s w work hr hw hd hlive hf hstep => ?deadline, fun s w work hr hw hd hlive hf hstep => ?deadlineInStep,
    fun s hr => ?refill, fun s path k hr hk => ?meter, fun s path q hr hq => ?clrMax⟩
  case plan =>
    subst hu
    exact act_runWork hrun hok (runPlan_passes hp hchks)
  case enroll => exact act_runWork hrun hok (runEnroll_unpaused hx hp hchks hfree)
  case withdraw => exact act_runWork hrun hok (runWithdraw_running hx hwhole hp hno hres hm hst)
  case configure => exact act_runWork hrun hok (checked_pass hchks)
  case parkDone =>
    have hgoes : ¬(parkWaits (fresh s) handle n || ddFull (fresh s)) = true := by simp [hturn, hdd]
    refine act_whenRunning hr ?_
    simp only [hm, hx, hst, hat, hslot]
    exact (if_neg Bool.false_ne_true).trans (if_neg hgoes)
  case reviveDone =>
    refine act_whenRunning hr ?_
    simp only [hm, hx, hslot]
    exact (if_neg (not_not.mpr hst)).trans (if_neg Bool.false_ne_true)
  case deadline =>
    refine act_whenRunning hr ?_
    simp only [hw]
    exact (if_neg (deadline_counts hd hlive hf)).trans (if_neg (Bool.eq_false_iff.mp hstep))
  case deadlineInStep =>
    refine act_whenRunning hr ?_
    simp only [hw]
    exact (if_neg (deadline_counts hd hlive hf)).trans (if_pos hstep)
  case refill => exact act_whenRunning hr rfl
  case meter => exact act_whenRunning hr (by rw [hk])
  case clrMax => exact act_whenRunning hr (by rw [hq])

end Sys2Proof.Laws
end

section
/-! The statements about ledgers: the layout of a completion, how a ledger's states are kept, and where each ledger command completes. -/

namespace Sys2Proof.Laws

open Sys2Proof Sys2Proof.Machine Sys2Proof.Safety

/-! ### Fields of little-endian records -/

@[simp] theorem leBytes_length (k n : Nat) : (leBytes k n).length = k := by
  induction k generalizing n with
  | zero => rfl
  | succ k ih => exact congrArg (· + 1) (ih _)

/-- The bytes of a number give the number back, modulo 256 to their count (R5). -/
theorem leNat_leBytes (k n : Nat) : leNat (leBytes k n) = n % 256 ^ k := by
  induction k generalizing n with
  | zero => simp [leBytes, leNat, Nat.mod_one]
  | succ k ih =>
    have hbyte : (byte n).toNat = n % 256 := BitVec.toNat_ofNat n 8
    rw [leBytes, leNat, ih, hbyte, Nat.pow_succ', Nat.mod_mul (a := 256)]

/-- A part that begins past the first bytes of a string is a part of the others. -/
theorem slice_past {a b : List Byte} {i n : Nat} (h : a.length ≤ i) : slice (a ++ b) i n = slice b (i - a.length) n := by
  rw [slice, slice, List.drop_append, List.drop_eq_nil_of_le h, List.nil_append]

/-- The part of a string as long as its first bytes is those. -/
theorem slice_first {a b : List Byte} {n : Nat} (h : a.length = n) : slice (a ++ b) 0 n = a := by
  subst h
  simp [slice, zeros]

/-- A whole string is its own part. -/
theorem slice_whole {a : List Byte} {n : Nat} (h : a.length = n) : slice a 0 n = a := by
  simpa using slice_first (b := []) h

theorem length_slice (b : List Byte) (i n : Nat) : (slice b i n).length = n := by
  simp [slice, zeros]

/-- A field past the first number of a record is a field of the rest. -/
theorem field_past {k v i n : Nat} {b : List Byte} (h : k ≤ i) : field (leBytes k v ++ b) i n = field b (i - k) n := by
  rw [field, slice_past (by rwa [leBytes_length]), leBytes_length, field]

/-- The first field of a record is the number that stands there, where it fits. -/
theorem field_first {k v : Nat} {b : List Byte} (h : v < 256 ^ k) : field (leBytes k v ++ b) 0 k = v := by
  rw [field, slice_first (leBytes_length k v), leNat_leBytes, Nat.mod_eq_of_lt h]

/-! ### The layout of a completion -/

/-- The opcode that a completion names: none outside the table. -/
def namedOpcode (w : Work) : Nat := if w.hdr.opcode ∈ opcodes then w.hdr.opcode else 0

/-- The PHASE of the completion that a ledger takes next: WRITTEN div SIZE is even (R323). -/
def nextPhase (s : State) (cq : Nat) : Nat := if regGet s .ldgHeadCount cq / 2 ^ regGet s .ldgCfgSizeLog2 cq % 2 = 0 then 1 else 0

/-- Every opcode of the table is a byte. -/
theorem namedOpcode_lt (w : Work) : namedOpcode w < 256 := by
  have hbyte : ∀ o ∈ opcodes, o < 256 := by decide
  unfold namedOpcode
  split
  · exact hbyte _ ‹_›
  · decide

theorem nextPhase_lt (s : State) (cq : Nat) : nextPhase s cq < 256 := by
  unfold nextPhase
  split <;> decide

/-- A completion of 32 bytes is its numbers one after the other, and RESULT (R323). -/
theorem completionBytes_long {s : State} {cq : Nat} (h : compatLedger s cq = false) (w : Work) (status : Nat) (result : List Byte) :
    completionBytes s w cq status result =
      leBytes 8 w.hdr.tag ++ (leBytes 1 status ++ (leBytes 1 (namedOpcode w) ++ (leBytes 1 (nextPhase s cq) ++ (leBytes 1 0 ++
        (leBytes 2 w.ledger ++ (leBytes 2 w.slot ++ slice result 0 16)))))) := by
  rw [completionBytes, if_neg (Bool.eq_false_iff.mp h)]
  rfl

/-- Settles O13: each field is read past the numbers before it. -/
theorem completionLayout : Obligations.CompletionLayout := by
  unfold Obligations.CompletionLayout
  rintro s w cq status result b hlong htag hledger hslot hstatus rfl
  have hop : namedOpcode w < 256 := namedOpcode_lt w
  have hphase : nextPhase s cq < 256 := nextPhase_lt s cq
  have hword : w.ledger < 65536 := by omega
  rw [completionBytes_long hlong]
  refine ⟨by simp [length_slice], field_first htag, ?ending, ?opcode, ?phase, ?reserved, ?ledger, ?slot, ?extra⟩
  case ending => simp [field_past, field_first, hstatus]
  case opcode =>
    change field _ 9 1 = namedOpcode w
    simp [field_past, field_first, hop]
  case phase =>
    change field _ 10 1 = nextPhase s cq
    simp [field_past, field_first, hphase]
  case reserved => simp [field_past, field_first]
  case ledger => simp [field_past, field_first, hword]
  case slot => simp [field_past, field_first, hslot]
  case extra => simp [slice_past, slice_whole, length_slice]

/-! ### Enabling and disabling -/

section
variable {s : State} {p : Path} {l : Nat}

@[simp] theorem entryOf_fresh (s : State) (p : Path) (f : Fld) (elem : Nat) : entryOf (fresh s) p f elem = entryOf s p f elem := rfl

/-- A ledger begins to drain from ACTIVE and from HALTED (R318). -/
theorem drainLedger_serving (h : regGet s .ldgStatusState l = 1 ∨ regGet s .ldgStatusState l = 3) :
    drainLedger s l = regSet (regSet s .ldgStatusState l 2) .ldgCtrlEnable l 0 := if_pos h

/-- One that is DISABLED, or drains already, stays as it is. -/
theorem drainLedger_still (h : regGet s .ldgStatusState l = 0 ∨ regGet s .ldgStatusState l = 2) : drainLedger s l = s :=
  if_neg (by omega)

/-- A write of 0 to ENABLE drains the ledger that the path selects (R318). -/
theorem exec_ledgerDisable_selected (hr : running s = true) (hsel : entryOf s p .ldgStatusState 0 = some l) :
    exec (.ledgerDisable p) s = .next (drainLedger (fresh s) l) :=
  act_whenRunning hr (by simp only [entryOf_fresh, hsel])

/-- A write of 1 to ENABLE may act on a DISABLED ledger, while the device does not quiesce. -/
theorem enable_acts (hdis : ledgerDisabled s l = true) (hq : s.power.quiescing = false) :
    ¬(!ledgerDisabled s l || s.power.quiescing) = true := by
  simp [hdis, hq]

/-- A ledger in memory outside the device reads its lines from there. -/
theorem ledgerFetch_outside {addr len : Nat} {line : Fetch} (h : regGet s .ldgCfgLoc l = 0) : ledgerFetch s l addr len line = line :=
  if_pos h

end

/-- Settles O21: the selected ledger's state decides which guard holds. -/
theorem ledgerControlKeepsItsStates : Obligations.LedgerControlKeepsItsStates := by
  unfold Obligations.LedgerControlKeepsItsStates
  intro s p l line hr hsel
  refine ⟨fun hst => ?notDisabled, fun hst hq herr => ?checkFails, fun hst => ?drains, fun hst => ?stays⟩
  case notDisabled =>
    refine act_whenRunning hr ?_
    simp only [entryOf_fresh, hsel]
    exact if_pos (by simp [ledgerDisabled, hst])
  case checkFails =>
    have hdis : ledgerDisabled (fresh s) l = true := beq_iff_eq.mpr hst
    refine act_whenRunning hr ?_
    simp only [entryOf_fresh, hsel]
    exact (if_neg (enable_acts hdis hq)).trans (if_pos herr)
  case drains => rw [exec_ledgerDisable_selected hr hsel, drainLedger_serving (s := fresh s) hst]
  case stays => rw [exec_ledgerDisable_selected hr hsel, drainLedger_still (s := fresh s) hst]

/-- Settles O29: each command's guard holds, so it is its effect; an enabled ledger outside the device goes on to its line. -/
theorem ledgerCommandsComplete : Obligations.LedgerCommandsComplete := by
  unfold Obligations.LedgerCommandsComplete
  refine ⟨fun s ledger line descs b hr hact hline => ?tail, fun s ledger line b hr hlt hrec hline => ?consumed,
    fun s addr b hr hpolled => ?linePoll, fun s addr word hr hwatched halign => ?wordUpdate,
    fun s path line l hr hsel hdis hq herr hloc htype => ?enable, fun s path l hr hsel hst => ?disable,
    fun s ledger hr hlt hst hempty => ?drainEnd, fun s ledger hr hlt hrec hfull hnew hwork => ?stalled,
    fun s group hr htime hcoal => ?coalesced, fun s ledger desc hr hact hop => ?unknown⟩
  case tail =>
    refine act_whenRunning hr ((if_neg (by simp [hact])).trans ?_)
    simp only [regGet_fresh, hline]
  case consumed =>
    refine act_whenRunning hr ((if_pos ⟨hlt, hrec⟩).trans ?_)
    simp only [regGet_fresh, hline]
  case linePoll => exact act_whenRunning hr (if_pos hpolled)
  case wordUpdate => exact act_whenRunning hr (if_pos ⟨hwatched, halign⟩)
  case enable =>
    refine act_whenRunning hr ?_
    simp only [hsel]
    refine (if_neg (enable_acts hdis hq)).trans ((if_neg (not_not.mpr herr)).trans ?_)
    rw [← activated, if_pos hloc, ledgerFetch_outside]
    · exact if_pos htype
    · exact hloc
  case disable => rw [exec_ledgerDisable_selected hr hsel, drainLedger_serving (.inl hst)]
  case drainEnd => exact act_whenRunning hr (if_pos ⟨hlt, hst, hempty⟩)
  case stalled => exact act_whenRunning hr (if_pos ⟨hlt, hrec, by simp [hfull], hnew, hwork⟩)
  case coalesced => exact act_whenRunning hr (if_pos ⟨htime, hcoal⟩)
  case unknown => exact act_whenRunning hr (if_pos (by simp [hact, hop]))

/-! ### Writing a completion -/

/-- A work that has ended has its completion written, and what waited for that is looked at again (R325). -/
theorem exec_completionWrite_ended {s : State} {w : Work} (hr : running s = true) (hw : workOf s w.id = some w) (hplace : w.place = .ended) :
    exec (.completionWrite w.id) s = .next (quiesceCheck (drainCheck (writeCompletion (fresh s) w))) := by
  have hserves : (running (fresh s) || inFailed (fresh s)) = true := by simp [hr]
  change execCompletionWrite w.id s = _
  rw [execCompletionWrite, act_fresh, if_pos hserves, workOf_fresh, hw]
  exact congrArg Host.Outcome.next (if_pos hplace)

/-- A completion whose ledger receives, whose effects no host's line and no rebuild holds up, and whose turn it is, is written outside
the device, and its effects are referenced (R36, R325). -/
theorem writeCompletion_outside {s t : State} {w : Work} {cq : Nat} (hcq : cq = regGet s .ldgCfgCq w.ledger)
    (hlost : cqLost s cq = false) (hrec : cqReceives s cq = true) (hcompat : compatWaits s w = false)
    (hreveal : (createdIndices w).any (revealBusy s) = false)
    (hlines : releaseLines s (changedNames s (revised s w).2.2) = (t, true))
    (hturn : (readyFor t cq).head?.map (·.id) = some w.id) (hroom : cqRoom t cq = true) (hloc : regGet t .ldgCfgLoc cq = 0) :
    writeCompletion s w = completed
      (emit t (.completion cq (regGet t .ldgHeadCount cq) (completionBytes t w cq (revised s w).1 (revised s w).2.1)))
      w cq (revised s w).1 (revised s w).2.2 := by
  subst hcq
  unfold writeCompletion
  simp [hlost, hrec, hcompat, hreveal, hlines, hturn, hroom, hloc]

/-- Settles O24: the work has ended, so the command writes its completion. -/
theorem completionIsWritten : Obligations.CompletionIsWritten := by
  unfold Obligations.CompletionIsWritten
  intro s t w cq hr hw hplace hcq hlost hrec hcompat hreveal hlines hturn hroom hloc
  rw [exec_completionWrite_ended hr hw hplace,
    writeCompletion_outside (s := fresh s) hcq hlost hrec hcompat hreveal hlines hturn hroom hloc]

end Sys2Proof.Laws
end

section
/-! The statement about SLUICE, SESSION, PARK, REVIVE and MOVE: where its checks pass, each descriptor is its own effect. -/

namespace Sys2Proof.Laws

open Sys2Proof Sys2Proof.Machine Sys2Proof.Safety

section
variable {s t u : State} {w : Work} {x : Subject} {bad : List (Nat × Nat)}

/-! ### Sessions -/

/-- SESSION_OPEN makes a new subject of a serial number, an index and a bed that are free (R84). -/
theorem runOpen_passes {h i b : Nat} (hchks : passes (openChks s w) = true) (hissue : issueHandle s = .ok t h)
    (hindex : freeIndex s = some i) (hbucket : bucketBusy t h = false)
    (hbed : chooseBed s w.hdr.keySlot (homeBeds s) = some b)
    (hcreate : createSubject t w.id (openedSession t w h i b) (openTiles (openedSession t w h i b)) = some u) :
    runOpen s w = done u w.id stDone (createdResult (openedSession t w h i b)) := by
  unfold runOpen
  refine (checked_pass hchks).trans ?_
  simp only [hissue, hindex, hbed, hcreate]
  exact if_neg (Bool.eq_false_iff.mp hbucket)

/-- SESSION_CLOSE closes its subject once no earlier descriptor of it is open and no host holds a line of its tiles (R85). -/
theorem runClose_passes (hx : subjAny s (subjectOf w) = some x) (hlast : earlierOpen s w = false)
    (hlines : releaseLines s ((tilesOf s x.handle).map fun t => (t.handle, t.number)) = (t, true)) :
    runClose s w = finish (closeSubject t x) w.id stDone [] [.unmember 0 x.handle] := by
  simp only [runClose, hx, hlines]
  exact (if_neg (Bool.eq_false_iff.mp hlast)).trans (if_pos trivial)

/-! ### PARK and REVIVE -/

/-- PARK of a session that is not PARKED ingests its near window (R113). -/
theorem runPark_passes {src : Fetch} (hx : heldFor s w.hdr.keySlot (subjectOf w) = some x) (hchks : passes (parkChks x) = true)
    (hst : x.state ≠ 2) (hfields : passes [chk (!w.tally.isEmpty || parkFields x w) stBad] = true) :
    runPark src s w = parkTail (parkWith s w x src) w.id x.handle (bit (opr w 20 1) 0) :=
  (withSubject_held hx).trans ((checked_pass hchks).trans ((if_neg hst).trans (checked_pass hfields)))

/-- REVIVE of a PARKED session makes it REVIVING (R60, R111). -/
theorem beginRevive_parked (hst : x.state = 2) :
    beginRevive s w x = updSubj (updWork s w.id fun z => { z with tally := [1] }) x.handle fun y => { y with state := 3 } := if_pos hst

/-- MODE WORKING or FULL of REVIVE, of a PARKED session, begins to place its set (R114, R116). -/
theorem runRevive_parked {full : Bool} (hx : heldFor s w.hdr.keySlot (subjectOf w) = some x) (hchks : passes (reviveChks x w) = true)
    (hst : x.state = 2) :
    runRevive full bad s w =
      reviveSet bad (updSubj (updWork s w.id fun z => { z with tally := [1] }) x.handle fun y => { y with state := 3 }) w x full := by
  have hnot : ¬(x.state = 3 ∧ w.tally ≠ [1]) := by omega
  refine (withSubject_held hx).trans ((checked_pass hchks).trans ((if_neg hnot).trans ?_))
  rw [beginRevive_parked hst]

/-! ### MOVE -/

/-- MODE PLACE of MOVE has placed its tiles once none of them waits or is stopped (R119). -/
theorem runPlace_placed {a b : Nat} (hx : heldFor s w.hdr.keySlot (subjectOf w) = some x) (hchks : passes (placeChks x w) = true)
    (hwhole : (subjAny (readFails s bad (placeNames s x w)) x.handle).any (fun y => y.state == 5) = false)
    (hplaced : placeLoop w (opr w 9 1) (opr w 24 1) (placeNames s x w) (readFails s bad (placeNames s x w)) 0 0 = (t, a, b, .placed)) :
    runPlace bad s w = finish t w.id stDone (leBytes 4 a ++ leBytes 4 b) [] := by
  refine (withSubject_held hx).trans ((checked_pass hchks).trans ((if_neg (Bool.eq_false_iff.mp hwhole)).trans ?_))
  simp only [hplaced]
  rfl

/-- MODE UNVIEW of MOVE unbinds its window once no host holds a line of it (R120). -/
theorem runUnview_passes (hx : heldFor s w.hdr.keySlot (subjectOf w) = some x) (hchks : passes (unviewChks s w x) = true)
    (hlines : releaseWindow s (opr w 16 8 / 2 ^ 30) = (t, true)) :
    runUnview s w = finish t w.id stDone [] [.unbind (opr w 16 8 / 2 ^ 30)] := by
  refine (withSubject_held hx).trans ((checked_pass hchks).trans ?_)
  simp only [hlines]
  rfl

/-- MODE ATTACH of MOVE attaches the pages that it has found once nothing holds it up: no other change of the map, no page that is lodged
elsewhere or malformed, no shaper (R125, R291). -/
theorem runAttach_passes {pages : List Subject} {stopped : Bool} (hx : heldFor s w.hdr.keySlot (subjectOf w) = some x)
    (hchks : passes (attachChks w x ++ [chk (decide (attachNoted w ≤ attachLimit x w)) stConflict]) = true)
    (hfound : attachFound s w x = (pages, stopped)) (hdir : attachBusy s w x = false)
    (hmap : layerBusy s w x.handle (List.range x.layers) = false) (hhere : attachLodged s x pages = [])
    (hwell : attachBad s x pages = []) (hmay : mayMove (attachWaits s w pages.length) w 0 (attachBytes s x pages) = true)
    (ht : t = moved (attachWaits s w pages.length) w (attachBytes s x pages) 0) :
    runAttach s w = attachEnd (if stopped then workEvent t w 0x0305 [pages.length] else t) w x pages := by
  subst ht
  refine (withSubject_held hx).trans ((checked_pass hchks).trans ?_)
  simp only [hfound, hdir, hmap, hhere, hwell, List.isEmpty_nil, Bool.not_true, Bool.false_eq_true, if_false]
  exact shaped_in hmay

end

/-- Settles O30: each work can run and its checks pass, so each descriptor is its effect. -/
theorem sluiceAndSessionWorkComplete : Obligations.SluiceAndSessionWorkComplete := by
  unfold Obligations.SluiceAndSessionWorkComplete
  refine ⟨fun s id w hrun hok => ?sluiceSession, fun s id w hrun hok => ?sluicePublish, fun s id w hrun hok => ?sluiceGlobal,
    fun s t u id w h i b hrun hok hdd hchks hissue hindex hbucket hbed hcreate => ?sessionOpen,
    fun s t id w x hrun hok hx hlast hlines => ?sessionClose,
    fun s id w x src hrun hok hdd hx hchks hst hfields _ => ?park,
    fun s id w x bad hrun hok hx hchks hst _ => ?reviveWorking, fun s id w x bad hrun hok hx hchks hst _ => ?reviveFull,
    fun s id w x hrun hok hx hchks => ?reviveHint,
    fun s t u id w x a b bad hrun hok hx hchks hu hwhole hplaced => ?movePlace, fun s id w x hrun hok hx hchks => ?moveView,
    fun s t id w x hrun hok hx hchks hlines => ?moveUnview,
    fun s t u id w x hrun hok hdd hx hchks hdir hmap hhere hwell hu hmay ht _ => ?moveAttach⟩
  case sluiceSession | sluicePublish | sluiceGlobal => exact act_runWork hrun hok rfl
  case sessionOpen => exact act_durably hrun hok hdd (runOpen_passes hchks hissue hindex hbucket hbed hcreate)
  case sessionClose => exact act_runWork hrun hok (runClose_passes hx hlast hlines)
  case park => exact act_durably hrun hok hdd (runPark_passes hx hchks hst hfields)
  case reviveWorking | reviveFull => exact act_runWork hrun hok (runRevive_parked hx hchks hst)
  case reviveHint | moveView => exact act_runWork hrun hok ((withSubject_held hx).trans (checked_pass hchks))
  case movePlace =>
    subst hu
    exact act_runWork hrun hok (runPlace_placed hx hchks hwhole hplaced)
  case moveUnview => exact act_runWork hrun hok (runUnview_passes hx hchks hlines)
  case moveAttach =>
    subst hu
    exact act_durably hrun hok hdd (runAttach_passes hx hchks rfl hdir hmap hhere hwell hmay ht)

end Sys2Proof.Laws
end

section
/-! The statement about near-memory descriptors: where its checks pass and its operands are read, each is its own effect. -/

namespace Sys2Proof.Laws

open Sys2Proof Sys2Proof.Machine Sys2Proof.Safety

section
variable {s t u v : State} {w : Work} {fa fb : Fetch} {a b : List Byte}

/-- Work none of whose tiles is lodged elsewhere fetches none. -/
theorem fetched_none {ts : List Tile} {f : State → State} (h : ts = []) : fetched s w ts f = f s := by
  rw [h, fetched_nil]

/-- So does work with two operands. -/
theorem fetched_none_two {ts us : List Tile} {f : State → State} (ht : ts = []) (hu : us = []) : fetched s w (ts ++ us) f = f s :=
  fetched_none (List.append_eq_nil_iff.mpr ⟨ht, hu⟩)

/-- FILL writes its pattern over the whole destination (R335). -/
theorem runFill_passes (hchks : passes (fillChks s w) = true) (hdest : destReady s (addrOf (opr w 0 8)) (opr w 8 8) = true)
    (hmay : mayMove s w 1 (portBytes (addrOf (opr w 0 8)) (opr w 8 8)) = true) :
    runFill s w = concludeOut (moved s w 0 (portBytes (addrOf (opr w 0 8)) (opr w 8 8))) w stDone [] [] []
      (addrOf (opr w 0 8)) (patternBytes (slice w.ops 16 8) (opr w 8 8)) := by
  unfold runFill
  dsimp only
  rw [checked_pass hchks, withDest_ready hdest, shaped_out hmay]

/-- COPY writes the bytes that it has read (R335). -/
theorem runCopy_passes (hchks : passes (copyChks s w) = true) (hdest : destReady s (addrOf (opr w 8 8)) (opr w 16 8) = true)
    (hhere : lodgedRead s (residentOnly w 24) (addrOf (opr w 0 8)) (opr w 16 8) = [])
    (hin : mayMove s w 0 (moveBytes s (addrOf (opr w 0 8)) (opr w 16 8)) = true)
    (hout : mayMove s w 1 (portBytes (addrOf (opr w 8 8)) (opr w 16 8)) = true)
    (ht : t = moved s w (moveBytes s (addrOf (opr w 0 8)) (opr w 16 8)) (portBytes (addrOf (opr w 8 8)) (opr w 16 8)))
    (hread : readAddr t (addrOf (opr w 0 8)) (opr w 16 8) (residentOnly w 24) fa = (v, .ok a)) :
    runCopy fa s w = concludeOut v w stDone [] [] [] (addrOf (opr w 8 8)) a := by
  unfold runCopy
  dsimp only
  rw [checked_pass hchks, withDest_ready hdest, fetched_none hhere, shaped_open hin hout, ← ht, withOperand_read hread]

/-- COMPARE answers the place of the first byte that differs (R335). -/
theorem runCompare_passes (hchks : passes (compareChks s w) = true)
    (hhereA : lodgedRead s (residentOnly w 24) (addrOf (opr w 0 8)) (opr w 16 8) = [])
    (hhereB : lodgedRead s (residentOnly w 24) (addrOf (opr w 8 8)) (opr w 16 8) = [])
    (hin : mayMove s w 0 (moveBytes s (addrOf (opr w 0 8)) (opr w 16 8) + moveBytes s (addrOf (opr w 8 8)) (opr w 16 8)) = true)
    (ht : t = moved s w (moveBytes s (addrOf (opr w 0 8)) (opr w 16 8) + moveBytes s (addrOf (opr w 8 8)) (opr w 16 8)) 0)
    (hreadA : readAddr t (addrOf (opr w 0 8)) (opr w 16 8) (residentOnly w 24) fa = (v, .ok a))
    (hreadB : readAddr v (addrOf (opr w 8 8)) (opr w 16 8) (residentOnly w 24) fb = (u, .ok b)) :
    runCompare fa fb s w = finish u w.id stDone (leBytes 8 (firstDiff a b)) [] := by
  unfold runCompare
  dsimp only
  rw [checked_pass hchks, fetched_none_two hhereA hhereB, shaped_in hin, ← ht, withOperand_read hreadA, withOperand_read hreadB]

/-- A REDUCE that is not elementwise reads A alone (R336). -/
theorem runReduce_one (hchks : passes (reduceChks s w) = true) (hone : elementwise (opr w 0 1) = false)
    (hhere : lodgedRead s (residentOnly w 2) (addrOf (opr w 8 8)) (reduceLen w) = [])
    (hin : mayMove s w 0 (moveBytes s (addrOf (opr w 8 8)) (reduceLen w)) = true)
    (ht : t = moved s w (moveBytes s (addrOf (opr w 8 8)) (reduceLen w)) 0)
    (hread : readAddr t (addrOf (opr w 8 8)) (reduceLen w) (residentOnly w 2) fa = (v, .ok a)) :
    runReduce fa fb s w = reduceOne v w a := by
  unfold runReduce
  dsimp only
  rw [checked_pass hchks, if_neg (Bool.eq_false_iff.mp hone), fetched_none hhere, shaped_in hin, ← ht, withOperand_read hread]

/-- An elementwise REDUCE reads A and B, once its destination can take the result (R336). -/
theorem runReduce_two (hchks : passes (reduceChks s w) = true) (htwo : elementwise (opr w 0 1) = true)
    (hdest : destReady s (addrOf (opr w 24 8)) (reduceLen w) = true)
    (hhereA : lodgedRead s (residentOnly w 2) (addrOf (opr w 8 8)) (reduceLen w) = [])
    (hhereB : lodgedRead s (residentOnly w 2) (addrOf (opr w 16 8)) (reduceLen w) = [])
    (hin : mayMove s w 0 (moveBytes s (addrOf (opr w 8 8)) (reduceLen w) + moveBytes s (addrOf (opr w 16 8)) (reduceLen w)) = true)
    (hout : mayMove s w 1 (portBytes (addrOf (opr w 24 8)) (reduceLen w)) = true)
    (ht : t = moved s w (moveBytes s (addrOf (opr w 8 8)) (reduceLen w) + moveBytes s (addrOf (opr w 16 8)) (reduceLen w))
      (portBytes (addrOf (opr w 24 8)) (reduceLen w)))
    (hreadA : readAddr t (addrOf (opr w 8 8)) (reduceLen w) (residentOnly w 2) fa = (v, .ok a))
    (hreadB : readAddr v (addrOf (opr w 16 8)) (reduceLen w) (residentOnly w 2) fb = (u, .ok b)) :
    runReduce fa fb s w = reduceTwo u w a b := by
  unfold runReduce
  dsimp only
  rw [checked_pass hchks, if_pos htwo, withDest_ready hdest, fetched_none_two hhereA hhereB, shaped_open hin hout, ← ht,
    withOperand_read hreadA, withOperand_read hreadB]

end

/-- Settles O37: the checks pass, no tile or shaper holds the work up, and its operands are read, so each descriptor is its effect. -/
theorem nearMemoryCommandsComplete : Obligations.NearMemoryCommandsComplete := by
  unfold Obligations.NearMemoryCommandsComplete
  refine ⟨fun s t u id w hrun hok hchks hdest hmay ht hu _ => ?fill,
    fun s t u id w v src b hrun hok hchks hdest hhere hin hout ht hread hu _ => ?copy,
    fun s t u id w v fa fb a b hrun hok hchks hhereA hhereB hin ht hreadA hreadB => ?compare,
    fun s t id w v fa fb a hrun hok hchks hone hhere hin ht hread _ => ?reduceOne,
    fun s t id w v y fa fb a b hrun hok hchks htwo hdest hhereA hhereB hin hout ht hreadA hreadB _ => ?reduceTwo,
    fun s id w status result hrun hok hst => ?reduceScorer⟩
  case fill =>
    subst hu ht
    exact act_runWork hrun hok (runFill_passes hchks hdest hmay)
  case copy =>
    subst hu
    exact act_runWork hrun hok (runCopy_passes hchks hdest hhere hin hout ht hread)
  case compare => exact act_runWork hrun hok (runCompare_passes hchks hhereA hhereB hin ht hreadA hreadB)
  case reduceOne => exact act_runWork hrun hok (runReduce_one hchks hone hhere hin ht hread)
  case reduceTwo => exact act_runWork hrun hok (runReduce_two hchks htwo hdest hhereA hhereB hin hout ht hreadA hreadB)
  case reduceScorer => exact act_runWork hrun hok (if_pos hst)

end Sys2Proof.Laws
end

section
/-! The statements about mailbox, capacity, TSP, IDE and link commands: where its checks pass, each is its own effect. -/

namespace Sys2Proof.Laws

open Sys2Proof Sys2Proof.Machine Sys2Proof.Safety

section
variable {s t : State} {host : Nat} {ext : ExtentArg} {e : Extent}

/-! ### What the shared guards leave of a command -/

/-- A running device serves every mailbox (R512). -/
theorem act_mailbox {ch : Path} {f : State → State} (hr : running s = true) (h : f (fresh s) = t) : act s (mailbox ch f) = .next t := by
  rw [act_fresh, mailbox, running_fresh, hr, Bool.true_or, Bool.true_or, if_pos rfl, h]

/-- A running device serves requests for TSP, IDE and CDAT (R512). -/
theorem act_doeServes {f : State → State} (hr : running s = true) (h : f (fresh s) = t) : act s (doeServes f) = .next t := by
  rw [act_fresh, doeServes, running_fresh, hr, Bool.true_or, if_pos rfl, h]

/-- The capacity of a host that TSP has not locked may change (R311). -/
theorem unlockedHost_open {f : State → State} (h : tspLocked s host = false) : unlockedHost host f s = f s :=
  if_neg (Bool.eq_false_iff.mp h)

/-- A command on the capacity of an unlocked host is, on a running device, its effect. -/
theorem act_capacity {ch : Path} {f : State → State} (hr : running s = true) (hopen : tspLocked (fresh s) host = false)
    (h : f (fresh s) = t) : act s (mailbox ch (unlockedHost host f)) = .next t :=
  act_mailbox hr ((unlockedHost_open hopen).trans h)

/-! ### Extents -/

/-- No limit is passed where the extents keep them (R299). -/
theorem limits_kept {l : List Extent} (h : extentLimits host l = true) : ¬(!extentLimits host l) = true := by
  simp [h]

/-- An extent that exists and fits may be offered to a host of the map (R306). -/
theorem offer_allowed (hlt : host < 32) (hmap : regGet s .cxlHostMapValid host = 1) (hexists : extentExists s ext = true)
    (hfits : extentFits s host ext = true) :
    ¬(!(decide (host < 32) && regGet s .cxlHostMapValid host == 1 && extentExists s ext && extentFits s host ext)) = true := by
  simp [hlt, hmap, hexists, hfits]

/-- Of a host's one offer, an extent within it answers it. -/
theorem answered_only (hin : within e ext = true) : ([e].filter fun x => [ext].any (within x)) = [e] := by
  simp [hin]

/-- Accepting an extent within a host's one offer is allowed. -/
theorem acceptance_allowed (hin : within e ext = true) (hcount : 1 ≤ ext.count) :
    ¬([e].isEmpty || !apart [ext] || !([ext].all fun x => decide (1 ≤ x.count) && [e].any fun y => within y x)) = true := by
  simp [apart, hin, hcount]

/-- Giving back an extent that the host has accepted releases it, and what is left of its extent stays (R363). -/
theorem giveBack_accepted
    (hfind : (s.cxl.extents.find? fun e => e.host == host && decide (e.phase ≤ 1) && decide (1 ≤ ext.count) && within e ext) = some e)
    (hphase : e.phase = 1)
    (hlimits : extentLimits host ((s.cxl.extents.filter fun y => y ≠ e) ++ splitAround e ext ++ [extentOf host 2 ext]) = true) :
    giveBack host ext s = endReleases (emit (setExtents s
      ((s.cxl.extents.filter fun y => y ≠ e) ++ splitAround e ext ++ [extentOf host 2 ext])) (.response [])) := by
  have hnot : ¬e.phase = 0 := by omega
  simp only [giveBack, hfind]
  exact (if_neg hnot).trans (if_neg (limits_kept hlimits))

end

/-- Settles O41: on a running device each guard and each check holds, so the command is its effect (assumptions 114 to 116, 118). -/
theorem mailboxCommandsComplete : Obligations.MailboxCommandsComplete := by
  unfold Obligations.MailboxCommandsComplete
  refine ⟨fun s p hr => ?identify, fun s u ch log l hr hlog hl hu => ?records,
    fun s ch log handles hr hlog hsome hlen hoff => ?clear, fun s p hr => ?policy, fun s p settings hr hlen hbytes => ?setPolicy,
    fun s p value hr => ?timestamp, fun s host ext hr hopen hlt hmap hexists hfits hlimits => ?add,
    fun s host ext e hr hopen hoffers hin hcount hlimits => ?accept,
    fun s host ext e hr hopen hfind hphase hlimits => ?release, fun s host ext e hr hopen hfind hphase hlimits => ?fmRelease,
    fun s host ext e hr hfind hwaits => ?releaseTimeout, fun s p hr => ?configuration,
    fun s p host count start l hr hl hstart => ?extentList, fun s host base hp hlt hmap => ?decoder,
    fun s host hr hlt hmap => ?lock, fun s p session stream hr hsess hkey => ?go, fun s p entry hr => ?cdat⟩
  case identify | policy | timestamp | configuration => exact act_mailbox hr rfl
  case records =>
    subst hl hu
    exact act_mailbox hr (if_neg (Nat.not_le.mpr hlog))
  case clear =>
    have hnone : ¬handles.isEmpty = true := by simpa using hsome
    exact act_mailbox hr ((if_neg (Nat.not_le.mpr hlog)).trans ((if_neg hnone).trans (if_pos ⟨hlen, hoff⟩)))
  case setPolicy => exact act_mailbox hr (if_pos ⟨hlen, by simpa using hbytes⟩)
  case add =>
    exact act_capacity hr hopen ((if_neg (offer_allowed hlt hmap hexists hfits)).trans (if_neg (limits_kept hlimits)))
  case accept =>
    refine act_capacity hr hopen ?_
    simp only [hoffers, List.isEmpty_cons, Bool.false_eq_true, if_false, answered_only hin]
    exact (if_neg (acceptance_allowed hin hcount)).trans (if_neg (limits_kept hlimits))
  case release | fmRelease => exact act_capacity hr hopen (giveBack_accepted hfind hphase hlimits)
  case releaseTimeout =>
    refine act_whenRunning hr ?_
    simp only [fresh_cxl, hfind, hwaits, List.not_mem_nil, decide_false, Bool.not_false, List.foldl_nil]
  case extentList =>
    subst hl
    exact act_mailbox hr (if_neg (Nat.not_lt.mpr hstart))
  case decoder =>
    have hguard : (powered (fresh s) && decide (host < 32) && regGet (fresh s) .cxlHostMapValid host == 1) = true := by
      simp [hp, hlt, hmap]
    exact congrArg Host.Outcome.next (if_pos hguard)
  case lock => exact act_doeServes hr (if_neg (by simp [hlt, hmap]))
  case go => exact act_doeServes hr ((if_neg (by simp [hsess])).trans (if_pos hkey))
  case cdat =>
    refine act_doeServes hr ?_
    cases Config.cdat[entry]? with
    | none => rfl
    | some b => rfl

/-! ### Links -/

/-- A running device is powered and has not failed. -/
theorem powered_and_not_failed_of_running {s : State} (hr : running s = true) : powered s = true ∧ s.power.state ≠ .failed := by
  have hst : s.power.state = .running := beq_iff_eq.mp hr
  simp [powered, hr, hst]

/-- A trained link, of a width and a rate that the device supports, may return to a running device whose PERST is off (R457, R510). -/
theorem link_mayReturn {s : State} {p : PortId} {width rate : Nat} (hr : running s = true) (hperst : perst s p = false)
    (hwidth : width = 2 ∨ width = 4 ∨ width = 8) (hlow : 1 ≤ rate) (hhigh : rate ≤ 4) :
    (powered s && !perst s p && s.power.state != .failed && decide (width ∈ [2, 4, 8]) && decide (1 ≤ rate) && decide (rate ≤ 4)) = true := by
  obtain ⟨hpower, hserves⟩ := powered_and_not_failed_of_running hr
  simp [hpower, hserves, hperst, hwidth, hlow, hhigh]

/-- Settles O42: the link's state or the port is as each event needs it, so the event is its effect. -/
theorem linkCommandsComplete : Obligations.LinkCommandsComplete := by
  unfold Obligations.LinkCommandsComplete
  refine ⟨fun s p hr hlink => ?leaves, fun s p hr hlink _ => ?recovery, fun s p hr _ => ?integrity, fun s p hr _ => ?viral,
    fun s p hr _ => ?removal, fun s p hr _ => ?cache, fun s p hr _ => ?clock,
    fun s p width rate hr hperst hwidth hlow hhigh => ?returns⟩
  case leaves | recovery => exact act_whenRunning hr (if_pos hlink)
  case integrity | viral | removal | cache | clock => exact act_whenRunning hr rfl
  case returns => exact congrArg Host.Outcome.next (if_pos (link_mayReturn (s := fresh s) hr hperst hwidth hlow hhigh))

end Sys2Proof.Laws
end

section
/-! The statements about ownership: the layout of its record, what peers are answered, and where each of its commands completes. -/

namespace Sys2Proof.Laws

open Sys2Proof Sys2Proof.Machine Sys2Proof.Safety

/-! ### The layout of an ownership record -/

/-- An ownership record is its numbers one after the other, with zeros before SINCE and after it (R340). -/
theorem ownBytes_numbers (o : OwnRec) :
    ownBytes o = leBytes 4 o.epoch ++ (leBytes 3 o.owner ++ (leBytes 1 o.state ++ (leBytes 3 o.target ++ (leBytes 1 (b2n o.granted) ++
      (leBytes 4 0 ++ (leBytes 8 o.since ++ (leBytes 8 0 ++ []))))))) := rfl

/-- A flag is a byte. -/
theorem b2n_lt (b : Bool) : b2n b < 256 := by cases b <;> decide

/-- Settles O12: each field is read past the numbers before it, and each of the three creations takes `ownedHere` at epoch 1. -/
theorem ownershipRecordLayout : Obligations.OwnershipRecordLayout := by
  unfold Obligations.OwnershipRecordLayout
  refine fun s w x o h i b f => ⟨fun hepoch howner hstate htarget hsince => ?layout, fun r hr => ?created⟩
  case layout =>
    rw [ownBytes_numbers]
    refine ⟨by simp, field_first hepoch, ?owner, ?state, ?target, ?granted, ?reserved, ?since, ?rest⟩
    case owner => simpa [field_past] using field_first (k := 3) howner
    case state => simpa [field_past] using field_first (k := 1) hstate
    case target => simpa [field_past] using field_first (k := 3) htarget
    case granted => simpa [field_past] using field_first (k := 1) (b2n_lt o.granted)
    case since => simpa [field_past] using field_first (k := 8) hsince
    case reserved | rest => simp [field_past, field_first, -List.append_nil]
  case created =>
    have hown : r = ownedHere s 1 := by obtain rfl | rfl | rfl := hr <;> rfl
    subst hown
    exact ⟨rfl, rfl, rfl, rfl, rfl, rfl⟩

/-! ### Peer messages -/

/-- A peer message that a running device takes is its effect. -/
theorem act_peer {s t : State} {pbr org type : Nat} {msg m : List Byte} {f : State → Nat → List Byte → State} {u : State}
    (hr : running s = true) (hin : peerIn (fresh s) pbr msg type = some (t, org, m)) (e : f t org m = u) :
    act s (whenRunning (receivePeer pbr msg type f)) = .next u :=
  act_whenRunning hr ((receivePeer_taken hin).trans e)

/-- QUERY is answered to its sender with what is known of its subject (R356). -/
theorem exec_query {s t : State} {pbr org : Nat} {msg m : List Byte} (hr : running s = true)
    (hin : peerIn (fresh s) pbr msg 0x04 = some (t, org, m)) :
    exec (.query pbr msg) s =
      .next (sendPeer t org 0x05 (msgEpoch m) (msgHandle m) (answerTo t (msgHandle m) (msgEpoch m)) 0 0) :=
  act_peer hr hin rfl

section
variable {s : State} {h e : Nat}

/-- A record or a trace past the epoch is an answer of HELD (R356). -/
theorem answerTo_held
    (hheld : (∃ x, subjAny s h = some x ∧ e + 1 ≤ x.own.epoch) ∨ ∃ r, traceOf s h = some r ∧ e + 1 ≤ r.own.epoch) :
    answerTo s h e = 1 := by
  refine if_pos ?_
  obtain ⟨x, hx, hpast⟩ | ⟨r, hr, hpast⟩ := hheld
  · simpa [hx] using .inl hpast
  · simpa [hr] using .inr hpast

/-- Short of that, the answer is WAIT or NO, by the open claim (R356). -/
theorem answerTo_not_held (hx : ∀ x, subjAny s h = some x → x.own.epoch ≤ e) (htr : ∀ r, traceOf s h = some r → r.own.epoch ≤ e) :
    answerTo s h e = if (claimOf s h).any (fun c => c.epoch == e) then 2 else 0 := by
  refine if_neg ?_
  simpa [Option.any_eq_true, Nat.lt_succ_iff] using ⟨hx, htr⟩

end

/-- Settles O18: the epochs of the record and of the trace, then of the claim, choose the answer. -/
theorem queryIsAnswered : Obligations.QueryIsAnswered := by
  unfold Obligations.QueryIsAnswered
  rintro s t pbr org h e msg m hr hin (rfl : h = msgHandle m) (rfl : e = msgEpoch m)
  have hexec := exec_query hr hin
  refine ⟨fun hheld => ?held, fun hx htr => ⟨fun hclaim => ?waiting, fun hclaim => ?none⟩⟩
  case held => rwa [answerTo_held hheld] at hexec
  case waiting =>
    obtain ⟨c, hc, hepoch⟩ := hclaim
    rwa [answerTo_not_held hx htr, if_pos (by simp [hc, hepoch])] at hexec
  case none =>
    rwa [answerTo_not_held hx htr, if_neg (by simpa [Option.any_eq_true] using hclaim)] at hexec

/-! ### Handing over and publishing -/

section
variable {s t v : State} {w : Work} {x : Subject} {h i : Nat}

/-- An offer that passes its checks writes its T1 masters down and, with no buddy to wait for, ends (R345, R346). -/
theorem runOffer_unbuddied (hx : heldFor s w.hdr.keySlot (subjectOf w) = some x) (hchks : passes (offerChks s w x) = true)
    (htally : w.tally = []) (hlines : releaseLines s (t1Masters s x.handle) = (t, true))
    (hdown : writeDown (t1Masters s x.handle) t = (v, true))
    (hsend : sendOwn v x.handle (offeredTo v x (opr w 8 3)) = (v, none)) :
    runOffer s w = offerEnd v w x (offeredTo v x (opr w 8 3)) := by
  refine (withSubject_held hx).trans ((checked_pass hchks).trans ?_)
  simp only [htally, hlines, Bool.not_true, Bool.false_eq_true, if_false, hdown, hsend]

/-- An ACCEPT that passes its checks opens its claim, waits, and sends the CLAIM (R348). -/
theorem runAccept_opens (htally : w.tally = []) (hchks : passes (acceptRunChks s w) = true) :
    runAccept s w = sendPeer (updWork { s with own := { s.own with claims := s.own.claims ++ [openedClaim w] } } w.id
      fun y => { y with tally := [1] }) (openedClaim w).offerer 0x01 (openedClaim w).epoch (opr w 0 8) w.hdr.keySlot 0 0 := by
  simp only [runAccept, htally]
  exact checked_pass hchks

/-- CREATE makes its region under the handle and the index that are free, once its bucket is (R148, R361). -/
theorem runCreate_passes (hx : heldFor s w.hdr.keySlot (subjectOf w) = some x) (hchks : passes (createChks s w x) = true)
    (hissue : issueHandle s = .ok t h) (hfree : freeIndex s = some i) (hbucket : bucketBusy t h = false) :
    runCreate s w = finish (placeEntry t (handleEntry (createdRegion t w h i x.homeBed) true)) w.id stDone
      (createdResult (createdRegion t w h i x.homeBed)) (createEffects w (createdRegion t w h i x.homeBed)) := by
  refine (withSubject_held hx).trans ((checked_pass hchks).trans ?_)
  simp only [hissue, hfree]
  exact if_neg (Bool.eq_false_iff.mp hbucket)

/-- VERSION on the version that it names writes the bytes of its source (R302, R362). -/
theorem runVersion_passes {src : Fetch} {b : List Byte} (hx : heldFor s w.hdr.keySlot (subjectOf w) = some x)
    (hchks : passes (versionChks w x) = true) (hbase : opr w 16 8 = x.version)
    (hreach : passes [reachChk s w (addrOf (opr w 24 8)) (opr w 12 4) false] = true)
    (hread : readAddr s (addrOf (opr w 24 8)) (opr w 12 4) false src = (t, .ok b)) :
    runVersion src s w = versionEnd t w x b :=
  (withSubject_held hx).trans ((checked_pass hchks).trans
    ((if_neg (not_not.mpr hbase)).trans ((checked_pass hreach).trans (withOperand_read hread))))

/-- PREFIX copies pages that are all at hand and well formed into a region under the handle and the index that are free (R124, R156). -/
theorem runShare_passes (hx : heldFor s w.hdr.keySlot (subjectOf w) = some x) (hchks : passes (shareChks s w x) = true)
    (hhere : shareLodged s x (firstOwn x (opr w 12 4)) (opr w 12 4) = [])
    (hgood : shareBad s x (firstOwn x (opr w 12 4)) (opr w 12 4) = [])
    (hissue : issueHandle s = .ok t h) (hfree : freeIndex s = some i) :
    runShare s w = shareEnd t w x (sharedRegion t w x (firstOwn x (opr w 12 4)) h i) := by
  refine (withSubject_held hx).trans ((checked_pass hchks).trans ?_)
  simp only [hhere, hgood, hissue, hfree, List.isEmpty_nil, Bool.not_true, Bool.false_eq_true, if_false]

end

/-- Settles O39: the subject is found and the checks pass, so each descriptor is its effect. -/
theorem ownershipWorkComplete : Obligations.OwnershipWorkComplete := by
  unfold Obligations.OwnershipWorkComplete
  refine ⟨fun s t u v id w x hrun hok hdd hx hchks htally hlines hdown hsend hu _ => ?offer,
    fun s id w hrun hok htally hchks => ?accept,
    fun s t id w x h i hrun hok hx hchks hissue hfree hbucket => ?create,
    fun s t u id w x src b hrun hok hdd hx hchks hbase hreach hread hu _ => ?version,
    fun s t u id w x h i hrun hok hdd hx hchks hhere hgood hissue hfree hu _ => ?share⟩
  case offer =>
    subst hu
    exact act_durably hrun hok hdd (runOffer_unbuddied hx hchks htally hlines hdown hsend)
  case accept => exact act_runWork hrun hok (runAccept_opens htally hchks)
  case create => exact act_runWork hrun hok (runCreate_passes hx hchks hissue hfree hbucket)
  case version =>
    subst hu
    exact act_durably hrun hok hdd (runVersion_passes hx hchks hbase hreach hread)
  case share =>
    subst hu
    exact act_durably hrun hok hdd (runShare_passes hx hchks hhere hgood hissue hfree)

/-! ### Claims, audits and lodged tiles -/

/-- Looking up a tile or a key slot does not read the tables of ownership. -/
theorem tileOf_withOwn {s : State} {o : Own} (h n : Nat) : tileOf { s with own := o } h n = tileOf s h n := rfl

theorem slotActive_withOwn {s : State} {o : Own} (k : Nat) : slotActive { s with own := o } k = slotActive s k := rfl

/-- A CLAIM of an offered subject by its target, in its epoch and slot, is granted (R349). -/
theorem decideClaim_granted {s : State} {x : Subject} {m : List Byte} {org : Nat} (hx : subjOf s (msgHandle m) = some x)
    (hslot : slotActive s x.keySlot = true) (harg : msgArg m = x.keySlot) (hbuddy : buddyAway s = false)
    (hoffered : x.own.state = 1) (htarget : x.own.target = org) (hopen : msgHandle m ∉ s.own.expired)
    (hepoch : x.own.epoch = msgEpoch m) :
    decideClaim s org m = sendGrant (grantAway s x org) org m x := by
  simp [decideClaim, hx, hslot, harg, hbuddy, hoffered, htarget, hopen, hepoch]

/-- Settles O40: the message is taken, and the claim, trace, tile or request that it names is as it needs it. -/
theorem peerMessagesAct : Obligations.PeerMessagesAct := by
  unfold Obligations.PeerMessagesAct
  refine ⟨fun s t x pbr org msg m hr hin hx hslot harg hbuddy hoffered htarget hopen hepoch => ?claim,
    fun s t w pbr org i msg m map c hr hin hc horg hepoch hw hfree htally => ?grant,
    fun s t w pbr org msg m c hr hin hst hc horg hw htally => ?refuse, fun s handle c hr hc => ?windowExpiry,
    fun s x handle hr hx hoffered hungranted => ?offerTimeout, fun s hr hnone => ?audit,
    fun s t pbr org msg m hr hin => ?query,
    fun s t pbr org msg m r hr hin htr hasked htarget hepoch hgranted hheld => ?answer,
    fun s handle r hr hasked htr => ?queryTimeout, fun s t pbr org msg m tile hr hin htile hmaster => ?tileReq,
    fun s u off image r t hr hreq ht hversion hlodged hadopt hslot hu => ?tileReply,
    fun s handle number r hr hreq hrepeated => ?tileTimeout, fun s t pbr org msg m hr hin => ?release,
    fun s path value hr hnew hfits => ?mapEpoch, fun s epoch hr => ?graceEnd⟩
  case claim => exact act_peer hr hin (decideClaim_granted hx hslot harg hbuddy hoffered htarget hopen hepoch)
  case grant =>
    refine act_peer hr hin ?_
    simp only [hc, Option.bind_some, if_pos (And.intro horg hepoch), hw, hfree]
    exact if_pos htally
  case refuse =>
    refine act_peer hr hin ((if_neg (by rw [hst]; decide)).trans ?_)
    simp only [hc, Option.bind_some, if_pos horg, hw, hst]
    exact if_pos (by simp [htally])
  case windowExpiry =>
    refine act_whenRunning hr ?_
    simp only [hc]
  case offerTimeout =>
    refine act_whenRunning hr ?_
    simp only [hx]
    exact if_pos ⟨hoffered, by simp [hungranted]⟩
  case audit =>
    refine act_whenRunning hr ?_
    simp only [fresh_own, hnone, List.foldl_nil]
  case query => exact exec_query hr hin
  case answer =>
    refine act_peer hr hin ?_
    simp only [htr, if_pos (And.intro hasked (And.intro htarget (And.intro hepoch hgranted))), hheld]
  case queryTimeout =>
    refine act_whenRunning hr ((if_pos hasked).trans ?_)
    simp only [htr, Option.map_some, Option.getD_some, fresh_own]
  case tileReq =>
    refine act_peer hr hin ?_
    simp only [htile]
    exact (if_neg hmaster).trans (if_pos trivial)
  case tileReply =>
    subst hu
    refine act_whenRunning hr ?_
    have hwanted : ¬(t.version ≠ r.version ∨ t.lodged.isNone = true) := by simp [hversion, Option.isSome_iff_ne_none.mp hlodged]
    simp only [fresh_own, hreq, tileOf_withOwn, ht, slotActive_withOwn, hslot, Bool.true_and, if_neg hwanted, hadopt]
    cases imagePasses t _ <;> rfl
  case tileTimeout =>
    refine act_whenRunning hr ?_
    simp only [fresh_own, hreq]
    exact if_pos hrepeated
  case release => exact act_peer hr hin rfl
  case mapEpoch =>
    refine act_whenRunning hr ?_
    simp only [Nat.mod_eq_of_lt hfits, reg_fresh]
    exact if_neg (Nat.not_le.mpr hnew)
  case graceEnd => exact act_whenRunning hr rfl

end Sys2Proof.Laws
end

section
/-! The statements about a step and about wide registers: what runs, what a read latches and what a write stages. -/

namespace Sys2Proof.Laws

open Sys2Proof Sys2Proof.Machine Sys2Proof.Safety

/-! ### A step -/

/-- Settles O3, by what a step does with a queue that is not empty. -/
theorem stepRunsTheFrontCommand : Obligations.StepRunsTheFrontCommand := by
  unfold Obligations.StepRunsTheFrontCommand
  exact fun _ _ _ => rfl

/-- A step on an empty queue idles. -/
theorem step_of_empty {s : State} (h : s.pending = []) : step s = .next (idle s) := by
  simp only [step, h]

/-- Settles O4: that an empty queue stands for the passing of time is assumption 8. -/
theorem emptyQueueLetsTimePass : Obligations.EmptyQueueLetsTimePass := by
  unfold Obligations.EmptyQueueLetsTimePass
  exact fun _ => step_of_empty

/-! ### Words of a wide register -/

/-- Whether a unit is HELD does not depend on what was sent out. -/
theorem heldFrom_fresh (s : State) : ∀ (k : Nat) (u : UnitEnt), heldFrom k (fresh s) u = heldFrom k s u
  | 0, _ => rfl
  | k + 1, u => by
    simp only [heldFrom, heldFrom_fresh s k]
    rfl

@[simp] theorem unitState_fresh (s : State) (u : UnitEnt) : unitState (fresh s) u = unitState s u := by
  simp only [unitState, unitHeld, heldFrom_fresh]
  rfl

@[simp] theorem readField_fresh (s : State) (f : Fld) (i : Nat) : readField (fresh s) f i = readField s f i := by
  simp only [readField, unitState_fresh]
  rfl

@[simp] theorem regValue_fresh (s : State) (p : Path) (off : Nat) : regValue (fresh s) p off = regValue s p off := by
  simp only [regValue, readField_fresh]
  rfl

/-- The staged words when word `o` on a path is staged as `v` (R552). -/
def withWord (s : State) (p : Path) (o v : Nat) : List (Nat × Nat × Nat) :=
  (pathNo p, o, v) :: s.regs.staged.filter fun e => !(e.1 == pathNo p && e.2.1 == o)

/-- The state with the words staged for a path that lie in the register of `n` words at `b` gone. -/
def unstaged (s : State) (p : Path) (b n : Nat) : State :=
  { s with regs := { s.regs with
    staged := s.regs.staged.filter fun e => !(e.1 == pathNo p && decide (b ≤ e.2.1) && decide (e.2.1 < b + 8 * n)) } }

section
variable {s : State} {p : Path} {off : Nat}

/-- An access of 8 bytes names a whole word (R551). -/
theorem aligned_of_accessOk (h : accessOk off 8 = true) : off / 8 * 8 = off := by
  simp only [accessOk, Bool.and_eq_true, beq_iff_eq, decide_eq_true_eq] at h
  omega

/-- `ADM_QSAMP` is a register of one word (R295). -/
theorem wordsAt_qsamp : wordsAt (qsampOff - 8 * wordOf qsampOff) = 1 := by decide

section
variable (hal : off / 8 * 8 = off) (hwide : 2 ≤ wordsAt (off - 8 * wordOf off))
include hal hwide

/-- A read of 8 bytes of a wide register is a read of its word: `ADM_QSAMP`, which has reads of its own, is not wide. -/
theorem readBar_wide : readBar s p off 8 = ((readWord s p off).1, (readWord s p off).2 % 2 ^ 64) := by
  have hqsamp : off / 8 * 8 ≠ qsampOff := by
    rw [hal]
    rintro rfl
    rw [wordsAt_qsamp] at hwide
    omega
  simp only [readBar, if_neg hqsamp]
  rfl

/-- A read of word 0 latches the register (R552). -/
theorem readWord_first (hw : wordOf off = 0) :
    readWord s p off = ({ s with regs := { s.regs with
      latch := (pathNo p, off, regValue s p off) :: s.regs.latch.filter fun e => !(e.1 == pathNo p && e.2.1 == off) } },
      regValue s p off % 2 ^ 64) := by
  simp only [readWord, hal, if_neg (Nat.not_le.mpr hwide), if_pos hw]

/-- A read of another word returns that word of what the path has latched (R552). -/
theorem readWord_latched {e : Nat × Nat × Nat} (hw : 0 < wordOf off)
    (he : s.regs.latch.find? (fun e => e.1 == pathNo p && e.2.1 == off - 8 * wordOf off) = some e) :
    readWord s p off = (s, bits e.2.2 (64 * wordOf off + 63) (64 * wordOf off)) := by
  simp only [readWord, hal, if_neg (Nat.not_le.mpr hwide), if_neg (Nat.ne_of_gt hw), he]

/-- A write of 8 bytes below the highest word is staged (R552). -/
theorem writeWord_lower (v : Nat) (hlow : wordOf off + 1 < wordsAt (off - 8 * wordOf off)) :
    writeWord s p off 8 v = { s with regs := { s.regs with staged := withWord s p off (v % 2 ^ 64) } } := by
  simp only [writeWord, hal, if_neg (Nat.not_le.mpr hwide), if_pos hlow]
  simp [withWord]

/-- A write of the highest word writes the register from all its words together, and nothing stays staged (R552). -/
theorem writeWord_highest {b n : Nat} {u : State} (v : Nat) (hb : b = off - 8 * wordOf off) (hn : n = wordsAt b)
    (hlast : wordOf off + 1 = n) (hu : u = { s with regs := { s.regs with staged := withWord s p off (v % 2 ^ 64) } }) :
    writeWord s p off 8 v = unstaged (writeFields u p b (64 * n - 1) 0 (stagedValue u p b n)) p b n := by
  subst hb hn hu
  simp only [writeWord, hal, if_neg (Nat.not_le.mpr hwide), if_neg (Nat.not_lt.mpr hlast.ge)]
  simp [withWord, unstaged]

end

/-- A part of 64 bits is a word. -/
theorem word_of_bits (n k : Nat) : bits n (64 * k + 63) (64 * k) % 2 ^ 64 = bits n (64 * k + 63) (64 * k) := by
  have hwidth : 64 * k + 63 + 1 - 64 * k = 64 := by omega
  simp [bits, hwidth]

end

/-- Settles O11: that a latch belongs to its path is the model's choice; staging on each path is R571. -/
theorem wideRegistersLatchAndStage : Obligations.WideRegistersLatchAndStage := by
  unfold Obligations.WideRegistersLatchAndStage
  intro s p off value hok hans hwide
  have hal := aligned_of_accessOk hok
  obtain ⟨-, hwrite, hread, -⟩ := registerCommandsComplete
  refine ⟨fun l hl hw => ?first, fun e hw he => ?latched, fun l u hl hu => ⟨fun hlow => ?lower, ?highest⟩⟩
  case first =>
    rw [hread s p off hok hans, readBar_wide hal hwide, readWord_first hal hwide hw, regValue_fresh, Nat.mod_mod, hl]
    rfl
  case latched =>
    rw [hread s p off hok hans, readBar_wide hal hwide, readWord_latched (s := fresh s) hal hwide hw he, word_of_bits]
  case lower =>
    rw [hwrite s p off 8 value hok hans, writeWord_lower hal hwide _ hlow, Nat.mod_mod, hu, hl]
    rfl
  case highest =>
    rintro hlast b n hb hn v r rfl rfl
    rw [hwrite s p off 8 value hok hans, writeWord_highest (s := fresh s) (u := u) hal hwide _ hb hn (by rw [hlast, hn, hb])]
    · rfl
    · rw [hu, hl, Nat.mod_mod]
      rfl

end Sys2Proof.Laws
end

section
/-! The statement about event logs: what a record does to the log of its severity, and how it interrupts software. -/

namespace Sys2Proof.Laws

open Sys2Proof Sys2Proof.Machine Sys2Proof.Safety

/-! ### A record in the log of its severity -/

/-- What is set at a place of a list is read there. -/
theorem getD_setAt_same {α : Type} (d v e : α) : ∀ (l : List α) (i : Nat), (setAt d l i v).getD i e = v
  | [], 0 | _ :: _, 0 => rfl
  | [], i + 1 => getD_setAt_same d v e [] i
  | _ :: t, i + 1 => getD_setAt_same d v e t i

/-- A log that is replaced is read back. -/
theorem logOf_setLog_same (f : Flt) (sev : Nat) (l : List Event) : logOf (setLog f sev l) sev = l := by
  unfold setLog
  split <;> simp [logOf]

/-- Replacing a log leaves the others. -/
theorem logOf_setLog_other (f : Flt) (l : List Event) {k sev : Nat} (hk : k < 4) (hsev : sev < 4) (hne : k ≠ sev) :
    logOf (setLog f sev l) k = logOf f k := by
  interval_cases sev <;> interval_cases k <;> simp [setLog, logOf] at hne ⊢

section
variable {l : List Event} {e : Event}

/-- Two records coalesce where reason, location and key slot agree and the earlier one is less than 1 ms old (R464). -/
theorem coalesces_iff {x : Event} {reason slot loc now : Nat} :
    coalesces x reason slot loc now = true ↔ x.reason = reason ∧ x.location = loc ∧ x.keySlot = slot ∧ now < x.time + 1000000 := by
  simp only [coalesces, Bool.and_eq_true, beq_iff_eq, decide_eq_true_eq]
  tauto

/-- The record is counted in one of the log. -/
def isCounted (l : List Event) (e : Event) : Prop :=
  ∃ x ∈ l, x.reason = e.reason ∧ x.location = e.location ∧ x.keySlot = e.keySlot ∧ e.time < x.time + 1000000

/-- The log with the record counted wherever it coalesces (R464). -/
def countedIn (l : List Event) (e : Event) : List Event :=
  l.map fun x => if x.reason = e.reason ∧ x.location = e.location ∧ x.keySlot = e.keySlot ∧ e.time < x.time + 1000000
    then { x with count := min 65535 (x.count + 1) } else x

theorem any_coalesces_iff : (l.any fun x => coalesces x e.reason e.keySlot e.location e.time) = true ↔ isCounted l e := by
  simp only [List.any_eq_true, coalesces_iff, isCounted]

theorem logWith_counted (h : isCounted l e) : logWith l e = some (countedIn l e) := by
  rw [logWith, if_pos (any_coalesces_iff.mpr h)]
  simp only [updIf, countedIn, coalesces_iff]

theorem logWith_appended (h : ¬isCounted l e) (hroom : l.length < 16384) : logWith l e = some (l ++ [e]) := by
  rw [logWith, if_neg (mt any_coalesces_iff.mp h), if_pos (show l.length < logCapacity from hroom)]

theorem logWith_full (h : ¬isCounted l e) (hfull : 16384 ≤ l.length) : logWith l e = none := by
  rw [logWith, if_neg (mt any_coalesces_iff.mp h), if_neg (show ¬l.length < logCapacity from Nat.not_lt.mpr hfull)]

end

section
variable {f : Flt} {e : Event}

/-- The log of the record's severity becomes what the record makes of it. -/
theorem logOf_fltWith_taken {l : List Event} (h : logWith (logOf f e.severity) e = some l) : logOf (fltWith f e) e.severity = l := by
  simp only [fltWith, h]
  exact logOf_setLog_same f e.severity l

/-- The logs of other severities stay. -/
theorem logOf_fltWith_other {k : Nat} (hk : k < 4) (hsev : e.severity < 4) (hne : k ≠ e.severity) :
    logOf (fltWith f e) k = logOf f k := by
  unfold fltWith
  split
  · exact logOf_setLog_other f _ hk hsev hne
  · rfl

/-- A record that is dropped is counted, and the times of the first and of the latest such record are kept (R464). -/
theorem fltWith_dropped (h : logWith (logOf f e.severity) e = none) :
    logOf (fltWith f e) e.severity = logOf f e.severity ∧
      (fltWith f e).overflow.getD e.severity 0 = f.overflow.getD e.severity 0 + 1 ∧
      (fltWith f e).overflowAt.getD e.severity (0, 0) =
        (if f.overflow.getD e.severity 0 = 0 then e.time else (f.overflowAt.getD e.severity (0, 0)).1, e.time) := by
  simp only [fltWith, h, getD_setAt_same]
  exact ⟨rfl, trivial, trivial⟩

end

/-! ### Vectors -/

section
variable (s : State) (p n : Nat)

/-- Raising a vector sends it out where it is not masked. -/
theorem raiseAt_out : (raiseAt s p n).out = s.out ++ if vectorMasked s p n then [] else [.vector p n] := by
  unfold raiseAt
  split <;> simp [emit]

/-- A masked one is pending from then on. -/
theorem mem_pendingVec_raiseAt (x : Nat × Nat) :
    x ∈ (raiseAt s p n).ledg.pendingVec ↔ x ∈ s.ledg.pendingVec ∨ (x = (p, n) ∧ vectorMasked s p n = true) := by
  unfold raiseAt
  by_cases hm : vectorMasked s p n = true
  · by_cases hin : (p, n) ∈ s.ledg.pendingVec
    · simp only [hm, hin, if_true, and_true]
      exact ⟨.inl, fun h => h.elim id (· ▸ hin)⟩
    · simp [hm, hin]
  · simp [hm]

/-- Only the pending bits and what is sent out change. -/
theorem raiseAt_frame : raiseAt s p n =
    { s with ledg := { s.ledg with pendingVec := (raiseAt s p n).ledg.pendingVec }, out := (raiseAt s p n).out } := by
  unfold raiseAt
  split <;> rfl

/-- So whether a vector is masked stays. -/
@[simp] theorem vectorMasked_raiseAt (q m : Nat) : vectorMasked (raiseAt s p n) q m = vectorMasked s q m := by
  rw [raiseAt_frame]
  rfl

/-- A vector is raised on both ports (assumption 182). -/
theorem raiseVector_out : (raiseVector s n).out =
    s.out ++ (([0, 1].filter fun p => !vectorMasked s p n).map fun p => .vector p n) := by
  rw [raiseVector, raiseAt_out, raiseAt_out, vectorMasked_raiseAt]
  cases h0 : vectorMasked s 0 n <;> cases h1 : vectorMasked s 1 n <;> simp [h0, h1]

theorem mem_pendingVec_raiseVector (x : Nat × Nat) :
    x ∈ (raiseVector s n).ledg.pendingVec ↔ x ∈ s.ledg.pendingVec ∨ (x.1 < 2 ∧ x.2 = n ∧ vectorMasked s x.1 n = true) := by
  obtain ⟨q, m⟩ := x
  simp only [raiseVector, mem_pendingVec_raiseAt, vectorMasked_raiseAt, or_assoc, Prod.mk.injEq]
  refine or_congr_right ⟨?_, ?_⟩
  · rintro (⟨⟨rfl, rfl⟩, hm⟩ | ⟨⟨rfl, rfl⟩, hm⟩) <;> simp [hm]
  · rintro ⟨hq, rfl, hm⟩
    interval_cases q <;> simp_all

theorem raiseVector_frame : raiseVector s n =
    { s with ledg := { s.ledg with pendingVec := (raiseVector s n).ledg.pendingVec }, out := (raiseVector s n).out } := by
  unfold raiseVector
  rw [raiseAt_frame (raiseAt s 0 n), raiseAt_frame s]

end

/-! ### Recording -/

/-- The state with a record in the logs, and ALERT_N as its severity has it (R464). -/
def recorded (s : State) (e : Event) : State :=
  { s with flt := fltWith s.flt e, power := if 2 ≤ e.severity then { s.power with alert := .asserted } else s.power }

/-- A record of a severity raises vector 0 (R464). -/
def interrupts (s : State) (sev : Nat) : Prop := 2 ≤ sev ∨ bit (reg s .fltEvtCfgNotify) sev = true

section
variable {s : State} {sev reason cls slot handle loc : Nat} {arg : List Nat} {e : Event}
  (he : e = { reason := reason, cls := cls, severity := sev, count := 1, keySlot := slot, handle := handle, location := loc,
              arg := arg, seq := s.flt.seq, time := s.time })
include he

/-- An event is a record in the logs, and vector 0 as the severity or NOTIFY has it. -/
theorem eventAt_eq : eventAt s sev reason cls slot handle loc arg =
    if decide (2 ≤ sev) || bit (reg s .fltEvtCfgNotify) sev then raiseVector (recorded s e) 0 else recorded s e := by
  subst he
  by_cases hsev : 2 ≤ sev
  · simp [eventAt, recorded, hsev]
  · simp [eventAt, recorded, hsev]
    rfl

theorem eventAt_interrupts (h : interrupts s sev) : eventAt s sev reason cls slot handle loc arg = raiseVector (recorded s e) 0 := by
  rw [eventAt_eq he, if_pos (by simpa [interrupts] using h)]

theorem eventAt_silent (h : ¬interrupts s sev) : eventAt s sev reason cls slot handle loc arg = recorded s e := by
  rw [eventAt_eq he, if_neg (by simpa [interrupts] using h)]

/-- What an event does to logs and ALERT_N, interrupting or not. -/
theorem eventAt_flt_power : (eventAt s sev reason cls slot handle loc arg).flt = fltWith s.flt e ∧
    (eventAt s sev reason cls slot handle loc arg).power = (if 2 ≤ sev then { s.power with alert := .asserted } else s.power) := by
  by_cases hi : interrupts s sev
  · rw [eventAt_interrupts he hi, raiseVector_frame, he]
    exact ⟨rfl, rfl⟩
  · rw [eventAt_silent he hi, he]
    exact ⟨rfl, rfl⟩

/-- Beside them only the pending bits and what is sent out change. -/
theorem eventAt_frame {t : State} (ht : t = eventAt s sev reason cls slot handle loc arg) :
    t = { s with flt := t.flt, power := t.power, ledg := t.ledg, out := t.out } := by
  subst ht
  by_cases hi : interrupts s sev
  · rw [eventAt_interrupts he hi, raiseVector_frame]
    rfl
  · rw [eventAt_silent he hi]
    rfl

end

/-- Looking at ALERT_N sends nothing out. -/
@[simp] theorem alertCheck_out (s : State) : (alertCheck s).out = s.out := by
  unfold alertCheck
  dsimp only
  split <;> rfl

/-- Settles O14: the log of the severity decides what becomes of the record, and the severity and NOTIFY whether vector 0 is raised, on both
ports (assumption 182). -/
theorem eventLogsKeepTheirRule : Obligations.EventLogsKeepTheirRule := by
  unfold Obligations.EventLogsKeepTheirRule
  intro s t sev reason cls slot handle loc arg e hsev he ht
  obtain ⟨hflt, hpower⟩ := eventAt_flt_power he
  rw [← ht] at hflt hpower
  have hes : e.severity = sev := by rw [he]
  have hcounted : (∃ x ∈ logOf s.flt sev, x.reason = reason ∧ x.location = loc ∧ x.keySlot = slot ∧ s.time < x.time + 1000000) ↔
      isCounted (logOf s.flt sev) e := by rw [he]; rfl
  rw [hcounted]
  refine ⟨fun k hk hne => ?others, fun hc => ?counted, fun hc => ⟨fun hroom => ?appended, fun hfull => ?dropped⟩, hpower, ?vector,
    eventAt_frame he ht, fun hr ch log hlog => ?readable⟩
  case others => rw [hflt, logOf_fltWith_other hk (hes ▸ hsev) (hes ▸ hne)]
  case counted =>
    have h := logOf_fltWith_taken (f := s.flt) (by rw [hes]; exact logWith_counted hc)
    rw [hflt, ← hes, h, hes, he]
    rfl
  case appended =>
    have h := logOf_fltWith_taken (f := s.flt) (by rw [hes]; exact logWith_appended hc hroom)
    rw [hflt, ← hes, h, hes]
  case dropped =>
    obtain ⟨hlog, hcount, htimes⟩ := fltWith_dropped (f := s.flt) (by rw [hes]; exact logWith_full hc hfull)
    rw [hes] at hlog hcount htimes
    rw [hflt, hlog, hcount, htimes, he]
    exact ⟨rfl, rfl, rfl, rfl⟩
  case vector =>
    split
    next hi =>
      rw [eventAt_interrupts he hi] at ht
      subst ht
      exact ⟨raiseVector_out _ 0, mem_pendingVec_raiseVector _ 0, congrArg State.ledg (raiseVector_frame _ 0)⟩
    next hi =>
      rw [eventAt_silent he hi] at ht
      subst ht
      exact ⟨rfl, rfl⟩
  case readable =>
    obtain ⟨-, hrecords, -⟩ := mailboxCommandsComplete
    exact ⟨_, _, hrecords s _ ch log _ hr hlog rfl rfl, alertCheck_out _⟩

end Sys2Proof.Laws
end

section
/-! The statements about power: what an input loss leaves, what the device refuses before it is ready, and where each command of start, power
and reset completes. -/

namespace Sys2Proof.Laws

open Sys2Proof Sys2Proof.Machine Sys2Proof.Safety

variable {s : State}

/-! ### Losing power -/

/-- An input out of its range stops a running device with its seal (R423, R529). -/
theorem inputFails_running {vin : Nat} {holds : Bool} (h : s.power.state = .running) :
    inputFails s vin holds = sealAndStop s holds .off vin := by
  simp only [inputFails, h]

/-- What every step of a fold keeps, the fold keeps. -/
theorem foldl_keeps {α β : Type} {f : State → α → State} {g : State → β} (h : ∀ s a, g (f s a) = g s) (l : List α) (s : State) :
    g (l.foldl f s) = g s :=
  List.foldlRecOn (motive := fun u => g u = g s) l f rfl fun u hu a _ => (h u a).trans hu

/-- What of a state does not depend on its tiles, here or lodged, nor on what is sent out. -/
def stillParts (s : State) : Nv × List Subject × List Instr := (s.nv, s.subjects, s.pending)

/-- Refusing the accesses that wait sends answers out only. -/
theorem stillParts_refuseAccess (s : State) (a : Access) : stillParts (refuseAccess s a) = stillParts s := rfl

/-- Flushing writes copies of tiles only. -/
theorem stillParts_flushDurable (s : State) : stillParts (flushDurable s) = stillParts s := by
  unfold flushDurable
  refine foldl_keeps (fun s t => ?_) _ s
  split <;> rfl

/-- The power-loss sequence ends in a cut of power, of a state that has counted the loss (R423, R486). -/
theorem sealAndStop_cuts (s : State) (holds : Bool) (st : PowerState) (vin : Nat) :
    ∃ u, sealAndStop s holds st vin = cutPower u st vin ∧ u.nv.losses = s.nv.losses + 1 ∧ u.subjects = s.subjects ∧
      u.pending = s.pending := by
  have hwait := foldl_keeps stillParts_refuseAccess s.cxl.waiting s
  have hflush := (stillParts_flushDurable (s.cxl.waiting.foldl refuseAccess s)).trans hwait
  simp only [stillParts, Prod.mk.injEq] at hwait hflush
  obtain ⟨hnv, hsubj, hpend⟩ := hwait
  obtain ⟨hnv', hsubj', hpend'⟩ := hflush
  unfold sealAndStop
  refine ⟨_, rfl, ?_⟩
  split
  · exact ⟨congrArg (fun n => n.losses + 1) hnv', hsubj', hpend'⟩
  · exact ⟨congrArg (fun n => n.losses + 1) hnv, hsubj, hpend⟩

/-- What lies in flash of a tile is its copies in T4. -/
theorem tier_flashPart {t : Tile} {c : TileCopy} (hc : c ∈ (flashPart t).copies) : c.tier = 4 := by
  simpa using (List.mem_filter.mp hc).2

/-- After a cut of power every copy that is left lies in flash (R514). -/
theorem cutPower_tier {st : PowerState} {vin : Nat} {x : Tile} {c : TileCopy}
    (hx : x ∈ (cutPower s st vin).tiles ++ (cutPower s st vin).own.lodged) (hc : c ∈ x.copies) : c.tier = 4 := by
  have hflash : ∃ t, flashPart t = x := by
    rcases List.mem_append.mp hx with h | h
    · obtain ⟨t, -, ht⟩ := List.mem_map.mp h
      exact ⟨t, ht⟩
    · obtain ⟨t, -, ht⟩ := List.mem_map.mp (List.mem_filter.mp h).1
      exact ⟨t, ht⟩
  obtain ⟨t, rfl⟩ := hflash
  exact tier_flashPart hc

/-- A key whose entries a filter drops is found no more. -/
theorem aget_filter_none {κ β : Type} [DecidableEq κ] {x : κ} {q : κ × β → Bool} (hq : ∀ v, q (x, v) = false) :
    ∀ l : List (κ × β), aget (l.filter q) x = none
  | [] => rfl
  | (k, v) :: l => by
    have ih := aget_filter_none hq l
    by_cases hk : k = x
    · subst hk
      simpa [hq] using ih
    · by_cases hkeep : q (k, v) = true
      · simpa [hkeep, aget, hk] using ih
      · simpa [hkeep] using ih

/-- A field that is not kept reads its reset value after a cut of power. -/
theorem regGet_cutPower {st : PowerState} {vin : Nat} {f : Fld} (i : Nat) (hf : (fldSpec f).kept = false) :
    regGet (cutPower s st vin) f i = fldReset s.model f i := by
  have hnone : aget (cutPower s st vin).regs.cells (f, i) = none := aget_filter_none (fun _ => hf) s.regs.cells
  simp only [regGet, hnone]
  rfl

/-- Settles O19: that the state is OFF is assumption 130, and what of a tile lies in flash assumption 133. -/
theorem powerLossKeepsFlashOnly : Obligations.PowerLossKeepsFlashOnly := by
  unfold Obligations.PowerLossKeepsFlashOnly
  intro s t vinMv holds hst hlow e
  have hexec : exec (.powerLoss vinMv holds) s = .next (sealAndStop (fresh s) holds .off vinMv) :=
    congrArg Host.Outcome.next ((if_pos hlow).trans (inputFails_running hst))
  obtain ⟨u, hcut, hlosses, hsubj, hpend⟩ := sealAndStop_cuts (fresh s) holds .off vinMv
  obtain rfl : t = cutPower u .off vinMv := by
    rw [hexec, hcut] at e
    exact (Host.Outcome.next.inj e).symm
  exact ⟨rfl, rfl, rfl, rfl, rfl, rfl, rfl, rfl, rfl, fun x hx c hc => cutPower_tier hx hc, fun l => regGet_cutPower l rfl, hlosses,
    congrArg (List.map (·.handle)) hsubj, hpend⟩

/-! ### Before ready -/

section
variable (hst : s.power.state = .starting)
include hst

/-- A device that starts is not running. -/
theorem not_running_of_starting : running s = false := by
  rw [running, hst]
  rfl

theorem powered_of_starting : powered s = true := by
  simp [powered, hst]

/-- A command that needs a running device changes nothing. -/
theorem act_whenRunning_starting (f : State → State) : act s (whenRunning f) = .next (fresh s) := by
  rw [act_fresh, whenRunning, if_neg (by simp [not_running_of_starting hst])]

/-- The mailbox answers Busy (R512, assumption 118). -/
theorem act_mailbox_starting (ch : Path) (f : State → State) : act s (mailbox ch f) = .next (emit (fresh s) (.refuse mbBusy)) := by
  rw [act_fresh, mailbox, if_neg (by simp [running, inFailed, hst]), if_pos (show (fresh s).power.state = .starting from hst)]

/-- An SPDM request answers Busy (R512, assumption 112). -/
theorem act_spdmRequest_starting (f : State → State) : act s (spdmRequest f) = .next (emit (fresh s) (.refuse spdmBusy)) := by
  rw [act_fresh, spdmRequest, if_neg (by simp [spdmServes, running, inFailed, hst]), if_pos (powered_of_starting (s := fresh s) hst)]

/-- A load is answered with poison, and a store is dropped (R512). -/
theorem act_whenServing_starting (body : Option (List Byte)) (f : State → State) :
    act s (whenServing body f) = .next (emit (fresh s) (if body.isSome then .dropped else .poison)) := by
  rw [act_fresh, whenServing, if_neg (by simp [not_running_of_starting hst]), if_pos (powered_of_starting (s := fresh s) hst)]

/-- Only the SYS block answers (R512). -/
theorem answers_starting (off : Nat) : Machine.answers s off = decide (off < 0x100000) := by
  simp [Machine.answers, powered_of_starting hst, hst]

/-- A write beyond the SYS block changes nothing. -/
theorem writeAccess_starting {p : Path} {off width v : Nat} (hoff : 0x100000 ≤ off) : writeAccess s p off width v = s :=
  if_neg (by simp [answers_starting hst, hoff])

/-- The MSI-X table does not answer before the links train (R510). -/
theorem bar2Access_starting {p : Path} {off width : Nat} : bar2Access s p off width = none := by
  unfold bar2Access
  split
  · rfl
  · exact if_neg (by simp [hst])

end

/-- Settles O20, for the requests that it names: what serves them sees that the device starts. -/
theorem beforeReadyTheDeviceRefuses : Obligations.BeforeReadyTheDeviceRefuses := by
  unfold Obligations.BeforeReadyTheDeviceRefuses
  intro s p q off width value line pbr addr log version te b hst
  refine ⟨fun hoff => ?write, act_whenRunning_starting hst _, act_mailbox_starting hst _ _, act_mailbox_starting hst _ _,
    act_mailbox_starting hst _ _, act_spdmRequest_starting hst _, act_spdmRequest_starting hst _, act_whenServing_starting hst none _,
    ?store, fun hok hoff => ?read⟩
  case write =>
    change execRegisterWrite p off width value s = _
    rw [execRegisterWrite, act_fresh]
    simp only [writeAccess_starting (s := fresh s) hst hoff, bar2Access_starting (s := fresh s) hst, ite_self]
  case store =>
    cases b with
    | data b => exact act_whenServing_starting hst (some b) _
    | poison => exact act_whenServing_starting hst (some []) _
  case read =>
    obtain ⟨-, -, hread, -⟩ := registerCommandsComplete
    exact hread s p off hok (by simp only [answers_starting hst, decide_eq_true_eq]; omega)

/-! ### Power, start and reset -/

/-- An event changes no power state. -/
@[simp] theorem event_powerState (reason cls slot handle loc : Nat) (arg : List Nat) :
    (event s reason cls slot handle loc arg).power.state = s.power.state := by
  have hone (t : State) (sev reason : Nat) (arg : List Nat) :
      (eventAt t sev reason cls slot handle loc arg).power.state = t.power.state := by
    rw [(eventAt_flt_power rfl).2]
    split <;> rfl
  unfold event
  dsimp only
  split
  · exact hone ..
  · exact (hone ..).trans (hone ..)

@[simp] theorem running_event (reason cls slot handle loc : Nat) (arg : List Nat) :
    running (event s reason cls slot handle loc arg) = running s := by
  rw [running, event_powerState, running]

/-- Setting a PERST input does not read as another state of power. -/
@[simp] theorem powered_setPerst (p : PortId) (b : Bool) : powered (setPerst s p b) = powered s := by cases p <;> rfl
@[simp] theorem running_setPerst (p : PortId) (b : Bool) : running (setPerst s p b) = running s := by cases p <;> rfl
@[simp] theorem inFailed_setPerst (p : PortId) (b : Bool) : inFailed (setPerst s p b) = inFailed s := by cases p <;> rfl
@[simp] theorem quiescing_setPerst (p : PortId) (b : Bool) : (setPerst s p b).power.quiescing = s.power.quiescing := by cases p <;> rfl
@[simp] theorem reg_setPerst (p : PortId) (b : Bool) (f : Fld) : reg (setPerst s p b) f = reg s f := by cases p <;> rfl

@[simp] theorem perst_fresh (s : State) (p : PortId) : perst (fresh s) p = perst s p := by cases p <;> rfl

/-- Settles O23: each command's conditions hold, so it is its effect. FIRMWARE_WRITE to slot A within its region is assumption 137. -/
theorem powerCommandsComplete : Obligations.PowerCommandsComplete := by
  unfold Obligations.PowerCommandsComplete
  refine ⟨fun s x k hin hoff hk => ?start, fun s energy bankMv x hst hwait hbank => ?charged, fun s vinMv holds hst hlow => ?loss,
    fun s vinMv holds hst hhigh => ?overVoltage, fun s hst => ?below, fun s live hout => ?insertion, fun s p hr ha hb => ?portReset,
    fun s p hr hp hstage => ?deassert, fun s hr hperst hq => ?warmReset, fun s path hr hq => ?quiesce, fun s hr hq => ?timeout,
    fun s path img t b hr hread hok => ?nvWrite, fun s svn img hst herr hlen => ?firmware, fun s vinMv holds hr hvin => ?thermal⟩
  case start =>
    have hstarts : ((fresh s).power.inserted && ((fresh s).power.state == .off ||
        ((fresh s).power.state == .starting && reg (fresh s) .sysBootStage == 1 && (fresh s).power.waitBank.isNone))) = true := by
      simp [hin, hoff]
    change execPowerOnStart x s = _
    rw [execPowerOnStart, act_fresh, if_pos hstarts]
    simp only [hk]
  case charged =>
    change execHoldupCharged energy bankMv s = _
    rw [execHoldupCharged, act_fresh, if_pos (show (fresh s).power.state = .starting from hst)]
    simp only [bankCheck, fresh_power, hwait, Option.map_some, if_pos hbank]
  case loss => exact congrArg Host.Outcome.next ((if_pos hlow).trans (inputFails_running hst))
  case overVoltage => exact congrArg Host.Outcome.next ((if_pos hhigh).trans (inputFails_running hst))
  case below =>
    change execInputBelow20v s = _
    rw [execInputBelow20v, act_fresh]
    obtain hst | hst := hst <;> simp only [fresh_power, hst, fresh_free]
  case insertion =>
    change execInsertion live s = _
    rw [execInsertion, act_fresh, if_neg (by simp [hout])]
    rfl
  case portReset =>
    have hserves : (running (fresh s) || (fresh s).power.state == .quiesced) = true := by simp [hr]
    change execPortWarmReset p s = _
    rw [execPortWarmReset, act_fresh, if_neg (by simp [ha, hb]), if_pos hserves]
  case deassert =>
    obtain ⟨hpower, hserves⟩ := powered_and_not_failed_of_running hr
    change execPerstDeassert p s = _
    rw [execPerstDeassert, act_fresh, if_neg (by simp [hp]), if_pos (by simp [hpower, hstage, inFailed, hserves])]
  case warmReset =>
    change execDeviceWarmReset s = _
    rw [execDeviceWarmReset, act_fresh, if_neg (by simp [hperst]), if_neg (by simp [hq]), if_pos (by simp [hr])]
  case quiesce => exact act_whenRunning hr (if_neg (by simp [hq]))
  case timeout => exact act_whenRunning hr (if_pos hq)
  case nvWrite =>
    change execNvWrite path img true true s = _
    rw [execNvWrite, act_fresh, if_pos (by simp [hr])]
    refine congrArg Host.Outcome.next ((sourced_read hread).trans ?_)
    simp only [hok, if_true, Option.getD_some]
  case firmware => exact congrArg Host.Outcome.next (if_pos ⟨hst, herr, rfl, hlen⟩)
  case thermal =>
    change execThermalCritical vinMv holds s = _
    rw [execThermalCritical, act_fresh, if_pos (by simp [powered_and_not_failed_of_running hr])]
    exact congrArg Host.Outcome.next ((if_pos (by simp [hr])).trans (by rw [if_pos hvin]))

end Sys2Proof.Laws
end

section
/-! The statement about contexts: where its conditions hold, each command is its own effect. -/

namespace Sys2Proof.Laws

open Sys2Proof Sys2Proof.Machine Sys2Proof.Safety

section
variable {s : State} {k : Nat}

/-- A slice is over at a holder that has a current context: it is marked as used up, and the boundary follows (R377, R383). -/
theorem sliceOver_current (h : (currentOf s k).isSome = true) :
    sliceOver s k = boundary { s with units := { s.units with expired := insNat k s.units.expired } } k := if_pos h

/-- A leaf takes part, switches no context, has the work waiting, and may sequence it (R26, R201). -/
theorem leaf_mayRead {leaf id : Nat} {w : Work} (hserv : serving s leaf = true)
    (hsw : s.units.switching.any (fun e => e.1 == holder s leaf) = false) (hwait : (waitingFor s leaf).any (fun x => x.id == id) = true)
    (hop : isOp 0x11 w = false) :
    ¬(!serving s leaf || s.units.switching.any (fun e => e.1 == holder s leaf) || !((waitingFor s leaf).any fun x => x.id == id) ||
      (isOp 0x11 w && !sequenceRoom s leaf)) = true := by
  simp [hserv, hsw, hwait, hop]

end

/-- Settles O28: each guard holds, so the command is its effect. -/
theorem contextCommandsComplete : Obligations.ContextCommandsComplete := by
  unfold Obligations.ContextCommandsComplete
  refine ⟨fun s r u leaf c k hr hk hsw hload hu => ?switched, fun s leaf hr hres hcur => ?slice, fun s unit hr hres hcur => ?resident,
    fun s w leaf at_ hr hw hserv hsw hwait hop hcur hleast => ?next, fun s t w leaf hr hw hserv hsw hwait hop hcur hleast hplace => ?first⟩
  case switched =>
    subst hk hload hu
    refine act_whenRunning hr ?_
    simp only [fresh_units, holder_fresh, hsw]
    rfl
  case slice => exact act_whenRunning hr ((if_neg (Bool.eq_false_iff.mp hres)).trans (sliceOver_current (s := fresh s) hcur))
  case resident => exact act_whenRunning hr ((if_pos hres).trans (sliceOver_current (s := fresh s) hcur))
  case next =>
    refine act_whenRunning hr ?_
    simp only [hw]
    refine (if_neg (leaf_mayRead hserv hsw hwait hop)).trans ?_
    simp only [hcur, if_true, hleast]
  case first =>
    refine act_whenRunning hr ?_
    simp only [hw]
    refine (if_neg (leaf_mayRead hserv hsw hwait hop)).trans ?_
    simp only [hcur, hleast, if_true, hplace]

end Sys2Proof.Laws
end

section
/-! The statements about clocks, margins and temperature, and about observation: where its conditions hold, each command is its own effect. -/

namespace Sys2Proof.Laws

open Sys2Proof Sys2Proof.Machine Sys2Proof.Safety

/-! ### Clocks, margins and temperature -/

@[simp] theorem bedRec_fresh (s : State) (b : Nat) : bedRec (fresh s) b = bedRec s b := rfl

/-- Settles O44: each guard holds, so the event is its effect. Of the walks it states the one that relaxes the plan. -/
theorem clockCommandsComplete : Obligations.ClockCommandsComplete := by
  unfold Obligations.ClockCommandsComplete
  refine ⟨fun s bed hr hruns hcalm => ?droop, fun s bed hr => ?stretchRelease, fun s bed hr hen hruns hidle => ?stop,
    fun s bed p slack next walk b hr hruns hb hworst hlow hhigh h24 => ?walk,
    fun s u x y railX railY tempX tempY hr hnear hu hrail htemp => ?neighbour, fun s bed hr hheld hrec => ?holdRelease,
    fun s bed unit r b hr hb hunit hlt => ?probe, fun s bed halve month hr => ?scrub, fun s bed shift hr hruns => ?oscillator,
    fun s hr => ?ageing, fun s b hr hlt => ?throttle, fun s b hr => ?throttleRelease, fun s bed hr hlt => ?thermalHold⟩
  case droop => exact act_whenRunning hr ((if_neg (by simp [hruns])).trans (if_neg (Bool.eq_false_iff.mp hcalm)))
  case stretchRelease | scrub | ageing | throttleRelease => exact act_whenRunning hr rfl
  case stop => exact act_whenRunning hr (if_pos ⟨hen, hruns, hidle⟩)
  case walk =>
    refine act_whenRunning hr ((if_neg (by simp [hruns])).trans ?_)
    simp only [hb, hworst]
    exact (if_neg (Nat.not_lt.mpr hlow)).trans (if_pos ⟨hhigh, h24⟩)
  case neighbour =>
    subst hu
    refine act_whenRunning hr ((if_neg (by simp [hnear])).trans ((if_pos (.inl hrail)).trans ?_))
    exact (if_neg (Nat.not_lt.mpr htemp)).trans (if_pos hrail)
  case holdRelease => exact act_whenRunning hr (if_pos (by simpa [hrec] using hheld))
  case probe =>
    refine act_whenRunning hr ?_
    simp only [bedRec_fresh, hb, if_true, hunit, if_pos hlt]
  case oscillator => exact act_whenRunning hr (if_pos hruns)
  case throttle => exact act_whenRunning hr (if_pos hlt)
  case thermalHold => exact act_whenRunning hr (if_neg (Nat.not_le.mpr hlt))

/-! ### Observation -/

section
variable {s t : State} {w : Work} {x : Subject}

/-- MARK that names no subject marks where its fields are well formed (R497). -/
theorem runMark_unnamed (hsubj : subjectOf w = 0) (hchks : passes [chk (markFields w) stBad] = true) : runMark s w = markEnd s w :=
  (if_pos hsubj).trans (checked_pass hchks)

/-- MODE TILES of DUMP, which may pass over absent tiles, writes the tiles of its selection once none of the first ones is awaited and its
transfers may start (R499, R291). -/
theorem runDumpTiles_passes (hx : heldFor s w.hdr.keySlot (subjectOf w) = some x) (hchks : passes (dumpTilesChks s w) = true)
    (hskip : bit (opr w 26 1) 0 = false)
    (hhere : ((dumpSet s x (selectionOf w)).take (opr w 16 8 / tileBytes)).filter (fun t => t.lodged.isSome && !dumpable w t) = [])
    (hin : mayMove s w 0 (farBytes ((dumpSet s x (selectionOf w)).take (opr w 16 8 / tileBytes))) = true)
    (hout : mayMove s w 1 (portBytes (addrOf (opr w 8 8))
      (min (opr w 16 8) ((dumpSet s x (selectionOf w)).length * tileBytes))) = true)
    (ht : t = moved s w (farBytes ((dumpSet s x (selectionOf w)).take (opr w 16 8 / tileBytes)))
      (portBytes (addrOf (opr w 8 8)) (min (opr w 16 8) ((dumpSet s x (selectionOf w)).length * tileBytes)))) :
    runDumpTiles s w = writeTiles t w (dumpSet s x (selectionOf w)) := by
  subst ht
  refine (withSubject_held hx).trans ((checked_pass hchks).trans ((if_neg (by simp [hskip])).trans ((if_neg ?_).trans ?_)))
  · simp only [hhere, List.isEmpty_nil, Bool.not_true, Bool.false_eq_true, not_false_eq_true]
  · exact shaped_open hin hout

/-- MODE TRACE of DUMP writes the oldest records that fit once their transfer may start (R500, R291). -/
theorem runDumpTrace_passes {rs : List TraceRec} (hchks : passes (dumpTraceChks s w) = true)
    (hrs : rs = recordsFit (opr w 16 8) s.obs.ring)
    (hout : mayMove s w 1 (portBytes (addrOf (opr w 8 8)) (rs.flatMap (·.body)).length) = true)
    (ht : t = moved s w 0 (portBytes (addrOf (opr w 8 8)) (rs.flatMap (·.body)).length)) :
    runDumpTrace s w =
      concludeOut t w stDone (dumpResult rs.length (reg s .obsTbufStatLost - s.obs.lostSeen) (s.obs.ring.length - rs.length)) []
        [.traceTaken ((rs.getLast?.map fun r => r.seq + 1).getD 0) (reg s .obsTbufStatLost)] (addrOf (opr w 8 8))
        (rs.flatMap (·.body)) := by
  subst hrs ht
  rw [runDumpTrace, checked_pass hchks]
  exact shaped_out hout

end

/-- Settles O38: the subject is found and the checks pass, so each descriptor is its effect; that a sample leaves the SNAP registers as they
were is assumption 104. -/
theorem observationCommandsComplete : Obligations.ObservationCommandsComplete := by
  unfold Obligations.ObservationCommandsComplete
  refine ⟨fun s u id w hrun hok hsubj hchks hu _ => ?mark,
    fun s t u id w x hrun hok hx hchks hskip hhere hin hout ht hu _ => ?dumpTiles,
    fun s t u id w rs hrun hok hchks hrs hout ht hu _ => ?dumpTrace, fun s u id w x hrun hok hx hchks hu _ => ?arm,
    fun s u id w x hrun hok hx hchks hu _ => ?disarm, fun s c rest hr hcaps hlevel => ?capture,
    fun s arm c t rest hr hc htiles => ?captureTimeout, fun s hr => ?refill, fun s path hr => ?snap,
    fun s path k hr hk => ?clear, fun s hr hperiod => ?sample⟩
  case mark =>
    subst hu
    exact act_runWork hrun hok (runMark_unnamed hsubj hchks)
  case dumpTiles =>
    subst hu
    exact act_runWork hrun hok (runDumpTiles_passes hx hchks hskip hhere hin hout ht)
  case dumpTrace =>
    subst hu
    exact act_runWork hrun hok (runDumpTrace_passes hchks hrs hout ht)
  case arm | disarm =>
    subst hu
    exact act_runWork hrun hok ((withSubject_held hx).trans (checked_pass hchks))
  case capture =>
    refine act_whenRunning hr ?_
    simp only [fresh_obs, hcaps]
    exact if_neg fun h => absurd h.1 (Int.not_le.mpr hlevel)
  case captureTimeout =>
    refine act_whenRunning hr ?_
    simp only [fresh_obs, hc, htiles]
  case refill | snap => exact act_whenRunning hr rfl
  case clear => exact act_whenRunning hr (by rw [hk])
  case sample => exact act_whenRunning hr (if_neg hperiod)

end Sys2Proof.Laws
end

section
/-! The statements about key slots, device sets, tokens, SPDM, the TAP and the management bus: where its checks pass, each command is its own
effect. -/

namespace Sys2Proof.Laws

open Sys2Proof Sys2Proof.Machine Sys2Proof.Safety

section
variable {s t : State} {ch : Path} {session : Nat} {c : SpdmChan}

/-! ### What the shared guards leave of a command -/

/-- An action of the SEC block is its effect while SEAL is 0 (R555). -/
theorem act_unsealed {f : State → State} (hr : running s = true) (hseal : isSealed (fresh s) = false) (e : f (fresh s) = t) :
    act s (whenRunning (whenUnsealed f)) = .next t :=
  act_whenRunning hr ((if_neg (Bool.eq_false_iff.mp hseal)).trans e)

/-- A running device answers SPDM (R512). -/
theorem act_spdmRequest {f : State → State} (hr : running s = true) (e : f (fresh s) = t) : act s (spdmRequest f) = .next t := by
  rw [act_fresh, spdmRequest, if_pos (by simp [spdmServes, hr]), e]

/-- A request that needs the algorithms is served once they are negotiated (R404). -/
theorem spdmAfter_negotiated {f : SpdmChan → State → State} (hr : running s = true) (hc : spdmChan s ch = some c)
    (halgs : c.algs = true) : spdmAfter ch f s = f c s := by
  rw [spdmAfter, spdmRequest, if_pos (by simp [spdmServes, hr])]
  simp only [hc, if_pos halgs]

theorem act_spdmAfter {f : SpdmChan → State → State} (hr : running s = true) (hc : spdmChan (fresh s) ch = some c)
    (halgs : c.algs = true) (e : f c (fresh s) = t) : act s (spdmAfter ch f) = .next t := by
  rw [act_fresh, spdmAfter_negotiated ((running_fresh s).trans hr) hc halgs, e]

/-- A management request is served in a secured session of an operator (R407). -/
theorem act_asOperator {f : State → State} (hr : running s = true) (hc : spdmChan (fresh s) ch = some c) (halgs : c.algs = true)
    (hop : (c.sessions.any fun x => x.id == session && x.secured && x.operator.isSome) = true) (e : f (fresh s) = t) :
    act s (asOperator ch session f) = .next t := by
  rw [act_fresh, asOperator, spdmAfter_negotiated ((running_fresh s).trans hr) hc halgs, if_pos hop,
    if_pos ((running_fresh s).trans hr), e]

end

section
variable {s : State}

/-! ### Installs, removals and sets -/

/-- An install that passes its checks takes effect, and the nonce is fresh (R396, R397). -/
theorem tryInstall_passes {b : List Byte} {payload : Option (List Byte)} (h : installError s (some b) payload = 0) :
    tryInstall s (some b) payload =
      debugCheck (freshNonce (secError (applyInstall s (field b 6 2) (keyData b (payload.getD []))) 0)) := by
  simp only [tryInstall, h, if_true, Option.getD_some]

/-- A join that passes its checks keeps the set's key, and the nonce is fresh (R401). -/
theorem tryJoin_passes {b p : List Byte} (h : joinError s (some b) (some p) = 0) :
    tryJoin s (some b) (some p) =
      freshNonce (secError { s with nv := { s.nv with sets := aset s.nv.sets (field b 8 8) (slice p 0 32) } } 0) := by
  simp only [tryJoin, h, if_true, Option.getD_some]

/-- A slot that is not ACTIVE is not revoked (R408). -/
theorem revokeKey_inactive {k : Nat} (h : slotActive s k = false) : revokeKey s k = s :=
  if_pos (by simpa [slotActive] using h)

/-- A ZEROED slot without a held install is freed, and its record goes (R408). -/
theorem exec_slotEmptied {k : Nat} {x : KeySlot} (hr : running s = true) (hx : slotRec (fresh s) k = some x) (hst : x.state = 3)
    (hheld : x.held = none) :
    exec (.slotEmptied k) s = .next { freeSlot (fresh s) k with
      sec := { (freeSlot (fresh s) k).sec with slots := (freeSlot (fresh s) k).sec.slots.filter fun y => y.slot != k } } := by
  refine act_whenRunning hr ?_
  simp only [hx]
  refine (if_neg (not_not.mpr hst)).trans ?_
  simp only [hheld]

/-- A slot without a record is EMPTY (R394). -/
theorem slotState_removed {k : Nat} {l : List KeySlot} (h : s.sec.slots = l.filter fun y => y.slot != k) : slotState s k = 0 := by
  have hnone : slotRec s k = none := by
    rw [slotRec, h, List.find?_eq_none]
    intro x hx
    simpa using (List.mem_filter.mp hx).2
  rw [slotState, hnone]

end

/-- Settles O22: the slot is not ACTIVE, or its record is gone. -/
theorem revocationNeedsAnActiveSlot : Obligations.RevocationNeedsAnActiveSlot := by
  unfold Obligations.RevocationNeedsAnActiveSlot
  refine ⟨fun s ch session slot c hr hc halgs hop hslot => ?inactive, fun s slot x hr hx hst hheld => ?emptied⟩
  case inactive =>
    refine act_asOperator hr hc halgs hop ?_
    rw [revokeKey_inactive (s := fresh s) hslot]
    rfl
  case emptied => exact ⟨_, exec_slotEmptied hr hx hst hheld, slotState_removed rfl⟩

/-- Settles O45: the device is unsealed or the session is an operator's, and the checks pass, so each command is its effect. -/
theorem slotAndSetCommandsComplete : Obligations.SlotAndSetCommandsComplete := by
  unfold Obligations.SlotAndSetCommandsComplete
  refine ⟨fun s t path img k b payload hr hseal hk hlen hread hok => ?install,
    fun s t ch session c env payload hr hc halgs hop hok ht => ?installKey, fun s path k hr hseal hk _ => ?revoke,
    fun s ch session slot c hr hc halgs hop _ => ?revokeSlot, fun s u slot x hr hx hst hheld hu => ?emptied,
    fun s t path img b p hr hseal hread hlen hok => ?join, fun s ch session c env p hr hc halgs hop hok => ?joinSet,
    fun s path setId hr hseal hset => ?leave, fun s ch session setId c hr hc halgs hop => ?leaveSet,
    fun s t path img b hr hseal hread hst => ?retire, fun s t path img b hr hseal hread hnone hprod hlen => ?ownerClaim,
    fun s t path img b hr hseal hread hprod hpass => ?present, fun s path hr => ?close⟩
  case install =>
    refine act_unsealed hr hseal ?_
    simp only [hk, hlen, if_true]
    exact (sourced_read hread).trans (tryInstall_passes hok)
  case installKey =>
    subst ht
    exact act_asOperator hr hc halgs hop (congrArg answerError (tryInstall_passes hok))
  case revoke =>
    refine act_unsealed hr hseal ?_
    simp only [hk]
  case revokeSlot | leaveSet => exact act_asOperator hr hc halgs hop rfl
  case emptied =>
    subst hu
    exact exec_slotEmptied hr hx hst hheld
  case join =>
    refine act_unsealed hr hseal ((sourced_read hread).trans ?_)
    simp only [hlen, if_true]
    exact tryJoin_passes hok
  case joinSet => exact act_asOperator hr hc halgs hop (congrArg answerError (tryJoin_passes hok))
  case leave => exact act_unsealed hr hseal (if_neg hset)
  case retire =>
    exact act_unsealed hr hseal ((sourced_read hread).trans ((if_neg Bool.false_ne_true).trans (if_pos ⟨rfl, hst⟩)))
  case ownerClaim =>
    exact act_unsealed hr hseal ((sourced_read hread).trans (if_pos ⟨List.isEmpty_iff.mpr hnone, hprod, hlen⟩))
  case present =>
    refine act_unsealed hr hseal ((sourced_read hread).trans (congrArg freshDebugNonce (if_pos ?_)))
    simp [hprod, hpass]
  case close => exact act_whenRunning hr rfl

/-! ### SPDM -/

/-- Settles O46: the transport has got as far as each request needs; the bodies are those of assumption 107. -/
theorem spdmCommandsComplete : Obligations.SpdmCommandsComplete := by
  unfold Obligations.SpdmCommandsComplete
  refine ⟨fun s ch hp => ?version, fun s ch version c hr hc hversion => ?capabilities, fun s ch c hr hc hcaps => ?algorithms,
    fun s ch c hr hc halgs => ?digests, fun s ch off len c hr hc halgs => ?certificate, fun s ch nonce c hr hc halgs => ?challenge,
    fun s ch index nonce c hr hc halgs hlow hhigh => ?measurements, fun s ch session c hr hc halgs hnew hroom => ?keyExchange,
    fun s ch session c op hr hc halgs hopen => ?finish, fun s ch session c hr hc halgs hsec => ?endSession,
    fun s ch slot nonce c hr hc halgs hslot => ?evidence⟩
  case version => exact congrArg Host.Outcome.next (if_pos hp)
  case capabilities =>
    refine act_spdmRequest hr ?_
    simp only [hc]
    exact if_pos (by simpa using hversion)
  case algorithms =>
    refine act_spdmRequest hr ?_
    simp only [hc]
    exact (if_neg (by simp [hcaps])).trans (if_pos rfl)
  case digests => exact act_spdmAfter hr hc halgs rfl
  case certificate | challenge => exact act_spdmAfter hr hc halgs (if_pos rfl)
  case measurements =>
    refine act_spdmAfter hr hc halgs ?_
    simp only [if_neg (show ¬index = 0 by omega), if_neg (show ¬index = 0xFF by omega), if_pos hhigh, if_true]
  case keyExchange =>
    refine act_spdmAfter hr hc halgs ((if_neg ?_).trans (if_neg (Nat.not_le.mpr hroom)))
    simpa using hnew
  case finish => exact act_spdmAfter hr hc halgs ((if_neg (by simpa using hopen)).trans (if_pos rfl))
  case endSession => exact act_spdmAfter hr hc halgs (if_pos hsec)
  case evidence => exact act_spdmAfter hr hc halgs (if_pos hslot)

/-! ### The TAP and the management bus -/

/-- Settles O47: the TAP or the bus answers, so each command is its effect; codes and sampled bits are those of assumption 110. -/
theorem tapAndBusCommandsComplete : Obligations.TapAndBusCommandsComplete := by
  unfold Obligations.TapAndBusCommandsComplete
  refine ⟨fun s driven => rfl, fun s bitIn htap => ?bypass, fun s cells htap => ?sample, fun s cells htap => ?extest,
    fun s htap => ?idcode, fun s req htap hst => ?debugAccess, fun s addr hbus hmode hfree => ?entdaa,
    fun s addr hbus hmode => ?setdasa⟩
  case bypass | sample | idcode => exact congrArg Host.Outcome.next (if_pos htap)
  case extest =>
    change execExtest cells s = _
    rw [execExtest, act_fresh, if_neg (by simp [htap])]
    rfl
  case debugAccess =>
    change execJtagDebugAccess req s = _
    rw [execJtagDebugAccess, act_fresh, if_pos (by simp [htap, hst])]
  case entdaa =>
    change execEntdaa addr s = _
    simp only [execEntdaa, act_fresh]
    rw [if_pos (by simp [hbus, hmode, hfree])]
  case setdasa =>
    change execSetdasa (0x50 + s.power.mbAddr) addr s = _
    simp only [execSetdasa, act_fresh]
    rw [if_pos (by simp [hbus, hmode])]

end Sys2Proof.Laws
end

section
/-! The statements about checkpoints, RESTORE, flash upkeep and the buddy's stream: where its checks pass, each command is its own effect. -/

namespace Sys2Proof.Laws

open Sys2Proof Sys2Proof.Machine Sys2Proof.Safety

/-! ### Checkpoints and RESTORE -/

section
variable {s : State} {w : Work} {x y : Subject}

/-- CHECKPOINT that has not asked yet asks for a step, and waits (R431). -/
theorem runCheckpoint_asks (htally : w.tally = [])
    (hchks : passes [chk (anySlot s w && reservedClear w [(0, 1)] && decide (opr w 0 1 < 2)) stBad] = true) :
    runCheckpoint s w = askCheckpoint (updWork s w.id fun w => { w with tally := [0] }) := by
  simp only [runCheckpoint, htally]
  exact checked_pass hchks

/-- RESTORE SESSION of a DAMAGED subject takes it from a step of the own slots that has it, and asks no buddy where no log tail is to be
replayed (R435). -/
theorem runRestoreSession_local {okA okB bA bB : Bool} {map : MapArg} {recs : List (List Byte)} {c : CkptStep}
    (hchks : passes (restoreChks s w) = true) (hx : heldFor s w.hdr.keySlot (opr w 0 8) = some x) (hdamaged : x.state = 5)
    (hstep : ((pickStep (goodSlots s okA okB) (opr w 24 8)).bind
      (fun c => (c.subjects.find? fun y => y.handle == opr w 0 8).map fun y => (c, y)) = some (c, y)))
    (hreplay : opr w 9 1 % 2 = 0) (hfetch : s.dur.fetches = []) :
    runRestoreSession okA okB bA bB map recs s w =
      restoreEnd s w x (broughtBack y) ((c.tiles.filter fun t => t.handle == opr w 0 8).map (stepTile s)) recs c.step := by
  rw [runRestoreSession, checked_pass hchks]
  simp only [hx, hstep]
  rw [if_neg (not_not.mpr hdamaged), if_neg (by simp [hreplay]), if_neg (by simp [hfetch])]

/-- RESTORE TAKEOVER rebuilds the lost device from the manifest chosen among those that its buddy has sent, where every key slot that the
manifest names is ACTIVE (R436). -/
theorem runRestoreTakeover_rebuilds {okA okB : Bool} {map : MapArg} {tab : List TableArg} {views : List ViewArg}
    {recs : List (List Byte)} {m : List Byte} (hchks : passes (takeoverChks s w) = true) (hbuddy : restoreBuddy s w ≠ 0)
    (hpeer : (peerEntry s (restoreBuddy s w)).isSome = true) (htally : w.tally = [1]) (hfetch : s.dur.fetches = [])
    (hm : pickManifest s okA okB (opr w 12 3) (opr w 24 8) = some m) (hslots : missingSlot s m = none) :
    runRestoreTakeover okA okB map tab views recs s w = takeOver s w (restoreBuddy s w) m map tab views recs := by
  have hreached : ¬(restoreBuddy s w = 0 ∨ (peerEntry s (restoreBuddy s w)).isNone = true) := by
    simp [hbuddy, Option.isSome_iff_ne_none.mp hpeer]
  rw [runRestoreTakeover, checked_pass hchks]
  simp only [hm, hslots]
  rw [if_neg hreached, if_neg (by simp [htally]), if_neg (by simp [hfetch])]

end

/-- Settles O48: the work can run and its checks pass, or the trigger, page or object is as the event needs it, so each command is its effect. -/
theorem checkpointCommandsComplete : Obligations.CheckpointCommandsComplete := by
  unfold Obligations.CheckpointCommandsComplete
  refine ⟨fun s id w hrun hok htally hchks => ?checkpoint, fun s hr hint => ?interval, fun s trigger hr hlt => ?warning,
    fun s hr hdue hfits hadopt => ?start,
    fun s u id w x okA okB bA bB map recs c y hrun hok hdd hchks hx hdamaged hstep hreplay hfetch hu _ => ?restore,
    fun s id w okA okB map tab views recs m hrun hok hdd hchks hbuddy hpeer htally hfetch hm hslots => ?takeover,
    fun s off body hr hasked => ?reply, fun s path hr hno => ?discard, fun s handle number corrected t hr ht => ?scrubFails,
    fun s u handle number corrected t hr ht hu => ?scrubReads, fun s spareLeft used hr => ?retired⟩
  case checkpoint => exact act_runWork hrun hok (runCheckpoint_asks htally hchks)
  case interval => exact act_whenRunning hr (if_neg hint)
  case warning => exact act_whenRunning hr (if_pos hlt)
  case start =>
    refine act_whenRunning hr ((if_neg hdue).trans ((if_neg (by simp [hfits])).trans (if_pos ?_)))
    simp [hadopt]
  case restore =>
    subst hu
    exact act_durably hrun hok hdd (runRestoreSession_local hchks hx hdamaged hstep hreplay hfetch)
  case takeover =>
    exact act_durably hrun hok hdd (runRestoreTakeover_rebuilds hchks hbuddy hpeer htally hfetch hm hslots)
  case reply => exact act_whenRunning hr (if_pos hasked)
  case discard => exact act_whenRunning hr (if_pos hno)
  case scrubFails =>
    refine act_whenRunning hr ?_
    simp only [ht]
    rfl
  case scrubReads =>
    subst hu
    refine act_whenRunning hr ?_
    simp only [ht]
    rfl
  case retired => exact act_whenRunning hr rfl

/-! ### The buddy's stream -/

section
variable {s t u : State} {pbr org type : Nat} {rec r : List Byte}

/-- A stream record that a running device takes is its effect (R440). -/
theorem act_stream {f : State → Nat → List Byte → State} (hr : running s = true)
    (hin : streamIn (fresh s) pbr rec type = some (t, org, r)) (e : f t org r = u) :
    act s (whenRunning (receiveStream pbr rec type f)) = .next u :=
  act_whenRunning hr ((receiveStream_taken hin).trans e)

/-- What a fostered origin sends is stored, but from where its take-over was served (R439, R444). -/
theorem fosterFor_held {o : Nat} {f : Foster} {g : State → Foster → State} (hf : fosterOf s o = some f) (hserved : f.served = false) :
    fosterFor s pbr org o g = g s f := by
  simp only [fosterFor, hf, hserved]
  rfl

end

/-- Settles O49: the record is taken, and the buddy, the origin or the buffer is as the event needs it, so each command is its effect. -/
theorem streamCommandsComplete : Obligations.StreamCommandsComplete := by
  unfold Obligations.StreamCommandsComplete
  refine ⟨fun s t pbr org rec r hr hin => ?log, fun s t pbr org rec r hr hin => ?own, fun s t pbr org rec r hr hin => ?lease,
    fun s t u pbr org q rec r steps hr hin horg hbuddy hstate hq hsteps hu => ?ack,
    fun s t u pbr org rec r b f hr hin hf hsilent hu hobj => ?fetch, fun s t pbr org rec r hr hin hreason hwork horg => ?refuse,
    fun s u pbr i org origin seq manifest f hr hi horg hman hf hserved hnone hcount hu => ?shipped, fun s e l hr hbuf => ?flush,
    fun s hr hstate hships => ?timeout, fun s hr hbuddy hstate => ?retry, fun s path origin hr => ?naming,
    fun s path origin hr => ?release⟩
  case log | own | lease => exact act_stream hr hin rfl
  case ack =>
    subst hq hsteps hu
    have hknown : ¬(org ≠ buddy t ∨ buddy t = 0) := by simp [horg, hbuddy]
    refine act_stream hr hin ((if_neg hknown).trans ?_)
    simp only [hstate]
    rfl
  case fetch =>
    subst hu
    refine act_stream hr hin ?_
    simp only [hf]
    refine (if_neg (Nat.not_lt.mpr hsilent)).trans ?_
    simp only [hobj]
  case refuse =>
    refine act_stream hr hin ?_
    simp only [hwork, List.find?_nil, hreason]
    exact if_pos horg
  case shipped =>
    subst horg hu
    refine act_whenRunning hr ?_
    simp only [hi]
    refine (if_neg (by simp [hman])).trans ((fosterFor_held hf hserved).trans ?_)
    simp [hnone, mergeImages, hcount]
  case flush =>
    refine act_whenRunning hr ?_
    simp only [fresh_dur, hbuf]
  case timeout => exact act_whenRunning hr (if_pos ⟨hstate, by simp [hships]⟩)
  case retry => exact act_whenRunning hr (if_pos ⟨hbuddy, hstate⟩)
  case naming | release => exact act_whenRunning hr rfl

end Sys2Proof.Laws
end
